-- ==== Sys2Proof/Word.lean ====
section
/-! DEFINITION. The word types of the J384 and their plainest conversions: bytes, 16-, 32- and 64-bit words, and a set of lanes
held as one bit per lane (R9: lane l of a quire is bit l mod 32 of mask word l / 32, so lane l is bit l of the 256-bit set). -/
namespace Sys2Proof

abbrev W8 := BitVec 8
abbrev W16 := BitVec 16
abbrev W32 := BitVec 32
abbrev W64 := BitVec 64

/-- A set of lanes of one quire (R9): bit l stands for lane l; a quire has at most 256 lanes. -/
abbrev LaneSet := BitVec 256

/-- Lane `l` belongs to the set. -/
def LaneSet.has (m : LaneSet) (l : Nat) : Bool := m.getLsbD l

/-- The set holding exactly the lanes below `n`. -/
def LaneSet.below (n : Nat) : LaneSet := BitVec.ofNat 256 (2 ^ n - 1)

/-- The set holding exactly lane `l`. -/
def LaneSet.one (l : Nat) : LaneSet := BitVec.ofNat 256 (2 ^ l)

/-- The 32-bit mask of mask word `w` (R9). -/
def LaneSet.word (m : LaneSet) (w : Nat) : W32 := m.extractLsb' (32 * w) 32

/-- The lanes of mask word `w`. -/
def LaneSet.ofWord (w : Nat) (m : W32) : LaneSet := (m.setWidth 256) <<< (32 * w)

/-- Every lane of mask word `w`. -/
def LaneSet.wordAll (w : Nat) : LaneSet := LaneSet.ofWord w (BitVec.allOnes 32)

/-- No lane at all. -/
def LaneSet.empty : LaneSet := 0

/-- The lanes of the set that are below `width`, in ascending order. -/
def LaneSet.list (width : Nat) (m : LaneSet) : List Nat := (List.range width).filter m.has

/-- The lanes for which `p` holds, among those below `width`. -/
def LaneSet.ofPred (width : Nat) (p : Nat → Bool) : LaneSet :=
  (List.range width).foldl (fun acc l => if p l then acc ||| LaneSet.one l else acc) 0

/-- The lowest lane of the set below `width`. -/
def LaneSet.lowest (width : Nat) (m : LaneSet) : Option Nat := (LaneSet.list width m).head?

/-- The 32-bit low word and the 32-bit high word of a 64-bit value. -/
def W64.lo (x : W64) : W32 := x.setWidth 32
def W64.hi (x : W64) : W32 := (x >>> 32).setWidth 32
def W64.ofWords (lo hi : W32) : W64 := (hi.setWidth 64 <<< 32) ||| lo.setWidth 64

/-- Little-endian value of a list of bytes (R2): the first byte is the least significant. -/
def leValue : List W8 → Nat
  | [] => 0
  | b :: bs => b.toNat + 256 * leValue bs

/-- The `n` bytes of a value, least significant first (R2). -/
def leBytes : Nat → Nat → List W8
  | 0, _ => []
  | n + 1, v => BitVec.ofNat 8 v :: leBytes n (v / 256)

/-- Bits `[hi:lo]` of a natural number, both ends included (the manual's range notation). -/
def bits (v hi lo : Nat) : Nat := v / 2 ^ lo % 2 ^ (hi + 1 - lo)

/-- Bit `k` of a natural number. -/
def bit1 (v k : Nat) : Bool := v.testBit k

/-- An integer read in two's complement from the low `n` bits of a natural number. -/
def sbits (n v : Nat) : Int := (BitVec.ofNat n v).toInt

end Sys2Proof
end

