-- ==== Sys2Proof/Syntax.lean ====
section
/-! DEFINITION. The instruction set of Ecram 1 as syntax, with the events of the device beside it: operand specifiers (R87),
the header (R80), the five formats (R83), and one constructor for each row of the table of operations and events.
Every field keeps every value its bits can hold, reserved codes included, so that decoding loses nothing; which values are
legal is WellFormed's (R106 check 5). -/
namespace Sys2Proof

/-- A 13-bit operand specifier (R87). Reserved bits are kept, so that an ill-formed specifier can be refused by check 5. -/
inductive Opnd where
  /-- vector `vn` -/
  | v (n : BitVec 11)
  /-- scalar `sn`; `hi` must be zero -/
  | s (hi : BitVec 4) (n : BitVec 7)
  /-- latch `Ln`; `hi` must be zero -/
  | l (hi : BitVec 8) (n : BitVec 3)
  /-- indexed vector `v[xk + off]` -/
  | x (k : BitVec 2) (off : BitVec 8)
  /-- inline signed 10-bit integer -/
  | imm (i : BitVec 10)
deriving DecidableEq, Repr

/-- The header of every instruction (R80). -/
structure Hdr where
  neg   : Bool
  pred  : BitVec 3
  keep  : Bool
  lat   : Bool
  latch : BitVec 3
  nowb  : Bool
deriving DecidableEq, Repr

/-- The type codes of R99, in code order. -/
inductive Ty where
  | i32 | n32 | i64 | n64 | i16x2 | n16x2 | i8x4 | n8x4
  | f32 | f16x2 | bf16x2 | f64 | e4m3x4 | e5m2x4 | e2m1x8 | bp8x4
deriving DecidableEq, Repr

/-- The rounding field (R100), codes 6 and 7 included. -/
inductive RndField where
  | rne | rtz | rup | rdn | rna | dyn | bad6 | bad7
deriving DecidableEq, Repr

/-- Access width (R97), codes 5 to 7 included. -/
inductive Width where
  | w8 | w16 | w32 | w64 | w128 | bad5 | bad6 | bad7
deriving DecidableEq, Repr

/-- Memory space (R97, R225), codes 5 to 7 included. -/
inductive Space where
  | gen | cspad | sspad | dspad | lpriv | bad5 | bad6 | bad7
deriving DecidableEq, Repr

/-- Scope (R97, R349), codes 6 and 7 included. -/
inductive Scope where
  | quire | gath | span | die | dev | sys | bad6 | bad7
deriving DecidableEq, Repr

/-- What every member of a collective must give alike (R425). -/
structure CollParams where
  kind  : Nat
  op    : Nat
  ty    : Nat
  count : Nat
  root  : Nat
  n     : Nat
  ids   : List Nat
deriving DecidableEq, Repr

/-- Negate and absolute value of one source (R94, R95). -/
structure NegAbs where
  neg : Bool
  abs : Bool
deriving DecidableEq, Repr

/-- Format A (R83, R94). -/
structure FmtA where
  d : Opnd
  a : Opnd
  b : Opnd
  c : Opnd
  ty  : Ty
  rnd : RndField
  sat : Bool
  na  : NegAbs
  nb  : NegAbs
  nc  : NegAbs
  fn  : BitVec 10
deriving DecidableEq, Repr

/-- Format I (R83, R96): imm32 stands for srcB. -/
structure FmtI where
  d : Opnd
  a : Opnd
  imm : W32
  ty  : Ty
  rnd : RndField
  sat : Bool
  na  : NegAbs
  fn  : BitVec 8
deriving DecidableEq, Repr

/-- Format M (R83, R97). In group 0x7 `sel` (hint and sign-extend together, bits [3:0]) is the operation selector (R98). -/
structure FmtM where
  data  : Opnd
  base  : Opnd
  index : Opnd
  off   : BitVec 24
  width : Width
  space : Space
  scope : Scope
  sel   : BitVec 4
deriving DecidableEq, Repr

/-- Format E (R83). -/
structure FmtE where
  d : Opnd
  a : Opnd
  b : Opnd
  c : Opnd
  m : BitVec 24
deriving DecidableEq, Repr

/-- Format C (R83): two displacements, one operand, the control modifier. -/
structure FmtC where
  tdisp : BitVec 24
  rdisp : BitVec 24
  a : Opnd
  m : BitVec 15
deriving DecidableEq, Repr

/-- What a host processor does over Twison (R362): a read, or a write of bytes, at a physical address. -/
inductive HostAcc where
  | read (pa len : Nat)
  | write (pa : Nat) (data : List W8)
deriving DecidableEq, Repr

/-- What a UALink peer asks of this package through an inbound window (R418). `op` is the selector of R367 for an atomic. -/
inductive PeerReq where
  | read (addr len : Nat)
  | write (addr : Nat) (data : List W8)
  | atomic (addr : Nat) (op : BitVec 4) (wide : Bool) (v c : W64)
deriving DecidableEq, Repr

/-- A way of a cache: array 0 L1, 1 L2 bank, 2 read-only cache, of a physical core (R474, R479). -/
structure CacheWay where
  array : Nat
  core  : Nat
  bank  : Nat
  way   : Nat
deriving DecidableEq, Repr

/-- A detected datapath error (R466, R469): which row of R466's table, the physical lane it struck (when it is a lane), and
whether the erring word lies in a row held by the quire's checkpoint. -/
structure PathErr where
  source  : Nat
  lane    : Option Nat
  ckptRow : Bool
  /-- the way of a read-only cache whose tag was struck (R474) -/
  way     : Option CacheWay
deriving DecidableEq, Repr

/-- An array event (R466): what the check found, and where. -/
inductive EccErr where
  /-- an error in a word of a cache way -/
  | way (at' : CacheWay) (corrected : Bool) (word : Nat)
  /-- a DRAM sector (R466, R467): corrected, or uncorrectable -/
  | sector (pa : Nat) (corrected : Bool)
  /-- an uncorrectable error in a scratchpad or cache word: poison on the word -/
  | word (key : Nat) (corrected : Bool)
  /-- an error corrected in place in a rename map, store log, instruction cache or read-only cache tags (source 5), or in tags, dirty masks, a
  directory, handle records or engine control state (source 6); the way whose tag or dirty mask it was -/
  | fixed (source : Nat) (at' : Option CacheWay)
  /-- an uncorrectable error in tags, dirty masks, handle records or engine control state of a core (R470): the words named, and the way whose
  tag or dirty mask it was -/
  | control (core : Nat) (words : List Nat) (at' : Option CacheWay)
  /-- an uncorrectable error in a directory slice of a die (R470); the words named -/
  | directory (die : Nat) (words : List Nat)
  /-- an engine's error in data that it delivers to registers: outstanding result `k` of a quire (R472) -/
  | result (quire k : Nat)
deriving DecidableEq, Repr

/-- What a debug command names (R453). -/
inductive DbgTarget where
  | quire (id : Nat) | gathering (id : Nat) | launch (id : Nat) | context (slot : Nat)
deriving DecidableEq, Repr

/-- What a debug read or write names (R454). -/
inductive DbgReg where
  | vec (n lane : Nat) | scalar (n : Nat) | hscalar (n : Nat) | pred (k : Nat) | index (k lane : Nat)
  | pc | active | padding | fpmode | fpflags
  | special (n : Nat) (lane : Nat)
  | memory (space : Space) (ea base index lane : Nat)
deriving DecidableEq, Repr

/-- What a read-remap command names (R475, R478, R494). -/
inductive RemapSel where
  | lane (die pcore part : Nat) | stack (n : Nat) | tier2
deriving DecidableEq, Repr

/-- Every operation and event of the J384's table. An instruction carries its header and its format's fields; an event carries
what tells one occurrence of it from another. -/
inductive Instr where
  | nop (h : Hdr) (f : FmtC)
  | bra (h : Hdr) (f : FmtC)
  | brc (h : Hdr) (f : FmtC)
  | brx (h : Hdr) (f : FmtC)
  | call (h : Hdr) (f : FmtC)
  | callx (h : Hdr) (f : FmtC)
  | ret (h : Hdr) (f : FmtC)
  | reconv (h : Hdr) (f : FmtC)
  | loop (h : Hdr) (f : FmtC)
  | exit (h : Hdr) (f : FmtC)
  | region (h : Hdr) (f : FmtC)
  | sigck (h : Hdr) (f : FmtC)
  | yield (h : Hdr) (f : FmtC)
  | bkpt (h : Hdr) (f : FmtC)
  | iadd (h : Hdr) (f : FmtA)
  | iaddI (h : Hdr) (f : FmtI)
  | isub (h : Hdr) (f : FmtA)
  | isubI (h : Hdr) (f : FmtI)
  | imul (h : Hdr) (f : FmtA)
  | imulI (h : Hdr) (f : FmtI)
  | imulh (h : Hdr) (f : FmtA)
  | imulhI (h : Hdr) (f : FmtI)
  | imad (h : Hdr) (f : FmtA)
  | imadI (h : Hdr) (f : FmtI)
  | imadw (h : Hdr) (f : FmtA)
  | imadwI (h : Hdr) (f : FmtI)
  | imin (h : Hdr) (f : FmtA)
  | iminI (h : Hdr) (f : FmtI)
  | imax (h : Hdr) (f : FmtA)
  | imaxI (h : Hdr) (f : FmtI)
  | iabs (h : Hdr) (f : FmtA)
  | ineg (h : Hdr) (f : FmtA)
  | iadd3 (h : Hdr) (f : FmtA)
  | iadd3I (h : Hdr) (f : FmtI)
  | isad (h : Hdr) (f : FmtA)
  | isadI (h : Hdr) (f : FmtI)
  | shl (h : Hdr) (f : FmtA)
  | shlI (h : Hdr) (f : FmtI)
  | shr (h : Hdr) (f : FmtA)
  | shrI (h : Hdr) (f : FmtI)
  | sar (h : Hdr) (f : FmtA)
  | rotl (h : Hdr) (f : FmtA)
  | tril (h : Hdr) (f : FmtA)
  | trilI (h : Hdr) (f : FmtI)
  | and (h : Hdr) (f : FmtA)
  | andI (h : Hdr) (f : FmtI)
  | or (h : Hdr) (f : FmtA)
  | orI (h : Hdr) (f : FmtI)
  | xor (h : Hdr) (f : FmtA)
  | xorI (h : Hdr) (f : FmtI)
  | not (h : Hdr) (f : FmtA)
  | popc (h : Hdr) (f : FmtA)
  | clz (h : Hdr) (f : FmtA)
  | brev (h : Hdr) (f : FmtA)
  | bfe (h : Hdr) (f : FmtA)
  | bfeI (h : Hdr) (f : FmtI)
  | bfi (h : Hdr) (f : FmtA)
  | bfiI (h : Hdr) (f : FmtI)
  | icmp (h : Hdr) (f : FmtA)
  | icmpI (h : Hdr) (f : FmtI)
  | sel (h : Hdr) (f : FmtA)
  | selI (h : Hdr) (f : FmtI)
  | mov (h : Hdr) (f : FmtA)
  | movI (h : Hdr) (f : FmtI)
  | lea (h : Hdr) (f : FmtA)
  | leaI (h : Hdr) (f : FmtI)
  | iclamp (h : Hdr) (f : FmtA)
  | iclampI (h : Hdr) (f : FmtI)
  | fadd (h : Hdr) (f : FmtA)
  | faddI (h : Hdr) (f : FmtI)
  | fsub (h : Hdr) (f : FmtA)
  | fsubI (h : Hdr) (f : FmtI)
  | fmul (h : Hdr) (f : FmtA)
  | fmulI (h : Hdr) (f : FmtI)
  | ffma (h : Hdr) (f : FmtA)
  | ffmaI (h : Hdr) (f : FmtI)
  | fmin (h : Hdr) (f : FmtA)
  | fminI (h : Hdr) (f : FmtI)
  | fmax (h : Hdr) (f : FmtA)
  | fmaxI (h : Hdr) (f : FmtI)
  | fcmp (h : Hdr) (f : FmtA)
  | fcmpI (h : Hdr) (f : FmtI)
  | frcp (h : Hdr) (f : FmtA)
  | frsq (h : Hdr) (f : FmtA)
  | fsqrt (h : Hdr) (f : FmtA)
  | fexp2 (h : Hdr) (f : FmtA)
  | flog2 (h : Hdr) (f : FmtA)
  | fsin (h : Hdr) (f : FmtA)
  | fcos (h : Hdr) (f : FmtA)
  | ftanh (h : Hdr) (f : FmtA)
  | fclass (h : Hdr) (f : FmtA)
  | fscale (h : Hdr) (f : FmtA)
  | fscaleI (h : Hdr) (f : FmtI)
  | ffrc (h : Hdr) (f : FmtA)
  | frnd (h : Hdr) (f : FmtA)
  | fdot2 (h : Hdr) (f : FmtA)
  | fdot2I (h : Hdr) (f : FmtI)
  | dadd (h : Hdr) (f : FmtA)
  | daddI (h : Hdr) (f : FmtI)
  | dsub (h : Hdr) (f : FmtA)
  | dsubI (h : Hdr) (f : FmtI)
  | dmul (h : Hdr) (f : FmtA)
  | dmulI (h : Hdr) (f : FmtI)
  | dfma (h : Hdr) (f : FmtA)
  | dfmaI (h : Hdr) (f : FmtI)
  | dmin (h : Hdr) (f : FmtA)
  | dminI (h : Hdr) (f : FmtI)
  | dmax (h : Hdr) (f : FmtA)
  | dmaxI (h : Hdr) (f : FmtI)
  | dcmp (h : Hdr) (f : FmtA)
  | dcmpI (h : Hdr) (f : FmtI)
  | drcpa (h : Hdr) (f : FmtA)
  | drsqa (h : Hdr) (f : FmtA)
  | dsqrt (h : Hdr) (f : FmtA)
  | ddiv (h : Hdr) (f : FmtA)
  | ddivI (h : Hdr) (f : FmtI)
  | dclass (h : Hdr) (f : FmtA)
  | dscale (h : Hdr) (f : FmtA)
  | dscaleI (h : Hdr) (f : FmtI)
  | drnd (h : Hdr) (f : FmtA)
  | dfrc (h : Hdr) (f : FmtA)
  | cvt (h : Hdr) (f : FmtA)
  | cvtp (h : Hdr) (f : FmtA)
  | cvtq (h : Hdr) (f : FmtA)
  | deq (h : Hdr) (f : FmtA)
  | bppack (h : Hdr) (f : FmtA)
  | bpunp (h : Hdr) (f : FmtA)
  | b8dec (h : Hdr) (f : FmtA)
  | b8enc (h : Hdr) (f : FmtA)
  | bmux (h : Hdr) (f : FmtA)
  | pack (h : Hdr) (f : FmtA)
  | plop (h : Hdr) (f : FmtA)
  | pmov (h : Hdr) (f : FmtA)
  | poll (h : Hdr) (f : FmtA)
  | xlane (h : Hdr) (f : FmtA)
  | redq (h : Hdr) (f : FmtA)
  | scanq (h : Hdr) (f : FmtA)
  | matchQ (h : Hdr) (f : FmtA)
  | sread (h : Hdr) (f : FmtA)
  | swrite (h : Hdr) (f : FmtA)
  | xset (h : Hdr) (f : FmtA)
  | xadd (h : Hdr) (f : FmtA)
  | claim (h : Hdr) (f : FmtA)
  | surr (h : Hdr) (f : FmtA)
  | maskrd (h : Hdr) (f : FmtA)
  | pad (h : Hdr) (f : FmtA)
  | unpad (h : Hdr) (f : FmtA)
  | ubcast (h : Hdr) (f : FmtA)
  | ld (h : Hdr) (f : FmtM)
  | st (h : Hdr) (f : FmtM)
  | ldro (h : Hdr) (f : FmtM)
  | pref (h : Hdr) (f : FmtM)
  | cinv (h : Hdr) (f : FmtM)
  | cwb (h : Hdr) (f : FmtM)
  | lds (h : Hdr) (f : FmtM)
  | sts (h : Hdr) (f : FmtM)
  | ldacq (h : Hdr) (f : FmtM)
  | strel (h : Hdr) (f : FmtM)
  | atom (h : Hdr) (f : FmtM)
  | red (h : Hdr) (f : FmtM)
  | atoms (h : Hdr) (f : FmtM)
  | fence (h : Hdr) (f : FmtM)
  | barinit (h : Hdr) (f : FmtE)
  | bararv (h : Hdr) (f : FmtE)
  | barwait (h : Hdr) (f : FmtE)
  | bartry (h : Hdr) (f : FmtE)
  | trywait (h : Hdr) (f : FmtE)
  | msync (h : Hdr) (f : FmtE)
  | attach (h : Hdr) (f : FmtE)
  | detach (h : Hdr) (f : FmtE)
  | spawn (h : Hdr) (f : FmtE)
  | qpush (h : Hdr) (f : FmtE)
  | cpy (h : Hdr) (f : FmtE)
  | cpy2d (h : Hdr) (f : FmtE)
  | cpyt (h : Hdr) (f : FmtE)
  | cpymc (h : Hdr) (f : FmtE)
  | cpyout (h : Hdr) (f : FmtE)
  | cpyfill (h : Hdr) (f : FmtE)
  | hset (h : Hdr) (f : FmtE)
  | hwait (h : Hdr) (f : FmtE)
  | hdrain (h : Hdr) (f : FmtE)
  | hfree (h : Hdr) (f : FmtE)
  | hstat (h : Hdr) (f : FmtE)
  | mma (h : Hdr) (f : FmtE)
  | mmas (h : Hdr) (f : FmtE)
  | mmar (h : Hdr) (f : FmtE)
  | mldc (h : Hdr) (f : FmtE)
  | mstc (h : Hdr) (f : FmtE)
  | mzero (h : Hdr) (f : FmtE)
  | mact (h : Hdr) (f : FmtE)
  | tex (h : Hdr) (f : FmtE)
  | tld (h : Hdr) (f : FmtE)
  | tgath (h : Hdr) (f : FmtE)
  | tqry (h : Hdr) (f : FmtE)
  | hgfetch (h : Hdr) (f : FmtE)
  | hgscat (h : Hdr) (f : FmtE)
  | ntex (h : Hdr) (f : FmtE)
  | tpay (h : Hdr) (f : FmtE)
  | mvtx (h : Hdr) (f : FmtE)
  | mprim (h : Hdr) (f : FmtE)
  | mdone (h : Hdr) (f : FmtE)
  | visrd (h : Hdr) (f : FmtE)
  | attr (h : Hdr) (f : FmtE)
  | pixout (h : Hdr) (f : FmtE)
  | rayq (h : Hdr) (f : FmtE)
  | raynext (h : Hdr) (f : FmtE)
  | rayacc (h : Hdr) (f : FmtE)
  | rayend (h : Hdr) (f : FmtE)
  | rayget (h : Hdr) (f : FmtE)
  | asbuild (h : Hdr) (f : FmtE)
  | asinfo (h : Hdr) (f : FmtE)
  | tinit (h : Hdr) (f : FmtE)
  | tsel (h : Hdr) (f : FmtE)
  | texp (h : Hdr) (f : FmtE)
  | tback (h : Hdr) (f : FmtE)
  | tleaf (h : Hdr) (f : FmtE)
  | treuse (h : Hdr) (f : FmtE)
  | tread (h : Hdr) (f : FmtE)
  | coll (h : Hdr) (f : FmtE)
  | collinfo (h : Hdr) (f : FmtE)
  | trap (h : Hdr) (f : FmtE)
  | trapcall (h : Hdr) (f : FmtE)
  | tret (h : Hdr) (f : FmtE)
  | tkill (h : Hdr) (f : FmtE)
  | perf (h : Hdr) (f : FmtE)
  | decsel (h : Hdr) (f : FmtE)
  | queueWake (ctx q : Nat)
  | dependencyWordWrite (ctx q : Nat)
  | signalPacketEffect (ctx q : Nat)
  | gatheringPlacement
  | binQuirePlacement (core bin : Nat)
  | binTimerExpiry (core bin : Nat)
  | meshGatheringPlacement (gath : Nat)
  | pendingQuireCreation (gath : Nat)
  | volumeCompletion (vol : Nat)
  | deviceReset
  | controlProcessorRestart
  | lineFetch (quire : Nat)
  | loadDataReturn (quire : Nat)
  | rowRefill (quire : Nat)
  | claimGrant (quire : Nat)
  | tpaySlotTaken (quire : Nat)
  | qpushRingRoom (quire : Nat)
  | barrierWake (quire : Nat)
  | trywaitReevaluation (quire : Nat)
  | trywaitTimeout (quire : Nat)
  | hwaitWake (quire : Nat)
  | asqRequest (k : Nat)
  | asqReply (quire : Nat)
  | homeAccept (core k : Nat)
  | storeAcknowledge (core die : Nat)
  | faultEntryRetry (ctx : Nat)
  | faultResolution (ctx entry res : Nat)
  | transferStart (xfer : Nat)
  | transferPiece (xfer piece : Nat)
  | matrixResultLanding (core part : Nat)
  | engineResultReturn (quire : Nat)
  | treeOperation (k : Nat)
  | treeResultLanding (quire : Nat)
  | tleafAppend (k : Nat)
  | batchTimerExpiry (gath handle : Nat)
  | visibilityResolve (vol k : Nat)
  | tileFinality (vol : Nat)
  | collectiveExchange (coll rank : Nat) (params : CollParams) (data : List W8)
  | heartbeatSend (coll : Nat)
  | memberLost (coll rank : Nat)
  | viewMessage (coll rank : Nat) (view : Nat)
  | coordinatorTimeout (coll : Nat)
  | finalMaskReceive (coll rank : Nat) (mask : Nat)
  | finalMaskTimeout (coll : Nat)
  | collectiveCompletion (coll : Nat)
  | stationReplayFailure (station : Nat)
  | stationAckTimeout (station : Nat)
  | peerCompletion (req : Nat) (ok : Bool) (data : List W8) (marks : List Nat)
  | peerRequestTimeout (req : Nat)
  | peerInboundRequest (r : PeerReq)
  | hostAccess (a : HostAcc)
  | contextSwitchIn (ctx : Nat)
  | candidateWaitExpiry (ctx : Nat)
  | preemptionTimeout (quire : Nat)
  | unitSave (gath : Nat)
  | unitRestore (gath : Nat)
  | preemptionHoldoffExpiry (gath : Nat)
  | datapathError (quire : Nat) (e : PathErr)
  | eccEvent (e : EccErr)
  | patrolScrub (e : EccErr)
  | laneRemapTimeout (quire : Nat)
  | deadlockWatchdog (ctx : Nat)
  | externalWaitTimeout (quire : Nat)
  | budgetExhausted (quire : Nat)
  | trapcallReply (quire : Nat)
  | mgPower (v : W64)
  | mgClock (v : W64)
  | clockModeFallback
  | thermalThrottle (die celsius : Nat)
  | thermalReset (die celsius : Nat)
  | mgEvents (v : W64)
  | mgErrors (v : W64)
  | mgRegisterWrite (off : Nat) (v : W64)
  | registerContext (blk rec : Nat)
  | releaseContext (blk slot : Nat)
  | enableQueue (blk slot q : Nat)
  | disableQueue (blk slot q : Nat)
  | invalidate (blk slot : Nat) (va : W64) (pages : Nat)
  | peerEntry (blk idx : Nat) (v : W64)
  | inboundWindow (blk idx slot : Nat) (va : W64) (len : Nat) (w : Bool)
  | stationUp (blk mask : Nat)
  | debugStop (blk : Nat) (t : DbgTarget)
  | debugResume (blk : Nat) (t : DbgTarget)
  | debugStep (blk : Nat) (t : DbgTarget)
  | debugRead (blk quire : Nat) (r : DbgReg)
  | debugWrite (blk quire : Nat) (r : DbgReg) (v : Nat)
  | attest (blk : Nat) (nonce : List W8) (pa : Nat)
  | readRemap (blk : Nat) (t : RemapSel)
  | unknownCommand (blk code : Nat)
  | linkLevelAcknowledgement (station : Nat)
  | heartbeatReceive (coll rank : Nat)
  | driverPreemptionRequest (blk gath : Nat)
  | adaptiveClockStep (step : Nat)
deriving DecidableEq, Repr

end Sys2Proof
end

