-- ==== Sys2Proof/Decode.lean ====
section
/-! DEFINITION. Decoding and encoding (R68, R80, R83, R87, R94–R102): 12 bytes to an instruction, total and rejecting by name, and
the words of an instruction from the same tables. -/
namespace Sys2Proof

/-- Why bytes are no instruction. -/
inductive DecodeError where
  /-- fewer than the twelve bytes of an instruction -/
  | short (have' : Nat)
  /-- an opcode that table 0 leaves unassigned (R102): trap 0x01 -/
  | unassigned (opcode : Nat)
deriving DecidableEq, Repr

/-! ### Fields -/

/-- A 13-bit specifier (R87). -/
def opndOf (w : BitVec 13) : Opnd :=
  let n := w.setWidth 11
  let k := (w >>> 11).setWidth 2
  if k = 0 then .v n
  else if k = 1 then .s (n.extractLsb' 7 4) (n.setWidth 7)
  else if k = 2 then .l (n.extractLsb' 3 8) (n.setWidth 3)
  else if n.getLsbD 10 then .x (n.extractLsb' 8 2) (n.setWidth 8)
  else .imm (n.setWidth 10)

def Opnd.code : Opnd → BitVec 13
  | .v n => (0 : BitVec 2) ++ n
  | .s hi n => (1 : BitVec 2) ++ (hi ++ n)
  | .l hi n => (2 : BitVec 2) ++ (hi ++ n)
  | .x k off => (3 : BitVec 2) ++ ((1 : BitVec 1) ++ (k ++ off))
  | .imm i => (3 : BitVec 2) ++ ((0 : BitVec 1) ++ i)

/-- One bit as a word of one bit. -/
def bit (b : Bool) : BitVec 1 := BitVec.ofBool b

def tyCodes : List Ty := [.i32, .n32, .i64, .n64, .i16x2, .n16x2, .i8x4, .n8x4, .f32, .f16x2, .bf16x2, .f64, .e4m3x4, .e5m2x4, .e2m1x8, .bp8x4]
def tyOf (c : BitVec 4) : Ty := tyCodes.getD c.toNat .i32
def Ty.code : Ty → BitVec 4
  | .i32 => 0 | .n32 => 1 | .i64 => 2 | .n64 => 3 | .i16x2 => 4 | .n16x2 => 5 | .i8x4 => 6 | .n8x4 => 7
  | .f32 => 8 | .f16x2 => 9 | .bf16x2 => 10 | .f64 => 11 | .e4m3x4 => 12 | .e5m2x4 => 13 | .e2m1x8 => 14 | .bp8x4 => 15

def rndCodes : List RndField := [.rne, .rtz, .rup, .rdn, .rna, .dyn, .bad6, .bad7]
def rndOf (c : BitVec 3) : RndField := rndCodes.getD c.toNat .rne
def RndField.code : RndField → BitVec 3
  | .rne => 0 | .rtz => 1 | .rup => 2 | .rdn => 3 | .rna => 4 | .dyn => 5 | .bad6 => 6 | .bad7 => 7

def widthCodes : List Width := [.w8, .w16, .w32, .w64, .w128, .bad5, .bad6, .bad7]
def widthOf (c : BitVec 3) : Width := widthCodes.getD c.toNat .w8
def Width.code : Width → BitVec 3
  | .w8 => 0 | .w16 => 1 | .w32 => 2 | .w64 => 3 | .w128 => 4 | .bad5 => 5 | .bad6 => 6 | .bad7 => 7

def spaceCodes : List Space := [.gen, .cspad, .sspad, .dspad, .lpriv, .bad5, .bad6, .bad7]
def spaceOf (c : BitVec 3) : Space := spaceCodes.getD c.toNat .gen
def Space.code : Space → BitVec 3
  | .gen => 0 | .cspad => 1 | .sspad => 2 | .dspad => 3 | .lpriv => 4 | .bad5 => 5 | .bad6 => 6 | .bad7 => 7

def scopeCodes : List Scope := [.quire, .gath, .span, .die, .dev, .sys, .bad6, .bad7]
def scopeOf (c : BitVec 3) : Scope := scopeCodes.getD c.toNat .quire
def Scope.code : Scope → BitVec 3
  | .quire => 0 | .gath => 1 | .span => 2 | .die => 3 | .dev => 4 | .sys => 5 | .bad6 => 6 | .bad7 => 7

def negAbsOf (c : BitVec 2) : NegAbs := { neg := c.getLsbD 1, abs := c.getLsbD 0 }
def NegAbs.code (n : NegAbs) : BitVec 2 := bit n.neg ++ bit n.abs

/-- The header, bits [85:76] (R80). -/
def hdrOf (w : BitVec 10) : Hdr :=
  { neg := w.getLsbD 9, pred := w.extractLsb' 6 3, keep := w.getLsbD 5, lat := w.getLsbD 4, latch := w.extractLsb' 1 3, nowb := w.getLsbD 0 }
def Hdr.code (h : Hdr) : BitVec 10 := bit h.neg ++ (h.pred ++ (bit h.keep ++ (bit h.lat ++ (h.latch ++ bit h.nowb))))

/-! ### Formats (R83, R94, R96, R97): the 76 bits below the header -/

def fmtAOf (w : BitVec 76) : FmtA :=
  { d := opndOf (w.extractLsb' 63 13), a := opndOf (w.extractLsb' 50 13), b := opndOf (w.extractLsb' 37 13), c := opndOf (w.extractLsb' 24 13),
    ty := tyOf (w.extractLsb' 20 4), rnd := rndOf (w.extractLsb' 17 3), sat := w.getLsbD 16,
    na := negAbsOf (w.extractLsb' 14 2), nb := negAbsOf (w.extractLsb' 12 2), nc := negAbsOf (w.extractLsb' 10 2), fn := w.setWidth 10 }
def FmtA.code (f : FmtA) : BitVec 76 :=
  f.d.code ++ (f.a.code ++ (f.b.code ++ (f.c.code ++ (f.ty.code ++ (f.rnd.code ++ (bit f.sat ++ (f.na.code ++ (f.nb.code ++ (f.nc.code ++ f.fn)))))))))

def fmtIOf (w : BitVec 76) : FmtI :=
  { d := opndOf (w.extractLsb' 63 13), a := opndOf (w.extractLsb' 50 13), imm := w.extractLsb' 18 32,
    ty := tyOf (w.extractLsb' 14 4), rnd := rndOf (w.extractLsb' 11 3), sat := w.getLsbD 10, na := negAbsOf (w.extractLsb' 8 2), fn := w.setWidth 8 }
def FmtI.code (f : FmtI) : BitVec 76 :=
  f.d.code ++ (f.a.code ++ (f.imm ++ (f.ty.code ++ (f.rnd.code ++ (bit f.sat ++ (f.na.code ++ f.fn))))))

def fmtMOf (w : BitVec 76) : FmtM :=
  { data := opndOf (w.extractLsb' 63 13), base := opndOf (w.extractLsb' 50 13), index := opndOf (w.extractLsb' 37 13), off := w.extractLsb' 13 24,
    width := widthOf (w.extractLsb' 10 3), space := spaceOf (w.extractLsb' 7 3), scope := scopeOf (w.extractLsb' 4 3), sel := w.setWidth 4 }
def FmtM.code (f : FmtM) : BitVec 76 :=
  f.data.code ++ (f.base.code ++ (f.index.code ++ (f.off ++ (f.width.code ++ (f.space.code ++ (f.scope.code ++ f.sel))))))

def fmtEOf (w : BitVec 76) : FmtE :=
  { d := opndOf (w.extractLsb' 63 13), a := opndOf (w.extractLsb' 50 13), b := opndOf (w.extractLsb' 37 13), c := opndOf (w.extractLsb' 24 13),
    m := w.setWidth 24 }
def FmtE.code (f : FmtE) : BitVec 76 := f.d.code ++ (f.a.code ++ (f.b.code ++ (f.c.code ++ f.m)))

def fmtCOf (w : BitVec 76) : FmtC :=
  { tdisp := w.extractLsb' 52 24, rdisp := w.extractLsb' 28 24, a := opndOf (w.extractLsb' 15 13), m := w.setWidth 15 }
def FmtC.code (f : FmtC) : BitVec 76 := f.tdisp ++ (f.rdisp ++ (f.a.code ++ f.m))

/-! ### Opcodes (R102) -/

/-- Opcode, header and fields side by side. -/
def assemble (op h : BitVec 10) (w : BitVec 76) : BitVec 96 := op ++ (h ++ w)
def opcodeOf (w : BitVec 96) : BitVec 10 := w.extractLsb' 86 10
def headerOf (w : BitVec 96) : BitVec 10 := w.extractLsb' 76 10
def payloadOf (w : BitVec 96) : BitVec 76 := w.setWidth 76


/-- Group 0x0, control: the instruction of a function. -/
def group0 (fn : Nat) (h : Hdr) (w : BitVec 76) : Option Instr :=
  match fn with
  | 0x00 => some (.nop h (fmtCOf w))
  | 0x01 => some (.bra h (fmtCOf w))
  | 0x02 => some (.brc h (fmtCOf w))
  | 0x03 => some (.brx h (fmtCOf w))
  | 0x04 => some (.call h (fmtCOf w))
  | 0x05 => some (.callx h (fmtCOf w))
  | 0x06 => some (.ret h (fmtCOf w))
  | 0x07 => some (.reconv h (fmtCOf w))
  | 0x08 => some (.loop h (fmtCOf w))
  | 0x09 => some (.exit h (fmtCOf w))
  | 0x0A => some (.region h (fmtCOf w))
  | 0x0B => some (.sigck h (fmtCOf w))
  | 0x0C => some (.yield h (fmtCOf w))
  | 0x0D => some (.bkpt h (fmtCOf w))
  | _ => none

/-- Group 0x1, integer: the instruction of a function. -/
def group1 (fn : Nat) (h : Hdr) (w : BitVec 76) : Option Instr :=
  match fn with
  | 0x00 => some (.iadd h (fmtAOf w))
  | 0x01 => some (.isub h (fmtAOf w))
  | 0x02 => some (.imul h (fmtAOf w))
  | 0x03 => some (.imulh h (fmtAOf w))
  | 0x04 => some (.imad h (fmtAOf w))
  | 0x05 => some (.imadw h (fmtAOf w))
  | 0x06 => some (.imin h (fmtAOf w))
  | 0x07 => some (.imax h (fmtAOf w))
  | 0x08 => some (.iabs h (fmtAOf w))
  | 0x09 => some (.ineg h (fmtAOf w))
  | 0x0A => some (.iadd3 h (fmtAOf w))
  | 0x0B => some (.isad h (fmtAOf w))
  | 0x0C => some (.shl h (fmtAOf w))
  | 0x0D => some (.shr h (fmtAOf w))
  | 0x0E => some (.sar h (fmtAOf w))
  | 0x0F => some (.rotl h (fmtAOf w))
  | 0x10 => some (.tril h (fmtAOf w))
  | 0x11 => some (.and h (fmtAOf w))
  | 0x12 => some (.or h (fmtAOf w))
  | 0x13 => some (.xor h (fmtAOf w))
  | 0x14 => some (.not h (fmtAOf w))
  | 0x15 => some (.popc h (fmtAOf w))
  | 0x16 => some (.clz h (fmtAOf w))
  | 0x17 => some (.brev h (fmtAOf w))
  | 0x18 => some (.bfe h (fmtAOf w))
  | 0x19 => some (.bfi h (fmtAOf w))
  | 0x1A => some (.icmp h (fmtAOf w))
  | 0x1B => some (.sel h (fmtAOf w))
  | 0x1C => some (.mov h (fmtAOf w))
  | 0x1D => some (.lea h (fmtAOf w))
  | 0x1E => some (.iclamp h (fmtAOf w))
  | 0x20 => some (.iaddI h (fmtIOf w))
  | 0x21 => some (.isubI h (fmtIOf w))
  | 0x22 => some (.imulI h (fmtIOf w))
  | 0x23 => some (.imulhI h (fmtIOf w))
  | 0x24 => some (.imadI h (fmtIOf w))
  | 0x25 => some (.imadwI h (fmtIOf w))
  | 0x26 => some (.iminI h (fmtIOf w))
  | 0x27 => some (.imaxI h (fmtIOf w))
  | 0x2A => some (.iadd3I h (fmtIOf w))
  | 0x2B => some (.isadI h (fmtIOf w))
  | 0x2C => some (.shlI h (fmtIOf w))
  | 0x2D => some (.shrI h (fmtIOf w))
  | 0x30 => some (.trilI h (fmtIOf w))
  | 0x31 => some (.andI h (fmtIOf w))
  | 0x32 => some (.orI h (fmtIOf w))
  | 0x33 => some (.xorI h (fmtIOf w))
  | 0x38 => some (.bfeI h (fmtIOf w))
  | 0x39 => some (.bfiI h (fmtIOf w))
  | 0x3A => some (.icmpI h (fmtIOf w))
  | 0x3B => some (.selI h (fmtIOf w))
  | 0x3C => some (.movI h (fmtIOf w))
  | 0x3D => some (.leaI h (fmtIOf w))
  | 0x3E => some (.iclampI h (fmtIOf w))
  | _ => none

/-- Group 0x2, FP32, FP16 and BF16: the instruction of a function. -/
def group2 (fn : Nat) (h : Hdr) (w : BitVec 76) : Option Instr :=
  match fn with
  | 0x00 => some (.fadd h (fmtAOf w))
  | 0x01 => some (.fsub h (fmtAOf w))
  | 0x02 => some (.fmul h (fmtAOf w))
  | 0x03 => some (.ffma h (fmtAOf w))
  | 0x04 => some (.fmin h (fmtAOf w))
  | 0x05 => some (.fmax h (fmtAOf w))
  | 0x06 => some (.fcmp h (fmtAOf w))
  | 0x07 => some (.frcp h (fmtAOf w))
  | 0x08 => some (.frsq h (fmtAOf w))
  | 0x09 => some (.fsqrt h (fmtAOf w))
  | 0x0A => some (.fexp2 h (fmtAOf w))
  | 0x0B => some (.flog2 h (fmtAOf w))
  | 0x0C => some (.fsin h (fmtAOf w))
  | 0x0D => some (.fcos h (fmtAOf w))
  | 0x0E => some (.ftanh h (fmtAOf w))
  | 0x0F => some (.fclass h (fmtAOf w))
  | 0x10 => some (.fscale h (fmtAOf w))
  | 0x11 => some (.ffrc h (fmtAOf w))
  | 0x12 => some (.frnd h (fmtAOf w))
  | 0x13 => some (.fdot2 h (fmtAOf w))
  | 0x20 => some (.faddI h (fmtIOf w))
  | 0x21 => some (.fsubI h (fmtIOf w))
  | 0x22 => some (.fmulI h (fmtIOf w))
  | 0x23 => some (.ffmaI h (fmtIOf w))
  | 0x24 => some (.fminI h (fmtIOf w))
  | 0x25 => some (.fmaxI h (fmtIOf w))
  | 0x26 => some (.fcmpI h (fmtIOf w))
  | 0x30 => some (.fscaleI h (fmtIOf w))
  | 0x33 => some (.fdot2I h (fmtIOf w))
  | _ => none

/-- Group 0x3, FP64: the instruction of a function. -/
def group3 (fn : Nat) (h : Hdr) (w : BitVec 76) : Option Instr :=
  match fn with
  | 0x00 => some (.dadd h (fmtAOf w))
  | 0x01 => some (.dsub h (fmtAOf w))
  | 0x02 => some (.dmul h (fmtAOf w))
  | 0x03 => some (.dfma h (fmtAOf w))
  | 0x04 => some (.dmin h (fmtAOf w))
  | 0x05 => some (.dmax h (fmtAOf w))
  | 0x06 => some (.dcmp h (fmtAOf w))
  | 0x07 => some (.drcpa h (fmtAOf w))
  | 0x08 => some (.drsqa h (fmtAOf w))
  | 0x09 => some (.dsqrt h (fmtAOf w))
  | 0x0A => some (.ddiv h (fmtAOf w))
  | 0x0B => some (.dclass h (fmtAOf w))
  | 0x0C => some (.dscale h (fmtAOf w))
  | 0x0D => some (.drnd h (fmtAOf w))
  | 0x0E => some (.dfrc h (fmtAOf w))
  | 0x20 => some (.daddI h (fmtIOf w))
  | 0x21 => some (.dsubI h (fmtIOf w))
  | 0x22 => some (.dmulI h (fmtIOf w))
  | 0x23 => some (.dfmaI h (fmtIOf w))
  | 0x24 => some (.dminI h (fmtIOf w))
  | 0x25 => some (.dmaxI h (fmtIOf w))
  | 0x26 => some (.dcmpI h (fmtIOf w))
  | 0x2A => some (.ddivI h (fmtIOf w))
  | 0x2C => some (.dscaleI h (fmtIOf w))
  | _ => none

/-- Group 0x4, conversion: the instruction of a function. -/
def group4 (fn : Nat) (h : Hdr) (w : BitVec 76) : Option Instr :=
  match fn with
  | 0x00 => some (.cvt h (fmtAOf w))
  | 0x01 => some (.cvtp h (fmtAOf w))
  | 0x02 => some (.cvtq h (fmtAOf w))
  | 0x03 => some (.deq h (fmtAOf w))
  | 0x04 => some (.bppack h (fmtAOf w))
  | 0x05 => some (.bpunp h (fmtAOf w))
  | 0x06 => some (.b8dec h (fmtAOf w))
  | 0x07 => some (.b8enc h (fmtAOf w))
  | 0x08 => some (.bmux h (fmtAOf w))
  | 0x09 => some (.pack h (fmtAOf w))
  | _ => none

/-- Group 0x5, lanes and registers: the instruction of a function. -/
def group5 (fn : Nat) (h : Hdr) (w : BitVec 76) : Option Instr :=
  match fn with
  | 0x00 => some (.plop h (fmtAOf w))
  | 0x01 => some (.pmov h (fmtAOf w))
  | 0x02 => some (.poll h (fmtAOf w))
  | 0x03 => some (.xlane h (fmtAOf w))
  | 0x04 => some (.redq h (fmtAOf w))
  | 0x05 => some (.scanq h (fmtAOf w))
  | 0x06 => some (.matchQ h (fmtAOf w))
  | 0x07 => some (.sread h (fmtAOf w))
  | 0x08 => some (.swrite h (fmtAOf w))
  | 0x09 => some (.xset h (fmtAOf w))
  | 0x0A => some (.xadd h (fmtAOf w))
  | 0x0B => some (.claim h (fmtAOf w))
  | 0x0C => some (.surr h (fmtAOf w))
  | 0x0D => some (.maskrd h (fmtAOf w))
  | 0x0E => some (.pad h (fmtAOf w))
  | 0x0F => some (.unpad h (fmtAOf w))
  | 0x10 => some (.ubcast h (fmtAOf w))
  | _ => none

/-- Group 0x6, memory: the instruction of a function. -/
def group6 (fn : Nat) (h : Hdr) (w : BitVec 76) : Option Instr :=
  match fn with
  | 0x00 => some (.ld h (fmtMOf w))
  | 0x01 => some (.st h (fmtMOf w))
  | 0x02 => some (.ldro h (fmtMOf w))
  | 0x03 => some (.pref h (fmtMOf w))
  | 0x04 => some (.cinv h (fmtMOf w))
  | 0x05 => some (.cwb h (fmtMOf w))
  | 0x06 => some (.lds h (fmtMOf w))
  | 0x07 => some (.sts h (fmtMOf w))
  | 0x08 => some (.ldacq h (fmtMOf w))
  | 0x09 => some (.strel h (fmtMOf w))
  | _ => none

/-- Group 0x7, atomics: the instruction of a function. -/
def group7 (fn : Nat) (h : Hdr) (w : BitVec 76) : Option Instr :=
  match fn with
  | 0x00 => some (.atom h (fmtMOf w))
  | 0x01 => some (.red h (fmtMOf w))
  | 0x02 => some (.atoms h (fmtMOf w))
  | 0x03 => some (.fence h (fmtMOf w))
  | _ => none

/-- Group 0x8, synchronisation: the instruction of a function. -/
def group8 (fn : Nat) (h : Hdr) (w : BitVec 76) : Option Instr :=
  match fn with
  | 0x00 => some (.barinit h (fmtEOf w))
  | 0x01 => some (.bararv h (fmtEOf w))
  | 0x02 => some (.barwait h (fmtEOf w))
  | 0x03 => some (.bartry h (fmtEOf w))
  | 0x04 => some (.trywait h (fmtEOf w))
  | 0x05 => some (.msync h (fmtEOf w))
  | 0x06 => some (.attach h (fmtEOf w))
  | 0x07 => some (.detach h (fmtEOf w))
  | 0x08 => some (.spawn h (fmtEOf w))
  | 0x09 => some (.qpush h (fmtEOf w))
  | _ => none

/-- Group 0x9, streamer: the instruction of a function. -/
def group9 (fn : Nat) (h : Hdr) (w : BitVec 76) : Option Instr :=
  match fn with
  | 0x00 => some (.cpy h (fmtEOf w))
  | 0x01 => some (.cpy2d h (fmtEOf w))
  | 0x02 => some (.cpyt h (fmtEOf w))
  | 0x03 => some (.cpymc h (fmtEOf w))
  | 0x04 => some (.cpyout h (fmtEOf w))
  | 0x05 => some (.cpyfill h (fmtEOf w))
  | 0x06 => some (.hset h (fmtEOf w))
  | 0x07 => some (.hwait h (fmtEOf w))
  | 0x08 => some (.hdrain h (fmtEOf w))
  | 0x09 => some (.hfree h (fmtEOf w))
  | 0x0A => some (.hstat h (fmtEOf w))
  | _ => none

/-- Group 0xA, matrix: the instruction of a function. -/
def groupA (fn : Nat) (h : Hdr) (w : BitVec 76) : Option Instr :=
  match fn with
  | 0x00 => some (.mma h (fmtEOf w))
  | 0x01 => some (.mmas h (fmtEOf w))
  | 0x02 => some (.mmar h (fmtEOf w))
  | 0x03 => some (.mldc h (fmtEOf w))
  | 0x04 => some (.mstc h (fmtEOf w))
  | 0x05 => some (.mzero h (fmtEOf w))
  | 0x06 => some (.mact h (fmtEOf w))
  | _ => none

/-- Group 0xB, sampling: the instruction of a function. -/
def groupB (fn : Nat) (h : Hdr) (w : BitVec 76) : Option Instr :=
  match fn with
  | 0x00 => some (.tex h (fmtEOf w))
  | 0x01 => some (.tld h (fmtEOf w))
  | 0x02 => some (.tgath h (fmtEOf w))
  | 0x03 => some (.tqry h (fmtEOf w))
  | 0x04 => some (.hgfetch h (fmtEOf w))
  | 0x05 => some (.hgscat h (fmtEOf w))
  | 0x06 => some (.ntex h (fmtEOf w))
  | _ => none

/-- Group 0xC, raster and mesh: the instruction of a function. -/
def groupC (fn : Nat) (h : Hdr) (w : BitVec 76) : Option Instr :=
  match fn with
  | 0x00 => some (.tpay h (fmtEOf w))
  | 0x01 => some (.mvtx h (fmtEOf w))
  | 0x02 => some (.mprim h (fmtEOf w))
  | 0x03 => some (.mdone h (fmtEOf w))
  | 0x04 => some (.visrd h (fmtEOf w))
  | 0x05 => some (.attr h (fmtEOf w))
  | 0x06 => some (.pixout h (fmtEOf w))
  | _ => none

/-- Group 0xD, rays: the instruction of a function. -/
def groupD (fn : Nat) (h : Hdr) (w : BitVec 76) : Option Instr :=
  match fn with
  | 0x00 => some (.rayq h (fmtEOf w))
  | 0x01 => some (.raynext h (fmtEOf w))
  | 0x02 => some (.rayacc h (fmtEOf w))
  | 0x03 => some (.rayend h (fmtEOf w))
  | 0x04 => some (.rayget h (fmtEOf w))
  | 0x05 => some (.asbuild h (fmtEOf w))
  | 0x06 => some (.asinfo h (fmtEOf w))
  | _ => none

/-- Group 0xE, trees and collectives: the instruction of a function. -/
def groupE (fn : Nat) (h : Hdr) (w : BitVec 76) : Option Instr :=
  match fn with
  | 0x00 => some (.tinit h (fmtEOf w))
  | 0x01 => some (.tsel h (fmtEOf w))
  | 0x02 => some (.texp h (fmtEOf w))
  | 0x03 => some (.tback h (fmtEOf w))
  | 0x04 => some (.tleaf h (fmtEOf w))
  | 0x05 => some (.treuse h (fmtEOf w))
  | 0x06 => some (.tread h (fmtEOf w))
  | 0x10 => some (.coll h (fmtEOf w))
  | 0x11 => some (.collinfo h (fmtEOf w))
  | _ => none

/-- Group 0xF, system: the instruction of a function. -/
def groupF (fn : Nat) (h : Hdr) (w : BitVec 76) : Option Instr :=
  match fn with
  | 0x00 => some (.trap h (fmtEOf w))
  | 0x01 => some (.trapcall h (fmtEOf w))
  | 0x02 => some (.tret h (fmtEOf w))
  | 0x03 => some (.tkill h (fmtEOf w))
  | 0x04 => some (.perf h (fmtEOf w))
  | 0x05 => some (.decsel h (fmtEOf w))
  | _ => none

/-- The instruction an opcode of table 0 names, with its header and fields; none for an unassigned opcode (R102). -/
def build (op : Nat) (h : Hdr) (w : BitVec 76) : Option Instr :=
  match op / 64 with
  | 0 => group0 (op % 64) h w
  | 1 => group1 (op % 64) h w
  | 2 => group2 (op % 64) h w
  | 3 => group3 (op % 64) h w
  | 4 => group4 (op % 64) h w
  | 5 => group5 (op % 64) h w
  | 6 => group6 (op % 64) h w
  | 7 => group7 (op % 64) h w
  | 8 => group8 (op % 64) h w
  | 9 => group9 (op % 64) h w
  | 10 => groupA (op % 64) h w
  | 11 => groupB (op % 64) h w
  | 12 => groupC (op % 64) h w
  | 13 => groupD (op % 64) h w
  | 14 => groupE (op % 64) h w
  | 15 => groupF (op % 64) h w
  | _ => none

/-- The instruction of a 96-bit value under table 0. -/
def decode (w : BitVec 96) : Option Instr := build (opcodeOf w).toNat (hdrOf (headerOf w)) (payloadOf w)

/-- The instruction of a 96-bit value under a decode table (R104): an entry valid in bit [15] names the opcode of table 0 whose
operation and format the opcode takes on; table 0 is the identity. -/
def decodeUnder (table : Option (List W16)) (w : BitVec 96) : Option Instr :=
  match table with
  | none => decode w
  | some t =>
    let e := t.getD (opcodeOf w).toNat 0
    if e.getLsbD 15 then build (e.toNat % 1024) (hdrOf (headerOf w)) (payloadOf w) else none

/-- The 96-bit value of twelve bytes (R68): the first byte holds the low bits. -/
def wordOfBytes (bs : List W8) : BitVec 96 := BitVec.ofNat 96 (leValue (bs.take 12))
def bytesOfWord (w : BitVec 96) : List W8 := leBytes 12 w.toNat

/-- Decode the instruction at the head of a list of bytes, and give back the rest. -/
def decodeBytes (bs : List W8) : Except DecodeError (Instr × List W8) :=
  if bs.length < 12 then .error (.short bs.length)
  else
    match decode (wordOfBytes bs) with
    | some i => .ok (i, bs.drop 12)
    | none => .error (.unassigned (opcodeOf (wordOfBytes bs)).toNat)

/-- The opcode of table 0, the header and the fields of an instruction; an event has no encoding. -/
def parts (i : Instr) : Option (BitVec 10 × Hdr × BitVec 76) :=
  match i with
  | .nop h f => some (0x000, h, f.code)
  | .bra h f => some (0x001, h, f.code)
  | .brc h f => some (0x002, h, f.code)
  | .brx h f => some (0x003, h, f.code)
  | .call h f => some (0x004, h, f.code)
  | .callx h f => some (0x005, h, f.code)
  | .ret h f => some (0x006, h, f.code)
  | .reconv h f => some (0x007, h, f.code)
  | .loop h f => some (0x008, h, f.code)
  | .exit h f => some (0x009, h, f.code)
  | .region h f => some (0x00A, h, f.code)
  | .sigck h f => some (0x00B, h, f.code)
  | .yield h f => some (0x00C, h, f.code)
  | .bkpt h f => some (0x00D, h, f.code)
  | .iadd h f => some (0x040, h, f.code)
  | .iaddI h f => some (0x060, h, f.code)
  | .isub h f => some (0x041, h, f.code)
  | .isubI h f => some (0x061, h, f.code)
  | .imul h f => some (0x042, h, f.code)
  | .imulI h f => some (0x062, h, f.code)
  | .imulh h f => some (0x043, h, f.code)
  | .imulhI h f => some (0x063, h, f.code)
  | .imad h f => some (0x044, h, f.code)
  | .imadI h f => some (0x064, h, f.code)
  | .imadw h f => some (0x045, h, f.code)
  | .imadwI h f => some (0x065, h, f.code)
  | .imin h f => some (0x046, h, f.code)
  | .iminI h f => some (0x066, h, f.code)
  | .imax h f => some (0x047, h, f.code)
  | .imaxI h f => some (0x067, h, f.code)
  | .iabs h f => some (0x048, h, f.code)
  | .ineg h f => some (0x049, h, f.code)
  | .iadd3 h f => some (0x04A, h, f.code)
  | .iadd3I h f => some (0x06A, h, f.code)
  | .isad h f => some (0x04B, h, f.code)
  | .isadI h f => some (0x06B, h, f.code)
  | .shl h f => some (0x04C, h, f.code)
  | .shlI h f => some (0x06C, h, f.code)
  | .shr h f => some (0x04D, h, f.code)
  | .shrI h f => some (0x06D, h, f.code)
  | .sar h f => some (0x04E, h, f.code)
  | .rotl h f => some (0x04F, h, f.code)
  | .tril h f => some (0x050, h, f.code)
  | .trilI h f => some (0x070, h, f.code)
  | .and h f => some (0x051, h, f.code)
  | .andI h f => some (0x071, h, f.code)
  | .or h f => some (0x052, h, f.code)
  | .orI h f => some (0x072, h, f.code)
  | .xor h f => some (0x053, h, f.code)
  | .xorI h f => some (0x073, h, f.code)
  | .not h f => some (0x054, h, f.code)
  | .popc h f => some (0x055, h, f.code)
  | .clz h f => some (0x056, h, f.code)
  | .brev h f => some (0x057, h, f.code)
  | .bfe h f => some (0x058, h, f.code)
  | .bfeI h f => some (0x078, h, f.code)
  | .bfi h f => some (0x059, h, f.code)
  | .bfiI h f => some (0x079, h, f.code)
  | .icmp h f => some (0x05A, h, f.code)
  | .icmpI h f => some (0x07A, h, f.code)
  | .sel h f => some (0x05B, h, f.code)
  | .selI h f => some (0x07B, h, f.code)
  | .mov h f => some (0x05C, h, f.code)
  | .movI h f => some (0x07C, h, f.code)
  | .lea h f => some (0x05D, h, f.code)
  | .leaI h f => some (0x07D, h, f.code)
  | .iclamp h f => some (0x05E, h, f.code)
  | .iclampI h f => some (0x07E, h, f.code)
  | .fadd h f => some (0x080, h, f.code)
  | .faddI h f => some (0x0A0, h, f.code)
  | .fsub h f => some (0x081, h, f.code)
  | .fsubI h f => some (0x0A1, h, f.code)
  | .fmul h f => some (0x082, h, f.code)
  | .fmulI h f => some (0x0A2, h, f.code)
  | .ffma h f => some (0x083, h, f.code)
  | .ffmaI h f => some (0x0A3, h, f.code)
  | .fmin h f => some (0x084, h, f.code)
  | .fminI h f => some (0x0A4, h, f.code)
  | .fmax h f => some (0x085, h, f.code)
  | .fmaxI h f => some (0x0A5, h, f.code)
  | .fcmp h f => some (0x086, h, f.code)
  | .fcmpI h f => some (0x0A6, h, f.code)
  | .frcp h f => some (0x087, h, f.code)
  | .frsq h f => some (0x088, h, f.code)
  | .fsqrt h f => some (0x089, h, f.code)
  | .fexp2 h f => some (0x08A, h, f.code)
  | .flog2 h f => some (0x08B, h, f.code)
  | .fsin h f => some (0x08C, h, f.code)
  | .fcos h f => some (0x08D, h, f.code)
  | .ftanh h f => some (0x08E, h, f.code)
  | .fclass h f => some (0x08F, h, f.code)
  | .fscale h f => some (0x090, h, f.code)
  | .fscaleI h f => some (0x0B0, h, f.code)
  | .ffrc h f => some (0x091, h, f.code)
  | .frnd h f => some (0x092, h, f.code)
  | .fdot2 h f => some (0x093, h, f.code)
  | .fdot2I h f => some (0x0B3, h, f.code)
  | .dadd h f => some (0x0C0, h, f.code)
  | .daddI h f => some (0x0E0, h, f.code)
  | .dsub h f => some (0x0C1, h, f.code)
  | .dsubI h f => some (0x0E1, h, f.code)
  | .dmul h f => some (0x0C2, h, f.code)
  | .dmulI h f => some (0x0E2, h, f.code)
  | .dfma h f => some (0x0C3, h, f.code)
  | .dfmaI h f => some (0x0E3, h, f.code)
  | .dmin h f => some (0x0C4, h, f.code)
  | .dminI h f => some (0x0E4, h, f.code)
  | .dmax h f => some (0x0C5, h, f.code)
  | .dmaxI h f => some (0x0E5, h, f.code)
  | .dcmp h f => some (0x0C6, h, f.code)
  | .dcmpI h f => some (0x0E6, h, f.code)
  | .drcpa h f => some (0x0C7, h, f.code)
  | .drsqa h f => some (0x0C8, h, f.code)
  | .dsqrt h f => some (0x0C9, h, f.code)
  | .ddiv h f => some (0x0CA, h, f.code)
  | .ddivI h f => some (0x0EA, h, f.code)
  | .dclass h f => some (0x0CB, h, f.code)
  | .dscale h f => some (0x0CC, h, f.code)
  | .dscaleI h f => some (0x0EC, h, f.code)
  | .drnd h f => some (0x0CD, h, f.code)
  | .dfrc h f => some (0x0CE, h, f.code)
  | .cvt h f => some (0x100, h, f.code)
  | .cvtp h f => some (0x101, h, f.code)
  | .cvtq h f => some (0x102, h, f.code)
  | .deq h f => some (0x103, h, f.code)
  | .bppack h f => some (0x104, h, f.code)
  | .bpunp h f => some (0x105, h, f.code)
  | .b8dec h f => some (0x106, h, f.code)
  | .b8enc h f => some (0x107, h, f.code)
  | .bmux h f => some (0x108, h, f.code)
  | .pack h f => some (0x109, h, f.code)
  | .plop h f => some (0x140, h, f.code)
  | .pmov h f => some (0x141, h, f.code)
  | .poll h f => some (0x142, h, f.code)
  | .xlane h f => some (0x143, h, f.code)
  | .redq h f => some (0x144, h, f.code)
  | .scanq h f => some (0x145, h, f.code)
  | .matchQ h f => some (0x146, h, f.code)
  | .sread h f => some (0x147, h, f.code)
  | .swrite h f => some (0x148, h, f.code)
  | .xset h f => some (0x149, h, f.code)
  | .xadd h f => some (0x14A, h, f.code)
  | .claim h f => some (0x14B, h, f.code)
  | .surr h f => some (0x14C, h, f.code)
  | .maskrd h f => some (0x14D, h, f.code)
  | .pad h f => some (0x14E, h, f.code)
  | .unpad h f => some (0x14F, h, f.code)
  | .ubcast h f => some (0x150, h, f.code)
  | .ld h f => some (0x180, h, f.code)
  | .st h f => some (0x181, h, f.code)
  | .ldro h f => some (0x182, h, f.code)
  | .pref h f => some (0x183, h, f.code)
  | .cinv h f => some (0x184, h, f.code)
  | .cwb h f => some (0x185, h, f.code)
  | .lds h f => some (0x186, h, f.code)
  | .sts h f => some (0x187, h, f.code)
  | .ldacq h f => some (0x188, h, f.code)
  | .strel h f => some (0x189, h, f.code)
  | .atom h f => some (0x1C0, h, f.code)
  | .red h f => some (0x1C1, h, f.code)
  | .atoms h f => some (0x1C2, h, f.code)
  | .fence h f => some (0x1C3, h, f.code)
  | .barinit h f => some (0x200, h, f.code)
  | .bararv h f => some (0x201, h, f.code)
  | .barwait h f => some (0x202, h, f.code)
  | .bartry h f => some (0x203, h, f.code)
  | .trywait h f => some (0x204, h, f.code)
  | .msync h f => some (0x205, h, f.code)
  | .attach h f => some (0x206, h, f.code)
  | .detach h f => some (0x207, h, f.code)
  | .spawn h f => some (0x208, h, f.code)
  | .qpush h f => some (0x209, h, f.code)
  | .cpy h f => some (0x240, h, f.code)
  | .cpy2d h f => some (0x241, h, f.code)
  | .cpyt h f => some (0x242, h, f.code)
  | .cpymc h f => some (0x243, h, f.code)
  | .cpyout h f => some (0x244, h, f.code)
  | .cpyfill h f => some (0x245, h, f.code)
  | .hset h f => some (0x246, h, f.code)
  | .hwait h f => some (0x247, h, f.code)
  | .hdrain h f => some (0x248, h, f.code)
  | .hfree h f => some (0x249, h, f.code)
  | .hstat h f => some (0x24A, h, f.code)
  | .mma h f => some (0x280, h, f.code)
  | .mmas h f => some (0x281, h, f.code)
  | .mmar h f => some (0x282, h, f.code)
  | .mldc h f => some (0x283, h, f.code)
  | .mstc h f => some (0x284, h, f.code)
  | .mzero h f => some (0x285, h, f.code)
  | .mact h f => some (0x286, h, f.code)
  | .tex h f => some (0x2C0, h, f.code)
  | .tld h f => some (0x2C1, h, f.code)
  | .tgath h f => some (0x2C2, h, f.code)
  | .tqry h f => some (0x2C3, h, f.code)
  | .hgfetch h f => some (0x2C4, h, f.code)
  | .hgscat h f => some (0x2C5, h, f.code)
  | .ntex h f => some (0x2C6, h, f.code)
  | .tpay h f => some (0x300, h, f.code)
  | .mvtx h f => some (0x301, h, f.code)
  | .mprim h f => some (0x302, h, f.code)
  | .mdone h f => some (0x303, h, f.code)
  | .visrd h f => some (0x304, h, f.code)
  | .attr h f => some (0x305, h, f.code)
  | .pixout h f => some (0x306, h, f.code)
  | .rayq h f => some (0x340, h, f.code)
  | .raynext h f => some (0x341, h, f.code)
  | .rayacc h f => some (0x342, h, f.code)
  | .rayend h f => some (0x343, h, f.code)
  | .rayget h f => some (0x344, h, f.code)
  | .asbuild h f => some (0x345, h, f.code)
  | .asinfo h f => some (0x346, h, f.code)
  | .tinit h f => some (0x380, h, f.code)
  | .tsel h f => some (0x381, h, f.code)
  | .texp h f => some (0x382, h, f.code)
  | .tback h f => some (0x383, h, f.code)
  | .tleaf h f => some (0x384, h, f.code)
  | .treuse h f => some (0x385, h, f.code)
  | .tread h f => some (0x386, h, f.code)
  | .coll h f => some (0x390, h, f.code)
  | .collinfo h f => some (0x391, h, f.code)
  | .trap h f => some (0x3C0, h, f.code)
  | .trapcall h f => some (0x3C1, h, f.code)
  | .tret h f => some (0x3C2, h, f.code)
  | .tkill h f => some (0x3C3, h, f.code)
  | .perf h f => some (0x3C4, h, f.code)
  | .decsel h f => some (0x3C5, h, f.code)
  | .queueWake _ _ => none
  | .dependencyWordWrite _ _ => none
  | .signalPacketEffect _ _ => none
  | .gatheringPlacement => none
  | .binQuirePlacement _ _ => none
  | .binTimerExpiry _ _ => none
  | .meshGatheringPlacement _ => none
  | .pendingQuireCreation _ => none
  | .volumeCompletion _ => none
  | .deviceReset => none
  | .controlProcessorRestart => none
  | .lineFetch _ => none
  | .loadDataReturn _ => none
  | .rowRefill _ => none
  | .claimGrant _ => none
  | .tpaySlotTaken _ => none
  | .qpushRingRoom _ => none
  | .barrierWake _ => none
  | .trywaitReevaluation _ => none
  | .trywaitTimeout _ => none
  | .hwaitWake _ => none
  | .asqRequest _ => none
  | .asqReply _ => none
  | .homeAccept _ _ => none
  | .storeAcknowledge _ _ => none
  | .faultEntryRetry _ => none
  | .faultResolution _ _ _ => none
  | .transferStart _ => none
  | .transferPiece _ _ => none
  | .matrixResultLanding _ _ => none
  | .engineResultReturn _ => none
  | .treeOperation _ => none
  | .treeResultLanding _ => none
  | .tleafAppend _ => none
  | .batchTimerExpiry _ _ => none
  | .visibilityResolve _ _ => none
  | .tileFinality _ => none
  | .collectiveExchange _ _ _ _ => none
  | .heartbeatSend _ => none
  | .memberLost _ _ => none
  | .viewMessage _ _ _ => none
  | .coordinatorTimeout _ => none
  | .finalMaskReceive _ _ _ => none
  | .finalMaskTimeout _ => none
  | .collectiveCompletion _ => none
  | .stationReplayFailure _ => none
  | .stationAckTimeout _ => none
  | .peerCompletion _ _ _ _ => none
  | .peerRequestTimeout _ => none
  | .peerInboundRequest _ => none
  | .hostAccess _ => none
  | .contextSwitchIn _ => none
  | .candidateWaitExpiry _ => none
  | .preemptionTimeout _ => none
  | .unitSave _ => none
  | .unitRestore _ => none
  | .preemptionHoldoffExpiry _ => none
  | .datapathError _ _ => none
  | .eccEvent _ => none
  | .patrolScrub _ => none
  | .laneRemapTimeout _ => none
  | .deadlockWatchdog _ => none
  | .externalWaitTimeout _ => none
  | .budgetExhausted _ => none
  | .trapcallReply _ => none
  | .mgPower _ => none
  | .mgClock _ => none
  | .clockModeFallback => none
  | .thermalThrottle _ _ => none
  | .thermalReset _ _ => none
  | .mgEvents _ => none
  | .mgErrors _ => none
  | .mgRegisterWrite _ _ => none
  | .registerContext _ _ => none
  | .releaseContext _ _ => none
  | .enableQueue _ _ _ => none
  | .disableQueue _ _ _ => none
  | .invalidate _ _ _ _ => none
  | .peerEntry _ _ _ => none
  | .inboundWindow _ _ _ _ _ _ => none
  | .stationUp _ _ => none
  | .debugStop _ _ => none
  | .debugResume _ _ => none
  | .debugStep _ _ => none
  | .debugRead _ _ _ => none
  | .debugWrite _ _ _ _ => none
  | .attest _ _ _ => none
  | .readRemap _ _ => none
  | .unknownCommand _ _ => none
  | .linkLevelAcknowledgement _ => none
  | .heartbeatReceive _ _ => none
  | .driverPreemptionRequest _ _ => none
  | .adaptiveClockStep _ => none

/-- The 96-bit word of an instruction (R68, R80); none for an event. -/
def encode (i : Instr) : Option (BitVec 96) := (parts i).map fun p => assemble p.1 p.2.1.code p.2.2

/-- Every constructor that stands for an instruction, which has a word, and not for an event of the device. -/
def Instr.isWord (i : Instr) : Bool := (parts i).isSome

/-- An instruction whose bits are `w`, bit 0 the least significant of the first byte; bits at `nbits` and above are zero. -/
def decodeTableWord (nbits w : Nat) : Option Instr := decode (BitVec.ofNat 96 (w % 2 ^ nbits))

end Sys2Proof
end

