-- ==== Sys2Proof/Config.lean ====
section
/-! DEFINITION. What an implementation of the J384 fixes and what the manual leaves open: constants without a body. Nothing can
compute them and no proof can see a value of them, so a claim holds whatever they are. Each is applied to what it depends on, and
to the counter `State.tick` where the manual lets one occurrence differ from another (log entries 3 and 6). -/
namespace Sys2Proof.Config

/-- What a free choice is about. Choices about different things never share a value. -/
inductive Choice where
  /-- which of several ready quires, or internal events, comes next; only order and timing hang on it -/
  | order
  /-- clocks and nanoseconds that pass -/
  | elapsed
  /-- old or new contents where the manual allows either (R8, R79, R232, R238, R247, R281, R350) -/
  | stale
  /-- the next serial of a kept primitive (R321) and the station of a request (R414) -/
  | serial
  /-- order in which a traversal meets what it meets (R333, R335) -/
  | traversal
  /-- bytes outside the saved ranges after a restore (R458) -/
  | unsaved
  /-- contents an uncorrectable error leaves in a word or a sector (R466, R467) -/
  | damaged
  /-- which words of a failed collective's destination were written, and with what (R430) -/
  | flight
  /-- the mask a collective records that ends without a final one (R430) -/
  | mask
  /-- the kind of the host event of a TRAPCALL record (R449): R496 lists none -/
  | eventKind
  /-- bytes of the spill area (R126) and of the save pool (R460): the manual does not say how what they hold is laid out there -/
  | spill
  /-- values of an address in a range the manual gives no contents for -/
  | device
deriving DecidableEq, Repr

/-- A value nothing constrains, by what it is about and by the counter at which it is drawn. -/
opaque free (c : Choice) (tick : Nat) : Nat

/-- The candidate that the approximating instruction with opcode `op` offers for operand `x` (R193): a fixed function of its
input. Machine/Approx.lean admits it only inside the bounds of R193. -/
opaque approx (op : Nat) (x : Nat) : Nat

/-- The error colour of an ASTC block that is not sRGB is four NaNs, not magenta (R300): its standard admits either. -/
opaque astcNan : Bool

/-- The FP32 candidate for an sRGB code's linear value (R300), admitted inside R300's bound. -/
opaque srgb (code : Nat) : W32

/-- The bytes a structure, its scratch space and its refit need (R339), from the build descriptor's kind, counts and flags. -/
opaque asSize (which kind count flags : Nat) : Nat

/-- The UALink accelerator ID of this package (R413), 0–1,023. -/
opaque accelId : Nat

/-- The DRAM row a first- or second-tier sector lies in, and the HBM4E stack of a first-tier one (R478): the module's own mapping. -/
opaque dramRow (sector : Nat) : Nat
opaque dramStack (sector : Nat) : Nat

/-- The measurements of the firmware images as the ROM and the firmware make them (R487). -/
opaque measures : List W64
/-- The firmware image that the ROM reads at a reset or restart passes verification (R487). -/
opaque imageOk (tick : Nat) : Bool

/-- Spare lanes on or off, as firmware that boots sets them (R4); what it changes in the span maps it keeps (R53, R54): logical cores with the physical
core each then names, or none (log entry 108). -/
opaque spareLanes (tick : Nat) : Bool
opaque spanChange (tick : Nat) : List (Nat × Option Nat)

/-- An attestation report over a nonce, the measurements, the epoch and the signatures left (R488): its layout, the serial and the
signature are the module's. -/
opaque attest (nonce : List W8) (measures : List W64) (epoch left : Nat) : List W8

/-- What the management registers whose readings the manual leaves to the module read. -/
opaque mgRead (off tick : Nat) : W64

/-- The FP32 candidate for a barycentric, parameter or depth that is not exact, admitted inside the rule's bound. -/
opaque interp (what : Nat) (args : List W32) : W32

end Sys2Proof.Config
end

