-- ==== Sys2Proof/Machine/Num.lean ====
section
/-! DEFINITION. Number formats and rounding (R151–R167): the exact value of every code, one rounding of an exact rational to a
format, and the correctly rounded operations, comparisons and conversions over them. -/
namespace Sys2Proof.Machine

/-- Exception flags in the layout of sr.fpflags (R166): invalid, divide by zero, overflow, underflow, inexact. -/
abbrev Fl := BitVec 5
def Fl.none : Fl := 0
def Fl.invalid : Fl := 1
def Fl.divZero : Fl := 2
def Fl.overflow : Fl := 4
def Fl.underflow : Fl := 8
def Fl.inexact : Fl := 16
/-- A flag when its condition holds. -/
def Fl.when (c : Bool) (f : Fl) : Fl := if c then f else 0

/-- The five rounding modes (R100, R160). -/
inductive Rnd where
  | rne | rtz | rup | rdn | rna
deriving DecidableEq, Repr

def Rnd.ofCode (n : Nat) : Rnd :=
  if n = 1 then .rtz else if n = 2 then .rup else if n = 3 then .rdn else if n = 4 then .rna else .rne

/-- How a format uses its top codes (R151). -/
inductive FKind where
  | ieee | e5m2 | e4m3 | e2m1
deriving DecidableEq, Repr

/-- A binary floating-point format: exponent bits, fraction bits, bias, kind (R151). -/
structure Fmt where
  e : Nat
  f : Nat
  bias : Nat
  kind : FKind
deriving DecidableEq, Repr

def Fmt.f64 : Fmt := ⟨11, 52, 1023, .ieee⟩
def Fmt.f32 : Fmt := ⟨8, 23, 127, .ieee⟩
def Fmt.f16 : Fmt := ⟨5, 10, 15, .ieee⟩
def Fmt.bf16 : Fmt := ⟨8, 7, 127, .ieee⟩
def Fmt.e4m3 : Fmt := ⟨4, 3, 7, .e4m3⟩
def Fmt.e5m2 : Fmt := ⟨5, 2, 15, .e5m2⟩
def Fmt.e2m1 : Fmt := ⟨2, 1, 1, .e2m1⟩

/-- Bits of a code. -/
def Fmt.bits (F : Fmt) : Nat := 1 + F.e + F.f

/-- An exact value (R164): a NaN, an infinity, or (−1)^neg × m × 2^e, zero keeping its sign. -/
inductive Num where
  | nan (signalling : Bool)
  | inf (neg : Bool)
  | fin (neg : Bool) (m : Nat) (e : Int)
deriving DecidableEq, Repr

def Num.isFin : Num → Bool | .fin _ _ _ => true | _ => false
def Num.isNan : Num → Bool | .nan _ => true | _ => false
def Num.isSnan : Num → Bool | .nan s => s | _ => false
def Num.isZero : Num → Bool | .fin _ m _ => m == 0 | _ => false
def Num.isInf : Num → Bool | .inf _ => true | _ => false
/-- The sign bit of a value; a NaN counts as positive. -/
def Num.sign : Num → Bool | .nan _ => false | .inf s => s | .fin s _ _ => s
/-- The value with its sign flipped. -/
def Num.negate : Num → Num | .nan s => .nan s | .inf s => .inf (!s) | .fin s m e => .fin (!s) m e

/-- The value of a code (R151, R153). -/
def Fmt.decode (F : Fmt) (code : Nat) : Num :=
  let s := code.testBit (F.e + F.f)
  let ex := code / 2 ^ F.f % 2 ^ F.e
  let fr := code % 2 ^ F.f
  let top := 2 ^ F.e - 1
  let special : Option Num :=
    match F.kind with
    | .ieee => if ex = top then some (if fr = 0 then .inf s else .nan (fr < 2 ^ (F.f - 1))) else none
    | .e5m2 => if ex = top then some (if fr = 0 then .inf s else .nan false) else none
    | .e4m3 => if ex = top ∧ fr = 7 then some (.nan false) else none
    | .e2m1 => none
  match special with
  | some v => v
  | none =>
    if ex = 0 then .fin s fr (1 - (F.bias : Int) - F.f)
    else .fin s (2 ^ F.f + fr) ((ex : Int) - F.bias - F.f)

/-- The default NaN of a format (R151, R153); E2M1 has none and its NaN becomes +0 (R162). -/
def Fmt.nanCode (F : Fmt) : Nat :=
  match F.kind with
  | .ieee => (2 ^ F.e - 1) * 2 ^ F.f + 2 ^ (F.f - 1)
  | .e5m2 => 0x7E
  | .e4m3 => 0x7F
  | .e2m1 => 0

def Fmt.signBit (F : Fmt) (neg : Bool) : Nat := if neg then 2 ^ (F.e + F.f) else 0

/-- The infinity of a format that has one. -/
def Fmt.infCode (F : Fmt) (neg : Bool) : Nat := F.signBit neg + (2 ^ F.e - 1) * 2 ^ F.f

/-- Significand and exponent of the last place of the largest finite value (R151). -/
def Fmt.maxM (F : Fmt) : Nat :=
  match F.kind with
  | .e4m3 => 14
  | _ => 2 ^ (F.f + 1) - 1
def Fmt.maxQ (F : Fmt) : Int :=
  match F.kind with
  | .ieee => (2 ^ F.e : Nat) - 2 - (F.bias : Int) - F.f
  | .e5m2 => (2 ^ F.e : Nat) - 2 - (F.bias : Int) - F.f
  | .e4m3 => 8 - 3
  | .e2m1 => 2 - 1

/-- Exponent of the smallest normal. -/
def Fmt.emin (F : Fmt) : Int := 1 - (F.bias : Int)
/-- Exponent of the last place of a subnormal. -/
def Fmt.qmin (F : Fmt) : Int := F.emin - F.f

/-- The code of r × 2^q, where q ≥ qmin, and r < 2^(f+1) or r = 2^(f+1), and r ≥ 2^f unless q = qmin. -/
def Fmt.assemble (F : Fmt) (neg : Bool) (r : Nat) (q : Int) : Nat :=
  F.signBit neg + (q - F.qmin).toNat * 2 ^ F.f + r

def Fmt.maxCode (F : Fmt) (neg : Bool) : Nat := F.assemble neg F.maxM F.maxQ

/-- floor(log2 (n / d)) for positive n and d. -/
def ilog2 (n d : Nat) : Int :=
  let e : Int := (Nat.log2 n : Int) - Nat.log2 d
  if n * 2 ^ (-e).toNat < d * 2 ^ e.toNat then e - 1 else e

/-- (n / d) × 2^e rounded to an integer multiple of 2^q under a mode (R160): the multiple, and whether it differs. -/
def rint (mode : Rnd) (neg : Bool) (n d : Nat) (e q : Int) : Nat × Bool :=
  let a := n * 2 ^ (e - q).toNat
  let b := d * 2 ^ (q - e).toNat
  let k := a / b
  let r := a % b
  let above := decide (b < 2 * r)
  let tie := decide (2 * r = b)
  let inexact := decide (r ≠ 0)
  let up := match mode with
    | .rne => above || (tie && k % 2 == 1)
    | .rtz => false
    | .rup => inexact && !neg
    | .rdn => inexact && neg
    | .rna => above || tie
  (if up then k + 1 else k, inexact)

/-- What an overflow delivers (R161), saturate or not. -/
def Fmt.overflowCode (F : Fmt) (mode : Rnd) (sat neg : Bool) : Nat :=
  let toInf := match mode with
    | .rne => true
    | .rna => true
    | .rtz => false
    | .rup => !neg
    | .rdn => neg
  match F.kind with
  | .e2m1 => F.maxCode neg
  | .e4m3 => if sat || !toInf then F.maxCode neg else 0x7F
  | _ => if sat || !toInf then F.maxCode neg else F.infCode neg

/-- One rounding of (−1)^neg × (n / d) × 2^e to a format (R160–R163). `ftz` stands for ftz16 where the format obeys it. -/
def Fmt.round (F : Fmt) (mode : Rnd) (sat ftz neg : Bool) (n d : Nat) (e : Int) : Nat × Fl :=
  if n = 0 then (F.signBit neg, 0)
  else
    let ex := ilog2 n d + e
    let qu := ex - F.f
    let ru := (rint mode neg n d e qu).1
    if qu > F.maxQ ∨ (qu = F.maxQ ∧ F.maxM < ru) then
      (F.overflowCode mode sat neg, Fl.overflow ||| Fl.inexact)
    else
      let tiny := decide (ex < F.emin) && !(decide (ru = 2 ^ (F.f + 1)) && decide (ex + 1 = F.emin))
      if tiny && ftz then (F.signBit neg, Fl.underflow ||| Fl.inexact)
      else
        let q := max qu F.qmin
        let (r, nx) := rint mode neg n d e q
        (F.assemble neg r q, Fl.when nx Fl.inexact ||| Fl.when (tiny && nx) Fl.underflow)

/-- An infinity delivered to a format (R161, R162, R164). -/
def Fmt.ofInf (F : Fmt) (mode : Rnd) (sat neg : Bool) : Nat × Fl :=
  if sat then (F.maxCode neg, 0)
  else
    match F.kind with
    | .ieee => (F.infCode neg, 0)
    | .e5m2 => (F.infCode neg, 0)
    | _ => (F.overflowCode mode false neg, Fl.overflow ||| Fl.inexact)

/-- A NaN delivered to a format (R153, R162). -/
def Fmt.ofNan (F : Fmt) : Nat × Fl :=
  match F.kind with
  | .e2m1 => (0, Fl.invalid)
  | _ => (F.nanCode, 0)

/-- An exact value written to a format (R164). -/
def Fmt.ofNum (F : Fmt) (mode : Rnd) (sat ftz : Bool) : Num → Nat × Fl
  | .nan _ => F.ofNan
  | .inf s => F.ofInf mode sat s
  | .fin s m e => F.round mode sat ftz s m 1 e

/-! ### Arithmetic -/

/-- Flags that reading operands raises: a signalling NaN is invalid (R153). -/
def readFlags (xs : List Num) : Fl := Fl.when (xs.any Num.isSnan) Fl.invalid

/-- The exact product; none for 0 × ∞ (R167). -/
def Num.mul (x y : Num) : Option Num :=
  match x, y with
  | .nan a, .nan b => some (.nan (a || b))
  | .nan a, _ => some (.nan a)
  | _, .nan b => some (.nan b)
  | .inf s, y => if y.isZero then none else some (.inf (s != y.sign))
  | x, .inf s => if x.isZero then none else some (.inf (s != x.sign))
  | .fin s m e, .fin t n k => some (.fin (s != t) (m * n) (e + k))

/-- A signed integer at a common exponent. -/
def Num.scaled (x : Num) (q : Int) : Int :=
  match x with
  | .fin s m e => let v : Int := Int.ofNat (m * 2 ^ (e - q).toNat); if s then -v else v
  | _ => 0

def Num.expo : Num → Int | .fin _ _ e => e | _ => 0

/-- The exact sum of values, none of them a NaN (R160, R167): none when infinities of both signs meet. The sign of an exact zero
follows the mode unless every term is a zero of one sign. -/
def sumNum (mode : Rnd) (xs : List Num) : Option Num :=
  let infs := xs.filter Num.isInf
  match infs with
  | i :: _ => if infs.all (fun j => j.sign == i.sign) then some (.inf i.sign) else none
  | [] =>
    match xs with
    | [] => some (.fin false 0 0)
    | x :: rest =>
      let q := rest.foldl (fun a y => min a y.expo) x.expo
      let v := xs.foldl (fun a y => a + y.scaled q) (0 : Int)
      if v = 0 then
        if xs.all (fun y => y.isZero && (y.sign == x.sign)) then some (.fin x.sign 0 0)
        else some (.fin (mode == .rdn) 0 0)
      else some (.fin (decide (v < 0)) v.natAbs q)

/-- Round a sum of products and addends to a format, with the NaN and flag cases of R153 and R167. Beside a NaN term,
infinite products of both signs raise nothing of their own (R188; DESIGN CHOICE, notes/assumptions/131.md). -/
def Fmt.sumOf (F : Fmt) (mode : Rnd) (sat ftz : Bool) (operands : List Num) (terms : List (Option Num)) : Nat × Fl :=
  let rf := readFlags operands
  if terms.any Option.isNone then (F.ofNan.1, rf ||| F.ofNan.2 ||| Fl.invalid)
  else
    let ts := terms.filterMap id
    if ts.any Num.isNan then (F.ofNan.1, rf ||| F.ofNan.2)
    else
      match sumNum mode ts with
      | none => (F.ofNan.1, rf ||| F.ofNan.2 ||| Fl.invalid)
      | some v => let r := F.ofNum mode sat ftz v; (r.1, rf ||| r.2)

def Fmt.add (F : Fmt) (mode : Rnd) (sat ftz : Bool) (a b : Num) : Nat × Fl := F.sumOf mode sat ftz [a, b] [some a, some b]
def Fmt.mulr (F : Fmt) (mode : Rnd) (sat ftz : Bool) (a b : Num) : Nat × Fl :=
  let rf := readFlags [a, b]
  match Num.mul a b with
  | none => (F.ofNan.1, rf ||| Fl.invalid)
  | some v => let r := F.ofNum mode sat ftz v; (r.1, rf ||| r.2)
def Fmt.fma (F : Fmt) (mode : Rnd) (sat ftz : Bool) (a b c : Num) : Nat × Fl :=
  F.sumOf mode sat ftz [a, b, c] [Num.mul a b, some c]

/-- a / b (R188, R167). -/
def Fmt.div (F : Fmt) (mode : Rnd) (sat ftz : Bool) (a b : Num) : Nat × Fl :=
  let rf := readFlags [a, b]
  match a, b with
  | .nan _, _ => (F.ofNan.1, rf)
  | _, .nan _ => (F.ofNan.1, rf)
  | .inf _, .inf _ => (F.ofNan.1, rf ||| Fl.invalid)
  | .inf s, .fin t _ _ => F.ofInf mode sat (s != t)
  | .fin s _ _, .inf t => (F.signBit (s != t), 0)
  | .fin s m e, .fin t n k =>
    if n = 0 then
      if m = 0 then (F.ofNan.1, Fl.invalid)
      else let r := F.ofInf mode sat (s != t); (r.1, r.2 ||| Fl.divZero)
    else F.round mode sat ftz (s != t) m n (e - k)

/-- floor(sqrt n), digit by digit from bit `k`. -/
def isqrt (n : Nat) : Nat → Nat → Nat
  | 0, r => if (r + 1) * (r + 1) ≤ n then r + 1 else r
  | k + 1, r => isqrt n k (if (r + 2 ^ (k + 1)) * (r + 2 ^ (k + 1)) ≤ n then r + 2 ^ (k + 1) else r)

/-- The square root of m × 2^e for m > 0 as (root, exponent, exact): the true root is root × 2^exponent when exact, and else lies
strictly inside the half unit above and below (2 × root + 1) × 2^(exponent − 1). -/
def sqrtParts (m : Nat) (e : Int) : Nat × Int × Bool :=
  let e' := if e % 2 = 0 then e else e - 1
  let m' := if e % 2 = 0 then m else 2 * m
  let pad : Nat := 64
  let M := m' * 2 ^ (2 * pad)
  let r := isqrt M (Nat.log2 M / 2 + 1) 0
  (r, e' / 2 - pad, r * r == M)

def Fmt.sqrt (F : Fmt) (mode : Rnd) (sat ftz : Bool) (a : Num) : Nat × Fl :=
  match a with
  | .nan s => (F.ofNan.1, Fl.when s Fl.invalid)
  | .inf false => F.ofInf mode sat false
  | .inf true => (F.ofNan.1, Fl.invalid)
  | .fin s m e =>
    if m = 0 then (F.signBit s, 0)
    else if s then (F.ofNan.1, Fl.invalid)
    else
      let (r, k, exact) := sqrtParts m e
      if exact then F.round mode sat ftz false r 1 k else F.round mode sat ftz false (2 * r + 1) 1 (k - 1)

/-- a × 2^n (R188): an infinity is returned as it is, which saturate clamps like any result (R162). -/
def Fmt.scale (F : Fmt) (mode : Rnd) (sat ftz : Bool) (a : Num) (n : Int) : Nat × Fl :=
  match a with
  | .nan s => (F.ofNan.1, Fl.when s Fl.invalid)
  | .inf s => F.ofInf mode sat s
  | .fin s m e => if m = 0 then (F.signBit s, 0) else F.round mode sat ftz s m 1 (e + n)

/-- Round to an integral value in the format (R192). -/
def Fmt.integral (F : Fmt) (mode : Rnd) (a : Num) : Nat × Fl :=
  match a with
  | .nan s => (F.ofNan.1, Fl.when s Fl.invalid)
  | .inf s => (F.infCode s, 0)
  | .fin s m e =>
    if m = 0 then (F.signBit s, 0)
    else ((F.round .rtz false false s (rint mode s m 1 e 0).1 1 0).1, 0)

/-- x − trunc(x) (R192); ftz16 flushes it where it is tiny (R163). -/
def Fmt.fraction (F : Fmt) (ftz : Bool) (a : Num) : Nat × Fl :=
  match a with
  | .nan s => (F.ofNan.1, Fl.when s Fl.invalid)
  | .inf s => (F.signBit s, 0)
  | .fin s m e =>
    if 0 ≤ e then (F.signBit s, 0)
    else (F.round .rtz false ftz s (m % 2 ^ (-e).toNat) 1 e)

/-- Order of two values that are not NaNs, −0 equal to +0: `lt`, `eq` or `gt`. -/
def Num.cmp (x y : Num) : Ordering :=
  let rank : Num → Int := fun v => match v with | .inf true => -1 | .inf false => 1 | _ => 0
  if x.isInf || y.isInf then compare (rank x) (rank y)
  else let q := min x.expo y.expo; compare (x.scaled q) (y.scaled q)

/-- The six ordered conditions, then unordered and ordered (R190): the truth, and the invalid flag. -/
def fcompare (cond : Nat) (x y : Num) : Bool × Fl :=
  let unord := x.isNan || y.isNan
  let snan := x.isSnan || y.isSnan
  let o := Num.cmp x y
  let t := match cond with
    | 0 => !unord && o == .eq
    | 1 => unord || o != .eq
    | 2 => !unord && o == .lt
    | 3 => !unord && o != .gt
    | 4 => !unord && o == .gt
    | 5 => !unord && o != .lt
    | 6 => unord
    | _ => !unord
  let quiet := decide (cond < 2 ∨ 6 ≤ cond)
  (t, Fl.when (if quiet then snan else unord) Fl.invalid)

/-- Minimum or maximum (R189): −0 below +0, one NaN gives the other operand. `x` and `y` are codes of the format. -/
def Fmt.minmax (F : Fmt) (wantMax : Bool) (x y : Nat) : Nat × Fl :=
  let a := F.decode x
  let b := F.decode y
  let fl := readFlags [a, b]
  if a.isNan then (if b.isNan then F.nanCode else y, fl)
  else if b.isNan then (x, fl)
  else
    let aLess := match Num.cmp a b with
      | .lt => true
      | .gt => false
      | .eq => a.sign && !b.sign
    let bLess := match Num.cmp a b with
      | .lt => false
      | .gt => true
      | .eq => b.sign && !a.sign
    if wantMax then (if aLess then y else x, fl) else (if bLess then y else x, fl)

/-- The class bit of a code (R191). -/
def Fmt.class (F : Fmt) (x : Nat) : Nat :=
  match F.decode x with
  | .nan s => if s then 0 else 1
  | .inf s => if s then 2 else 9
  | .fin s m e =>
    if m = 0 then (if s then 5 else 6)
    else if ilog2 m 1 + e < F.emin then (if s then 4 else 7)
    else (if s then 3 else 8)

/-! ### Bead pairs (R156–R158) -/

/-- Eight times a bp8 term. -/
def bpTerm (neg : Bool) (c : Nat) : Int :=
  if c = 0 then 0 else (if neg then -1 else 1) * ((2 ^ (c - 1) : Nat) : Int)

/-- Eight times the value of a bp8 byte. -/
def bpEighths (b : Nat) : Int :=
  bpTerm (b.testBit 7) (b / 16 % 8) + bpTerm (b.testBit 3) (b % 8)

def bpNum (b : Nat) : Num := .fin (decide (bpEighths b < 0)) (bpEighths b).natAbs (-3)

/-- The order of R157 among codes of one value, as a single number: the smaller is the more canonical. -/
def bpRank (b : Nat) : Nat :=
  let c1 := b / 16 % 8
  let c2 := b % 8
  let s1 := b / 128 % 2
  let s2 := b / 8 % 2
  (if c2 ≤ c1 then 0 else 256) + c2 * 32 + c1 * 4 + s1 * 2 + s2

/-- The canonical code of a value given in eighths, when the value has one. -/
def bpCode (v : Int) : Option Nat :=
  (List.range 256).foldl (fun best b =>
    if bpEighths b = v then
      match best with
      | none => some b
      | some b' => if bpRank b < bpRank b' then some b else some b'
    else best) none

/-- Nearest bp8 magnitude, in eighths, to (n / d) × 2^e, a tie to the smaller (R158). -/
def bpNearest (n d : Nat) (e : Int) : Nat :=
  let a := n * 2 ^ (e + 3).toNat
  let b := d * 2 ^ (-(e + 3)).toNat
  if 128 * b ≤ a then 128
  else
    let dist := fun w : Nat => if w * b ≤ a then a - w * b else w * b - a
    (List.range 256).foldl (fun (best code : Nat) =>
      let v := (bpEighths code).natAbs
      if dist v < dist best ∨ (dist v = dist best ∧ v < best) then v else best) 0

/-- Encoding to bp8 (R158); an overflow is inexact with it (R167). -/
def bpOfNum : Num → Nat × Fl
  | .nan _ => (0, Fl.invalid)
  | .inf s => (if s then 0xFF else 0x77, Fl.overflow ||| Fl.inexact)
  | .fin s m e =>
    let v := bpNearest m 1 e
    let code := (bpCode (if s then -(v : Int) else v)).getD 0
    let a := m * 2 ^ (e + 3).toNat
    let b := 2 ^ (-(e + 3)).toNat
    (code, Fl.when (decide (v * b ≠ a)) Fl.inexact)

/-! ### Element formats of the type codes -/

/-- The format of one element of a type (R99, R152). -/
inductive Elem where
  | int (signed : Bool) (w : Nat)
  | flt (F : Fmt)
  | bp8
deriving DecidableEq, Repr

/-- Element width in bits. -/
def Elem.width : Elem → Nat
  | .int _ w => w | .flt F => F.bits | .bp8 => 8

end Sys2Proof.Machine

namespace Sys2Proof
open Sys2Proof.Machine

/-- The element format of a type code. -/
def Ty.elem : Ty → Elem
  | .i32 => .int true 32 | .n32 => .int false 32 | .i64 => .int true 64 | .n64 => .int false 64
  | .i16x2 => .int true 16 | .n16x2 => .int false 16 | .i8x4 => .int true 8 | .n8x4 => .int false 8
  | .f32 => .flt .f32 | .f16x2 => .flt .f16 | .bf16x2 => .flt .bf16 | .f64 => .flt .f64
  | .e4m3x4 => .flt .e4m3 | .e5m2x4 => .flt .e5m2 | .e2m1x8 => .flt .e2m1 | .bp8x4 => .bp8

/-- Element width in bits. -/
def Ty.width (t : Ty) : Nat := t.elem.width
/-- Elements in one operand of the type. -/
def Ty.count (t : Ty) : Nat := if t.width = 64 then 1 else 32 / t.width
/-- 32-bit registers of one operand of the type. -/
def Ty.words (t : Ty) : Nat := if t.width = 64 then 2 else 1
def Ty.isFloat : Ty → Bool
  | .f32 | .f16x2 | .bf16x2 | .f64 | .e4m3x4 | .e5m2x4 | .e2m1x8 | .bp8x4 => true
  | _ => false
def Ty.isSigned : Ty → Bool
  | .i32 | .i64 | .i16x2 | .i8x4 => true
  | _ => false
def Ty.isUnsigned : Ty → Bool
  | .n32 | .n64 | .n16x2 | .n8x4 => true
  | _ => false
end Sys2Proof

namespace Sys2Proof.Machine

/-- ftz16 acts on the FP16 and BF16 formats only (R163). -/
def Elem.ftz (t : Elem) (ftz16 : Bool) : Bool := ftz16 && (t == .flt .f16 || t == .flt .bf16)

/-- Element `k` of an operand value. -/
def elemOf (w v k : Nat) : Nat := v / 2 ^ (w * k) % 2 ^ w
/-- The value with element `k` replaced. -/
def putElem (w v k x : Nat) : Nat := v - elemOf w v k * 2 ^ (w * k) + x % 2 ^ w * 2 ^ (w * k)
/-- A value made of elements, element 0 lowest. -/
def packElems (w : Nat) : List Nat → Nat
  | [] => 0
  | x :: xs => x % 2 ^ w + 2 ^ w * packElems w xs

/-- The signed or unsigned integer a code of width `w` holds. -/
def intOf (signed : Bool) (w code : Nat) : Int :=
  let c := code % 2 ^ w
  if signed && c.testBit (w - 1) then (c : Int) - (2 ^ w : Nat) else c
def intLeast (signed : Bool) (w : Nat) : Int := if signed then -((2 ^ (w - 1) : Nat) : Int) else 0
def intGreatest (signed : Bool) (w : Nat) : Int := if signed then ((2 ^ (w - 1) : Nat) : Int) - 1 else ((2 ^ w : Nat) : Int) - 1
/-- The low `w` bits of an integer. -/
def intBits (w : Nat) (x : Int) : Nat := (x % ((2 ^ w : Nat) : Int)).toNat
def clampInt (lo hi x : Int) : Int := if x < lo then lo else if hi < x then hi else x

/-- The exact value of an element code (R164). An integer zero and the bp8 zero are read as +0, which converts to +0 in every rounding mode:
R160's −0 under RDN is taken to be of sums (DEDUCED, notes/assumptions/93.md). -/
def Elem.num (t : Elem) (code : Nat) : Num :=
  match t with
  | .int sg w => let v := intOf sg w code; .fin (decide (v < 0)) v.natAbs 0
  | .flt F => F.decode code
  | .bp8 => bpNum (code % 256)

/-- A value written to an element format (R164). -/
def Elem.ofNum (t : Elem) (mode : Rnd) (sat ftz16 : Bool) (v : Num) : Nat × Fl :=
  match t with
  | .flt F => F.ofNum mode sat (t.ftz ftz16) v
  | .bp8 => bpOfNum v
  | .int sg w =>
    match v with
    | .nan _ => (0, Fl.invalid)
    | .inf s => (intBits w (if s then intLeast sg w else intGreatest sg w), Fl.invalid)
    | .fin s m e =>
      let (k, nx) := rint mode s m 1 e 0
      let x : Int := if s then -(k : Int) else k
      if x < intLeast sg w ∨ intGreatest sg w < x then (intBits w (clampInt (intLeast sg w) (intGreatest sg w) x), Fl.invalid)
      else (intBits w x, Fl.when nx Fl.inexact)

/-- Conversion of one element (R164, R197): integer to integer keeps low bits unless saturate is set. A bp8 source converts to an integer
as a float does (DESIGN CHOICE, notes/assumptions/92.md). -/
def convertElem (src dst : Elem) (mode : Rnd) (sat ftz16 : Bool) (code : Nat) : Nat × Fl :=
  match src, dst with
  | .int sg w, .int sg' w' =>
    let x := intOf sg w code
    (intBits w' (if sat then clampInt (intLeast sg' w') (intGreatest sg' w') x else x), 0)
  | _, _ =>
    let v := src.num code
    let r := dst.ofNum mode sat ftz16 v
    (r.1, readFlags [v] ||| r.2)

/-- An inline integer as one element of a type, when the conversion is exact (R88). -/
def inlineElem (t : Elem) (i : Int) : Option Nat :=
  match t with
  | .int sg w => if i < intLeast sg w ∨ intGreatest sg w < i then none else some (intBits w i)
  | t =>
    let r := t.ofNum .rne false false (.fin (decide (i < 0)) i.natAbs 0)
    if r.2 = 0 then some r.1 else none

/-- An inline integer as an operand value of a type: the element in every place (R88). -/
def inlineValue (t : Ty) (i : BitVec 10) : Option Nat :=
  (inlineElem t.elem i.toInt).map fun x => packElems t.width (List.replicate t.count x)

/-- imm32 of an I form as an operand value of a type (R85); none for a type the table does not allow. -/
def immValue (t : Ty) (imm : W32) : Nat :=
  match t with
  | .i64 => (imm.signExtend 64).toNat
  | .f64 => imm.toNat * 2 ^ 32
  | _ => imm.toNat

end Sys2Proof.Machine
end

