-- ==== Sys2Proof/Machine/Approx.lean ====
section
/-! DEFINITION. The approximating instructions of R193: each function's value enclosed to far beyond the stated bounds, the results and
flags the table states outright, and elsewhere a fixed function of the input that the manual leaves open but for its bound
(log entry 6): the candidate of Config.approx where it lies inside the bound, else the nearest code. -/
namespace Sys2Proof.Machine

/-- A value known to within `err` units: |y − n × 2^q| ≤ err × 2^q. -/
structure Encl where
  n   : Int
  q   : Int
  err : Nat
deriving DecidableEq, Repr

/-- How far an approximation may lie from the exact value (R193). -/
inductive Bound where
  | ulp (k : Nat)
  /-- absolute 2^−22 -/
  | abs
  /-- absolute 2^−22, or 2 ulp where that is wider -/
  | either
  /-- relative 2^−23 -/
  | rel
deriving DecidableEq, Repr

/-- Whatever value the enclosure holds, `v` is within tol × 2^t of it: |v − n × 2^q| + err × 2^q ≤ tol × 2^t, in whole numbers. -/
def Encl.within (E : Encl) (v : Num) (tol : Nat) (t : Int) : Bool :=
  match v with
  | .fin _ _ _ =>
    let q := min (min E.q t) v.expo
    let d := (v.scaled q - E.n * ((2 ^ (E.q - q).toNat : Nat) : Int)).natAbs
    decide (d + E.err * 2 ^ (E.q - q).toNat ≤ tol * 2 ^ (t - q).toNat)
  | _ => false

/-- Exponent of the unit in the last place of the exact result in a format. -/
def Encl.ulpExp (E : Encl) (F : Fmt) : Int := max (ilog2 (E.n.natAbs - E.err) 1 + E.q) F.emin - F.f

def Encl.admits (E : Encl) (F : Fmt) (b : Bound) (v : Num) : Bool :=
  match b with
  | .ulp k => E.within v k (E.ulpExp F)
  | .abs => E.within v 1 (-22)
  | .either => E.within v 1 (-22) || E.within v 2 (E.ulpExp F)
  | .rel => E.within v (E.n.natAbs - E.err) (E.q - 23)

/-- An inexact result inside its bound, with its flags. -/
def approxOf (F : Fmt) (op xc : Nat) (b : Bound) (E : Encl) : Nat × Fl :=
  let near := F.round .rne false false (decide (E.n < 0)) E.n.natAbs 1 E.q
  if near.2 &&& Fl.overflow ≠ 0 then (near.1, Fl.overflow ||| Fl.inexact)
  else
    let c := Config.approx op xc % 2 ^ F.bits
    let r := if E.admits F b (F.decode c) then c else near.1
    let tiny := decide (r / 2 ^ F.f % 2 ^ F.e = 0)
    (r, Fl.inexact ||| Fl.when tiny Fl.underflow)

/-! ### Enclosures, in units of 2^−64 -/

def one64 : Nat := 2 ^ 64
def piFix : Nat := 57952155664616982739
def ln2Fix : Nat := 12786308645202655659
def log2eFix : Nat := 26613026195688644983

/-- Σ t^k / k! for the k a filter keeps, with signs, to 2^−60. -/
def series (t : Nat) (keep : Nat → Int) : Int :=
  ((List.range 28).foldl (fun (acc : Nat × Int) k => (acc.1 * t / one64 / (k + 1), acc.2 + keep k * (acc.1 : Int))) (one64, 0)).2

/-- 2^f for f = t / 2^64 in [0, 1). -/
def exp2Fix (t : Nat) : Int := series (t * ln2Fix / one64) fun _ => 1

/-- x × 2^64, rounded down, for x = m × 2^e. -/
def toFix (m : Nat) (e : Int) : Nat := m * 2 ^ (e + 64).toNat / 2 ^ (-(e + 64)).toNat

/-- 2^x for x of either sign. -/
def enclExp2 (neg : Bool) (m : Nat) (e : Int) : Encl :=
  let v : Int := if neg then -((toFix m e : Nat) : Int) - 1 else toFix m e
  let i := v / (one64 : Int)
  let f := (v % (one64 : Int)).toNat
  { n := exp2Fix f, q := i - 64, err := 256 }

/-- Bits of log2 of a number in [1, 2), by squaring: `n` bits, most significant first. -/
def log2Bits : Nat → Nat → Nat → Nat
  | 0, _, acc => acc
  | n + 1, y, acc =>
    let y2 := y * y / one64
    if 2 * one64 ≤ y2 then log2Bits n (y2 / 2) (2 * acc + 1) else log2Bits n y2 (2 * acc)

/-- log2 x for x = m × 2^e > 0. -/
def enclLog2 (m : Nat) (e : Int) : Encl :=
  let k := Nat.log2 m
  let y := m * 2 ^ 64 / 2 ^ k
  { n := ((k : Int) + e) * ((2 ^ 50 : Nat) : Int) + log2Bits 50 y 0, q := -50, err := 4 }

/-- sin(π r) for r = t / 2^64 in [0, 2). -/
def sinPi (t : Nat) : Int :=
  let half := fun t : Nat => if 2 * t ≤ one64 then t else one64 - t
  let body := fun t : Nat => series (half t * piFix / one64) fun k => if k % 4 = 1 then 1 else if k % 4 = 3 then -1 else 0
  if t < one64 then body t else -(body (t - one64))

/-- |x| modulo 2, in units of 2^−64. -/
def mod2Fix (m : Nat) (e : Int) : Nat :=
  if 0 ≤ e then (m * 2 ^ e.toNat % 2) * one64
  else toFix (m % 2 ^ (1 + (-e).toNat)) e

def enclSin (neg : Bool) (m : Nat) (e : Int) : Encl :=
  let v := sinPi (mod2Fix m e)
  { n := if neg then -v else v, q := -64, err := 256 }
def enclCos (m : Nat) (e : Int) : Encl :=
  { n := sinPi ((mod2Fix m e + one64 / 2) % (2 * one64)), q := -64, err := 256 }

/-- tanh |x| = 1 − 2 / (e^(2|x|) + 1), for |x| < 10. -/
def enclTanh (neg : Bool) (m : Nat) (e : Int) : Encl :=
  let u := 2 * toFix m e * log2eFix / one64
  let E := (exp2Fix (u % one64)).toNat * 2 ^ (u / one64)
  let v : Int := (one64 : Int) - ((2 * one64 * one64 / (E + one64) : Nat) : Int)
  { n := if neg then -v else v, q := -64, err := 4096 }

/-- 1 / x and 1 / √x for x = m × 2^e, m > 0. -/
def enclRcp (neg : Bool) (m : Nat) (e : Int) : Encl :=
  let v : Int := ((2 ^ (Nat.log2 m + 100) / m : Nat) : Int)
  { n := if neg then -v else v, q := -e - ((Nat.log2 m + 100 : Nat) : Int), err := 1 }
def enclRsq (m : Nat) (e : Int) : Encl :=
  let m' := if e % 2 = 0 then m else 2 * m
  let e' := if e % 2 = 0 then e else e - 1
  let k := Nat.log2 m' / 2 + 100
  let M := 2 ^ (2 * k) / m'
  { n := ((isqrt M (Nat.log2 M / 2 + 1) 0 : Nat) : Int), q := -(e' / 2) - (k : Int), err := 2 }

/-! ### The instructions of R193 on one code -/

/-- The exponent of an exact power of two. -/
def pow2Exp (m : Nat) (e : Int) : Option Int := if m = 2 ^ Nat.log2 m then some ((Nat.log2 m : Int) + e) else none

/-- x is a whole number; x + 1/2 is. -/
def isWhole (m : Nat) (e : Int) : Bool := decide (0 ≤ e) || m % 2 ^ (-e).toNat == 0
def isHalf (m : Nat) (e : Int) : Bool := decide (e < 0) && m % 2 ^ (-e).toNat == 2 ^ ((-e).toNat - 1)
/-- floor |x| is odd. -/
def floorOdd (m : Nat) (e : Int) : Bool := (if 0 ≤ e then m * 2 ^ e.toNat else m / 2 ^ (-e).toNat) % 2 == 1

/-- NaN in: the default NaN, invalid for a signalling one. -/
def approxNan (F : Fmt) (sig : Bool) : Nat × Fl := (F.nanCode, Fl.when sig Fl.invalid)
/-- An exact power of two, where the format holds it. -/
def exactPow (F : Fmt) (neg : Bool) (k : Int) : Option (Nat × Fl) :=
  let r := F.round .rne false false neg 1 1 k
  if r.2 = 0 then some r else none

def approxRcp (F : Fmt) (op xc : Nat) (b : Bound) : Nat × Fl :=
  match F.decode xc with
  | .nan sg => approxNan F sg
  | .inf s => (F.signBit s, 0)
  | .fin s m e =>
    if m = 0 then (F.infCode s, Fl.divZero)
    else
      match (pow2Exp m e).bind fun k => exactPow F s (-k) with
      | some r => r
      | none => approxOf F op xc b (enclRcp s m e)

def approxRsq (F : Fmt) (op xc : Nat) (b : Bound) : Nat × Fl :=
  match F.decode xc with
  | .nan sg => approxNan F sg
  | .inf s => if s then (F.nanCode, Fl.invalid) else (F.signBit false, 0)
  | .fin s m e =>
    if m = 0 then (F.infCode s, Fl.divZero)
    else if s then (F.nanCode, Fl.invalid)
    else
      match (pow2Exp m e).bind fun k => if k % 2 = 0 then exactPow F false (-(k / 2)) else none with
      | some r => r
      | none => approxOf F op xc b (enclRsq m e)

def approxExp2 (F : Fmt) (op xc : Nat) : Nat × Fl :=
  match F.decode xc with
  | .nan sg => approxNan F sg
  | .inf s => if s then (F.signBit false, 0) else (F.infCode false, 0)
  | .fin s m e =>
    if !s && decide (128 ≤ (if 0 ≤ e then m * 2 ^ e.toNat else m / 2 ^ (-e).toNat)) then (F.infCode false, Fl.overflow ||| Fl.inexact)
    else if s && decide (1000 ≤ (if 0 ≤ e then m * 2 ^ e.toNat else m / 2 ^ (-e).toNat)) then approxOf F op xc (.ulp 2) { n := 0, q := -1000, err := 1 }
    else
      let whole : Option Int := if isWhole m e then some (if s then -((toFix m e / one64 : Nat) : Int) else ((toFix m e / one64 : Nat) : Int)) else none
      match whole.bind fun k => exactPow F false k with
      | some r => r
      | none => approxOf F op xc (.ulp 2) (enclExp2 s m e)

def approxLog2 (F : Fmt) (op xc : Nat) : Nat × Fl :=
  match F.decode xc with
  | .nan sg => approxNan F sg
  | .inf s => if s then (F.nanCode, Fl.invalid) else (F.infCode false, 0)
  | .fin s m e =>
    if m = 0 then (F.infCode true, Fl.divZero)
    else if s then (F.nanCode, Fl.invalid)
    else
      match pow2Exp m e with
      | some k => F.round .rne false false (decide (k < 0)) k.natAbs 1 0
      | none =>
        let E := enclLog2 m e
        approxOf F op xc (if E.n.natAbs ≤ 2 ^ 50 then .either else .ulp 2) E

/-- ±1. -/
def plusOne (F : Fmt) (neg : Bool) : Nat := (F.round .rne false false neg 1 1 0).1

def approxSin (F : Fmt) (op xc : Nat) : Nat × Fl :=
  match F.decode xc with
  | .nan sg => approxNan F sg
  | .inf _ => (F.nanCode, Fl.invalid)
  | .fin s m e =>
    if isWhole m e then (F.signBit s, 0)
    else if isHalf m e then (plusOne F (s != floorOdd m e), 0)
    else approxOf F op xc .abs (enclSin s m e)

def approxCos (F : Fmt) (op xc : Nat) : Nat × Fl :=
  match F.decode xc with
  | .nan sg => approxNan F sg
  | .inf _ => (F.nanCode, Fl.invalid)
  | .fin _ m e =>
    if isWhole m e then (plusOne F (floorOdd m e), 0)
    else if isHalf m e then (F.signBit false, 0)
    else approxOf F op xc .abs (enclCos m e)

def approxTanh (F : Fmt) (op xc : Nat) : Nat × Fl :=
  match F.decode xc with
  | .nan sg => approxNan F sg
  | .inf s => (plusOne F s, 0)
  | .fin s m e =>
    if m = 0 then (F.signBit s, 0)
    else if 91 * 2 ^ (-e).toNat ≤ 10 * m * 2 ^ e.toNat then (plusOne F s, 0)
    else approxOf F op xc .abs (enclTanh s m e)

/-- A 16-bit element: computed as an FP32 approximation, then rounded RNE to the element format, flushed where ftz16 says so. -/
def approxNarrow (F : Fmt) (ftz : Bool) (f : Nat → Nat × Fl) (code : Nat) : Nat × Fl :=
  let v := F.decode code
  let x := Fmt.f32.ofNum .rne false false v
  let r := if v.isNan then (F.nanCode, Fl.when v.isSnan Fl.invalid)
    else
      let a := f x.1
      let b := F.ofNum .rne false ftz (Fmt.f32.decode a.1)
      (b.1, a.2 ||| b.2)
  r

end Sys2Proof.Machine
end

