-- ==== Sys2Proof/Machine/Forms.lean ====
section
/-! DEFINITION. What check 5 of R106 asks of an instruction as written (R82, R86–R90, R94–R101): for every constructor the registers
it names, in the order of R499, and whether its fields are admitted. Groups 0x0 to 0x6; the engines' forms stand in their own file. -/
namespace Sys2Proof.Machine

/-- A register operand an instruction reads or writes: the 32-bit registers of its group per lane, and what its base must be a
multiple of (R89: a pair and a quadruple are aligned). -/
structure Use where
  o  : Opnd
  n  : Nat
  wr : Bool
  al : Nat := if n = 2 then 2 else if n = 4 then 4 else 1
deriving DecidableEq, Repr

/-- The form of an instruction: whether its fields are admitted, whether a space code is at fault (trap 0x0B), the registers it
names, whether it has a register destination, whether its result is wider than 64 bits per lane, whether it admits keep (R82). -/
structure Form where
  ok     : Bool
  spaceOk : Bool
  uses   : List Use
  wide   : Bool
  keepOk : Bool
deriving DecidableEq, Repr

def Form.of (ok : Bool) (uses : List Use) : Form := { ok := ok, spaceOk := true, uses := uses, wide := false, keepOk := false }

end Sys2Proof.Machine

namespace Sys2Proof
def Opnd.isV : Opnd → Bool | .v _ => true | _ => false
def Opnd.isX : Opnd → Bool | .x _ _ => true | _ => false
def Opnd.isVec : Opnd → Bool | .v _ => true | .x _ _ => true | _ => false
def Opnd.isScal : Opnd → Bool | .s _ _ => true | _ => false
def Opnd.isLat : Opnd → Bool | .l _ _ => true | _ => false
def Opnd.isImm : Opnd → Bool | .imm _ => true | _ => false
/-- The field is zero (R86): thirteen zero bits are the specifier of v0. -/
def Opnd.isZero (o : Opnd) : Bool := o == .v 0
def NegAbs.isZero (n : NegAbs) : Bool := !n.neg && !n.abs
/-- The value of an inline specifier. -/
def Opnd.immVal : Opnd → Int | .imm i => i.toInt | _ => 0
/-- s127, which reads zero and stands for no operand (R224). -/
def Opnd.s127 : Opnd := .s 0 127
end Sys2Proof

namespace Sys2Proof.Machine

/-- A specifier is legal where it stands (R87, R89): an indexed operand's base is checked in each lane, at issue. -/
def Use.ok (u : Use) : Bool :=
  match u.o with
  | .v n => decide (n.toNat < 1536) && n.toNat % u.al == 0
  | .s hi _ => hi == 0
  | .l hi _ => hi == 0 && !u.wr
  | .x _ _ => true
  | .imm _ => !u.wr

/-- The header's own limits (R82). -/
def Form.headerOk (F : Form) (h : Hdr) : Bool :=
  let dest := F.uses.any Use.wr
  (!h.keep || F.keepOk) && (!(h.lat || h.nowb) || dest) && (!h.lat || !F.wide)

/-- The trap check 5 takes on the word alone: 0x0B for a space code, 0x03 for any other field; none when it is admitted. That the space
comes first is DEDUCED (notes/assumptions/22.md). -/
def Form.trap (F : Form) (h : Hdr) : Option Nat :=
  if !F.spaceOk then some 0x0B
  else if !(F.ok && F.headerOk h && F.uses.all Use.ok) then some 0x03
  else none

/-! ### Formats A and I under one view (R84) -/

/-- A format A or format I instruction: in the I form `b` is absent and `imm` stands in its place, and `c` is the destination. -/
structure Alu where
  h   : Hdr
  d   : Opnd
  a   : Opnd
  b   : Opnd
  c   : Opnd
  imm : Option W32
  ty  : Ty
  rnd : RndField
  sat : Bool
  na  : NegAbs
  nb  : NegAbs
  nc  : NegAbs
  fn  : Nat
deriving DecidableEq, Repr

def Alu.ofA (h : Hdr) (f : FmtA) : Alu :=
  { h := h, d := f.d, a := f.a, b := f.b, c := f.c, imm := none, ty := f.ty, rnd := f.rnd, sat := f.sat,
    na := f.na, nb := f.nb, nc := f.nc, fn := f.fn.toNat }
def Alu.ofI (h : Hdr) (f : FmtI) : Alu :=
  { h := h, d := f.d, a := f.a, b := .v 0, c := f.d, imm := some f.imm, ty := f.ty, rnd := f.rnd, sat := f.sat,
    na := f.na, nb := ⟨false, false⟩, nc := ⟨false, false⟩, fn := f.fn.toNat }

/-- A source read in a type: a legal inline integer converts exactly (R88). -/
def srcOk (t : Ty) (o : Opnd) : Bool :=
  match o with
  | .imm i => (inlineValue t i).isSome
  | _ => true

def useOf (t : Ty) (o : Opnd) (wr : Bool) : Use := { o := o, n := if o.isVec then t.words else 1, wr := wr }

/-- The rounding field of an instruction that rounds (R100) or does not (R101). -/
def rndOk (rounds : Bool) (r : RndField) : Bool :=
  match r with
  | .rne => true
  | .bad6 => false
  | .bad7 => false
  | _ => rounds

/-- What an instruction of formats A and I admits: its types, the type each source is read in (none: not read), the destination's
type (none: no destination), neg/abs per source, rounding, saturate, function bits. `partialD`: it also reads its destination. -/
structure AluSpec where
  types : List Ty
  ta : Option Ty
  tb : Option Ty
  tc : Option Ty
  td : Option Ty
  na : Bool
  nb : Bool
  nc : Bool
  rounds : Bool
  sat : Bool
  fnOk : Bool
  partialD : Bool
  /-- a scalar destination is admitted when no source is a vector (R174) -/
  scal : Bool
deriving DecidableEq, Repr

/-- One source: a read one fits its type, its neg/abs bits are admitted (R95, R177); an unread one is zero (R86). -/
def sourceOk (ty : Ty) (t : Option Ty) (admits : Bool) (o : Opnd) (n : NegAbs) : Bool :=
  match t with
  | some t => srcOk t o && (n.isZero || (admits && !ty.isUnsigned))
  | none => o.isZero && n.isZero

def optUse (t : Option Ty) (o : Opnd) (wr : Bool) : List Use :=
  match t with
  | some t => [useOf t o wr]
  | none => []

def Alu.form (x : Alu) (p : AluSpec) : Form :=
  let bOk := match x.imm with
    | some _ => p.tb.isSome
    | none => sourceOk x.ty p.tb p.nb x.b x.nb
  let cOk := match x.imm with
    | some _ => true
    | none => sourceOk x.ty p.tc p.nc x.c x.nc
  let uses := optUse p.ta x.a false
    ++ (match x.imm with | some _ => [] | none => optUse p.tb x.b false)
    ++ optUse p.tc x.c false
    ++ (if p.partialD then optUse p.td x.d false else [])
  let vecSrc := uses.any fun u => u.o.isVec
  let dOk := match p.td with
    | none => x.d.isZero
    | some _ => x.d.isVec || (x.d.isScal && p.scal && !vecSrc)
  Form.of (p.types.contains x.ty && rndOk p.rounds x.rnd && (!x.sat || p.sat) && p.fnOk
      && sourceOk x.ty p.ta p.na x.a x.na && bOk && cOk && dOk)
    (uses ++ optUse p.td x.d true)

/-! ### Group 0x0 (R137, R138, R438, R440) -/

/-- Header bits [81:76] are zero (R137). -/
def ctlHeader (h : Hdr) : Bool := !h.keep && !h.lat && h.latch == 0 && !h.nowb
/-- The guard is p0 without negation. -/
def plainGuard (h : Hdr) : Bool := h.pred == 0 && !h.neg

/-- A control form: which fields it uses, its operand's uses, and what its modifier bits must be. -/
def ctlForm (h : Hdr) (f : FmtC) (target rpc : Bool) (operand : Option (List Use)) (modOk : Bool) : Form :=
  Form.of (ctlHeader h && (target || f.tdisp == 0) && (rpc || f.rdisp == 0)
      && (operand.isSome || f.a.isZero) && modOk) (operand.getD [])

/-- The type code of BRC in [11:8] (R137). -/
def brcType (m : BitVec 15) : Option Ty :=
  let c := m.toNat / 256 % 16
  if c = 0 then some .i32 else if c = 1 then some .n32 else if c = 2 then some .i64 else if c = 3 then some .n64
  else if c = 8 then some .f32 else if c = 11 then some .f64 else none

def formBrc (h : Hdr) (f : FmtC) : Form :=
  match brcType f.m with
  | none => ctlForm h f true true (some []) false
  | some t => ctlForm h f true true (some [useOf t f.a false]) (decide (f.m.toNat / 4096 < 6) && f.m.toNat % 256 == 0 && srcOk t f.a)

/-- A 64-bit PC source: a scalar, a latch or an even vector pair (R142). -/
def pcSource (o : Opnd) : Bool := o.isScal || o.isLat || o.isVec
def formBrx (h : Hdr) (f : FmtC) : Form :=
  ctlForm h f false true (some [useOf .n64 f.a false]) (f.m == 0 && pcSource f.a)
/-- The link register of CALL and CALLX is n in [6:0], with [14:7] zero (R137). -/
def linkUse (m : BitVec 15) : Use := { o := .s 0 (m.setWidth 7), n := 1, wr := true }
def formCall (h : Hdr) (f : FmtC) : Form := ctlForm h f true false (some [linkUse f.m]) (f.a.isZero && decide (f.m.toNat < 128))
def formCallx (h : Hdr) (f : FmtC) : Form :=
  ctlForm h f false false (some [useOf .n64 f.a false, linkUse f.m]) (pcSource f.a && decide (f.m.toNat < 128))
def formRet (h : Hdr) (f : FmtC) : Form := ctlForm h f false false (some [useOf .n64 f.a false]) (f.m == 0 && f.a.isScal)
def formLoop (h : Hdr) (f : FmtC) : Form :=
  ctlForm h f true true (some [useOf .n32 f.a false, useOf .n32 f.a true]) (f.m == 0 && (f.a.isScal || f.a.isVec))
def formPlain (h : Hdr) (f : FmtC) : Form := ctlForm h f false false none (f.m == 0)
def formBra (h : Hdr) (f : FmtC) : Form := ctlForm h f true true none (f.m == 0)
def formReconv (h : Hdr) (f : FmtC) : Form := ctlForm h f false false none (f.m == 0 && plainGuard h)
def formRegion (h : Hdr) (f : FmtC) : Form := ctlForm h f false false none (!f.m.getLsbD 14 && plainGuard h)
/-- SIGCK holds imm32 in [75:44] (R440): all of tdisp and the top byte of rdisp. -/
def formSigck (h : Hdr) (f : FmtC) : Form :=
  Form.of (ctlHeader h && plainGuard h && f.rdisp.toNat % 2 ^ 16 == 0 && f.a.isZero && decide (f.m.toNat < 2)) []
def formBkpt (h : Hdr) (f : FmtC) : Form := ctlForm h f false false none (decide (f.m.toNat < 256))

/-! ### Group 0x1 (R178) -/

def tyAll : List Ty := [.i32, .n32, .i64, .n64, .i16x2, .n16x2, .i8x4, .n8x4]
def tyWide : List Ty := [.i32, .n32, .i64, .n64]
def tySigned : List Ty := [.i32, .i64, .i16x2, .i8x4]

/-- The usual integer form: `n` sources read in the type of the instruction, the result in it too. -/
def intSpec (x : Alu) (types : List Ty) (n : Nat) (sat na : Bool) : AluSpec :=
  { types := types, ta := some x.ty, tb := if 2 ≤ n then some x.ty else none, tc := if 3 ≤ n then some x.ty else none,
    td := some x.ty, na := na, nb := na, nc := na, rounds := false, sat := sat, fnOk := x.fn == 0, partialD := false, scal := true }

def specArith2 (x : Alu) : AluSpec := (intSpec x tyAll 2 true true)
def formArith2 (x : Alu) : Form := x.form (specArith2 x)
def specArith3 (x : Alu) : AluSpec := (intSpec x tyAll 3 true true)
def formArith3 (x : Alu) : Form := x.form (specArith3 x)
def specMinMax (x : Alu) : AluSpec := (intSpec x tyAll 2 false true)
def formMinMax (x : Alu) : Form := x.form (specMinMax x)
def specClamp (x : Alu) : AluSpec := (intSpec x tyAll 3 false true)
def formClamp (x : Alu) : Form := x.form (specClamp x)
def specImulh (x : Alu) : AluSpec := (intSpec x tyWide 2 false false)
def formImulh (x : Alu) : Form := x.form (specImulh x)
/-- IMADW's c and d are 64 bits wide (R180). -/
def wideOf (t : Ty) : Ty := if t.isUnsigned then .n64 else .i64
def specImadw (x : Alu) : AluSpec :=
  { intSpec x [.i32, .n32] 3 false false with tc := some (wideOf x.ty), td := some (wideOf x.ty) }
def formImadw (x : Alu) : Form := x.form (specImadw x)
def specUnary (x : Alu) : AluSpec := (intSpec x tySigned 1 true false)
def formUnary (x : Alu) : Form := x.form (specUnary x)
/-- A count or selector is read as .n32 whatever the type (R172, R181, R183). -/
def specShift (x : Alu) : AluSpec := { intSpec x tyWide 2 false false with tb := some .n32 }
def formShift (x : Alu) : Form := x.form (specShift x)
def specTril (x : Alu) : AluSpec := { intSpec x tyWide 3 false false with fnOk := decide (x.fn < 256) }
def formTril (x : Alu) : Form := x.form (specTril x)
def specLogic2 (x : Alu) : AluSpec := (intSpec x tyWide 2 false false)
def formLogic2 (x : Alu) : Form := x.form (specLogic2 x)
def specLogic1 (x : Alu) : AluSpec := (intSpec x tyWide 1 false false)
def formLogic1 (x : Alu) : Form := x.form (specLogic1 x)
/-- POPC and CLZ write a single 32-bit register (R182). -/
def specCount (x : Alu) : AluSpec := { intSpec x tyWide 1 false false with td := some .n32 }
def formCount (x : Alu) : Form := x.form (specCount x)
def formBfe (x : Alu) : Form := formShift x
def specBfi (x : Alu) : AluSpec := { intSpec x tyWide 3 false false with tb := some .n32 }
def formBfi (x : Alu) : Form := x.form (specBfi x)
def specIcmp (x : Alu) : AluSpec :=
  { intSpec x tyAll 2 false true with
    td := if x.fn.testBit 6 then some (if x.ty.words = 2 then .n32 else x.ty) else none,
    fnOk := decide (x.fn < 128) && x.fn / 8 % 8 != 0 && decide (x.fn % 8 < 6) }
def formIcmp (x : Alu) : Form := x.form (specIcmp x)
def specSel (x : Alu) : AluSpec := { intSpec x tyWide 2 false false with fnOk := decide (x.fn < 16) }
def formSel (x : Alu) : Form := x.form (specSel x)
/-- MOV reads srcA; its I form writes imm32, and srcA must be zero (R84, R185). -/
def specMov (x : Alu) : AluSpec :=
  match x.imm with
  | none => intSpec x tyWide 1 false false
  | some _ => { intSpec x tyWide 2 false false with ta := none }
def formMov (x : Alu) : Form := x.form (specMov x)
/-- LEA's a and d are 64 bits wide, b is read by the type (R186). -/
def specLea (x : Alu) : AluSpec :=
  { intSpec x tyWide 2 false false with ta := some .i64, td := some .i64, fnOk := decide (x.fn < 13) }
def formLea (x : Alu) : Form := x.form (specLea x)


/-! ### Groups 0x2 and 0x3 (R187) -/
def tyF : List Ty := [.f32, .f16x2, .bf16x2]
def tyD : List Ty := [.f64]

def fpSpec (x : Alu) (types : List Ty) (n : Nat) (rounds sat : Bool) : AluSpec :=
  { intSpec x types n sat true with rounds := rounds, scal := false }
def specFp (types : List Ty) (n : Nat) (rounds sat : Bool) (x : Alu) : AluSpec := (fpSpec x types n rounds sat)
def formFp (types : List Ty) (n : Nat) (rounds sat : Bool) (x : Alu) : Form := x.form (specFp types n rounds sat x)
def specFcmp (types : List Ty) (x : Alu) : AluSpec :=
  { fpSpec x types 2 false false with
    td := if x.fn.testBit 7 then some (if x.ty.words = 2 then .n32 else x.ty) else none,
    fnOk := decide (x.fn < 256) && x.fn / 16 % 8 != 0 && decide (x.fn % 16 < 8) }
def formFcmp (types : List Ty) (x : Alu) : Form := x.form (specFcmp types x)
def specFclass (types : List Ty) (x : Alu) : AluSpec :=
  { fpSpec x types 1 false false with td := some .n32 }
def formFclass (types : List Ty) (x : Alu) : Form := x.form (specFclass types x)
/-- The scale count is .i32 and takes no neg/abs (R187, R188). -/
def specFscale (types : List Ty) (x : Alu) : AluSpec :=
  { fpSpec x types 2 true true with tb := some .i32, nb := false }
def formFscale (types : List Ty) (x : Alu) : Form := x.form (specFscale types x)
/-- FDOT2 reads c and writes d as FP32 (R188). -/
def specFdot2 (x : Alu) : AluSpec :=
  { fpSpec x [.f16x2, .bf16x2] 3 true true with tc := some .f32, td := some .f32 }
def formFdot2 (x : Alu) : Form := x.form (specFdot2 x)


/-! ### Group 0x4 (R195–R204) -/
def tyAny : List Ty := [.i32, .n32, .i64, .n64, .i16x2, .n16x2, .i8x4, .n8x4, .f32, .f16x2, .bf16x2, .f64, .e4m3x4, .e5m2x4, .e2m1x8, .bp8x4]
/-- The type of a four-bit code (R99). -/
def tyOfCode (n : Nat) : Ty := tyAny.getD (n % 16) .i32

def cvSpec (x : Alu) (types : List Ty) (n : Nat) (rounds sat : Bool) : AluSpec :=
  { intSpec x types n sat false with rounds := rounds, scal := false }

def specCvt (x : Alu) : AluSpec :=
  let t := tyOfCode x.fn
  let se := x.fn / 16 % 8
  let de := x.fn / 128 % 8
  { cvSpec x tyAny 1 true true with
    td := some t, fnOk := decide (se < x.ty.count) && decide (de < t.count), partialD := decide (1 < t.count) }
def formCvt (x : Alu) : Form := x.form (specCvt x)
def specCvtp (x : Alu) : AluSpec :=
  let t := tyOfCode x.fn
  let q := x.fn / 16 % 4
  { cvSpec x [.i32, .n32, .i64, .n64, .f32, .f64] 2 true true with
    td := some t, fnOk := decide (x.fn < 64) && decide (1 < t.count) && decide (2 * q + 1 < t.count), partialD := decide (2 < t.count) }
def formCvtp (x : Alu) : Form := x.form (specCvtp x)
def specCvtq (x : Alu) : AluSpec :=
  let t := tyOfCode x.fn
  { cvSpec x [.f32] 1 true false with
    td := some .n32, fnOk := decide (x.fn < 16) && [Ty.i8x4, .e4m3x4, .e5m2x4, .e2m1x8].contains t }
def formCvtq (x : Alu) : Form := x.form (specCvtq x)
def specDeq (x : Alu) : AluSpec :=
  { cvSpec x [.i8x4, .e4m3x4, .e5m2x4, .e2m1x8, .bp8x4] 2 true false with
    tb := some .n32, td := some .f32, fnOk := decide (x.fn < x.ty.count) }
def formDeq (x : Alu) : Form := x.form (specDeq x)
def specBppack (x : Alu) : AluSpec :=
  { cvSpec x [.n32] 2 false false with td := some .n64, fnOk := decide (x.fn < 3) }
def formBppack (x : Alu) : Form := x.form (specBppack x)
def planes (x : Alu) : Nat := 2 ^ (x.fn % 4)
def specBpunp (x : Alu) : AluSpec :=
  { cvSpec x [.i32, .n32] 1 false false with
    ta := some .n64, fnOk := decide (x.fn < 32) && decide (x.fn % 4 < 3) && decide (x.fn / 8 % 4 < planes x) }
def formBpunp (x : Alu) : Form := x.form (specBpunp x)
def tyB8 : List Ty := [.f32, .f64, .f16x2, .bf16x2]
/-- Function bits of B8DEC and B8ENC (R202): byte k, or a half h below two for a 16-bit type. -/
def b8FnOk (x : Alu) : Bool := decide (x.fn < if x.ty.count = 2 then 2 else 4)
def specB8dec (x : Alu) : AluSpec :=
  { cvSpec x tyB8 1 false false with ta := some .bp8x4, fnOk := b8FnOk x }
def formB8dec (x : Alu) : Form := x.form (specB8dec x)
def specB8enc (x : Alu) : AluSpec :=
  { cvSpec x tyB8 1 false false with td := some .bp8x4, fnOk := b8FnOk x, partialD := true }
/-- The rounding and saturate fields of B8ENC are ignored (R195). -/
def formB8enc (x : Alu) : Form := { x with rnd := RndField.rne, sat := false }.form (specB8enc x)
def specBmux (x : Alu) : AluSpec := (cvSpec x [.n32] 3 false false)
def formBmux (x : Alu) : Form := x.form (specBmux x)
/-- PACK's element width (R199). -/
def packWidth (x : Alu) : Nat := 4 * 2 ^ (x.fn / 4 % 4)
/-- What PACK packs is a word (R199): into a latch or a scalar it goes zero-extended (R173; DESIGN CHOICE, notes/assumptions/130.md). -/
def specPack (x : Alu) : AluSpec :=
  { cvSpec x [.i32, .n32] 2 false true with
    td := some .n32, partialD := decide (packWidth x < 16),
    fnOk := decide (x.fn < 16) && decide (x.fn / 4 < 3) && decide (packWidth x * (2 * (x.fn % 4) + 2) ≤ 32) }
def formPack (x : Alu) : Form := x.form (specPack x)
/-! ### Group 0x5 (R205) -/

def laneSpec (types : List Ty) (a b : Option Ty) (d : Option Ty) (fnOk : Bool) : AluSpec :=
  { types := types, ta := a, tb := b, tc := none, td := d, na := false, nb := false, nc := false, rounds := false, sat := false,
    fnOk := fnOk, partialD := false, scal := false }

/-- The form with scalar destinations admitted or not, whatever the sources (R205's dst column). -/
def laneForm (x : Alu) (p : AluSpec) (scalOk : Bool) : Form :=
  let F := x.form { p with scal := true }
  let G := x.form p
  let H := { x with d := .v 0 }.form { p with scal := true }
  if x.d.isScal then { F with ok := H.ok && scalOk } else G

def tyN : List Ty := [.n32, .n64]
/-- An inline operand within a range (R205). -/
def inlineIn (lo hi : Int) (o : Opnd) : Bool := o.isImm && decide (lo ≤ o.immVal) && decide (o.immVal ≤ hi)
/-- A source read as a count: scalar or inline. -/
def scalOrImm (o : Opnd) : Bool := o.isScal || o.isImm

def formPlop (x : Alu) : Form :=
  let ok := x.d.isZero && inlineIn 0 7 x.a && inlineIn 0 255 x.b && x.c.isZero && x.ty == .i32 && rndOk false x.rnd && !x.sat
    && x.na.isZero && x.nb.isZero && x.nc.isZero && decide (x.fn < 512) && x.fn / 64 % 8 != 0
  Form.of ok []
/-- PMOV (R210): a mask written inline is read as .n32 (DESIGN CHOICE, notes/assumptions/21.md). -/
def formPmov (x : Alu) : Form :=
  if x.fn.testBit 9 then x.form (laneSpec [.i32] (some .n32) none none (x.fn.testBit 0 == false && x.fn.testBit 8 == false))
  else x.form (laneSpec [.i32] none none (some .n32) (x.fn == 0))
def formPoll (x : Alu) : Form :=
  let mode := x.fn / 128
  let pd := x.fn / 16 % 8
  if mode < 4 then x.form (laneSpec [.i32] none none none (pd != 0))
  else laneForm x (laneSpec [.i32] none none (some .n32) (decide (mode < 6) && pd == 0)) true
def formXlane (x : Alu) : Form :=
  x.form (laneSpec tyN (some x.ty) (some .n32) (some x.ty) (decide (x.fn < 64) && decide (x.fn / 4 % 16 < 9)))
/-- The lane operand of XLANE `.off` is signed (R212). -/
def formXlaneOff (x : Alu) : Form :=
  if x.fn % 4 = 1 then
    x.form (laneSpec tyN (some x.ty) (some .i32) (some x.ty) (decide (x.fn < 64) && decide (x.fn / 4 % 16 < 9)))
  else formXlane x
def foldOk (x : Alu) (scan : Bool) : Bool :=
  let op := x.fn % 8
  decide (x.fn < 256) && (scan || !x.fn.testBit 7) && decide (op < 6) && decide (x.fn / 8 % 16 < 9) && !(x.ty.isFloat && decide (3 ≤ op))
def tyFold : List Ty := [.i32, .n32, .i64, .n64, .f32, .f64]
def formRedq (x : Alu) : Form :=
  laneForm x { laneSpec tyFold (some x.ty) none (some x.ty) (foldOk x false) with rounds := x.ty.isFloat } (x.fn / 8 % 16 == 0)
def formScanq (x : Alu) : Form :=
  x.form { laneSpec tyFold (some x.ty) none (some x.ty) (foldOk x true) with rounds := x.ty.isFloat }
def formMatch (x : Alu) : Form := x.form (laneSpec tyN (some x.ty) none (some .n32) (decide (x.fn < 8)))
/-- SREAD: listed numbers; the lane index is no scalar (R216). -/
def formSread (x : Alu) : Form :=
  laneForm x (laneSpec tyN none none (some x.ty) (decide (x.fn < 0x17))) (x.fn != 0)
def formSwrite (x : Alu) : Form :=
  x.form (laneSpec [.i32] (some .i64) none none ((x.fn == 0x12 || x.fn == 0x13) && !x.a.isVec))
def formXreg (x : Alu) : Form := x.form (laneSpec [.i32] (some .i32) none none (decide (x.fn < 4)))
def formClaim (x : Alu) : Form := x.form (laneSpec [.i32] (some .n32) none none (x.fn == 0 && scalOrImm x.a))
def formMaskrd (x : Alu) : Form :=
  let w := x.fn / 4 % 8
  laneForm x (laneSpec [.i32] none none (some .n32)
    (decide (x.fn < 32) && (x.d.isScal || w == 0) && !(x.fn % 4 == 3 && w != 0))) true
def formPad (x : Alu) : Form := x.form (laneSpec [.i32] none none none (decide (x.fn < 256)))
def formUbcast (x : Alu) : Form := laneForm x (laneSpec tyN (some x.ty) none (some x.ty) (x.fn == 0)) true

/-! ### Group 0x6 (R224, R226, R250, R255) -/

def Wd (w : Width) : Nat := match w with | .w8 => 1 | .w16 => 2 | .w32 => 4 | .w64 => 8 | .w128 => 16 | _ => 0
def spaceCode (s : Space) : Nat := match s with | .gen => 0 | .cspad => 1 | .sspad => 2 | .dspad => 3 | .lpriv => 4 | .bad5 => 5 | .bad6 => 6 | .bad7 => 7
def scopeCode (s : Scope) : Nat := match s with | .quire => 0 | .gath => 1 | .span => 2 | .die => 3 | .dev => 4 | .sys => 5 | .bad6 => 6 | .bad7 => 7
/-- Registers of a vector datum of a width. -/
def widthRegs (w : Width) : Nat := match w with | .w64 => 2 | .w128 => 4 | _ => 1
def hintOf (f : FmtM) : Nat := f.sel.toNat / 2
def sxOf (f : FmtM) : Bool := f.sel.getLsbD 0

/-- Base and index specifiers by space (R224, R226), or of an instruction that executes once per quire (R254, R255). -/
def baseOk (f : FmtM) (once : Bool) : Bool :=
  if once || f.space == .lpriv then f.base.isScal || f.base.isLat
  else f.base.isScal || f.base.isLat || f.base.isV
def indexOk (f : FmtM) (once : Bool) : Bool := if once then scalOrImm f.index else true
def baseUse (f : FmtM) : Use := { o := f.base, n := if f.space == .gen && f.base.isV then 2 else 1, wr := false }
def indexUse (f : FmtM) : Use := { o := f.index, n := 1, wr := false }

/-- A memory form: widths below a bound, spaces below a bound, scopes, hints, sign-extension, the datum's use. -/
def memForm (f : FmtM) (maxBytes spaces : Nat) (anyScope : Bool) (hints : List Nat) (load : Bool) (once : Bool) (data : List Use) (dataOk : Bool) : Form :=
  let sx := sxOf f
  let ok := decide (Wd f.width ≤ maxBytes) && Wd f.width != 0
    && (if anyScope then decide (scopeCode f.scope < 6) else f.scope == .quire)
    && hints.contains (hintOf f) && (f.space == .gen || hintOf f == 0)
    && (!sx || (load && decide (Wd f.width ≤ 4)))
    && baseOk f once && indexOk f once && dataOk
  { ok := ok, spaceOk := decide (spaceCode f.space < spaces), uses := [baseUse f, indexUse f] ++ data,
    wide := f.width == .w128, keepOk := false }

def datumUse (f : FmtM) (wr : Bool) : Use := { o := f.data, n := if f.data.isVec then widthRegs f.width else 1, wr := wr }
/-- A store datum: w128 only from a vector group (R250). -/
def storeDatumOk (f : FmtM) : Bool := f.data.isVec || f.width != .w128

def formLd (f : FmtM) : Form := memForm f 16 5 false [0, 1, 2, 3, 4] true false [datumUse f true] f.data.isVec
def formSt (f : FmtM) : Form := memForm f 16 5 false [0, 1, 2, 3, 4] false false [datumUse f false] (storeDatumOk f)
def formLdro (f : FmtM) : Form := memForm f 16 1 false [0, 1, 2] true false [datumUse f true] f.data.isVec
def formPref (f : FmtM) : Form := memForm f 1 1 false [0, 3] false false [] f.data.isZero
def formCinv (f : FmtM) : Form := memForm f 1 1 false [0, 1] false true [datumUse f false] (scalOrImm f.data && srcOk .n32 f.data)
def formLds (f : FmtM) : Form := memForm f 8 4 false [0, 1, 2, 3, 4] true true [datumUse f true] f.data.isScal
def formSts (f : FmtM) : Form := memForm f 8 4 false [0, 1, 2, 3, 4] false true [datumUse f false] (!f.data.isVec)
/-- LDACQ into a scalar executes once per quire (R256). -/
def formLdacq (f : FmtM) : Form := memForm f 8 4 true [0] true f.data.isScal [datumUse f true] (f.data.isVec || f.data.isScal)
def formStrel (f : FmtM) : Form := memForm f 8 4 true [0] false false [datumUse f false] true

end Sys2Proof.Machine
end

