-- ==== Sys2Proof/Machine/FormsE.lean ====
section
/-! DEFINITION. What check 5 of R106 asks of the groups 0x7 to 0xF (R261, R275–R283, R294, R313, R329, R366–R371, R374, R379, R398,
R424, R432, R447), and the form of every instruction. Where a table says vector, an indexed specifier is one too (R87), unless a rule
shuts it out. -/
namespace Sys2Proof.Machine

/-! ### Group 0x7 (R366–R371) -/

/-- Header bits [80:76] are zero. -/
def lowHdr (h : Hdr) : Bool := !h.lat && h.latch == 0 && !h.nowb

/-- A count, a selector or a number: a scalar, or an inline integer that .n32 holds exactly (R88, notes/assumptions/21.md). -/
def countOk (o : Opnd) : Bool := scalOrImm o && srcOk .n32 o

/-- A form without a register destination that the header could name. -/
def Form.plain (ok : Bool) (uses : List Use) : Form := Form.of ok uses

def isCas (f : FmtM) : Bool := f.sel == 10
def atomWords (f : FmtM) : Nat := if f.width == .w64 then 2 else 1

def atomForm (h : Hdr) (f : FmtM) (once : Bool) (data : List Use) (dataOk : Bool) : Form :=
  { ok := lowHdr h && (f.width == .w32 || f.width == .w64) && decide (scopeCode f.scope < 6) && baseOk f once && indexOk f once && dataOk,
    spaceOk := decide (spaceCode f.space < 4), uses := [baseUse f, indexUse f] ++ data, wide := false, keepOk := false }

def formAtom (h : Hdr) (f : FmtM) : Form :=
  let n := if isCas f then 2 * atomWords f else atomWords f
  atomForm h f false [{ o := f.data, n := n, wr := false }, { o := f.data, n := atomWords f, wr := true }] f.data.isV

def Opnd.num : Opnd → Nat
  | .v n => n.toNat | .s _ n => n.toNat | .l _ n => n.toNat | .x _ _ => 0 | .imm _ => 0
/-- The scalar after `o`. -/
def nextScal (o : Opnd) : Opnd := .s 0 (BitVec.ofNat 7 (Opnd.num o + 1))

def formRed (h : Hdr) (f : FmtM) : Form :=
  if isCas f then
    atomForm h f false [{ o := f.data, n := 1, wr := false }, { o := nextScal f.data, n := 1, wr := false }]
      (f.data.isScal && decide (Opnd.num f.data < 127))
  else atomForm h f false [{ o := f.data, n := if f.data.isVec then atomWords f else 1, wr := false }]
      (!f.data.isX && srcOk (if f.width == .w64 then .i64 else .i32) f.data)

def formAtoms (h : Hdr) (f : FmtM) : Form :=
  let n := Opnd.num f.data
  atomForm h f true ([{ o := f.data, n := 1, wr := false }] ++ (if isCas f then [{ o := nextScal f.data, n := 1, wr := false }] else [])
      ++ [{ o := f.data, n := 1, wr := true }])
    (f.data.isScal && (!isCas f || (n % 2 == 0 && decide (n ≤ 124))))

def formFence (h : Hdr) (f : FmtM) : Form :=
  { Form.of (lowHdr h && f.data.isZero && f.base.isZero && f.index.isZero && f.off == 0 && f.width == .w8
      && decide (f.sel.toNat < 5) && decide (scopeCode f.scope < 6) && (f.sel != 4 || f.scope == .quire)) [] with
    spaceOk := f.space == .gen }

/-! ### Format E -/

def scalOrLat (o : Opnd) : Bool := o.isScal || o.isLat
def scalLatImm (o : Opnd) : Bool := o.isScal || o.isLat || o.isImm
def useN (o : Opnd) (n al : Nat) (wr : Bool) : Use := { o := o, n := if o.isVec then n else 1, wr := wr, al := al }
def use1 (o : Opnd) (wr : Bool) : Use := useN o 1 1 wr
def use2 (o : Opnd) (wr : Bool) : Use := useN o 2 2 wr
/-- The uses of a format E instruction's source fields that are not zero fields, in order, then its destination. -/
def srcUses (l : List Opnd) : List Use := l.map fun o => use1 o false

/-- Modifier bits outside the admitted ones are zero. -/
def onlyBits (m : BitVec 24) (admitted : Nat) : Bool := m &&& ~~~(BitVec.ofNat 24 admitted) == 0

/-- The spaces of the group 0x8 fields (R374). -/
def formE (ok spaceOk : Bool) (uses : List Use) : Form := { Form.of ok uses with spaceOk := spaceOk }

/-! ### Group 0x8 (R374, R379) -/

def mSpace (m : BitVec 24) : Nat := m.toNat % 8

def formBarinit (h : Hdr) (f : FmtE) : Form :=
  formE (lowHdr h && f.d.isZero && scalOrLat f.a && countOk f.b && f.c.isZero && onlyBits f.m 0x1F) (decide (mSpace f.m < 4))
    (srcUses [f.a, f.b])
def formBararv (h : Hdr) (f : FmtE) : Form :=
  formE (lowHdr h && f.d.isScal && scalOrLat f.a && f.b.isZero && f.c.isZero && onlyBits f.m 7) (decide (mSpace f.m < 4))
    (srcUses [f.a] ++ [use1 f.d true])
def formBarwait (h : Hdr) (f : FmtE) : Form :=
  formE (lowHdr h && f.d.isZero && scalOrLat f.a && scalOrImm f.b && f.c.isZero && onlyBits f.m 7) (decide (mSpace f.m < 4))
    (srcUses [f.a, f.b])
def formBartry (h : Hdr) (f : FmtE) : Form :=
  formE (lowHdr h && f.d.isZero && scalOrLat f.a && scalOrImm f.b && f.c.isZero && onlyBits f.m 0xE7 && bits f.m.toNat 7 5 != 0)
    (decide (mSpace f.m < 4)) (srcUses [f.a, f.b])

/-- A handle operand (R261): inline 0–63 or a scalar. -/
def handleOk (o : Opnd) : Bool := inlineIn 0 63 o || o.isScal

def formTrywait (h : Hdr) (f : FmtE) : Form :=
  let m := f.m.toNat
  let sp := bits m 12 10
  if m.testBit 20 then
    Form.of (lowHdr h && bits m 23 21 != 0 && handleOk f.d && f.a.isZero && f.b.isZero && countOk f.c
      && m % 2 ^ 18 == 0) (srcUses [f.c, f.d])
  else
    formE (lowHdr h && bits m 23 21 != 0 && f.d.isZero && scalOrLat f.a && scalOrImm f.b && countOk f.c && bits m 15 13 < 6 && m % 1024 == 0)
      (sp == 0 || sp == 1 || sp == 3) (srcUses [f.a, f.b, f.c])
def formMsync (h : Hdr) (f : FmtE) : Form :=
  Form.of (lowHdr h && f.d.isZero && srcOk .n32 f.a && f.b.isZero && f.c.isZero && f.m == 0) (srcUses [f.a])
def formAttach (h : Hdr) (f : FmtE) : Form :=
  Form.of (lowHdr h && f.d.isScal && countOk f.a && scalOrLat f.b && scalOrImm f.c && f.m == 0)
    (srcUses [f.a, f.b, f.c] ++ [use1 f.d true])
def formDetach (h : Hdr) (f : FmtE) : Form :=
  Form.of (lowHdr h && f.d.isZero && f.a.isZero && f.b.isZero && f.c.isZero && f.m == 0) []
/-- Payload registers of a SPAWN. -/
def spawnRegs (f : FmtE) : Nat := bits f.m.toNat 7 3 + 1
def formSpawn (h : Hdr) (f : FmtE) : Form :=
  Form.of (lowHdr h && f.d.isVec && scalOrLat f.a && srcOk .n32 f.b && f.c.isZero && onlyBits f.m 0xFB)
    (srcUses [f.a, f.b] ++ [useN f.d (spawnRegs f) 1 false])
def formQpush (h : Hdr) (f : FmtE) : Form :=
  Form.of (lowHdr h && f.d.isScal && countOk f.a && scalOrLat f.b && f.c.isZero && f.m == 0) (srcUses [f.a, f.b] ++ [use1 f.d true])

/-! ### Group 0x9 (R261) -/

def cpySpaceOk (m : BitVec 24) : Bool := mSpace m == 0 || mSpace m == 3
def cpyHintOk (m : BitVec 24) : Bool := mSpace m == 0 || bits m.toNat 4 3 == 0
def cpyForm (f : FmtE) (srcs : List Opnd) (ok spaces : Bool) : Form :=
  formE (handleOk f.d && ok) (!spaces || cpySpaceOk f.m) (srcUses (srcs ++ [f.d]))

def formCpy (f : FmtE) : Form :=
  cpyForm f [f.a, f.b] (scalOrLat f.a && scalLatImm f.b && f.c.isZero && onlyBits f.m 0x1F && cpyHintOk f.m) true
def formCpy2d (f : FmtE) : Form :=
  cpyForm f [f.a, f.b, f.c] (scalOrLat f.a && scalLatImm f.b && scalLatImm f.c && onlyBits f.m 0x1F && cpyHintOk f.m) true
def formCpyt (f : FmtE) : Form :=
  cpyForm f [f.a, f.b] (scalOrLat f.a && scalLatImm f.b && f.c.isZero && onlyBits f.m 0x18) false
def formCpymc (f : FmtE) : Form :=
  cpyForm f [f.a, f.b, f.c] (scalOrLat f.a && scalLatImm f.b && scalLatImm f.c && onlyBits f.m 0x1F && cpyHintOk f.m) true
def formCpyfill (f : FmtE) : Form :=
  cpyForm f [f.a, f.b] (scalLatImm f.a && scalLatImm f.b && f.c.isZero && f.m == 0) false
def formHset (f : FmtE) : Form := formCpyfill f
def formHwait (f : FmtE) : Form :=
  cpyForm f [] (f.a.isZero && f.b.isZero && f.c.isZero && (f.m == 0 || f.m == 2)) false
def formHandle (f : FmtE) : Form := cpyForm f [] (f.a.isZero && f.b.isZero && f.c.isZero && f.m == 0) false
def formHstat (f : FmtE) : Form :=
  Form.of ((f.d.isScal || f.d.isVec) && handleOk f.a && f.b.isZero && f.c.isZero && f.m == 0) (srcUses [f.a] ++ [use2 f.d true])

/-! ### Group 0xA (R274–R285) -/

/-- Bits of an element code outside the bit-plane codes (R274). -/
def elemBits (c : Nat) : Nat :=
  match c with
  | 0 => 64 | 1 => 32 | 2 => 16 | 3 => 16 | 4 => 8 | 5 => 8 | 6 => 4 | 7 => 8 | 8 => 8 | 9 => 4 | 10 => 4 | 11 => 8 | 14 => 32 | _ => 1
def isPlane (c : Nat) : Bool := c == 12 || c == 13

/-- The row of R275 a pair of codes selects: class, tile rows, k. -/
structure MatPair where
  cls : Nat
  m   : Nat
  k   : Nat
deriving DecidableEq, Repr

def matPair (a b : Nat) : Option MatPair :=
  let small := fun c : Nat => c == 9 || c == 10 || c == 12 || c == 13
  if a = 0 ∧ b = 0 then some ⟨0, 16, 4⟩
  else if a = 1 ∧ b = 1 then some ⟨1, 16, 8⟩
  else if (a = 2 ∧ b = 2) ∨ (a = 3 ∧ b = 3) then some ⟨2, 32, 16⟩
  else if (a = 4 ∨ a = 5) ∧ (b = 4 ∨ b = 5) then some ⟨2, 32, 32⟩
  else if (a = 7 ∨ a = 8) ∧ (b = 7 ∨ b = 8) then some ⟨3, 32, 32⟩
  else if a = 6 ∧ b = 6 then some ⟨2, 32, 64⟩
  else if small a ∧ small b then some ⟨3, 32, 64⟩
  else if (a = 7 ∨ a = 4 ∨ a = 5) ∧ b = 11 then some ⟨2, 32, 64⟩
  else none

/-- Pairs MMAS admits; its accumulator is FP32 (R171, R290). -/
def scaledPair (a b : Nat) : Option MatPair :=
  if (a = 4 ∨ a = 5) ∧ (b = 4 ∨ b = 5) then some ⟨2, 32, 32⟩
  else if a = 6 ∧ b = 6 then some ⟨2, 32, 64⟩
  else if a = 7 ∧ b = 7 then some ⟨2, 32, 32⟩
  else none

/-- Registers of an accumulator fragment of a class (R277). -/
def fragRegs (cls : Nat) : Nat := if cls = 0 then 16 else if cls = 1 then 8 else 32

def mA (f : FmtE) : Nat := bits f.m.toNat 23 20
def mB (f : FmtE) : Nat := bits f.m.toNat 19 16
def mSteps (f : FmtE) : Nat := bits f.m.toNat 15 8 + 1
def mTa (f : FmtE) : Bool := f.m.getLsbD 7
def mTb (f : FmtE) : Bool := f.m.getLsbD 6
def mPlanes (f : FmtE) : Nat := 2 ^ bits f.m.toNat 5 4
def mFirst (f : FmtE) : Nat := bits f.m.toNat 3 2

/-- Registers of an A fragment of K elements (R278). -/
def aRegs (p : MatPair) (code K : Nat) : Nat := if p.cls = 0 then K else if p.cls = 1 then K / 2 else K * elemBits code / 32

def fragUse (o : Opnd) (n al : Nat) (wr : Bool) : Use := { o := o, n := n, wr := wr, al := al }
/-- Two fragments share a register (R285). -/
def overlap (a na b nb : Nat) : Bool := decide (a < b + nb) && decide (b < a + na)

/-- Fields that MMA, MMAS and MMAR share (R279, R280, R283). -/
def mmaFields (f : FmtE) : Bool :=
  let narrow := fun c => decide (elemBits c < 8)
  let planes := if isPlane (mA f) || isPlane (mB f) then bits f.m.toNat 5 4 != 3 && decide (mFirst f < mPlanes f)
    else bits f.m.toNat 5 2 == 0
  f.m.toNat % 4 == 0 && planes && !(mTa f && narrow (mA f)) && (mTb f || !narrow (mB f))

def formMma (h : Hdr) (f : FmtE) : Form :=
  match matPair (mA f) (mB f) with
  | none => Form.of false []
  | some p =>
    let n := fragRegs p.cls
    { Form.of (lowHdr h && mmaFields f && f.d.isV && scalOrLat f.a && scalOrLat f.b && scalLatImm f.c)
        (srcUses [f.a, f.b, f.c] ++ [fragUse f.d n n false, fragUse f.d n n true]) with wide := true, keepOk := true }
def formMmas (h : Hdr) (f : FmtE) : Form :=
  match scaledPair (mA f) (mB f) with
  | none => Form.of false []
  | some _ =>
    let sn := Opnd.num f.c
    { Form.of (lowHdr h && mmaFields f && f.d.isV && scalOrLat f.a && scalOrLat f.b && f.c.isScal && sn % 4 == 0 && decide (sn ≤ 120))
        (srcUses [f.a, f.b, f.c] ++ ([1, 2, 3].map fun i => use1 (.s 0 (BitVec.ofNat 7 (sn + i))) false) ++ [fragUse f.d 32 32 true]) with
      wide := true, keepOk := true }
def formMmar (h : Hdr) (f : FmtE) : Form :=
  match matPair (mA f) (mB f) with
  | none => Form.of false []
  | some p =>
    let n := fragRegs p.cls
    let na := aRegs p (mA f) (mSteps f * p.k)
    { Form.of (lowHdr h && mmaFields f && !mTa f && !isPlane (mA f) && f.d.isV && f.a.isV && scalOrLat f.b && scalLatImm f.c
          && !overlap (Opnd.num f.d) n (Opnd.num f.a) na)
        ([fragUse f.a na (if p.cls = 0 then 2 else 1) false] ++ srcUses [f.b, f.c] ++ [fragUse f.d n n false, fragUse f.d n n true]) with
      wide := true, keepOk := true }

/-- Memory element codes of a class (R292). -/
def memCodes (cls : Nat) : List Nat :=
  match cls with | 0 => [0] | 1 => [1] | 2 => [1, 2, 3] | 3 => [14] | _ => []

def formMldc (h : Hdr) (f : FmtE) : Form :=
  let n := fragRegs (mA f)
  { Form.of (lowHdr h && decide (mA f < 4) && (memCodes (mA f)).contains (mB f) && f.m.toNat % 65536 == 0 && f.d.isV && scalOrLat f.a
      && scalLatImm f.b && f.c.isZero) (srcUses [f.a, f.b] ++ [fragUse f.d n n true]) with wide := true }
def formMstc (h : Hdr) (f : FmtE) : Form :=
  let n := fragRegs (mA f)
  Form.of (lowHdr h && decide (mA f < 4) && (memCodes (mA f)).contains (mB f) && f.m.toNat % 65536 == 0 && f.d.isZero && scalOrLat f.a
      && scalLatImm f.b && f.c.isV) (srcUses [f.a, f.b] ++ [fragUse f.c n n false])
def formMzero (h : Hdr) (f : FmtE) : Form :=
  let n := fragRegs (mA f)
  { Form.of (lowHdr h && decide (mA f < 4) && f.m.toNat % 2 ^ 20 == 0 && f.d.isV && f.a.isZero && f.b.isZero && f.c.isZero)
      [fragUse f.d n n true] with wide := true }
def formMact (h : Hdr) (f : FmtE) : Form :=
  let n := elemBits (mB f)
  { Form.of (lowHdr h && mA f == 2 && [2, 3, 4, 5].contains (mB f) && decide (bits f.m.toNat 15 14 < 2) && f.m.toNat % 8192 == 0
      && f.d.isV && f.a.isV && scalOrLat f.b && f.c.isZero && !overlap (Opnd.num f.d) n (Opnd.num f.a) 32)
      ([fragUse f.a 32 32 false] ++ srcUses [f.b] ++ [fragUse f.d n 1 true]) with wide := true }

/-! ### Group 0xB (R294) -/

/-- Latch enable and no-writeback are refused on every instruction of groups 0xB, 0xC and 0xD. -/
def noResultHdr (h : Hdr) : Bool := !h.lat && !h.nowb

def formTex (h : Hdr) (f : FmtE) : Form :=
  Form.of (noResultHdr h && f.d.isVec && f.a.isVec && scalOrLat f.b && scalOrLat f.c && onlyBits f.m 9)
    (srcUses [f.a, f.b, f.c] ++ [useN f.d (if f.m.getLsbD 3 then 2 else 4) 1 true])
def formTld (h : Hdr) (f : FmtE) : Form :=
  Form.of (noResultHdr h && f.d.isVec && f.a.isVec && scalOrLat f.b && f.c.isZero && onlyBits f.m 8)
    ([useN f.a 4 1 false] ++ srcUses [f.b] ++ [useN f.d (if f.m.getLsbD 3 then 2 else 4) 1 true])
def formTgath (h : Hdr) (f : FmtE) : Form :=
  Form.of (noResultHdr h && f.d.isVec && f.a.isVec && scalOrLat f.b && scalOrLat f.c && onlyBits f.m 0x31)
    (srcUses [f.a, f.b, f.c] ++ [useN f.d 4 1 true])
def formTqry (h : Hdr) (f : FmtE) : Form :=
  Form.of (noResultHdr h && f.d.isVec && (f.a.isVec || scalOrImm f.a) && srcOk .n32 f.a && scalOrLat f.b && f.c.isZero && f.m == 0)
    (srcUses [f.a, f.b] ++ [useN f.d 4 1 true])
/-- HGFETCH and NTEX: the record decides how many registers beyond the first they touch. -/
def formHgfetch (h : Hdr) (f : FmtE) : Form :=
  Form.of (noResultHdr h && f.d.isVec && f.a.isVec && scalOrLat f.b && f.c.isZero && f.m == 0) (srcUses [f.a, f.b] ++ [use1 f.d true])
def formHgscat (h : Hdr) (f : FmtE) : Form :=
  Form.of (noResultHdr h && f.d.isZero && f.a.isVec && scalOrLat f.b && f.c.isVec && f.m == 0) (srcUses [f.a, f.b, f.c])
def formNtex (h : Hdr) (f : FmtE) : Form :=
  Form.of (noResultHdr h && f.d.isVec && f.a.isVec && scalOrLat f.b && f.c.isZero && f.m == 0)
    (srcUses [f.a, f.b] ++ [useN f.d 16 1 true])

/-! ### Group 0xC (R313) -/

def formTpay (h : Hdr) (f : FmtE) : Form :=
  Form.of (noResultHdr h && f.d.isZero && countOk f.a && countOk f.b && countOk f.c && f.m == 0) (srcUses [f.a, f.b, f.c])
/-- The attribute base holds as many registers as the render target has attributes, which `Env.uses` counts. -/
def formMvtx (h : Hdr) (f : FmtE) : Form :=
  Form.of (noResultHdr h && f.d.isZero && srcOk .n32 f.a && srcOk .f32 f.b && srcOk .f32 f.c && f.m == 0)
    (srcUses [f.a] ++ [useN f.b (if f.b.isVec then 4 else 1) 1 false, useN f.c 1 1 false])
def formMprim (h : Hdr) (f : FmtE) : Form :=
  Form.of (noResultHdr h && f.d.isZero && srcOk .n32 f.a && srcOk .n32 f.b && srcOk .n32 f.c && f.m == 0) (srcUses [f.a, f.b, f.c])
def formMdone (h : Hdr) (f : FmtE) : Form :=
  Form.of (noResultHdr h && f.d.isScal && countOk f.a && f.b.isZero && f.c.isZero && f.m == 0) (srcUses [f.a] ++ [use1 f.d true])
def formVisrd (h : Hdr) (f : FmtE) : Form :=
  Form.of (noResultHdr h && f.d.isVec && srcOk .n32 f.a && f.b.isZero && f.c.isZero && f.m == 0) (srcUses [f.a] ++ [use2 f.d true])
def formAttr (h : Hdr) (f : FmtE) : Form :=
  let bary := f.m.getLsbD 0
  Form.of (noResultHdr h && f.d.isVec && f.a.isVec && onlyBits f.m 1
      && (if bary then f.b.isZero && f.c.isZero else countOk f.b && countOk f.c))
    ([use2 f.a false] ++ (if bary then [] else srcUses [f.b, f.c]) ++ [useN f.d (if bary then 3 else 1) 1 true])
def formPixout (h : Hdr) (f : FmtE) : Form :=
  Form.of (noResultHdr h && f.d.isZero && srcOk .n32 f.a && srcOk .f32 f.b && f.c.isZero && f.m == 0)
    (srcUses [f.a] ++ [useN f.b (if f.b.isVec then 4 else 1) 1 false])

/-! ### Group 0xD (R329) -/

def formRayq (h : Hdr) (f : FmtE) : Form :=
  Form.of (noResultHdr h && f.d.isZero && f.a.isVec && scalOrLat f.b && scalLatImm f.c && srcOk .n32 f.c && f.m == 0)
    ([useN f.a 8 1 false] ++ srcUses [f.b, f.c])
def formRaynext (h : Hdr) (f : FmtE) : Form :=
  Form.of (noResultHdr h && f.d.isVec && f.a.isZero && f.b.isZero && f.c.isZero && f.m == 0) [use1 f.d true]
def formRayacc (h : Hdr) (f : FmtE) : Form :=
  let t := f.m.getLsbD 0
  Form.of (noResultHdr h && f.d.isZero && (if t then srcOk .f32 f.a else f.a.isZero) && f.b.isZero && f.c.isZero && onlyBits f.m 1)
    (if t then srcUses [f.a] else [])
def formRayend (h : Hdr) (f : FmtE) : Form :=
  Form.of (noResultHdr h && f.d.isVec && f.a.isZero && f.b.isZero && f.c.isZero && f.m == 0) [useN f.d 7 1 true]
def formRayget (h : Hdr) (f : FmtE) : Form :=
  Form.of (noResultHdr h && f.d.isVec && f.a.isZero && f.b.isZero && f.c.isZero && onlyBits f.m 15 && f.m.toNat % 8 != 7) [use1 f.d true]
def formAsbuild (h : Hdr) (f : FmtE) : Form :=
  Form.of (noResultHdr h && handleOk f.d && scalOrLat f.a && scalOrLat f.b && scalOrLat f.c && onlyBits f.m 1)
    (srcUses [f.a, f.b, f.c, f.d])
/-- ASINFO writes three scalars from sd. -/
def scalRun (o : Opnd) (n : Nat) : List Use := (List.range n).map fun i => use1 (.s 0 (BitVec.ofNat 7 (Opnd.num o + i))) true
def formAsinfo (h : Hdr) (f : FmtE) : Form :=
  Form.of (noResultHdr h && f.d.isScal && decide (Opnd.num f.d ≤ 124) && scalOrLat f.a && f.b.isZero && f.c.isZero && f.m == 0)
    (srcUses [f.a] ++ [use1 f.d true] ++ (scalRun f.d 3).drop 1)

/-! ### Group 0xE (R398, R424, R432) -/

def treeHdr (h : Hdr) (f : FmtE) : Bool := lowHdr h && f.m == 0 && scalOrLat f.a

def formTinit (h : Hdr) (f : FmtE) : Form :=
  Form.of (treeHdr h f && f.d.isScal && f.b.isZero && f.c.isZero) (srcUses [f.a] ++ [use1 f.d true])
def formTsel (h : Hdr) (f : FmtE) : Form :=
  Form.of (treeHdr h f && f.d.isVec && f.b.isZero && f.c.isZero) (srcUses [f.a] ++ [useN f.d 4 1 true])
def formTexp (h : Hdr) (f : FmtE) : Form :=
  Form.of (treeHdr h f && f.d.isVec && f.b.isVec && f.c.isVec)
    (srcUses [f.a] ++ [useN f.b 2 1 false, useN f.c 3 2 false, use1 f.d true])
def formTback (h : Hdr) (f : FmtE) : Form :=
  Form.of (treeHdr h f && f.d.isVec && f.b.isVec && (f.c.isVec || scalOrLat f.c))
    (srcUses [f.a] ++ [useN f.b 2 1 false, use2 f.c false, use1 f.d true])
def formTleaf (h : Hdr) (f : FmtE) : Form :=
  Form.of (treeHdr h f && f.d.isVec && f.b.isVec && srcOk .n32 f.c)
    (srcUses [f.a] ++ [useN f.b 2 1 false, use1 f.c false, use1 f.d true])
def formTreuse (h : Hdr) (f : FmtE) : Form :=
  Form.of (treeHdr h f && f.d.isScal && scalLatImm f.b && srcOk .n32 f.b && f.c.isZero) (srcUses [f.a, f.b] ++ [use1 f.d true])
def formTread (h : Hdr) (f : FmtE) : Form :=
  Form.of (treeHdr h f && f.d.isVec && srcOk .n32 f.b && f.c.isZero) (srcUses [f.a, f.b] ++ [useN f.d 16 1 true])
def formColl (h : Hdr) (f : FmtE) : Form :=
  let m := f.m.toNat
  Form.of (lowHdr h && handleOk f.d && scalOrLat f.a && f.b.isZero && f.c.isZero && decide (m < 128) && decide (bits m 6 4 < 5)
      && bits m 3 2 != 3 && (decide (m % 4 < 2) || bits m 3 2 == 0)) (srcUses [f.a, f.d])
def formCollinfo (f : FmtE) : Form :=
  let n := Opnd.num f.d
  { Form.of (f.d.isScal && n % 2 == 0 && decide (n ≤ 126) && scalLatImm f.a && srcOk .n64 f.a && f.b.isZero && f.c.isZero
      && onlyBits f.m 1) (srcUses [f.a] ++ scalRun f.d 2) with wide := true }

/-! ### Group 0xF (R447) -/

def formTrap (h : Hdr) (f : FmtE) : Form :=
  Form.of (lowHdr h && f.d.isZero && f.a.isZero && f.b.isZero && f.c.isZero && onlyBits f.m 0xFFFF) []
def formTrapcall (h : Hdr) (f : FmtE) : Form :=
  Form.of (lowHdr h && f.d.isVec && f.a.isVec && ((f.b.isScal && decide (Opnd.num f.b ≤ 125)) || f.b.isImm) && srcOk .n32 f.b && f.c.isZero && f.m == 0)
    (srcUses ([f.a, f.b] ++ if f.b.isScal then [nextScal f.b] else []) ++ [use1 f.d true])
def formTret (h : Hdr) (f : FmtE) : Form :=
  Form.of (lowHdr h && f.d.isZero && f.a.isZero && f.b.isZero && f.c.isZero && f.m == 0) []
def formTkill (h : Hdr) (f : FmtE) : Form :=
  Form.of (lowHdr h && f.d.isZero && f.a.isZero && f.b.isZero && f.c.isZero && onlyBits f.m 0x1FF) []
def formPerf (h : Hdr) (f : FmtE) : Form :=
  Form.of (lowHdr h && f.d.isScal && countOk f.a && f.b.isZero && f.c.isZero && f.m == 0) (srcUses [f.a] ++ [use1 f.d true])
def formDecsel (h : Hdr) (f : FmtE) : Form :=
  Form.of (lowHdr h && f.d.isScal && countOk f.a && scalOrLat f.b && f.c.isZero && f.m == 0) (srcUses [f.a, f.b] ++ [use1 f.d true])

end Sys2Proof.Machine
end

