-- ==== Sys2Proof/Machine/FormsAll.lean ====
section
/-! DEFINITION. The form of every instruction: one row per constructor (R106 check 5). -/
namespace Sys2Proof.Machine

/-- What check 5 of R106 asks of an instruction; an event has no fields to check. -/
def Instr.form (i : Instr) : Form :=
  match i with
  | .nop h f => formPlain h f
  | .bra h f => formBra h f
  | .brc h f => formBrc h f
  | .brx h f => formBrx h f
  | .call h f => formCall h f
  | .callx h f => formCallx h f
  | .ret h f => formRet h f
  | .reconv h f => formReconv h f
  | .loop h f => formLoop h f
  | .exit h f => formPlain h f
  | .region h f => formRegion h f
  | .sigck h f => formSigck h f
  | .yield h f => formPlain h f
  | .bkpt h f => formBkpt h f
  | .iadd h f => formArith2 (Alu.ofA h f)
  | .iaddI h f => formArith2 (Alu.ofI h f)
  | .isub h f => formArith2 (Alu.ofA h f)
  | .isubI h f => formArith2 (Alu.ofI h f)
  | .imul h f => formArith2 (Alu.ofA h f)
  | .imulI h f => formArith2 (Alu.ofI h f)
  | .imulh h f => formImulh (Alu.ofA h f)
  | .imulhI h f => formImulh (Alu.ofI h f)
  | .imad h f => formArith3 (Alu.ofA h f)
  | .imadI h f => formArith3 (Alu.ofI h f)
  | .imadw h f => formImadw (Alu.ofA h f)
  | .imadwI h f => formImadw (Alu.ofI h f)
  | .imin h f => formMinMax (Alu.ofA h f)
  | .iminI h f => formMinMax (Alu.ofI h f)
  | .imax h f => formMinMax (Alu.ofA h f)
  | .imaxI h f => formMinMax (Alu.ofI h f)
  | .iabs h f => formUnary (Alu.ofA h f)
  | .ineg h f => formUnary (Alu.ofA h f)
  | .iadd3 h f => formArith3 (Alu.ofA h f)
  | .iadd3I h f => formArith3 (Alu.ofI h f)
  | .isad h f => formArith3 (Alu.ofA h f)
  | .isadI h f => formArith3 (Alu.ofI h f)
  | .shl h f => formShift (Alu.ofA h f)
  | .shlI h f => formShift (Alu.ofI h f)
  | .shr h f => formShift (Alu.ofA h f)
  | .shrI h f => formShift (Alu.ofI h f)
  | .sar h f => formShift (Alu.ofA h f)
  | .rotl h f => formShift (Alu.ofA h f)
  | .tril h f => formTril (Alu.ofA h f)
  | .trilI h f => formTril (Alu.ofI h f)
  | .and h f => formLogic2 (Alu.ofA h f)
  | .andI h f => formLogic2 (Alu.ofI h f)
  | .or h f => formLogic2 (Alu.ofA h f)
  | .orI h f => formLogic2 (Alu.ofI h f)
  | .xor h f => formLogic2 (Alu.ofA h f)
  | .xorI h f => formLogic2 (Alu.ofI h f)
  | .not h f => formLogic1 (Alu.ofA h f)
  | .popc h f => formCount (Alu.ofA h f)
  | .clz h f => formCount (Alu.ofA h f)
  | .brev h f => formLogic1 (Alu.ofA h f)
  | .bfe h f => formBfe (Alu.ofA h f)
  | .bfeI h f => formBfe (Alu.ofI h f)
  | .bfi h f => formBfi (Alu.ofA h f)
  | .bfiI h f => formBfi (Alu.ofI h f)
  | .icmp h f => formIcmp (Alu.ofA h f)
  | .icmpI h f => formIcmp (Alu.ofI h f)
  | .sel h f => formSel (Alu.ofA h f)
  | .selI h f => formSel (Alu.ofI h f)
  | .mov h f => formMov (Alu.ofA h f)
  | .movI h f => formMov (Alu.ofI h f)
  | .lea h f => formLea (Alu.ofA h f)
  | .leaI h f => formLea (Alu.ofI h f)
  | .iclamp h f => formClamp (Alu.ofA h f)
  | .iclampI h f => formClamp (Alu.ofI h f)
  | .fadd h f => formFp tyF 2 true true (Alu.ofA h f)
  | .faddI h f => formFp tyF 2 true true (Alu.ofI h f)
  | .fsub h f => formFp tyF 2 true true (Alu.ofA h f)
  | .fsubI h f => formFp tyF 2 true true (Alu.ofI h f)
  | .fmul h f => formFp tyF 2 true true (Alu.ofA h f)
  | .fmulI h f => formFp tyF 2 true true (Alu.ofI h f)
  | .ffma h f => formFp tyF 3 true true (Alu.ofA h f)
  | .ffmaI h f => formFp tyF 3 true true (Alu.ofI h f)
  | .fmin h f => formFp tyF 2 false false (Alu.ofA h f)
  | .fminI h f => formFp tyF 2 false false (Alu.ofI h f)
  | .fmax h f => formFp tyF 2 false false (Alu.ofA h f)
  | .fmaxI h f => formFp tyF 2 false false (Alu.ofI h f)
  | .fcmp h f => formFcmp tyF (Alu.ofA h f)
  | .fcmpI h f => formFcmp tyF (Alu.ofI h f)
  | .frcp h f => formFp tyF 1 false false (Alu.ofA h f)
  | .frsq h f => formFp tyF 1 false false (Alu.ofA h f)
  | .fsqrt h f => formFp tyF 1 true true (Alu.ofA h f)
  | .fexp2 h f => formFp tyF 1 false false (Alu.ofA h f)
  | .flog2 h f => formFp tyF 1 false false (Alu.ofA h f)
  | .fsin h f => formFp tyF 1 false false (Alu.ofA h f)
  | .fcos h f => formFp tyF 1 false false (Alu.ofA h f)
  | .ftanh h f => formFp tyF 1 false false (Alu.ofA h f)
  | .fclass h f => formFclass tyF (Alu.ofA h f)
  | .fscale h f => formFscale tyF (Alu.ofA h f)
  | .fscaleI h f => formFscale tyF (Alu.ofI h f)
  | .ffrc h f => formFp tyF 1 false false (Alu.ofA h f)
  | .frnd h f => formFp tyF 1 true false (Alu.ofA h f)
  | .fdot2 h f => formFdot2 (Alu.ofA h f)
  | .fdot2I h f => formFdot2 (Alu.ofI h f)
  | .dadd h f => formFp tyD 2 true true (Alu.ofA h f)
  | .daddI h f => formFp tyD 2 true true (Alu.ofI h f)
  | .dsub h f => formFp tyD 2 true true (Alu.ofA h f)
  | .dsubI h f => formFp tyD 2 true true (Alu.ofI h f)
  | .dmul h f => formFp tyD 2 true true (Alu.ofA h f)
  | .dmulI h f => formFp tyD 2 true true (Alu.ofI h f)
  | .dfma h f => formFp tyD 3 true true (Alu.ofA h f)
  | .dfmaI h f => formFp tyD 3 true true (Alu.ofI h f)
  | .dmin h f => formFp tyD 2 false false (Alu.ofA h f)
  | .dminI h f => formFp tyD 2 false false (Alu.ofI h f)
  | .dmax h f => formFp tyD 2 false false (Alu.ofA h f)
  | .dmaxI h f => formFp tyD 2 false false (Alu.ofI h f)
  | .dcmp h f => formFcmp tyD (Alu.ofA h f)
  | .dcmpI h f => formFcmp tyD (Alu.ofI h f)
  | .drcpa h f => formFp tyD 1 false false (Alu.ofA h f)
  | .drsqa h f => formFp tyD 1 false false (Alu.ofA h f)
  | .dsqrt h f => formFp tyD 1 true true (Alu.ofA h f)
  | .ddiv h f => formFp tyD 2 true true (Alu.ofA h f)
  | .ddivI h f => formFp tyD 2 true true (Alu.ofI h f)
  | .dclass h f => formFclass tyD (Alu.ofA h f)
  | .dscale h f => formFscale tyD (Alu.ofA h f)
  | .dscaleI h f => formFscale tyD (Alu.ofI h f)
  | .drnd h f => formFp tyD 1 true false (Alu.ofA h f)
  | .dfrc h f => formFp tyD 1 false false (Alu.ofA h f)
  | .cvt h f => formCvt (Alu.ofA h f)
  | .cvtp h f => formCvtp (Alu.ofA h f)
  | .cvtq h f => formCvtq (Alu.ofA h f)
  | .deq h f => formDeq (Alu.ofA h f)
  | .bppack h f => formBppack (Alu.ofA h f)
  | .bpunp h f => formBpunp (Alu.ofA h f)
  | .b8dec h f => formB8dec (Alu.ofA h f)
  | .b8enc h f => formB8enc (Alu.ofA h f)
  | .bmux h f => formBmux (Alu.ofA h f)
  | .pack h f => formPack (Alu.ofA h f)
  | .plop h f => formPlop (Alu.ofA h f)
  | .pmov h f => formPmov (Alu.ofA h f)
  | .poll h f => formPoll (Alu.ofA h f)
  | .xlane h f => formXlaneOff (Alu.ofA h f)
  | .redq h f => formRedq (Alu.ofA h f)
  | .scanq h f => formScanq (Alu.ofA h f)
  | .matchQ h f => formMatch (Alu.ofA h f)
  | .sread h f => formSread (Alu.ofA h f)
  | .swrite h f => formSwrite (Alu.ofA h f)
  | .xset h f => formXreg (Alu.ofA h f)
  | .xadd h f => formXreg (Alu.ofA h f)
  | .claim h f => formClaim (Alu.ofA h f)
  | .surr h f => formClaim (Alu.ofA h f)
  | .maskrd h f => formMaskrd (Alu.ofA h f)
  | .pad h f => formPad (Alu.ofA h f)
  | .unpad h f => formPad (Alu.ofA h f)
  | .ubcast h f => formUbcast (Alu.ofA h f)
  | .ld _ f => formLd f
  | .st _ f => formSt f
  | .ldro _ f => formLdro f
  | .pref _ f => formPref f
  | .cinv _ f => formCinv f
  | .cwb _ f => formCinv f
  | .lds _ f => formLds f
  | .sts _ f => formSts f
  | .ldacq _ f => formLdacq f
  | .strel _ f => formStrel f
  | .atom h f => formAtom h f
  | .red h f => formRed h f
  | .atoms h f => formAtoms h f
  | .fence h f => formFence h f
  | .barinit h f => formBarinit h f
  | .bararv h f => formBararv h f
  | .barwait h f => formBarwait h f
  | .bartry h f => formBartry h f
  | .trywait h f => formTrywait h f
  | .msync h f => formMsync h f
  | .attach h f => formAttach h f
  | .detach h f => formDetach h f
  | .spawn h f => formSpawn h f
  | .qpush h f => formQpush h f
  | .cpy _ f => formCpy f
  | .cpy2d _ f => formCpy2d f
  | .cpyt _ f => formCpyt f
  | .cpymc _ f => formCpymc f
  | .cpyout _ f => formCpy f
  | .cpyfill _ f => formCpyfill f
  | .hset _ f => formHset f
  | .hwait _ f => formHwait f
  | .hdrain _ f => formHandle f
  | .hfree _ f => formHandle f
  | .hstat _ f => formHstat f
  | .mma h f => formMma h f
  | .mmas h f => formMmas h f
  | .mmar h f => formMmar h f
  | .mldc h f => formMldc h f
  | .mstc h f => formMstc h f
  | .mzero h f => formMzero h f
  | .mact h f => formMact h f
  | .tex h f => formTex h f
  | .tld h f => formTld h f
  | .tgath h f => formTgath h f
  | .tqry h f => formTqry h f
  | .hgfetch h f => formHgfetch h f
  | .hgscat h f => formHgscat h f
  | .ntex h f => formNtex h f
  | .tpay h f => formTpay h f
  | .mvtx h f => formMvtx h f
  | .mprim h f => formMprim h f
  | .mdone h f => formMdone h f
  | .visrd h f => formVisrd h f
  | .attr h f => formAttr h f
  | .pixout h f => formPixout h f
  | .rayq h f => formRayq h f
  | .raynext h f => formRaynext h f
  | .rayacc h f => formRayacc h f
  | .rayend h f => formRayend h f
  | .rayget h f => formRayget h f
  | .asbuild h f => formAsbuild h f
  | .asinfo h f => formAsinfo h f
  | .tinit h f => formTinit h f
  | .tsel h f => formTsel h f
  | .texp h f => formTexp h f
  | .tback h f => formTback h f
  | .tleaf h f => formTleaf h f
  | .treuse h f => formTreuse h f
  | .tread h f => formTread h f
  | .coll h f => formColl h f
  | .collinfo _ f => formCollinfo f
  | .trap h f => formTrap h f
  | .trapcall h f => formTrapcall h f
  | .tret h f => formTret h f
  | .tkill h f => formTkill h f
  | .perf h f => formPerf h f
  | .decsel h f => formDecsel h f
  | .queueWake _ _ => Form.of true []
  | .dependencyWordWrite _ _ => Form.of true []
  | .signalPacketEffect _ _ => Form.of true []
  | .gatheringPlacement => Form.of true []
  | .binQuirePlacement _ _ => Form.of true []
  | .binTimerExpiry _ _ => Form.of true []
  | .meshGatheringPlacement _ => Form.of true []
  | .pendingQuireCreation _ => Form.of true []
  | .volumeCompletion _ => Form.of true []
  | .deviceReset => Form.of true []
  | .controlProcessorRestart => Form.of true []
  | .lineFetch _ => Form.of true []
  | .loadDataReturn _ => Form.of true []
  | .rowRefill _ => Form.of true []
  | .claimGrant _ => Form.of true []
  | .tpaySlotTaken _ => Form.of true []
  | .qpushRingRoom _ => Form.of true []
  | .barrierWake _ => Form.of true []
  | .trywaitReevaluation _ => Form.of true []
  | .trywaitTimeout _ => Form.of true []
  | .hwaitWake _ => Form.of true []
  | .asqRequest _ => Form.of true []
  | .asqReply _ => Form.of true []
  | .homeAccept _ _ => Form.of true []
  | .storeAcknowledge _ _ => Form.of true []
  | .faultEntryRetry _ => Form.of true []
  | .faultResolution _ _ _ => Form.of true []
  | .transferStart _ => Form.of true []
  | .transferPiece _ _ => Form.of true []
  | .matrixResultLanding _ _ => Form.of true []
  | .engineResultReturn _ => Form.of true []
  | .treeOperation _ => Form.of true []
  | .treeResultLanding _ => Form.of true []
  | .tleafAppend _ => Form.of true []
  | .batchTimerExpiry _ _ => Form.of true []
  | .visibilityResolve _ _ => Form.of true []
  | .tileFinality _ => Form.of true []
  | .collectiveExchange _ _ _ _ => Form.of true []
  | .heartbeatSend _ => Form.of true []
  | .memberLost _ _ => Form.of true []
  | .viewMessage _ _ _ => Form.of true []
  | .coordinatorTimeout _ => Form.of true []
  | .finalMaskReceive _ _ _ => Form.of true []
  | .finalMaskTimeout _ => Form.of true []
  | .collectiveCompletion _ => Form.of true []
  | .stationReplayFailure _ => Form.of true []
  | .stationAckTimeout _ => Form.of true []
  | .peerCompletion _ _ _ _ => Form.of true []
  | .peerRequestTimeout _ => Form.of true []
  | .peerInboundRequest _ => Form.of true []
  | .hostAccess _ => Form.of true []
  | .contextSwitchIn _ => Form.of true []
  | .candidateWaitExpiry _ => Form.of true []
  | .preemptionTimeout _ => Form.of true []
  | .unitSave _ => Form.of true []
  | .unitRestore _ => Form.of true []
  | .preemptionHoldoffExpiry _ => Form.of true []
  | .datapathError _ _ => Form.of true []
  | .eccEvent _ => Form.of true []
  | .patrolScrub _ => Form.of true []
  | .laneRemapTimeout _ => Form.of true []
  | .deadlockWatchdog _ => Form.of true []
  | .externalWaitTimeout _ => Form.of true []
  | .budgetExhausted _ => Form.of true []
  | .trapcallReply _ => Form.of true []
  | .mgPower _ => Form.of true []
  | .mgClock _ => Form.of true []
  | .clockModeFallback => Form.of true []
  | .thermalThrottle _ _ => Form.of true []
  | .thermalReset _ _ => Form.of true []
  | .mgEvents _ => Form.of true []
  | .mgErrors _ => Form.of true []
  | .mgRegisterWrite _ _ => Form.of true []
  | .registerContext _ _ => Form.of true []
  | .releaseContext _ _ => Form.of true []
  | .enableQueue _ _ _ => Form.of true []
  | .disableQueue _ _ _ => Form.of true []
  | .invalidate _ _ _ _ => Form.of true []
  | .peerEntry _ _ _ => Form.of true []
  | .inboundWindow _ _ _ _ _ _ => Form.of true []
  | .stationUp _ _ => Form.of true []
  | .debugStop _ _ => Form.of true []
  | .debugResume _ _ => Form.of true []
  | .debugStep _ _ => Form.of true []
  | .debugRead _ _ _ => Form.of true []
  | .debugWrite _ _ _ _ => Form.of true []
  | .attest _ _ _ => Form.of true []
  | .readRemap _ _ => Form.of true []
  | .unknownCommand _ _ => Form.of true []
  | .linkLevelAcknowledgement _ => Form.of true []
  | .heartbeatReceive _ _ => Form.of true []
  | .driverPreemptionRequest _ _ => Form.of true []
  | .adaptiveClockStep _ => Form.of true []

/-- The header of an instruction; an event has none. -/
def Instr.hdr (i : Instr) : Option Hdr :=
  match i with
  | .nop h _ => some h
  | .bra h _ => some h
  | .brc h _ => some h
  | .brx h _ => some h
  | .call h _ => some h
  | .callx h _ => some h
  | .ret h _ => some h
  | .reconv h _ => some h
  | .loop h _ => some h
  | .exit h _ => some h
  | .region h _ => some h
  | .sigck h _ => some h
  | .yield h _ => some h
  | .bkpt h _ => some h
  | .iadd h _ => some h
  | .iaddI h _ => some h
  | .isub h _ => some h
  | .isubI h _ => some h
  | .imul h _ => some h
  | .imulI h _ => some h
  | .imulh h _ => some h
  | .imulhI h _ => some h
  | .imad h _ => some h
  | .imadI h _ => some h
  | .imadw h _ => some h
  | .imadwI h _ => some h
  | .imin h _ => some h
  | .iminI h _ => some h
  | .imax h _ => some h
  | .imaxI h _ => some h
  | .iabs h _ => some h
  | .ineg h _ => some h
  | .iadd3 h _ => some h
  | .iadd3I h _ => some h
  | .isad h _ => some h
  | .isadI h _ => some h
  | .shl h _ => some h
  | .shlI h _ => some h
  | .shr h _ => some h
  | .shrI h _ => some h
  | .sar h _ => some h
  | .rotl h _ => some h
  | .tril h _ => some h
  | .trilI h _ => some h
  | .and h _ => some h
  | .andI h _ => some h
  | .or h _ => some h
  | .orI h _ => some h
  | .xor h _ => some h
  | .xorI h _ => some h
  | .not h _ => some h
  | .popc h _ => some h
  | .clz h _ => some h
  | .brev h _ => some h
  | .bfe h _ => some h
  | .bfeI h _ => some h
  | .bfi h _ => some h
  | .bfiI h _ => some h
  | .icmp h _ => some h
  | .icmpI h _ => some h
  | .sel h _ => some h
  | .selI h _ => some h
  | .mov h _ => some h
  | .movI h _ => some h
  | .lea h _ => some h
  | .leaI h _ => some h
  | .iclamp h _ => some h
  | .iclampI h _ => some h
  | .fadd h _ => some h
  | .faddI h _ => some h
  | .fsub h _ => some h
  | .fsubI h _ => some h
  | .fmul h _ => some h
  | .fmulI h _ => some h
  | .ffma h _ => some h
  | .ffmaI h _ => some h
  | .fmin h _ => some h
  | .fminI h _ => some h
  | .fmax h _ => some h
  | .fmaxI h _ => some h
  | .fcmp h _ => some h
  | .fcmpI h _ => some h
  | .frcp h _ => some h
  | .frsq h _ => some h
  | .fsqrt h _ => some h
  | .fexp2 h _ => some h
  | .flog2 h _ => some h
  | .fsin h _ => some h
  | .fcos h _ => some h
  | .ftanh h _ => some h
  | .fclass h _ => some h
  | .fscale h _ => some h
  | .fscaleI h _ => some h
  | .ffrc h _ => some h
  | .frnd h _ => some h
  | .fdot2 h _ => some h
  | .fdot2I h _ => some h
  | .dadd h _ => some h
  | .daddI h _ => some h
  | .dsub h _ => some h
  | .dsubI h _ => some h
  | .dmul h _ => some h
  | .dmulI h _ => some h
  | .dfma h _ => some h
  | .dfmaI h _ => some h
  | .dmin h _ => some h
  | .dminI h _ => some h
  | .dmax h _ => some h
  | .dmaxI h _ => some h
  | .dcmp h _ => some h
  | .dcmpI h _ => some h
  | .drcpa h _ => some h
  | .drsqa h _ => some h
  | .dsqrt h _ => some h
  | .ddiv h _ => some h
  | .ddivI h _ => some h
  | .dclass h _ => some h
  | .dscale h _ => some h
  | .dscaleI h _ => some h
  | .drnd h _ => some h
  | .dfrc h _ => some h
  | .cvt h _ => some h
  | .cvtp h _ => some h
  | .cvtq h _ => some h
  | .deq h _ => some h
  | .bppack h _ => some h
  | .bpunp h _ => some h
  | .b8dec h _ => some h
  | .b8enc h _ => some h
  | .bmux h _ => some h
  | .pack h _ => some h
  | .plop h _ => some h
  | .pmov h _ => some h
  | .poll h _ => some h
  | .xlane h _ => some h
  | .redq h _ => some h
  | .scanq h _ => some h
  | .matchQ h _ => some h
  | .sread h _ => some h
  | .swrite h _ => some h
  | .xset h _ => some h
  | .xadd h _ => some h
  | .claim h _ => some h
  | .surr h _ => some h
  | .maskrd h _ => some h
  | .pad h _ => some h
  | .unpad h _ => some h
  | .ubcast h _ => some h
  | .ld h _ => some h
  | .st h _ => some h
  | .ldro h _ => some h
  | .pref h _ => some h
  | .cinv h _ => some h
  | .cwb h _ => some h
  | .lds h _ => some h
  | .sts h _ => some h
  | .ldacq h _ => some h
  | .strel h _ => some h
  | .atom h _ => some h
  | .red h _ => some h
  | .atoms h _ => some h
  | .fence h _ => some h
  | .barinit h _ => some h
  | .bararv h _ => some h
  | .barwait h _ => some h
  | .bartry h _ => some h
  | .trywait h _ => some h
  | .msync h _ => some h
  | .attach h _ => some h
  | .detach h _ => some h
  | .spawn h _ => some h
  | .qpush h _ => some h
  | .cpy h _ => some h
  | .cpy2d h _ => some h
  | .cpyt h _ => some h
  | .cpymc h _ => some h
  | .cpyout h _ => some h
  | .cpyfill h _ => some h
  | .hset h _ => some h
  | .hwait h _ => some h
  | .hdrain h _ => some h
  | .hfree h _ => some h
  | .hstat h _ => some h
  | .mma h _ => some h
  | .mmas h _ => some h
  | .mmar h _ => some h
  | .mldc h _ => some h
  | .mstc h _ => some h
  | .mzero h _ => some h
  | .mact h _ => some h
  | .tex h _ => some h
  | .tld h _ => some h
  | .tgath h _ => some h
  | .tqry h _ => some h
  | .hgfetch h _ => some h
  | .hgscat h _ => some h
  | .ntex h _ => some h
  | .tpay h _ => some h
  | .mvtx h _ => some h
  | .mprim h _ => some h
  | .mdone h _ => some h
  | .visrd h _ => some h
  | .attr h _ => some h
  | .pixout h _ => some h
  | .rayq h _ => some h
  | .raynext h _ => some h
  | .rayacc h _ => some h
  | .rayend h _ => some h
  | .rayget h _ => some h
  | .asbuild h _ => some h
  | .asinfo h _ => some h
  | .tinit h _ => some h
  | .tsel h _ => some h
  | .texp h _ => some h
  | .tback h _ => some h
  | .tleaf h _ => some h
  | .treuse h _ => some h
  | .tread h _ => some h
  | .coll h _ => some h
  | .collinfo h _ => some h
  | .trap h _ => some h
  | .trapcall h _ => some h
  | .tret h _ => some h
  | .tkill h _ => some h
  | .perf h _ => some h
  | .decsel h _ => some h
  | .queueWake _ _ => none
  | .dependencyWordWrite _ _ => none
  | .signalPacketEffect _ _ => none
  | .gatheringPlacement => none
  | .binQuirePlacement _ _ => none
  | .binTimerExpiry _ _ => none
  | .meshGatheringPlacement _ => none
  | .pendingQuireCreation _ => none
  | .volumeCompletion _ => none
  | .deviceReset => none
  | .controlProcessorRestart => none
  | .lineFetch _ => none
  | .loadDataReturn _ => none
  | .rowRefill _ => none
  | .claimGrant _ => none
  | .tpaySlotTaken _ => none
  | .qpushRingRoom _ => none
  | .barrierWake _ => none
  | .trywaitReevaluation _ => none
  | .trywaitTimeout _ => none
  | .hwaitWake _ => none
  | .asqRequest _ => none
  | .asqReply _ => none
  | .homeAccept _ _ => none
  | .storeAcknowledge _ _ => none
  | .faultEntryRetry _ => none
  | .faultResolution _ _ _ => none
  | .transferStart _ => none
  | .transferPiece _ _ => none
  | .matrixResultLanding _ _ => none
  | .engineResultReturn _ => none
  | .treeOperation _ => none
  | .treeResultLanding _ => none
  | .tleafAppend _ => none
  | .batchTimerExpiry _ _ => none
  | .visibilityResolve _ _ => none
  | .tileFinality _ => none
  | .collectiveExchange _ _ _ _ => none
  | .heartbeatSend _ => none
  | .memberLost _ _ => none
  | .viewMessage _ _ _ => none
  | .coordinatorTimeout _ => none
  | .finalMaskReceive _ _ _ => none
  | .finalMaskTimeout _ => none
  | .collectiveCompletion _ => none
  | .stationReplayFailure _ => none
  | .stationAckTimeout _ => none
  | .peerCompletion _ _ _ _ => none
  | .peerRequestTimeout _ => none
  | .peerInboundRequest _ => none
  | .hostAccess _ => none
  | .contextSwitchIn _ => none
  | .candidateWaitExpiry _ => none
  | .preemptionTimeout _ => none
  | .unitSave _ => none
  | .unitRestore _ => none
  | .preemptionHoldoffExpiry _ => none
  | .datapathError _ _ => none
  | .eccEvent _ => none
  | .patrolScrub _ => none
  | .laneRemapTimeout _ => none
  | .deadlockWatchdog _ => none
  | .externalWaitTimeout _ => none
  | .budgetExhausted _ => none
  | .trapcallReply _ => none
  | .mgPower _ => none
  | .mgClock _ => none
  | .clockModeFallback => none
  | .thermalThrottle _ _ => none
  | .thermalReset _ _ => none
  | .mgEvents _ => none
  | .mgErrors _ => none
  | .mgRegisterWrite _ _ => none
  | .registerContext _ _ => none
  | .releaseContext _ _ => none
  | .enableQueue _ _ _ => none
  | .disableQueue _ _ _ => none
  | .invalidate _ _ _ _ => none
  | .peerEntry _ _ _ => none
  | .inboundWindow _ _ _ _ _ _ => none
  | .stationUp _ _ => none
  | .debugStop _ _ => none
  | .debugResume _ _ => none
  | .debugStep _ _ => none
  | .debugRead _ _ _ => none
  | .debugWrite _ _ _ _ => none
  | .attest _ _ _ => none
  | .readRemap _ _ => none
  | .unknownCommand _ _ => none
  | .linkLevelAcknowledgement _ => none
  | .heartbeatReceive _ _ => none
  | .driverPreemptionRequest _ _ => none
  | .adaptiveClockStep _ => none

end Sys2Proof.Machine
end

