-- ==== Sys2Proof/Machine/State.lean ====
section
/-! DEFINITION. The state of the J384 as plain data: everything the manual gives the machine, from a quire's registers to the
queues, contexts, engines, links and management registers of the module, and the state right after a device reset.
Register files and other sparse tables are lists in ONE canonical form (keys strictly rising, no entry equal to what an unlisted
key reads as); memory likewise. -/
namespace Sys2Proof.Machine

/-- A sparse table: keys strictly rising, no entry equal to the table's default. -/
abbrev FMap (α : Type) := List (Nat × α)

/-- Bytes by key and the poisoned 32-bit words (R467) by key / 4. A key below 2^52 is a physical address; core scratchpads and die
scratchpads stand above it (Machine/Mem.lean gives the keys). An unlisted byte reads as zero (log entry 1). -/
structure Memory where
  cells : List Host.Cell
  marks : List Nat
deriving DecidableEq, Repr

/-! ### A quire -/

/-- One entry of the control stack (R129, R445). -/
inductive StackEntry where
  | reconv (rpc : W64) (full : LaneSet) (pend : Option (W64 × LaneSet))
  | call
  | handler
deriving DecidableEq, Repr

/-- A register write that a member has returned, or that is still outstanding: a vector word per lane, or a scalar. -/
inductive RegWrite where
  | vec (key : Nat) (val : W32) (bad : Bool)
  | scal (n : Nat) (val : W64) (bad : Bool)
  | pred (k : Nat) (lanes val : LaneSet)
  /-- a lane of latch `n`, for a result that is still outstanding when the group ends -/
  | lat (n lane : Nat) (val : W64) (bad : Bool)
deriving DecidableEq, Repr

/-- A result as an error leaves it (R472). -/
def RegWrite.spoil : RegWrite → RegWrite
  | .vec k v _ => .vec k v true
  | .scal n v _ => .scal n v true
  | .pred k l v => .pred k l v
  | .lat n l v _ => .lat n l v true

/-- The record of R525: a member (by slot) whose effect has been accepted, with the register results it returned; for a store over
whose sweep a forced commit was taken, the mask words already committed. -/
structure Accepted where
  slot   : Nat
  writes : List RegWrite
  words  : Option Nat
  /-- the member is a commit point (a store that a commit has committed is none) -/
  point  : Bool
deriving DecidableEq, Repr

/-- A latch of the current line entry (R91, R92): its per-lane values, the poisoned lanes, the destination register whose copy a
switch leaves behind, the type that read it, and whether a switch has fallen since it was written. -/
structure Latch where
  vals   : FMap W64
  bad    : LaneSet
  dst    : Opnd
  /-- an indexed destination: the first register it named in each lane (R87) -/
  at'    : FMap Nat
  /-- registers the writer's result went to: vector numbers, scalars as `2^20 + n` -/
  names  : List Nat
  /-- 64-bit value; sign-extended 32-bit value (R173) -/
  wide   : Bool
  signed : Bool
  nowb   : Bool
  /-- the issue group of the line entry that wrote it -/
  group  : Nat
  /-- a later group of the line entry has written the destination register -/
  overwritten : Bool
  /-- a switch has fallen between the writing group and now -/
  switched : Bool
deriving DecidableEq, Repr

/-- What handler mode adds to a quire's registers (R445): the bank s112–s126 and the sr.fpmode to be given back. -/
structure HandlerBank where
  bank   : FMap W64
  bad    : List Nat
  fpmode : W64
  record : W64
  /-- the record of the group the trap interrupted (R525), by the group's PC: the handler's own commits do not end it -/
  held   : Option (W64 × List Accepted)
  /-- the latches of the line entry that the trap interrupted, its line and its issue groups so far: the trap is a switch (R92) -/
  latches : FMap Latch
  line   : W64
  groups : Nat
deriving DecidableEq, Repr

/-- Everything of a quire that a rename checkpoint restores (R127, R435). Vector registers are keyed `256 * n + lane`, index
registers `256 * k + lane`, predicates `k` in 1–7 (p0 is constant), scalars `n` in 0–126 (s127 is constant). Poison marks (R175)
stand beside the values: `vbad` by vector key, `sbad` by `2 * n` (low word) and `2 * n + 1` (high word). -/
structure Regs where
  v        : FMap W32
  vbad     : List Nat
  s        : FMap W64
  sbad     : List Nat
  p        : FMap LaneSet
  x        : FMap W32
  /-- the lanes of the current path, active and padding (the evaluation set E of R129) -/
  path     : LaneSet
  /-- padding lanes (R223) -/
  padding  : LaneSet
  /-- absent lanes (R147, R223) -/
  absent   : LaneSet
  stack    : List StackEntry
  /-- blocks reserved (R13, R219) and blocks given up but not yet returned to the pool -/
  reserve  : Nat
  surrendered : Nat
  handler  : Option HandlerBank
  entry    : W32
  sig      : W32
  latchedMask : LaneSet
  fpmode   : W64
  fpflags  : W64
  rowprog  : W64
  poison   : Bool
deriving DecidableEq, Repr

/-- What a candidate or a committed hit of a ray query is (R333, R335). -/
structure RayHit where
  t : W32
  u : W32
  v : W32
  inst : W32
  prim : W32
  user : W32
  front : Bool
  procedural : Bool
  bad : Bool
deriving DecidableEq, Repr

/-- An open ray query of one lane (R331): the rays as given, the flags, the hits still to be met, the candidate, the committed hit. -/
structure RayQuery where
  org  : List W32
  dir  : List W32
  tmin : W32
  tmax0 : W32
  tmax : W32
  flags : W32
  root : W64
  bad  : Bool
  /-- (instance, primitive) pairs not yet met; none before the traversal has begun -/
  todo : Option (List (Nat × Nat))
  /-- `State.nextId` when the traversal began: a structure built since then is met old or new (R341) -/
  since : Nat
  cand : Option RayHit
  hit  : Option RayHit
  invalid : Bool
  done : Bool
deriving DecidableEq, Repr

/-- A rename checkpoint (R127, R433, R525). -/
structure Ckpt where
  regs    : Regs
  pc      : W64
  record  : List Accepted
  queries : FMap RayQuery
  /-- names live across the region (R436): first vector, count, scalar mask; none before any REGION -/
  live    : Option (Nat × Nat × Nat)
  /-- the latches of the line entry it stands in, and the issue groups of that entry before it (R92) -/
  latches : FMap Latch
  groupNo : Nat
deriving DecidableEq, Repr

/-- An outstanding register write held by the scoreboard (R122), and which event lands it. -/
inductive PendKind where
  | load | asq | matrix | engine | tree | refill
deriving DecidableEq, Repr

structure Pending where
  kind   : PendKind
  writes : List RegWrite
  /-- the names held pending: `256 * n + word`, scalars as `2^20 + n`, latches as `2^21 + n` -/
  names  : List Nat
  /-- the value has arrived and waits to land -/
  ready  : Bool
  /-- the request this write belongs to (a peer request, an ASQ request, a tree request), where one is outstanding -/
  req    : Nat
  /-- landing it makes an acquire at this scope (R401, R351) -/
  acq    : Option Scope
  /-- the slot of its member while the member's group is not complete (R525) -/
  slot   : Option Nat
  /-- it was outstanding when the checkpoint was taken, and lands in the checkpoint's registers too -/
  old    : Bool
  /-- issued in handler mode: its scalars s112–s126 are the handler bank's (R445) -/
  handler : Bool := false
  /-- what a member of a higher slot of its group wrote too (R78): vector words, scalars as `2^20 + n`, latches as `2^21 + n` -/
  cut    : List Nat := []
  /-- an engine's error has struck its data: what is delivered is poisoned (R472) -/
  spoilt : Bool := false
deriving DecidableEq, Repr

/-- A trap about to be delivered or recorded (R444). -/
structure TrapInfo where
  code   : Nat
  pc     : W64
  resume : W64
  cls    : Nat
  lane   : Nat
  detail : W32
  addr   : W64
  lanes  : W32
deriving DecidableEq, Repr

/-- What a gathering does in its launch (R26). -/
inductive Role where
  | main | task | mesh | pixel
deriving DecidableEq, Repr

/-- A lane in a collation bin (R386, R387): its payload, and the gathering it came from with its coordinates and role. -/
structure BinLane where
  payload : List (W32 × Bool)
  gath    : Nat
  /-- sr.quire of the spawning quire -/
  quire   : Nat
  x : Nat
  y : Nat
  z : Nat
  role    : Role
deriving DecidableEq, Repr

/-- A collation bin (R67, R386): `opened` is the device time at which its first lane entered. -/
structure Bin where
  vol    : Nat
  entry  : W64
  key    : Nat
  join   : Bool
  lanes  : List BinLane
  full   : Bool
  opened : Nat
deriving DecidableEq, Repr

/-- Why a quire stalls at issue (R119). -/
inductive Stall where
  /-- a CLAIM of n blocks, with its place in the order of issue (R219) -/
  | claim (n seq : Nat)
  /-- an access to a line that an engine owns, or a commit of a store to one (R267, R341, R360, R425); no wait of R389's table -/
  | build
  /-- an access that would overtake the quire's own earlier atomics and loads, or its core's earlier stores (R268, R352, R356, R363): engine
  activity for R389 -/
  | order
  /-- a FENCE.sc whose release is not complete (R356): engine activity for R389 -/
  | fence
  | spill | rayq | coll | tleaf | matrix | streamer | tokens
  /-- a SPAWN one of whose lanes finds no bin (R67) -/
  | spawn
  /-- TPAY after its commit (R316): offset, bytes, count -/
  | tpay (off bytes n : Nat)
  /-- QPUSH after its commit (R388), before it takes its number: queue key, packet bytes, destination -/
  | qpush (queue : Nat) (pkt : List W8) (sd : Opnd)
deriving DecidableEq, Repr

/-- A TRYWAIT as it parks (R379). -/
structure TryWait where
  handle : Option Nat
  key    : Nat
  cond   : BitVec 2
  wide   : Bool
  value  : W64
  ext    : Bool
  scope  : Scope
  /-- nanoseconds it waits at most; 2^32 − 1 is no limit -/
  limit  : Nat
  pd     : Nat
  lanes  : LaneSet
deriving DecidableEq, Repr

/-- A TRAPCALL of handler mode in progress (R449): its destination and lanes with the value each asked for, the values still to send, the
record's values that stand in the slot awaited, the record number, the call operands, the replies so far. -/
structure CallWait where
  vd    : Opnd
  pad   : List Nat
  reqs  : List (Nat × W32)
  todo  : List W32
  sent  : List W32
  part  : Nat
  call  : W32
  arg   : W64
  replies : List (W32 × W32)
  slotPa : Option Nat
deriving DecidableEq, Repr

/-- What a quire waits for (R119, R372, R389). -/
inductive Wait where
  | none
  | barwait (key : Nat) (gen : W16) (scope : Scope)
  /-- on a barrier word that a BARINIT has initialised anew: nothing releases it (R376) -/
  | barlost
  | tryw (t : TryWait)
  | msync (mask : W16)
  | hwait (h : Nat) (full : Bool)
  /-- on a fault entry (R248): the entry, the trap that resolution 2 delivers (R249), whether a matrix instruction kept its rows (R288) -/
  | fault (id : Nat) (t : TrapInfo) (matrix : Bool)
  | stall (k : Stall)
  | call
  /-- an arrival (R377) or an acquiring atomic (R350, R367) waiting for its reply: engine activity, not a park; `refused` where the
  arrival failed its test -/
  | reply (refused : Bool)
  /-- a rollback that does not complete while replies of the quire's atomics are owed (R364) -/
  | drain
  /-- a trap whose record does not translate waits on its fault entry (R444) -/
  | deliver (t : TrapInfo) (fault : Nat)
  /-- a tree instruction whose lanes faulted waits on the entry (R402) -/
  | treeFault (id : Nat)
deriving DecidableEq, Repr

/-- One unit of a store (R235, R343): up to eight bytes inside one aligned eight, which become visible together; their poison, whether
its line leaves the L1 as it commits (R243, R251), the gathering whose scratchpad portion it goes to where it goes to
another's (R57). -/
structure StoreRec where
  key  : Nat
  bytes : List W8
  bad  : Bool
  evict : Bool
  portion : Option Nat
deriving DecidableEq, Repr

/-- The issue group in progress (R115–R117): its start, its members' slots, how many have run, whether one of them committed. -/
structure Group where
  start : W64
  slots : List Nat
  done  : Nat
  committed : Bool
  /-- the store log, its scratchpad entries and the open ray queries before the group, which a precise trap gives back -/
  store : List StoreRec
  entries : Nat
  queries : FMap RayQuery
  /-- slots of members whose stores of this group stand uncommitted -/
  stored : List Nat
  /-- registers the group writes: vector numbers, scalars as `2^20 + n` (R92) -/
  wrote  : List Nat
  /-- the latches before the group -/
  latches : FMap Latch
  /-- a transfer has been taken: the line entry ends after the group (R78) -/
  left   : Bool
  /-- the trap of a tree instruction that resolution 2 left with status 8, taken when the group completes (R402) -/
  owed   : Option TrapInfo
  /-- traversal slots held for closed queries before the group (R331) -/
  heldSlots : Nat
  /-- by slot, what a member writes that a member of a higher slot writes too: vector words as in `Regs.v`, scalars as `2^20 + n`, latches
  as `2^21 + n` (R78) -/
  cut    : List (Nat × List Nat)
  /-- rows the group displaced from the checkpoint's map (R127) -/
  mapped : List Nat
  /-- clocks it holds its partition for (R115) -/
  clocks : Nat
deriving DecidableEq, Repr

/-- How a quire stands in a pre-emption of its unit (R456). -/
inductive SaveState where
  | running | atPoint | saved
deriving DecidableEq, Repr

structure Quire where
  gath   : Nat
  index  : Nat
  part   : Nat
  slot   : Nat
  regs   : Regs
  /-- the registers as they stood before the issue group in progress: what its members read (R78) -/
  snap   : Option Regs
  grp    : Option Group
  /-- PC of the group being issued, of the member being executed, of the fall-through (R130), and where issue goes on -/
  pc     : W64
  selfPc : W64
  fall   : W64
  npc    : W64
  /-- the next entry of a line is a transfer that R74 checks against the target mask -/
  checked : Bool
  /-- the 64 bytes of the line the quire is running (R73), by the line's virtual address; none before it is fetched -/
  line   : Option (W64 × List W8)
  /-- a sealed line (R93): no group of it issued yet, or between two of its groups; none outside one, and once the seal has lapsed -/
  sealing : Option Bool
  /-- a line whose parity failed once and is fetched again (R75) -/
  refetch : Option W64
  latches : FMap Latch
  groupNo : Nat
  /-- the record of a group a trap interrupted, from TRET until the group completes (R525) -/
  held   : Option (W64 × List Accepted)
  wait   : Wait
  /-- nanoseconds the present wait has lasted, and those of an external wait that its watchdog has counted (R391, R453) -/
  waited : Nat
  watched : Nat
  stopped : Bool
  stepping : Bool
  store  : List StoreRec
  /-- L1 lines and scratchpad entries of the region write budget (R237) -/
  spadEntries : Nat
  ckpt   : Ckpt
  pend   : List Pending
  queries : FMap RayQuery
  /-- slots of the traversal unit still held for queries that RAYEND closed (R331) -/
  heldSlots : Nat
  /-- budget count (R392) and quire PERF counters 0–5 (R451) -/
  budget : Nat
  perf   : FMap W64
  age    : Nat
  passed : Nat
  promoted : Option Nat
  /-- another quire's sweep of the partition not yet counted (R120): its clocks, and whether this quire was ready as it began -/
  sweep  : Option (Nat × Bool)
  /-- datapath errors in the current region (R469) and SIGCK mismatches (R441): count, pc, entry -/
  errors : Nat
  sigFails : Nat × W64 × W32
  /-- generations at which the quire has arrived, by barrier-word key (R381) -/
  arrived : FMap Nat
  save   : SaveState
  /-- a lane remap not yet taken up: the physical lane the quire still uses, and the device time of the remap (R476) -/
  oldLane : Option (Nat × Nat)
  /-- rows by the name they hold, `256 * n + word`; a row that only the checkpoint's map holds as `2^20` above it (R127). Spilled to the
  spill area (R126); on chip, the least recently written first; names mapped anew since the checkpoint -/
  spilled : List Nat
  rows   : List Nat
  /-- spilled names of the group it stands before that a refill has read for it (R126) -/
  refilled : List Nat
  fresh  : List Nat
  /-- blocks granted to a CLAIM that stalled and has not yet issued again (R219) -/
  claimed : Nat
  /-- the clock of a YIELD: the quire stands back in the next one (R148) -/
  yielded : Option Nat
  /-- an operand the matrix unit holds for it under keep still stands (R291) -/
  keepB  : Bool
  /-- the latches that TRET brings back with the line entry its trap interrupted, with its line and issue groups (R92) -/
  resumed : Option (FMap Latch × W64 × Nat)
  /-- a TRAPCALL of handler mode that has written a record: no rollback undoes it (R449) -/
  call   : Option CallWait
  /-- TRET has left handler mode and the resume PC has not yet entered its line (R448) -/
  returning : Bool
  /-- no group has completed since the checkpoint was taken or returned to: its record is that of the group at its restart PC -/
  recordLive : Bool
  /-- bytes of peers that a matrix instruction held in its place has been given so far, by physical address (R415) -/
  peerGot : FMap (W8 × Bool)
deriving DecidableEq, Repr

/-! ### Gatherings -/

inductive HState where
  | free | filling | full | draining
deriving DecidableEq, Repr

/-- A handle record (R257). -/
structure Handle where
  fill   : Nat
  size   : Nat
  offset : Nat
  error  : Nat
  multicast : Bool
  state  : HState
deriving DecidableEq, Repr

/-- An open MSYNC episode (R385). -/
structure Episode where
  mask    : W16
  arrived : W16
deriving DecidableEq, Repr

/-- A vertex slot of a meshlet (R319). -/
structure Vertex where
  pos  : List W32
  attr : List W32
deriving DecidableEq, Repr

/-- A primitive slot of a meshlet (R320). -/
structure Prim where
  i0 : Nat
  i1 : Nat
  i2 : Nat
  key : W16
deriving DecidableEq, Repr

/-- The meshlet of a mesh gathering (R318). -/
structure Meshlet where
  verts  : FMap Vertex
  prims  : FMap Prim
  closed : Bool
deriving DecidableEq, Repr

/-- A quire asked for by ATTACH and not yet created (R382). -/
structure PendingQuire where
  entry : W64
  arg   : W64
  from' : Nat
deriving DecidableEq, Repr

/-- What a save holds of scratchpad bytes, barrier words included (R458): offset, byte, poison. -/
structure SavedByte where
  off  : Nat
  byte : W8
  bad  : Bool
deriving DecidableEq, Repr

/-- The save of a gathering (R458, R462): what it holds of the scratchpad portion, and the stretch of the context's save pool it takes. -/
structure GathSave where
  bytes : List SavedByte
  off   : Nat
  size  : Nat
deriving DecidableEq, Repr

structure Gathering where
  vol    : Nat
  role   : Role
  x : Nat
  y : Nat
  z : Nat
  /-- logical core (sr.core, R52), the physical core it is bound to (R53), gathering slot -/
  core   : Nat
  pcore  : Nat
  slot   : Nat
  /-- the gathering's portion of its core's scratchpad: start and size in bytes -/
  base   : Nat
  size   : Nat
  quires : List Nat
  handles : FMap Handle
  tracked : List Nat
  episodes : List Episode
  wanted : List PendingQuire
  /-- ring slots of a task gathering (R315–R317): mesh gatherings still owed and asked for, and running, per slot; the order the slots
  became FULL -/
  owed   : FMap (Nat × Nat)
  running : FMap Nat
  ringOrder : List Nat
  /-- the task gathering and ring slot a mesh gathering serves -/
  parent : Option (Nat × Nat)
  meshlet : Meshlet
  /-- handles that leaf appends are filling (R408): batch size, timer, and the device time of the first append -/
  batches : FMap (Nat × Nat × Nat)
  shrink : Bool
  minQuires : Nat
  /-- the tile range (R459), the scratchpad ranges the quires' current entries cite, the words barrier operations marked (R458) -/
  tile   : Option (Nat × Nat)
  ranges : FMap (Nat × Nat)
  marked : List Nat
  /-- the device time of the pre-emption request that stands (R455); the cluster the unit must leave; when the hold-off of R462 began -/
  asked  : Option Nat
  avoid  : Option Nat
  holdoff : Option Nat
  saved  : Option GathSave
  /-- bins whose lanes were saved with it (R458): `opened` holds the time they had run -/
  bins   : List Bin
  retired : Bool
  /-- the gathering was placed as part of a bin launch -/
  fromBin : Bool
  /-- its place in the order of placements (R42) -/
  placed : Nat
  /-- containment mode as its placement found it (R4) -/
  contain : Nat
  /-- bytes of its scratchpad portion, ring buffers included, and handle records it holds, for as long as it stands (R481) -/
  portion : Nat
  records : Nat
deriving DecidableEq, Repr

/-! ### Launches -/

/-- A launch packet (R20), as accepted. -/
structure Packet where
  type   : Nat
  flags  : Nat
  seq    : Nat
  desc   : Nat
  param  : Nat
  vx : Nat
  vy : Nat
  vz : Nat
  width  : Nat
  minQ   : Nat
  maxQ   : Nat
  producer : Nat
  alloc  : Nat
  reserve : Nat
  spad   : Nat
  prio   : Nat
  contain : Nat
  spanW  : Nat
  spanH  : Nat
  binTimer : Nat
  budget : Nat
  record : Nat
  depWord : Nat
  depVal : Nat
  depCmp : Nat
  inline : List W64
deriving DecidableEq, Repr

/-- A kernel descriptor (R15), as read at acceptance. -/
structure Descriptor where
  table  : Nat
  code   : Nat
  lines  : Nat
  paramSize : Nat
  liveVa : Nat
  liveN  : Nat
  width  : Nat
  minAlloc : Nat
  minSpad : Nat
  handles : Nat
  producer : Nat
deriving DecidableEq, Repr

/-- A render-target descriptor (R310). -/
structure Target where
  va : Nat
  format : Nat
  attrs : Nat
  flags : Nat
  width : Nat
  height : Nat
  geom : Nat
  capacity : Nat
  tileOff : Nat
  errMap : Nat
  payload : Nat
  clear : List W32
deriving DecidableEq, Repr

/-- A kept primitive between MDONE and the end of its resolving (R321–R325): its serial, its record bytes, whether the record
has been written or abandoned, and the pixels still to be resolved, as a cursor into the target in row order; with the physical core and
the sr.core of its MDONE. -/
structure PrimWork where
  serial : Nat
  gath   : Nat
  core   : Nat
  place  : Nat
  record : List W8
  written : Bool
  cursor : Nat
deriving DecidableEq, Repr

/-- The render side of a launch. -/
structure Render where
  mesh   : Descriptor
  pixel  : Descriptor
  target : Target
  accept : Bool
  nextSerial : Nat
  work   : List PrimWork
  final  : Bool
  /-- once final (R324): the place, in tile order, from which on covered pixels have not yet entered a bin; the physical spawn core of
  each tile (R311); the empty pixels whose clear write is not yet made -/
  spawnCursor : Nat
  cores : List Nat
  clears : List Nat
  /-- engine writes of the launch that were abandoned on resolution 2: the error class (R321, R324) -/
  abandoned : Option Nat
deriving DecidableEq, Repr

/-- How a volume has been told to end (R482, R483). -/
inductive Ending where
  | running | error (cls : Nat) | killed (cls : Nat) | silent
deriving DecidableEq, Repr

/-- A shadow page of a sealed launch (R46, R485): the physical page shadowed, its slot in the context's shadow pool, the physical
page of the pool that holds the shadow version, and the 32-byte sectors the launch wrote. -/
structure ShadowPage where
  page : Nat
  /-- its page of the shadow pool; none for the copy of a page's parameters that the J384 keeps itself for a replay (R25, R49) -/
  slot : Option Nat
  copy : Nat
  sectors : List Nat
  /-- of such a copy: the parameters lie in bytes `lo` to below `hi` of the page -/
  lo : Nat
  hi : Nat
deriving DecidableEq, Repr

structure Volume where
  ctx    : Nat
  queue  : Nat
  pkt    : Packet
  desc   : Descriptor
  prio   : Nat
  contain : Nat
  depth  : Nat
  parent : Option Nat
  children : Nat
  /-- the decode table in force at acceptance (R105) -/
  table  : Nat
  /-- next coordinate triple (or span) to place, in volume order (R63) -/
  next   : Nat
  live   : Nat
  params : List W8
  /-- the least containment mode that its gatherings have been placed under (R7) -/
  used   : Option Nat
  shadow : List ShadowPage
  sealedOn : Bool
  broken : Bool
  replays : Nat
  render : Option Render
  ending : Ending
  collMask : Option W64
  collSeen : Bool
  order  : Nat
  done   : Bool
deriving DecidableEq, Repr

/-! ### Contexts and queues -/

/-- A pending fault (R248): page, access kind, ring slot, whether its entry has been written, who waits on it. -/
inductive Waiter where
  | quire (id : Nat) | transfer (id : Nat) | tree (req : Nat) | delivery (quire : Nat)
  | records (vol : Nat) | clears (vol : Nat)
deriving DecidableEq, Repr

structure FaultEnt where
  va     : W64
  code   : Nat
  access : Nat
  level  : Nat
  seq    : Nat
  core   : Nat
  written : Bool
  slot   : Nat
  waiters : List Waiter
deriving DecidableEq, Repr

/-- A registered context (R495) and its run-time indices. -/
structure Context where
  /-- PA of the context record (R495), read again at switch-in for the modes of R4 -/
  record : Nat
  root   : Nat
  handler : W64
  qtable : Nat
  qcount : Nat
  cap    : Nat
  watchdog : Bool
  loadTables : Bool
  debugBkpt : Bool
  extTimeout : Nat
  trapArea : Nat
  faultRing : Nat
  faultSize : Nat
  windowLen : Nat
  windowBase : Nat
  callRing : Nat
  callSize : Nat
  marker : W32
  spill : Nat × Nat
  save  : Nat × Nat
  shadow : Nat × Nat
  table  : Nat
  faultIx : Nat
  callIx : Nat
  faults : FMap FaultEnt
  nextFault : Nat
  /-- spill-area slots of 128 bytes in use (R126): the quire, and the row, or the control-stack entry as `2^22` above its depth (R129) -/
  spillMap : FMap (Nat × Nat)
  /-- where the 4 KiB pages of the pieces in use lie: a piece is pinned from its first slot to its last (R126) -/
  pins : FMap Nat
  /-- the stretch of the save pool its windows take while it is switched out (R465) -/
  windowSave : Option (Nat × Nat)
  resident : Bool
  residentSince : Nat
  /-- it asks for a slot (R464), since this device time -/
  candidate : Option Nat
  /-- when it last had a gathering or an acceptable packet; nanoseconds for which only device-internal waits have stood (R390) -/
  busyAt : Nat
  stuck  : Nat
  /-- it is being switched out (R465) -/
  leaving : Bool
  /-- what the die-scratchpad windows hold, while the context is switched out (R465) -/
  windows : Memory
  event8 : Bool
deriving DecidableEq, Repr

inductive QState where
  | disabled | running | waiting | halted
deriving DecidableEq, Repr

/-- An enabled queue (R31–R39). -/
structure Queue where
  ring   : Nat
  n      : Nat
  ceiling : Nat
  weight : Nat
  deviceSide : Bool
  poisonAccept : Bool
  tailVa : Nat
  progVa : Nat
  expected : Nat
  accepted : Nat
  completed : Nat
  submitted : Nat
  state  : QState
  fault  : Nat
  /-- a packet accepted that waits on its dependency word (R37, R38) -/
  blocked : Option Packet
  /-- accepted packets not yet counted in `completed`: sequence number, finished -/
  open'  : List (Nat × Bool)
  /-- signal packets whose effect is still to come (R39) -/
  signals : List Packet
  /-- parents of device-side packets by sequence number (R44) -/
  parents : FMap Nat
  /-- launches accepted in the current weighted round (R41) -/
  round  : Nat
deriving DecidableEq, Repr

/-! ### Engines -/

/-- What moves the bytes of a transfer (R264), ASBUILD and COLL included (R340, R422). -/
inductive XferKind where
  | cpy (src : W64) (dspad : Bool)
  | cpy2d (src : W64) (dspad : Bool) (rows rowBytes : Nat) (stride : W64)
  | cpyt (desc : W64) (coords : W64)
  | cpyout (dst : W64) (dspad : Bool)
  | fill (pattern : W32) (bad : Bool)
  /-- one target of the CPYMC `cmd`: its targets share one reading of the source (R266) -/
  | mc (src : W64) (dspad : Bool) (cmd : Nat)
  | build (desc dst scr : W64) (refit : Bool)
  | coll (id : Nat)
deriving DecidableEq, Repr

/-- A tensor descriptor (R265) as read. -/
structure Tensor where
  base : Nat
  esize : Nat
  dims : Nat
  extents : List Nat
  strides : List Int
  box : List Nat
  fill : List W8
deriving DecidableEq, Repr

structure Transfer where
  gath   : Nat
  handle : Nat
  kind   : XferKind
  bytes  : Nat
  started : Bool
  /-- pieces delivered; of a build, not empty once it has begun to write its structure (R339) -/
  pieces : List Nat
  fault  : Option Nat
  ctx    : Nat
  vol    : Nat
  /-- the gathering whose streamer runs it, and its core -/
  issuer : Nat
  /-- the tensor descriptor as read at its start (R265); bytes read and not yet delivered, by piece (R266) -/
  tensor : Option Tensor
  got    : FMap (List (W8 × Bool))
deriving DecidableEq, Repr

/-- A matrix instruction waiting for its unit (R286): the instruction with the registers it read at issue, its PC, the flags its results raise, and
the memory elements as read at issue, in order, with their poison (R281). -/
structure MatrixJob where
  quire  : Nat
  core   : Nat
  part   : Nat
  flags  : W64
  req    : Nat
  ins    : Instr
  view   : Regs
  pc     : W64
  old    : List (Nat × Bool)
  /-- the launch it belongs to, and, of an MSTC, what it writes: key and bytes of each element -/
  vol    : Nat
  stores : List (Nat × List W8)
deriving DecidableEq, Repr

/-- The B operand held under keep (R291): what named it, and its columns and block scales as read, with their poison. -/
structure HeldB where
  core : Nat
  part : Nat
  quire : Nat
  key  : List Nat
  vals : List (List (Nat × Bool))
  scales : List (List (Nat × Bool))
deriving DecidableEq, Repr

/-- An atomic on its way to its home (R363–R369): requester, lanes with their keys and operands. -/
inductive AsqOp where
  | atom (op : BitVec 4) (wide : Bool)
  | arrive
deriving DecidableEq, Repr

structure AsqLane where
  lane : Nat
  key  : Nat
  v    : W64
  c    : W64
  bad  : Bool
  /-- the gathering whose scratchpad portion it goes to, where it is another's (R57) -/
  portion : Option Nat
deriving DecidableEq, Repr

structure AsqReq where
  id    : Nat
  quire : Option Nat
  vol   : Nat
  core  : Nat
  home  : Nat
  op    : AsqOp
  lanes : List AsqLane
  /-- destination of the replies: none for RED -/
  dst   : Option Opnd
  acq   : Option Scope
  /-- forwarded to a peer, whose replies are awaited (R416) -/
  sent  : Bool
deriving DecidableEq, Repr

/-- A homed tree (R393–R397). -/
structure Tree where
  ctx    : Nat
  desc   : W64
  pa     : Nat
  pool   : W64
  capacity : Nat
  freeHead : Nat
  root   : Nat
  gen    : Nat
  c      : W32
  fpv    : W32
  vloss  : W32
  twoPlayer : Bool
  maxDepth : Nat
  handle : Nat
  batch  : Nat
  timer  : Nat
deriving DecidableEq, Repr

inductive TreeOp where
  | init
  | sel
  | exp (leaf gen : W32) (list : W64) (count : W32)
  | back (leaf gen : W32) (val : W64)
  | leaf (leaf gen tag : W32) (handles : Nat)
  | reuse (node : W32)
  | read (node : W32)
deriving DecidableEq, Repr

/-- How far a tree operation has come (R402, R404, R409, R410): a descent with the nodes whose VL it raised, deepest first; the undoing of
one, with the status it ends in and the fault behind it; the nodes a backup has still to update, and the sign; those a sweep has.
Each node is held with its physical address. -/
inductive TreeProg where
  | fresh
  | descend (depth : Nat) (path : List (Nat × Nat))
  | undo (path : List (Nat × Nat)) (status : Nat) (fault : Option (Nat × Nat × Nat × Nat))
  | backup (rest : List (Nat × Nat)) (leaf neg : Bool)
  | sweep (rest : List (Nat × Nat))
deriving DecidableEq, Repr

/-- A lane's request to a tree engine (R398–R402): the instruction it belongs to, who asked, what for, where its results go, the physical address of
its descriptor once the engine has it, how far it has come, and the fault entry it waits on. -/
structure TreeReq where
  id    : Nat
  ins   : Nat
  quire : Nat
  gath  : Nat
  vol   : Nat
  ctx   : Nat
  index : Nat
  lane  : Nat
  pc    : W64
  desc  : W64
  home  : Option Nat
  op    : TreeOp
  dst   : Opnd
  prog  : TreeProg
  faulted : Option Nat
  faultVa : Nat
deriving DecidableEq, Repr

/-- A leaf append waiting at the engine (R408), and the tree it came through. -/
structure Append where
  ctx    : Nat
  tree   : Nat
  gath   : Nat
  handle : Nat
  bytes  : List W8
  batch  : Nat
  timer  : Nat
deriving DecidableEq, Repr

/-- What a build took in: kind, opaque mark, primitives. -/
structure Shape where
  kind   : Nat
  opaque' : Bool
  prims  : List (Option (List W32))
deriving DecidableEq, Repr

/-- An acceleration structure as built (R338–R341): the layout in memory is the J384's own, so the model keeps its content, the bytes it
takes, what stood there before it, and `State.nextId` at its completion. -/
structure Accel where
  ctx    : Nat
  va     : W64
  valid  : Bool
  kind   : Nat
  opaque' : Bool
  refit  : Bool
  sig    : List W8
  /-- triangles as nine FP32, boxes as six FP32, instances as their 64 record bytes in 32-bit words; none for one never hit -/
  prims  : List (Option (List W32))
  size   : Nat
  was    : Option Shape
  built  : Nat
deriving DecidableEq, Repr

/-- One piece of a core's outbound stream (R357), with the quire it comes from: a committed store on its way to its home; a fence token with its
scope's code, and whether a FENCE left it, which makes the quire's next write releasing (R351); an atomic request not yet served, releasing (and so behind
its quire's tokens) or not, with the aligned eights its lanes name. -/
inductive OutItem where
  | store (owner : Nat) (r : StoreRec)
  | token (owner scope : Nat) (fence : Bool)
  | atom (owner id : Nat) (rel : Bool) (eights : List Nat)
deriving DecidableEq, Repr

/-- A line of the read-only cache (R238): line address and the 128 bytes it held, with their poison. -/
structure RoLine where
  line  : Nat
  bytes : List W8
  marks : List Nat
deriving DecidableEq, Repr

/-- A physical core: the committed bytes its L1 still holds, in the core order (R347), its clean valid words (R230), its read-only
cache, its collation bins, and its PERF counters (R451). -/
structure Core where
  out    : List OutItem
  clean  : FMap (W32 × Bool)
  ro     : List RoLine
  bins   : FMap Bin
  /-- fence counters toward the four compute dies (R357), and acceptances not yet acknowledged -/
  cnt    : FMap Nat
  acks   : List Nat
  perf   : FMap W64
deriving DecidableEq, Repr

/-- A last-level TLB entry (R245): context, the first 4 KiB page it maps and how many it maps, their first frame, permissions, whether a
write has gone through it, and the physical address of the table entry that filled it (R246). -/
structure TlbEnt where
  die    : Nat
  ctx    : Nat
  vpn    : Nat
  pages  : Nat
  frame  : Nat
  level  : Nat
  dirty  : Bool
  writable : Bool
  noexec : Bool
  uncached : Bool
  entry  : Nat
deriving DecidableEq, Repr

/-- What an outstanding request to a peer is for (R415–R417): a load whose pending register writes stand in a quire, with the bytes the
quire's own uncommitted stores supply; source bytes of one piece of a transfer, or of the transfers of one CPYMC, from an offset on; a write, counted toward a home die where a core's release counts it
(R357); one lane of an atomic the home forwards. -/
inductive PeerUse where
  | load (quire : Nat) (sx : Bool) (own : List (Nat × W8))
  | piece (cmd piece off : Nat)
  /-- one piece of a CPYOUT to the peer -/
  | wrote (xfer piece : Nat)
  | write (die : Option Nat)
  | atomic (asq lane : Nat)
  /-- bytes of an operand of a quire's matrix instruction, from an address on; of quire 0, which is none, once nothing waits for them -/
  | operand (quire pa : Nat)
deriving DecidableEq, Repr

/-- An outstanding request to a UALink peer (R414–R417): its peer-table entry, remote address, issuing core, bytes to write (empty
for a read) and length. -/
structure PeerOut where
  id    : Nat
  entry : Nat
  addr  : Nat
  core  : Nat
  data  : List W8
  /-- poisoned words of the data -/
  marks : List Nat
  len   : Nat
  /-- device time at which it left -/
  sentAt : Nat
  /-- its entry was not valid or lost when it was sent, or was marked lost while it was outstanding (R414, R419) -/
  lost  : Bool
  use   : PeerUse
deriving DecidableEq, Repr

/-- The state COLLINFO reports (R432). -/
inductive CollPhase where
  | waiting | exchanging | agreeing | ended
deriving DecidableEq, Repr

/-- A collective (R422–R431): what COLL named, what its descriptor and group table said once they were read, and how far it has come. -/
structure Coll where
  ctx    : Nat
  vol    : Nat
  desc   : W64
  kind   : Nat
  op     : Nat
  ty     : Nat
  /-- the descriptor has been read -/
  opened : Bool
  n      : Nat
  rank   : Nat
  group  : Nat
  ids    : List Nat
  src    : W64
  dst    : W64
  count  : Nat
  record : W64
  maskVa : W64
  seq    : Nat
  root   : Nat
  phase  : CollPhase
  /-- ranks this member has declared lost, ranks it has learnt another has -/
  lost   : List Nat
  learnt : List Nat
  /-- contributions received, by rank -/
  data   : FMap (List W8)
  /-- device time of the last heartbeat from each rank, and of the last one sent -/
  heard  : FMap Nat
  sentAt : Nat
  /-- device time at which the rounds of agreement began -/
  round  : Option Nat
  /-- views received, by rank -/
  views  : FMap Nat
  /-- the final mask, with the rank of the coordinator it came from -/
  mask   : Option (Nat × Nat)
  /-- this member has sent a final mask as coordinator -/
  decided : Bool
  status : Nat
  cls    : Nat
  error  : Nat
  /-- the destination has been written -/
  written : Bool
  /-- how it ends is settled: what is left is to write it down -/
  settled : Bool
  /-- nothing is left to write to the mask buffer; the record is given up (R430) -/
  noMask : Bool
  noRecord : Bool
deriving DecidableEq, Repr

/-- A message the collective engine sends to a rank (R425, R427, R428): what the member gives with its contribution, a heartbeat, a view, a
final mask. -/
inductive CollMsg where
  | part (coll rank : Nat) (params : CollParams) (data : List W8)
  | heartbeat (coll rank : Nat) | view (coll rank mask : Nat) | final (coll rank mask : Nat)
deriving DecidableEq, Repr

/-- An inbound UALink window (R418). -/
structure Window where
  ctx  : Nat
  va   : W64
  len  : Nat
  writable : Bool
deriving DecidableEq, Repr

/-- A command that finishes only when something else has (R247, R453, R494): releasing a context, invalidating pages, stopping quires. -/
inductive Cmd where
  | release (blk ctx : Nat)
  | invalidate (blk ctx : Nat) (va : W64) (pages : Nat)
  | stop (blk : Nat) (t : DbgTarget)
deriving DecidableEq, Repr

/-! ### The device -/

structure State where
  mem    : Memory
  quires : FMap Quire
  gaths  : FMap Gathering
  vols   : FMap Volume
  ctxs   : FMap Context
  /-- queues by `4096 * context slot + queue number` -/
  queues : FMap Queue
  cores  : FMap Core
  tlb    : List TlbEnt
  xfers  : FMap Transfer
  mjobs  : List MatrixJob
  held   : List HeldB
  asq    : List AsqReq
  trees  : List Tree
  treqs  : List TreeReq
  apps   : List Append
  accels : List Accel
  peers  : FMap W64
  losses : FMap W64
  peerOut : List PeerOut
  windows : FMap Window
  /-- UALink stations that are up, and those that have gone down under R413 since they were last brought up -/
  stations : Nat
  fallen : Nat
  /-- device times at which the flits a station sent and has no acknowledgement for left, oldest first (R413) -/
  flits  : FMap (List Nat)
  colls  : FMap Coll
  ended  : List (Nat × Nat)
  outbox : List CollMsg
  /-- decode tables 1–3 (R104), 1,024 entries each; one never loaded is absent and has no valid entry -/
  tables : FMap (List W16)
  /-- span maps (R53): logical core -> physical core, where not the identity; unavailable logical cores; retired physical cores -/
  spanMap : FMap Nat
  unavail : List Nat
  retired : List Nat
  /-- lane remap tables by `4 * physical core + partition` (R475); way masks (R477); row remap tables (R478); device times of the events of each
  lane, way and row (R474) -/
  lanes  : FMap W64
  ways   : FMap Nat
  rowsOut : FMap (List Nat)
  events : FMap (List Nat)
  /-- spare lanes in use, and as the firmware has set them for the next device reset (R4) -/
  spare  : Bool
  spareNext : Bool
  /-- an ASQ on its way to another host core (R524): by cluster, the core it still runs on, and the first request that waits in the fabric -/
  asqMoves : FMap (Nat × Nat)
  /-- MG_POWER step, MG_CLOCK mode and step, junction temperatures, ring registers, drop counters (R489–R492) -/
  power  : Nat
  clockMode : Nat
  clockStep : Nat
  temps  : FMap Nat
  inlet  : Nat
  evRing : W64
  evIx   : Nat
  erRing : W64
  erIx   : Nat
  evDrops : W32
  erDrops : W32
  interrupts : Nat
  epoch  : Nat
  boot   : Nat
  linkHalf : Bool
  linkUp : Bool
  measures : List W64
  sigsLeft : Nat
  /-- arithmetic clocks and device nanoseconds since reset (R27, R216) -/
  clock  : Nat
  ns     : Nat
  dieTlbMiss : FMap W64
  /-- what the J384 last gave back to the host or to a peer: the bytes of a read or an old value; none for a request it refused (the model's
  own record, log entry 3) -/
  lastReply : Option (List W8)
  /-- the quire whose instruction is executed, and the external events that come next, first one first -/
  cur    : Nat
  agenda : List Instr
  /-- the command that runs and has not finished (R493) -/
  cmd    : Option Cmd
  /-- fresh identities; the counter that free values are drawn with (the model's own, log entry 3) -/
  nextId : Nat
  tick   : Nat
deriving DecidableEq, Repr

/-- Why the machine stops with a fault. None of the manual's own behaviours ends here; each is a state no run from reset reaches. -/
inductive Fault where
  /-- raised by an instruction when the quire it runs in names a gathering, launch or context the state does not hold: such a state is
  not one of the machine's. Safe: no claim about the machine is proved from it. -/
  | dangling
deriving DecidableEq, Repr

/-- Why a step has no meaning. -/
inductive Refusal where
  /-- raised by exec for an instruction the model gives no meaning yet, by its mnemonic. Safe. -/
  | notModelled (mnemonic : String)
  /-- raised when an instruction is executed and no quire is current: nothing of the machine executes it. Safe. -/
  | noQuire
deriving DecidableEq, Repr

def Memory.empty : Memory := { cells := [], marks := [] }

/-- The J384 right after a device reset: nothing resident, no context registered, span maps the identity (R524), stations down (R413),
MG_POWER at step 56 (R490), the device epoch raised to one (R36), every other register at the value the manual or the log gives. -/
def State.reset : State :=
  { mem := Memory.empty, quires := [], gaths := [], vols := [], ctxs := [], queues := [], cores := [], tlb := [], xfers := [],
    mjobs := [], held := [], asq := [], trees := [], treqs := [], apps := [], accels := [], peers := [], losses := [], peerOut := [],
    windows := [], stations := 0, fallen := 0, flits := [], colls := [], ended := [], outbox := [], tables := [], spanMap := [], unavail := [], retired := [],
    lanes := [], ways := [], rowsOut := [], events := [], spare := true, spareNext := true, asqMoves := [], power := 56, clockMode := 0, clockStep := 14, temps := [],
    inlet := 0, evRing := 0, evIx := 0, erRing := 0, erIx := 0, evDrops := 0, erDrops := 0, interrupts := 0, epoch := 1, boot := 0,
    linkHalf := false, linkUp := false, measures := Config.measures, sigsLeft := 1048576, clock := 0, ns := 0, dieTlbMiss := [], lastReply := none, cur := 0,
    agenda := [], cmd := none, nextId := 1, tick := 0 }

end Sys2Proof.Machine
end

