-- ==== Sys2Proof/Machine/Table.lean ====
section
/-! DEFINITION. Sparse tables and sorted sets of naturals in their one canonical form, and the state's small counters:
the operations every other file of the machine reads and writes its tables with. -/
namespace Sys2Proof.Machine

/-- The entry at key `k`, if the table lists one. -/
def FMap.find {α : Type} : FMap α → Nat → Option α
  | [], _ => none
  | (k', v) :: m, k => if k' = k then some v else FMap.find m k

/-- The table with `v` at key `k`. -/
def FMap.insert {α : Type} : FMap α → Nat → α → FMap α
  | [], k, v => [(k, v)]
  | (k', v') :: m, k, v =>
    if k < k' then (k, v) :: (k', v') :: m
    else if k = k' then (k, v) :: m
    else (k', v') :: FMap.insert m k v

/-- The table without an entry at key `k`. -/
def FMap.remove {α : Type} : FMap α → Nat → FMap α
  | [], _ => []
  | (k', v') :: m, k => if k' = k then m else (k', v') :: FMap.remove m k

/-- The value at key `k`, where an unlisted key reads `d`. -/
def FMap.val {α : Type} (d : α) (m : FMap α) (k : Nat) : α := (FMap.find m k).getD d

/-- The table with value `v` at `k`: a value equal to the default `d` is not listed. -/
def FMap.put {α : Type} [DecidableEq α] (d : α) (m : FMap α) (k : Nat) (v : α) : FMap α :=
  if v = d then FMap.remove m k else FMap.insert m k v

/-- The entry at `k`, where listed, changed by `f`. -/
def FMap.modify {α : Type} (m : FMap α) (k : Nat) (f : α → α) : FMap α :=
  match FMap.find m k with
  | some v => FMap.insert m k (f v)
  | none => m

/-- The keys of a table. -/
def FMap.dom {α : Type} (m : FMap α) : List Nat := m.map Prod.fst

/-- Keys strictly rising. -/
def FMap.sorted {α : Type} : FMap α → Bool
  | [] => true
  | [_] => true
  | (k, _) :: (k', v') :: m => decide (k < k') && FMap.sorted ((k', v') :: m)

/-- Sorted sets of naturals. -/
def setIns : List Nat → Nat → List Nat
  | [], k => [k]
  | k' :: l, k => if k < k' then k :: k' :: l else if k = k' then k' :: l else k' :: setIns l k

def setDel : List Nat → Nat → List Nat
  | [], _ => []
  | k' :: l, k => if k' = k then l else k' :: setDel l k

def setPut (l : List Nat) (k : Nat) (b : Bool) : List Nat := if b then setIns l k else setDel l k

def setHas (l : List Nat) (k : Nat) : Bool := l.contains k

/-- Strictly rising. -/
def setSorted : List Nat → Bool
  | [] => true
  | [_] => true
  | a :: b :: l => decide (a < b) && setSorted (b :: l)

/-- A fresh free value: what an opaque constant gives at the counter, and the counter moved on (log entry 3). -/
def State.bump (s : State) : State := { s with tick := s.tick + 1 }

/-- A fresh identity. -/
def State.fresh (s : State) : Nat × State := (s.nextId, { s with nextId := s.nextId + 1 })

def State.setQuire (s : State) (id : Nat) (q : Quire) : State := { s with quires := FMap.insert s.quires id q }
def State.setGath (s : State) (id : Nat) (g : Gathering) : State := { s with gaths := FMap.insert s.gaths id g }
def State.setVol (s : State) (id : Nat) (v : Volume) : State := { s with vols := FMap.insert s.vols id v }
def State.setCtx (s : State) (id : Nat) (c : Context) : State := { s with ctxs := FMap.insert s.ctxs id c }
def State.setMem (s : State) (m : Memory) : State := { s with mem := m }

def State.modQuire (s : State) (id : Nat) (f : Quire → Quire) : State := { s with quires := FMap.modify s.quires id f }
def State.modGath (s : State) (id : Nat) (f : Gathering → Gathering) : State := { s with gaths := FMap.modify s.gaths id f }
def State.modVol (s : State) (id : Nat) (f : Volume → Volume) : State := { s with vols := FMap.modify s.vols id f }
def State.modCtx (s : State) (id : Nat) (f : Context → Context) : State := { s with ctxs := FMap.modify s.ctxs id f }

/-- What a physical core holds before it has run anything. -/
def Core.fresh : Core := { out := [], clean := [], ro := [], bins := [], cnt := [], acks := [], perf := [] }

def State.core (s : State) (c : Nat) : Core := FMap.val Core.fresh s.cores c
def State.setCore (s : State) (c : Nat) (v : Core) : State := { s with cores := FMap.put Core.fresh s.cores c v }
def State.modCore (s : State) (c : Nat) (f : Core → Core) : State := s.setCore c (f (s.core c))

/-- Add `n` to PERF counter `k` of a core, modulo 2^64 (R451). -/
def State.corePerf (s : State) (c k n : Nat) : State :=
  s.modCore c fun v => { v with perf := FMap.put 0 v.perf k (FMap.val 0 v.perf k + BitVec.ofNat 64 n) }

def Quire.perfAdd (q : Quire) (k n : Nat) : Quire :=
  { q with perf := FMap.put 0 q.perf k (FMap.val 0 q.perf k + BitVec.ofNat 64 n) }

end Sys2Proof.Machine
end

