-- ==== Sys2Proof/Machine/Mem.lean ====
section
/-! DEFINITION. Memory: the keys under which physical addresses and the two kinds of scratchpad lie, the bytes and poison marks at a
key, the ranges of physical addresses and the home of each (R239, R240), and a core's view of committed memory (R230–R234, R347,
R354, R357). -/
namespace Sys2Proof.Machine

/-! ### Keys -/

/-- Key of byte `off` of physical core `c`'s scratchpad. Where a portion lies within a core no program can see: each is given a 512 KiB stretch
of its own, and R58's limit is counted apart from it. -/
def spadKey (c off : Nat) : Nat := 2 ^ 52 + c * 2 ^ 26 + off
/-- Key of byte `off` of die `d`'s scratchpad (32 MiB each). -/
def dspadKey (d off : Nat) : Nat := 2 ^ 53 + d * 2 ^ 25 + off
def keyIsGeneric (k : Nat) : Bool := decide (k < 2 ^ 52)
def keyIsSpad (k : Nat) : Bool := decide (2 ^ 52 ≤ k ∧ k < 2 ^ 53)
/-- The physical core whose scratchpad a key lies in. -/
def keyCore (k : Nat) : Nat := (k - 2 ^ 52) / 2 ^ 26
/-- The die whose scratchpad a key lies in. -/
def keyDie (k : Nat) : Nat := (k - 2 ^ 53) / 2 ^ 25

/-- Where a physical address leads (R239). -/
inductive PaKind where
  | first | second | peer | host | none
deriving DecidableEq, Repr

def paKind (pa : Nat) : PaKind :=
  if pa < 2 ^ 39 then .first
  else if 2 ^ 40 ≤ pa ∧ pa < 3 * 2 ^ 40 then .second
  else if 2 ^ 50 ≤ pa ∧ pa < 2 ^ 51 then .peer
  else if 2 ^ 51 ≤ pa ∧ pa < 2 ^ 52 then .host
  else .none

/-- A DRAM tier of the module, where poison is held by the sector (R467). -/
def keyIsDram (k : Nat) : Bool := paKind k == .first || paKind k == .second

/-- The die and the cluster within it that are home to a physical address (R240). -/
def homeDie (pa : Nat) : Nat :=
  if paKind pa = .first then (Nat.xor (Nat.xor (pa / 2 ^ 12 % 8) (pa / 2 ^ 18 % 8)) (pa / 2 ^ 24 % 8)) / 2
  else Nat.xor (Nat.xor (pa / 2 ^ 12 % 4) (pa / 2 ^ 18 % 4)) (pa / 2 ^ 24 % 4)
def homeCluster (pa : Nat) : Nat := pa / 2 ^ 12 % 12

/-- Compute die of a physical core: 96 cores to a die (R52). -/
def dieOfCore (c : Nat) : Nat := c / 96

/-- The compute die toward which a store to a key is counted (R357). -/
def keyHomeDie (k : Nat) : Nat :=
  if keyIsGeneric k then homeDie k else if keyIsSpad k then dieOfCore (keyCore k) else keyDie k

/-- Where a request is served: the ASQ of a cluster for a generic key, the scratchpad ALUs of a core or of a die (R240, R363, R365). -/
def homeOf (k : Nat) : Nat :=
  if keyIsGeneric k then 12 * homeDie k + homeCluster k else if keyIsSpad k then 1000 + keyCore k else 2000 + keyDie k

/-- Cluster of a physical core, numbered over the package: 12 to a die (R524). -/
def clusterOf (p : Nat) : Nat :=
  let i := p % 96
  12 * (p / 96) + 4 * (i / 8 / 4) + i % 8 / 2
/-- Physical cores of a cluster, its core 0 first. -/
def clusterCores (cl : Nat) : List Nat :=
  let d := cl / 12
  let k := cl % 12
  let base := 96 * d + 32 * (k / 4) + 2 * (k % 4)
  [0, 1, 8, 9, 16, 17, 24, 25].map (base + ·)
/-- The first unretired core of a cluster. -/
def State.clusterHead (s : State) (cl : Nat) : Option Nat := (clusterCores cl).find? fun p => !s.retired.contains p
/-- The host core of a cluster's ASQ (R524): its first unretired core, else that of the next cluster of the die that has one. -/
def State.hostCore (s : State) (cl : Nat) : Option Nat := (List.range 12).findSome? fun k => s.clusterHead (12 * (cl / 12) + (cl % 12 + k) % 12)
/-- The core a cluster's ASQ runs on: until its queue has emptied the one it is leaving (R524). -/
def State.asqCore (s : State) (cl : Nat) : Option Nat := ((FMap.find s.asqMoves cl).map Prod.fst).or (s.hostCore cl)

/-! ### Bytes and marks -/

def cellFind : List Host.Cell → Nat → W8
  | [], _ => 0
  | (k', b) :: m, k => if k' = k then b else cellFind m k

def cellPut : List Host.Cell → Nat → W8 → List Host.Cell
  | [], k, b => if b = 0 then [] else [(k, b)]
  | (k', b') :: m, k, b =>
    if k < k' then (if b = 0 then (k', b') :: m else (k, b) :: (k', b') :: m)
    else if k = k' then (if b = 0 then m else (k, b) :: m)
    else (k', b') :: cellPut m k b

/-- Addresses strictly rising and no byte equal to what an unlisted address reads as. -/
def cellsWf : List Host.Cell → Bool
  | [] => true
  | [(_, b)] => decide (b ≠ 0)
  | (k, b) :: (k', b') :: m => decide (b ≠ 0) && decide (k < k') && cellsWf ((k', b') :: m)

/-- The byte at a key; an unlisted byte reads zero (log entry 1). -/
def Memory.byte (m : Memory) (k : Nat) : W8 := cellFind m.cells k
/-- The poison mark of the word that holds a key. -/
def Memory.bad (m : Memory) (k : Nat) : Bool := setHas m.marks (k / 4)
def Memory.setByte (m : Memory) (k : Nat) (b : W8) : Memory := { m with cells := cellPut m.cells k b }
def Memory.setBad (m : Memory) (k : Nat) (b : Bool) : Memory := { m with marks := setPut m.marks (k / 4) b }
/-- The canonical form of memory. -/
def Memory.wf (m : Memory) : Bool := cellsWf m.cells && setSorted m.marks

def Memory.bytes (m : Memory) (k n : Nat) : List W8 := (List.range n).map fun i => m.byte (k + i)
def Memory.setBytes (m : Memory) (k : Nat) : List W8 → Memory
  | [] => m
  | b :: bs => Memory.setBytes (m.setByte k b) (k + 1) bs
/-- A little-endian number of `n` bytes (R2). -/
def Memory.num (m : Memory) (k n : Nat) : Nat := leValue (m.bytes k n)
def Memory.setNum (m : Memory) (k n v : Nat) : Memory := m.setBytes k (leBytes n v)
/-- Any word of `n` bytes from `k` is marked. -/
def Memory.anyBad (m : Memory) (k n : Nat) : Bool := (List.range n).any fun i => m.bad (k + i)

/-- The mark of a word after a write: a poisoned write marks it, an unmarked write of the whole word clears it (R467). A sector of DRAM is written
through its L2, which holds a mark for each word, and goes out to DRAM as `spread` says. -/
def Memory.markWrite (m : Memory) (k : Nat) (bad whole : Bool) : Memory :=
  if bad then m.setBad k true else if whole then m.setBad k false else m
/-- A sector written out to DRAM is marked whole when any of its words is marked, and comes back so (R467). -/
def Memory.spread (m : Memory) (sector : Nat) : Memory :=
  if m.anyBad (32 * sector) 32 then (List.range 8).foldl (fun m i => m.setBad (32 * sector + 4 * i) true) m else m
/-- Sectors of DRAM some of whose words are marked and some not: those that stand in an L2. -/
def Memory.partMarked (m : Memory) : List Nat :=
  ((m.marks.filter fun w => keyIsDram (4 * w)).map (· / 8)).eraseDups.filter fun x => !(List.range 8).all fun i => m.bad (32 * x + 4 * i)

/-- A run of memory as bytes nothing has written (log entry 1). -/
def Memory.clear (m : Memory) (k n : Nat) : Memory :=
  { cells := m.cells.filter fun c => !decide (k ≤ c.1 ∧ c.1 < k + n), marks := m.marks.filter fun w => !decide (k ≤ 4 * w ∧ 4 * w < k + n) }

/-! ### Units of stores (R343) -/

/-- The bytes a run of `n` from `a` and a run of `m` from `b` have in common are some. -/
def runsMeet (a n b m : Nat) : Bool := decide (a < b + m) && decide (b < a + n)
/-- The byte a store writes at a key. -/
def StoreRec.byteAt (r : StoreRec) (k : Nat) : Option W8 := if r.key ≤ k then r.bytes[k - r.key]? else none
/-- The 32-bit words a store writes in. -/
def StoreRec.words (r : StoreRec) : List Nat :=
  (List.range ((r.key + r.bytes.length - 1) / 4 + 1 - r.key / 4)).map (r.key / 4 + ·)
/-- A store writes the whole of a word. -/
def StoreRec.whole (r : StoreRec) (w : Nat) : Bool := decide (r.key ≤ 4 * w) && decide (4 * w + 4 ≤ r.key + r.bytes.length)
/-- A store writes in a range of keys. -/
def StoreRec.meets (r : StoreRec) (k n : Nat) : Bool := runsMeet r.key r.bytes.length k n

/-- The youngest byte among stores at a key (R233, R347). -/
def storeByte (l : List StoreRec) (k : Nat) : Option W8 := l.foldl (fun acc r => (r.byteAt k).or acc) none
/-- The mark of word `w` after stores, over a base mark. -/
def storeBad (l : List StoreRec) (w : Nat) (base : Bool) : Bool :=
  l.foldl (fun acc r => if r.words.contains w then (if r.bad then true else if r.whole w then false else acc) else acc) base

/-- A store accepted at its home, whole (R354). -/
def Memory.accept (m : Memory) (r : StoreRec) : Memory :=
  r.words.foldl (fun m w => m.markWrite (4 * w) r.bad (r.whole w)) (m.setBytes r.key r.bytes)

/-- An engine's or a host's write of a run of bytes, unmarked: words written whole lose their marks (R467). -/
def Memory.writeClean (m : Memory) (k : Nat) (bs : List W8) : Memory :=
  let m := m.setBytes k bs
  { m with marks := m.marks.filter fun w => !(decide (k ≤ 4 * w) && decide (4 * w + 4 ≤ k + bs.length)) }

/-- A run of bytes written with the marks their words carry: first the bytes, then a mark on each word `marks` names (by key / 4). -/
def Memory.writeMarked (m : Memory) (k : Nat) (bs : List W8) (marks : List Nat) : Memory :=
  marks.foldl (fun m w => m.markWrite (4 * w) true false) (m.writeClean k bs)

/-! ### A core's view of committed memory -/

def OutItem.rec? : OutItem → Option StoreRec
  | .store _ r => some r
  | _ => none
/-- The committed stores of a core that have not reached their homes. -/
def outStores (out : List OutItem) : List StoreRec := out.filterMap OutItem.rec?

/-- The 32-bit word at `4 * w` and its mark, at its home. -/
def homeWord (m : Memory) (w : Nat) : W32 × Bool := (BitVec.ofNat 32 (m.num (4 * w) 4), m.bad (4 * w))

/-- A word with the bytes of stores over it. -/
def overlay (l : List StoreRec) (w : Nat) (base : W32 × Bool) : W32 × Bool :=
  (BitVec.ofNat 32 (leValue ((List.range 4).map fun i => (storeByte l (4 * w + i)).getD (base.1.extractLsb' (8 * i) 8))), storeBad l w base.2)

/-- A word as the core order and the home give it: the core's committed stores on their way over the home's bytes (R232, R347). -/
def State.mergedWord (s : State) (c w : Nat) : W32 × Bool := overlay (outStores (s.core c).out) w (homeWord s.mem w)

/-- A merging fill (R232): the sector that holds word `w` is fetched, and its words become valid in the core's L1; of what stood there only
bytes that the core wrote stay. -/
def State.fillSector (s : State) (c w : Nat) : State :=
  s.modCore c fun v => { v with clean := (List.range 8).foldl (fun m i => FMap.insert m (w / 8 * 8 + i) (s.mergedWord c (w / 8 * 8 + i))) v.clean }

/-- No word of a range that a core holds valid outlives a newer one that it has written or read past its L1 (R344, R353). -/
def State.observed (s : State) (c k n : Nat) : State :=
  s.modCore c fun v => { v with clean := v.clean.filter fun w => !runsMeet (4 * w.1) 4 k n }

/-- Committed words of one sector as core `c` sees them, with their marks: all from its L1, where all are valid and the line has not been evicted,
which may be older than the home (R230, R358); else what the core order and the home give, and the L1 then holds that (R232). An access that passes
the L1 by leaves no older word there. -/
def State.coreWords (s : State) (c : Nat) (ws : List Nat) (cached : Bool) : List (W32 × Bool) × State :=
  let now := ws.map (s.mergedWord c)
  let held := ws.filterMap (FMap.find (s.core c).clean)
  let fill := fun s : State => match ws with
    | [] => s
    | w :: _ => s.fillSector c w
  if !cached then (now, ws.foldl (fun s w => s.observed c (4 * w) 4) s)
  else if held.length < ws.length then (now, fill s)
  else if held = now then (now, s)
  else if Config.free .stale s.tick % 2 = 0 then (held, s.bump)
  else (now, fill s.bump)

/-- Bytes an engine of core `c` reads (R360): the core's committed stores, then the homes. -/
def State.engineByte (s : State) (c k : Nat) : W8 := (storeByte (outStores (s.core c).out) k).getD (s.mem.byte k)
def State.engineBad (s : State) (c k : Nat) : Bool := storeBad (outStores (s.core c).out) (k / 4) (s.mem.bad k)
def State.engineBytes (s : State) (c k n : Nat) : List W8 := (List.range n).map fun i => s.engineByte c (k + i)
/-- A number of `n` bytes as core `c` reads it past its L1 (R354). -/
def State.coreNum (s : State) (c k n : Nat) : Nat := leValue (s.engineBytes c k n)

/-! ### The outbound stream (R347, R354, R357) -/

/-- A store in a core's valid words (R231): a valid word takes the bytes, a word written whole becomes valid. -/
def cleanStore (m : FMap (W32 × Bool)) (r : StoreRec) : FMap (W32 × Bool) :=
  r.words.foldl (fun m w =>
    match FMap.find m w with
    | some old => FMap.insert m w (overlay [r] w old)
    | none => if r.whole w then FMap.insert m w (overlay [r] w (0, false)) else m) m

/-- A store is committed into its core's order (R347): every quire of the core sees it from now on; its home has still to accept it. A store
past the L1 takes its line out of it (R243, R251). -/
def State.commitUnit (s : State) (c owner : Nat) (r : StoreRec) : State :=
  s.modCore c fun v =>
    { v with
      out := v.out ++ [.store owner r],
      clean := if !keyIsGeneric r.key then v.clean
        else if r.evict then v.clean.filter fun w => w.1 / 32 != r.key / 128
        else cleanStore v.clean r }

/-- A fence token picked by `p` stands before item `i`. -/
def tokenBefore (p : OutItem → Bool) (l : List OutItem) (i : Nat) : Bool :=
  (l.take i).any fun it => match it with
    | .token _ _ _ => p it
    | _ => false
def tokenAhead (l : List OutItem) (i : Nat) : Bool := tokenBefore (fun _ => true) l i

/-- An item that a later store in a range must follow: a store of the range, or an atomic that names an eight of it (R353, R370). -/
def OutItem.blocks (k n : Nat) : OutItem → Bool
  | .store _ r => r.meets k n
  | .atom _ _ _ l => l.any fun g => runsMeet (8 * g) 8 k n
  | .token _ _ _ => false

/-- Store `i` of a stream may be accepted at its home now: no token and nothing it must follow stands before it. -/
def outReady (l : List OutItem) (i : Nat) : Bool :=
  match l[i]? with
  | some (.store _ r) => !tokenAhead l i && !((l.take i).any (OutItem.blocks r.key r.bytes.length))
  | _ => false

/-- A token may retire behind what is left before it: no store, no atomic of its own quire (R352), at sys scope none of the core to a peer
(R420); and at die scope or wider every counter of the core is zero (R350, R357). -/
def tokenDone (zero : Bool) (before : List OutItem) (owner scope : Nat) : Bool :=
  (zero || decide (scope < 3)) && before.all fun it => match it with
    | .store _ _ => false
    | .atom o _ _ l => o != owner && !(scope == 5 && l.any fun g => keyIsGeneric (8 * g) && paKind (8 * g) == .peer)
    | .token _ _ _ => true

/-- The stream without the tokens that retire; `kept` is what stays before it. -/
def retireTokens (zero : Bool) (kept : List OutItem) : List OutItem → List OutItem
  | [] => kept
  | .token o sc f :: l => retireTokens zero (if tokenDone zero kept o sc then kept else kept ++ [.token o sc f]) l
  | it :: l => retireTokens zero (kept ++ [it]) l

/-- Every counter of a core is zero. -/
def Core.quiet (v : Core) : Bool := v.cnt.all fun e => e.2 == 0
def State.settle (s : State) (c : Nat) : State := s.modCore c fun v => { v with out := retireTokens v.quiet [] v.out }

/-- The gathering of a scratchpad portion has retired (R57). -/
def State.portionGone (s : State) (p : Option Nat) : Bool :=
  match p with
  | none => false
  | some gid => match FMap.find s.gaths gid with
    | some g => g.retired
    | none => true

/-- The byte of a page that a key in the J384's own copy of its parameters stands for (R49). -/
def State.copiedFrom (s : State) (k : Nat) : Option Nat :=
  if k < 2 ^ 54 then none
  else (s.vols.findSome? fun v => v.2.shadow.find? fun p => p.slot.isNone && p.copy / 2 ^ 12 == k / 2 ^ 12).map fun p => 2 ^ 12 * p.page + k % 2 ^ 12
/-- What a launch writes to such a copy is written to the page itself as well: only what R485 shadows is held back. -/
def State.mirror (s : State) (k n : Nat) : State :=
  match s.copiedFrom k with
  | none => s
  | some pa =>
    let marks := (((List.range n).filter fun i => s.mem.bad (k + i)).map fun i => (pa + i) / 4).eraseDups
    { s with mem := s.mem.writeMarked pa (s.mem.bytes k n) marks }

/-- A store in memory; bytes for another's portion whose gathering has retired are discarded (R57). -/
def State.takeStore (s : State) (r : StoreRec) : State :=
  if s.portionGone r.portion then s else ({ s with mem := s.mem.accept r } : State).mirror r.key r.bytes.length

/-- The home accepts item `i` of core `c`'s stream: the store is in memory, and its acceptance waits to be acknowledged (R354, R357). -/
def State.acceptOut (s : State) (c i : Nat) : State :=
  match (s.core c).out[i]? with
  | some (.store _ r) =>
    if outReady (s.core c).out i then
      let d := keyHomeDie r.key
      (s.takeStore r).modCore c fun v =>
        { v with out := v.out.eraseIdx i, cnt := FMap.put 0 v.cnt d (FMap.val 0 v.cnt d + 1), acks := v.acks ++ [d] }
    else s
  | _ => s

/-- Die `d` acknowledges one accepted store of core `c` (R357). -/
def State.ackOut (s : State) (c d : Nat) : State :=
  let v := s.core c
  if v.acks.contains d then
    (s.setCore c { v with acks := v.acks.erase d, cnt := FMap.put 0 v.cnt d (FMap.val 0 v.cnt d - 1) }).settle c
  else s

/-- Tokens and waiting stores of a core (R357): at most 8 and 256. -/
def tokenCount (l : List OutItem) : Nat := (l.filter fun it => match it with | .token _ _ _ => true | _ => false).length
def waitingStores : List OutItem → Nat
  | [] => 0
  | .token _ _ _ :: l => (outStores l).length
  | _ :: l => waitingStores l

/-- A store that leaves for a UALink peer (R415). -/
def StoreRec.far (r : StoreRec) : Bool := keyIsGeneric r.key && paKind r.key == .peer

/-- Stores that `p` picks go to their homes in the core's order, and are acknowledged with it; tokens retire in turn; what a token or an earlier
item holds back stays, and so do bytes for a peer (R234, R357). `kept` is what stays of the stream so far, `quiet` whether no acceptance is outstanding. -/
def State.drainOut (p : StoreRec → Bool) (quiet : Bool) (kept : List OutItem) : List OutItem → State → List OutItem × State
  | [], s => (kept, s)
  | .store o r :: l, s =>
    if p r && !r.far && outReady (kept ++ [.store o r]) kept.length then State.drainOut p quiet kept l (s.takeStore r)
    else State.drainOut p quiet (kept ++ [.store o r]) l s
  | .token o sc f :: l, s => State.drainOut p quiet (if tokenDone quiet kept o sc then kept else kept ++ [.token o sc f]) l s
  | it :: l, s => State.drainOut p quiet (kept ++ [it]) l s

/-- A recall from one core (R234, R359): the committed bytes of the stores `p` picks that are free to leave reach their homes. -/
def State.recallCore (s : State) (c : Nat) (p : StoreRec → Bool) : State :=
  if (outStores (s.core c).out).any p then
    let r := State.drainOut p (s.core c).quiet [] (s.core c).out s
    r.2.modCore c fun v => { v with out := r.1 }
  else s

/-- The whole stream as far as it can go (R358): every acceptance is acknowledged, stores reach their homes and tokens retire in turn. -/
def State.drainCore (s : State) (c : Nat) : State :=
  if (s.core c).out.isEmpty && (s.core c).acks.isEmpty then s
  else
    let cnt := (s.core c).acks.foldl (fun m d => FMap.put 0 m d (FMap.val 0 m d - 1)) (s.core c).cnt
    let r := State.drainOut (fun _ => true) (cnt.all fun e => e.2 == 0) [] (s.core c).out s
    r.2.modCore c fun v => { v with out := r.1, cnt := cnt, acks := [] }

/-- The line at `line` (128 bytes) is recalled from every core. -/
def State.recall (s : State) (line : Nat) : State :=
  s.cores.foldl (fun s e => s.recallCore e.1 fun r => r.key / 128 == line) s

/-- Every byte in a range of keys is recalled from every core. -/
def State.recallRange (s : State) (k n : Nat) : State :=
  s.cores.foldl (fun s e => s.recallCore e.1 fun r => r.meets k n) s

/-- What is left of a stream when the stores `p` picks that are free to leave have left. -/
def leftOf (p : StoreRec → Bool) (quiet : Bool) (kept : List OutItem) : List OutItem → List OutItem
  | [] => kept
  | .store o r :: l => leftOf p quiet (if p r && outReady (kept ++ [.store o r]) kept.length then kept else kept ++ [.store o r]) l
  | .token o sc f :: l => leftOf p quiet (if tokenDone quiet kept o sc then kept else kept ++ [.token o sc f]) l
  | it :: l => leftOf p quiet (kept ++ [it]) l
/-- A stream holds a store in a range that cannot leave yet: what would follow it at its home has to wait. -/
def stuckIn (quiet : Bool) (out : List OutItem) (k n : Nat) : Bool :=
  (outStores out).any (fun r => r.meets k n) && (outStores (leftOf (fun r => r.meets k n) quiet [] out)).any fun r => r.meets k n

/-- Place a fence token of a scope (R350, R357). -/
def State.placeToken (s : State) (c owner scope : Nat) (fence : Bool) : State :=
  (s.modCore c fun v => { v with out := v.out ++ [.token owner scope fence] }).settle c

/-- No store and no token of the core is on its way, and every acceptance is acknowledged. -/
def Core.drained (v : Core) : Bool := v.out.isEmpty && v.acks.isEmpty

/-- Every release a quire has begun is complete: none of its fence tokens is left. -/
def Core.released (v : Core) (owner : Nat) : Bool :=
  !v.out.any fun it => match it with
    | .token o _ _ => o == owner
    | _ => false

/-- The last item of a quire in its core's stream is the token of a FENCE: its next write is the releasing one (R351). -/
def fenceLast (out : List OutItem) (owner : Nat) : Bool :=
  out.foldl (fun b it => match it with
    | .store o _ => if o = owner then false else b
    | .atom o _ _ _ => if o = owner then false else b
    | .token o _ f => if o = owner then f else b) false

/-- An acquire at span scope or wider: every clean valid word of the core's L1 goes (R350). -/
def State.acquire (s : State) (c : Nat) (sc : Scope) : State :=
  match sc with
  | .quire => s
  | .gath => s
  | _ => s.modCore c fun v => { v with clean := [] }

end Sys2Proof.Machine
end

