-- ==== Sys2Proof/Machine/Xlate.lean ====
section
/-! DEFINITION. Translation of generic addresses (R242–R247): the five-level walk, permissions combined along it, the last-level TLB,
the accessed and dirty bits. -/
namespace Sys2Proof.Machine

/-- Kinds of access (R248, byte 13 of a fault entry). -/
inductive Acc where
  | load | store | atomic | fetch | eread | ewrite | walk
deriving DecidableEq, Repr

def Acc.code : Acc → Nat
  | .load => 0 | .store => 1 | .atomic => 2 | .fetch => 3 | .eread => 4 | .ewrite => 5 | .walk => 6
/-- The access needs write permission (R243). -/
def Acc.writes : Acc → Bool
  | .store => true | .atomic => true | .ewrite => true | _ => false

/-- A translation that fails: trap code, level at which the walk stopped, the access reported, the address (R248), the lanes at fault (0 for an
access of no lane). -/
structure XFault where
  code   : Nat
  level  : Nat
  access : Nat
  va     : Nat
  lanes  : LaneSet := 0
deriving DecidableEq, Repr

/-- A leaf reached by a walk: frame of the 4 KiB page, permissions, memory type, the address of the leaf entry. -/
structure Leaf where
  frame  : Nat
  writable : Bool
  noexec : Bool
  uncached : Bool
  entry  : Nat
  level  : Nat
deriving DecidableEq, Repr

inductive WalkRes where
  | leaf (l : Leaf)
  | fault (code level : Nat) (walk : Bool)
deriving DecidableEq, Repr

/-- The sign of a 57-bit virtual address fills bits [63:57] (R225). -/
def canonical (va : Nat) : Bool :=
  let v := va % 2 ^ 64
  decide (v < 2 ^ 56) || decide (2 ^ 64 - 2 ^ 56 ≤ v)

/-- A page table may stand in either tier or in host memory (R242). -/
def tablePlace (pa : Nat) : Bool :=
  match paKind pa with
  | .first => true
  | .second => true
  | .host => true
  | _ => false

/-- One entry of a walk (R243), at a level, with the permissions gathered so far; `below` is the walk of the next level. -/
def walkEntry (m : Memory) (va level table : Nat) (w nx : Bool) (below : Nat → Bool → Bool → WalkRes) : WalkRes :=
  let at' := table + 8 * (va / 2 ^ (12 + 9 * level) % 512)
  let e := m.num at' 8
  let leaf := e.testBit 7
  let frame := bits e 51 12 * 2 ^ 12
  let size := 2 ^ (12 + 9 * level)
  let w := w && e.testBit 1
  let nx := nx || e.testBit 63
  let badLevel := (level == 0 && !leaf) || (decide (3 ≤ level) && leaf)
  let contig := e.testBit 58
  let malformed := decide (bits e 62 59 ≠ 0) || decide (bits e 55 52 ≠ 0) || decide (bits e 4 2 ≠ 0)
    || decide (2 ≤ bits e 57 56) || badLevel || (contig && !(leaf && decide (level < 2)))
    || (leaf && decide (frame % size ≠ 0))
  if !e.testBit 0 then .fault 0x0C level false
  else if malformed then .fault 0x0D level false
  else if leaf then
    .leaf { frame := frame + va % size / 2 ^ 12 * 2 ^ 12, writable := w, noexec := nx, uncached := bits e 57 56 == 1, entry := at', level := level }
  else if tablePlace frame then below frame w nx
  else .fault 0x0D level true

/-- The walk from a table of a level down (R242). -/
def walkFrom (m : Memory) (va : Nat) : Nat → Nat → Bool → Bool → WalkRes
  | 0, table, w, nx => walkEntry m va 0 table w nx fun _ _ _ => .fault 0x0D 0 false
  | level + 1, table, w, nx => walkEntry m va (level + 1) table w nx fun t w nx => walkFrom m va level t w nx

def walk (m : Memory) (root va : Nat) : WalkRes := walkFrom m va 4 root true false

/-- The pages a TLB entry made from a leaf maps (R244, R245): 4 KiB or a 64 KiB group, 2 MiB or a 64 MiB group, 64 MiB of a 1 GiB leaf. A
group is one only where all its entries say so and agree. -/
def groupOk (m : Memory) (entry n step : Nat) : Bool :=
  let first := entry / (8 * n) * (8 * n)
  let e0 := m.num first 8
  let addr := fun e : Nat => bits e 51 12 * 2 ^ 12
  decide (addr e0 % (n * step) = 0) && (List.range n).all fun i =>
    let e := m.num (first + 8 * i) 8
    e.testBit 0 && e.testBit 7 && e.testBit 58 && bits e 63 56 == bits e0 63 56 && e.testBit 1 == e0.testBit 1 && addr e == addr e0 + i * step
def Leaf.pages (m : Memory) (l : Leaf) : Nat :=
  match l.level with
  | 0 => if groupOk m l.entry 16 (2 ^ 12) then 16 else 1
  | 1 => if groupOk m l.entry 32 (2 ^ 21) then 2 ^ 14 else 2 ^ 9
  | _ => 2 ^ 14

/-- The TLB entry that a fill of page `vpn` makes (R245). -/
def Leaf.fill (m : Memory) (l : Leaf) (die ctx vpn : Nat) (dirty : Bool) : TlbEnt :=
  let n := l.pages m
  { die := die, ctx := ctx, vpn := vpn / n * n, pages := n, frame := l.frame - vpn % n * 2 ^ 12, level := l.level, dirty := dirty,
    writable := l.writable, noexec := l.noexec, uncached := l.uncached, entry := l.entry }

/-- Set bits of an entry of a table at its home, after every L1 has given up what it holds of it (R246, R359). -/
def State.orEntry (s : State) (pa : Nat) (b : W8) : State :=
  let s := s.recallRange pa 8
  if s.mem.byte pa ||| b = s.mem.byte pa then s else { s with mem := s.mem.setByte pa (s.mem.byte pa ||| b) }

def TlbEnt.covers (t : TlbEnt) (die ctx vpn : Nat) : Bool := t.die == die && t.ctx == ctx && decide (t.vpn ≤ vpn ∧ vpn < t.vpn + t.pages)
/-- The frame of a page an entry maps. -/
def TlbEnt.frameOf (t : TlbEnt) (vpn : Nat) : Nat := t.frame + (vpn - t.vpn) * 2 ^ 12
def tlbFind (l : List TlbEnt) (die ctx vpn : Nat) : Option TlbEnt := l.find? fun t => t.covers die ctx vpn

/-- Entries a die's TLB holds (R245). -/
def tlbSize : Nat := 12288
/-- A fill: entries that overlap the new one go, and the oldest of the die when it is full. -/
def tlbFill (l : List TlbEnt) (t : TlbEnt) : List TlbEnt :=
  let rest := l.filter fun u => !(u.die == t.die && u.ctx == t.ctx && runsMeet u.vpn u.pages t.vpn t.pages)
  let mine := rest.filter fun u => u.die == t.die
  t :: (if mine.length < tlbSize then rest else match mine.getLast? with
    | some u => rest.erase u
    | none => rest)

/-- What a translation gives: the address, its memory type, the level of the leaf. -/
structure Xlated where
  pa : Nat
  uncached : Bool
  level : Nat
deriving DecidableEq, Repr

/-- Permission, then the range of the physical address (R239, R243). -/
def checkLeaf (va : Nat) (acc : Acc) (frame : Nat) (w nx unc : Bool) (level : Nat) : Except XFault Xlated :=
  let pa := frame + va % 2 ^ 12
  if (acc.writes && !w) || (acc == .fetch && nx) || paKind pa == .none then
    .error { code := 0x0D, level := level, access := acc.code, va := va }
  else .ok { pa := pa, uncached := unc, level := level }
def TlbEnt.check (t : TlbEnt) (va vpn : Nat) (acc : Acc) : Except XFault Xlated :=
  checkLeaf va acc (t.frameOf vpn) t.writable t.noexec t.uncached t.level

/-- Entry of the peer table a physical address selects (R414). -/
def peerIndex (pa : Nat) : Nat := pa / 2 ^ 42 % 256
def State.peerEntry (s : State) (i : Nat) : W64 := FMap.val 0 s.peers i
/-- An access to a peer through an entry that is not valid is a translation fault with code 0x0D (R414). -/
def State.peerCheck (s : State) (va : Nat) (acc : Acc) (r : Except XFault Xlated) : Except XFault Xlated :=
  match r with
  | .ok x => if paKind x.pa == .peer && !(s.peerEntry (peerIndex x.pa)).getLsbD 0 then
      .error { code := 0x0D, level := x.level, access := acc.code, va := va } else .ok x
  | .error f => .error f

/-- A walk is made (R451): a miss of a die's TLB. -/
def State.countMiss (s : State) (die : Nat) : State := { s with dieTlbMiss := FMap.put 0 s.dieTlbMiss die (FMap.val 0 s.dieTlbMiss die + 1) }

/-- A leaf comes into the TLB: a miss (R451), the accessed bit set, and the dirty bit with it for a write (R246). -/
def State.tlbMiss (s : State) (die ctx vpn : Nat) (l : Leaf) (write : Bool) : State :=
  let s := (s.countMiss die).orEntry l.entry (if write then 0x60 else 0x20)
  { s with tlb := tlbFill s.tlb (l.fill s.mem die ctx vpn write) }

/-- A translation through an entry held that no longer agrees with the tables (R247): the first write through it sets the dirty bit of the table
entry that filled it (R246). -/
def State.tlbStale (s : State) (t : TlbEnt) (va vpn : Nat) (acc : Acc) : Except XFault Xlated × State :=
  let r := t.check va vpn acc
  (r, if acc.writes && r.isOk && !t.dirty then
      { s.orEntry t.entry 0x40 with tlb := s.tlb.map fun u => if u = t then { u with dirty := true } else u } else s)

/-- An entry that has been evicted is not there any more. -/
def State.tlbDrop (s : State) (t : TlbEnt) : State := { s with tlb := s.tlb.filter (· != t) }

/-- A translation through an entry held: the first write through it sets the dirty bit (R246). Whether it had been evicted and is filled again
is free (R245): a fill counts as a miss (R451), and sets again a bit that is found clear. Of a contiguous group it is the entry of the page
translated that is marked (DESIGN CHOICE, notes/assumptions/123.md). -/
def State.tlbHit (s : State) (t : TlbEnt) (l : Leaf) (write : Bool) : State :=
  let b := s.mem.byte l.entry
  let again := Config.free .elapsed s.tick % 2
  let s := { s.bump with dieTlbMiss := FMap.put 0 s.dieTlbMiss t.die (FMap.val 0 s.dieTlbMiss t.die + BitVec.ofNat 64 again) }
  let s := if !b.getLsbD 5 && again == 1 then s.orEntry l.entry 0x20 else s
  if write && !(b.getLsbD 6 && t.dirty) && (!t.dirty || again == 1) then
    { s.orEntry l.entry 0x40 with tlb := s.tlb.map fun u => if u = t then { u with dirty := true } else u }
  else s

/-- Translate one address of a context on a die (R242–R247). A TLB entry that no longer agrees with the tables may still be used
until an invalidation covers it (R247). -/
def State.translateHere (s : State) (die ctx root va : Nat) (acc : Acc) : Except XFault Xlated × State :=
  let va := va % 2 ^ 64
  if !canonical va then (.error { code := 0x0D, level := 4, access := acc.code, va := va }, s)
  else
    let vpn := va % 2 ^ 57 / 2 ^ 12
    let old := tlbFind s.tlb die ctx vpn
    match walk s.mem root (va % 2 ^ 57) with
    | .leaf l =>
      let r := checkLeaf va acc l.frame l.writable l.noexec l.uncached l.level
      let write := acc.writes && r.isOk
      match old with
      | none => (r, s.tlbMiss die ctx vpn l write)
      | some t =>
        let same := t.frameOf vpn == l.frame && t.writable == l.writable && t.noexec == l.noexec && t.uncached == l.uncached
        if same then (r, s.tlbHit t l write)
        else if Config.free .stale s.tick % 2 = 0 then s.bump.tlbStale t va vpn acc
        else (r, s.bump.tlbMiss die ctx vpn l write)
    | .fault code level wk =>
      let r : Except XFault Xlated := .error { code := code, level := level, access := if wk then 6 else acc.code, va := va }
      match old with
      | none => (r, s.countMiss die)
      | some t =>
        if Config.free .stale s.tick % 2 = 0 then s.bump.tlbStale t va vpn acc
        else (r, (s.bump.tlbDrop t).countMiss die)

/-- Translation with the peer table's check at its end (R414). -/
def State.translate (s : State) (die ctx root va : Nat) (acc : Acc) : Except XFault Xlated × State :=
  let r := s.translateHere die ctx root va acc
  (s.peerCheck (va % 2 ^ 64) acc r.1, r.2)

end Sys2Proof.Machine
end

