-- ==== Sys2Proof/Machine/Regs.lean ====
section
/-! DEFINITION. A quire's registers and masks (R9, R13, R14, R81, R87, R124, R173, R206, R445): reading and writing each of them, the
lane sets of an instruction, and the environment in which an instruction of a quire executes. -/
namespace Sys2Proof.Machine

/-! ### The quire an instruction executes in -/

/-- A quire with the gathering, launch and context it belongs to. -/
structure Env where
  id  : Nat
  q   : Quire
  g   : Gathering
  vol : Volume
  ctx : Context
deriving DecidableEq, Repr

def State.envOf (s : State) (id : Nat) : Option Env :=
  match FMap.find s.quires id with
  | none => none
  | some q =>
    match FMap.find s.gaths q.gath with
    | none => none
    | some g =>
      match FMap.find s.vols g.vol with
      | none => none
      | some v =>
        match FMap.find s.ctxs v.ctx with
        | none => none
        | some c => some { id := id, q := q, g := g, vol := v, ctx := c }

abbrev Out := Host.Outcome State Fault Refusal

/-- Run an instruction in the current quire: nothing executes it when there is none, and a quire whose gathering, launch or context
is missing is no state of the machine. -/
def State.onQuire (s : State) (k : Env → Out) : Out :=
  match FMap.find s.quires s.cur with
  | none => .refused .noQuire
  | some _ =>
    match s.envOf s.cur with
    | none => .fault .dangling
    | some e => k e

/-- The descriptor a quire's code runs under (R26). -/
def Env.desc (e : Env) : Descriptor :=
  match e.vol.render with
  | none => e.vol.desc
  | some r => match e.g.role with
    | .mesh => r.mesh
    | .pixel => r.pixel
    | _ => e.vol.desc

/-- Lanes and mask words of the quire (R9). -/
def Env.words (e : Env) : Nat := 2 ^ e.desc.width
def Env.width (e : Env) : Nat := 32 * e.words
/-- Number of vector names legal in the launch (R13). -/
def Env.names (e : Env) : Nat := 16 * e.vol.pkt.alloc
/-- What the members of a group read: the registers as they stood before the group (R78). -/
def Quire.view (q : Quire) : Regs := q.snap.getD q.regs
def Env.view (e : Env) : Regs := e.q.view
def Env.handlerMode (e : Env) : Bool := e.q.regs.handler.isSome
/-- The slot of the member being executed (R69). -/
def pcSlot (pc : W64) : Nat := (pc.toInt % 5).toNat
/-- The virtual address of the line a PC names (R69). -/
def lineVa (pc : W64) : W64 := BitVec.ofInt 64 ((pc.toInt - pc.toInt % 5) / 5 * 64)
/-- The PC of a slot of a line (R69). -/
def pcOf (va : W64) (slot : Nat) : W64 := BitVec.ofInt 64 (va.toInt / 64 * 5 + slot)
def Env.slot (e : Env) : Nat := pcSlot e.q.selfPc

/-! ### Registers -/

def vKey (n lane : Nat) : Nat := 256 * n + lane
def Regs.vget (r : Regs) (n lane : Nat) : W32 := FMap.val 0 r.v (vKey n lane)
def Regs.vbadAt (r : Regs) (n lane : Nat) : Bool := setHas r.vbad (vKey n lane)
/-- Write one word of a vector register with its poison mark; sr.poison records that poison was written (R216). -/
def Regs.vputKey (r : Regs) (key : Nat) (x : W32) (bad : Bool) : Regs :=
  { r with v := FMap.put 0 r.v key x, vbad := setPut r.vbad key bad, poison := r.poison || bad }
def Regs.vput (r : Regs) (n lane : Nat) (x : W32) (bad : Bool) : Regs := r.vputKey (vKey n lane) x bad

/-- s112–s126 name the handler bank in handler mode (R445); s127 reads zero (R87). -/
def Regs.sget (r : Regs) (n : Nat) : W64 :=
  if n = 127 then 0
  else match r.handler with
    | some h => if 112 ≤ n then FMap.val 0 h.bank n else FMap.val 0 r.s n
    | none => FMap.val 0 r.s n
/-- Where the poison marks of scalar `n` stand: the handler bank has its own. -/
def Regs.sMarks (r : Regs) (n : Nat) : List Nat :=
  match r.handler with
  | some h => if 112 ≤ n then h.bad else r.sbad
  | none => r.sbad
/-- The poison marks of the two words of a scalar. -/
def Regs.sbadLo (r : Regs) (n : Nat) : Bool := n != 127 && setHas (r.sMarks n) (2 * n)
def Regs.sbadHi (r : Regs) (n : Nat) : Bool := n != 127 && setHas (r.sMarks n) (2 * n + 1)
def Regs.sbadAny (r : Regs) (n : Nat) : Bool := r.sbadLo n || r.sbadHi n
/-- Marks with both words of scalar `n` set or cleared. -/
def scalarMarks (l : List Nat) (n : Nat) (bad : Bool) : List Nat := setPut (setPut l (2 * n) bad) (2 * n + 1) bad
/-- Write a scalar; s127 discards (R87), s112–s126 go to the handler bank in handler mode (R445). -/
def Regs.sput (r : Regs) (n : Nat) (x : W64) (bad : Bool) : Regs :=
  if n = 127 then r
  else match r.handler with
    | some h =>
      if 112 ≤ n then
        { r with handler := some { h with bank := FMap.put 0 h.bank n x, bad := scalarMarks h.bad n bad }, poison := r.poison || bad }
      else { r with s := FMap.put 0 r.s n x, sbad := scalarMarks r.sbad n bad, poison := r.poison || bad }
    | none => { r with s := FMap.put 0 r.s n x, sbad := scalarMarks r.sbad n bad, poison := r.poison || bad }

/-- The lanes in which predicate `k` is true; p0 is true in every lane (R80). -/
def Regs.pget (r : Regs) (k : Nat) : LaneSet := if k = 0 then BitVec.allOnes 256 else FMap.val 0 r.p k
/-- Set predicate `k` in some lanes; p0 cannot be written. -/
def Regs.pput (r : Regs) (k : Nat) (lanes val : LaneSet) : Regs :=
  if k = 0 then r else { r with p := FMap.put 0 r.p k ((r.pget k &&& ~~~lanes) ||| (val &&& lanes)) }
def Regs.xget (r : Regs) (k lane : Nat) : W32 := FMap.val 0 r.x (256 * k + lane)
def Regs.xput (r : Regs) (k lane : Nat) (v : W32) : Regs := { r with x := FMap.put 0 r.x (256 * k + lane) v }

/-- The registers at a quire's start (R14), with the parameter block, the sequence number and the inline words given. -/
def Regs.start (lanes : LaneSet) (absent : LaneSet) (reserve : Nat) (param seq : W64) (inline : List W64) : Regs :=
  let s0 := FMap.put 0 (FMap.put 0 [] 0 param) 1 seq
  let s := (List.range inline.length).foldl (fun m i => FMap.put 0 m (8 + i) (inline.getD i 0)) s0
  { v := [], vbad := [], s := s, sbad := [], p := [], x := [], path := lanes, padding := 0, absent := absent, stack := [],
    reserve := reserve, surrendered := 0, handler := none, entry := 0, sig := 0, latchedMask := lanes, fpmode := 0, fpflags := 0,
    rowprog := 0, poison := false }

/-! ### Lane sets (R81, R129, R206) -/

def Env.allLanes (e : Env) : LaneSet := LaneSet.below e.width
/-- The evaluation set E: active or padding lanes of the current path (R129). -/
def Env.path (e : Env) : LaneSet := e.view.path
/-- Lanes whose guard is true (R81). -/
def Env.guard (e : Env) (h : Hdr) : LaneSet :=
  let p := e.view.pget h.pred.toNat
  (if h.neg then ~~~p else p) &&& e.allLanes
/-- The lanes in which the instruction takes effect (R81, R206). -/
def Env.effect (e : Env) (h : Hdr) : LaneSet := e.path &&& e.guard h
/-- The effect lanes that are not padding (R206). -/
def Env.contrib (e : Env) (h : Hdr) : LaneSet := e.effect h &&& ~~~e.view.padding
def Env.lanes (e : Env) (m : LaneSet) : List Nat := LaneSet.list e.width m
def Env.active (e : Env) : LaneSet := e.path &&& ~~~e.view.padding

/-- A guard over E (R208, R375): false in every lane, true in every lane, or mixed. -/
inductive Uniform where
  | none | all | mixed
deriving DecidableEq, Repr
def Env.uniform (e : Env) (h : Hdr) : Uniform :=
  let f := e.effect h
  if f = 0 then .none else if f = e.path then .all else .mixed

/-- The mask word of a lane, as a 32-bit mask of a lane set. -/
def wordOf (m : LaneSet) (lane : Nat) : W32 := m.word (lane / 32)

/-! ### Reading operands (R87, R88, R172) -/

/-- A value read for one lane: up to 64 bits as a number, and whether a word of it is poisoned. -/
structure Val where
  n   : Nat
  bad : Bool
deriving DecidableEq, Repr

def Regs.vecVal (r : Regs) (n words lane : Nat) : Val :=
  if words = 2 then { n := (r.vget n lane).toNat + 2 ^ 32 * (r.vget (n + 1) lane).toNat, bad := r.vbadAt n lane || r.vbadAt (n + 1) lane }
  else { n := (r.vget n lane).toNat, bad := r.vbadAt n lane }

/-- The register an indexed specifier names in a lane (R87): xk + off, signed. -/
def Regs.indexed (r : Regs) (k : BitVec 2) (off : BitVec 8) (lane : Nat) : Int := (r.xget k.toNat lane).toInt + off.toInt

def Regs.scalVal (r : Regs) (n words : Nat) : Val :=
  if words = 2 then { n := (r.sget n).toNat, bad := r.sbadAny n } else { n := (r.sget n).toNat % 2 ^ 32, bad := r.sbadLo n }

/-- A scalar or latch value widened from a 32-bit result (R173). -/
def widen (signed : Bool) (v : Nat) : W64 :=
  if signed then (BitVec.ofNat 32 v).signExtend 64 else BitVec.ofNat 64 (v % 2 ^ 32)

/-- The register-file copy of a latch's destination (R92), at the latch's 64 bits; an indexed destination is the register it named when
the latch was written. -/
def Regs.latchCopy (r : Regs) (L : Latch) (lane : Nat) : W64 × Bool :=
  let one := fun v : Val => if L.wide then (BitVec.ofNat 64 v.n, v.bad) else (widen L.signed v.n, v.bad)
  let w := if L.wide then 2 else 1
  match L.dst with
  | .v n => one (r.vecVal n.toNat w lane)
  | .x _ _ => one (r.vecVal (FMap.val 0 L.at' lane) w lane)
  | .s _ n => (r.sget n.toNat, r.sbadAny n.toNat)
  | _ => (0, false)

/-- The latches the members of a group read: as they stood before the group (R78). -/
def Quire.viewLatches (q : Quire) : FMap Latch :=
  match q.grp with
  | some g => g.latches
  | none => q.latches

/-- A latch's value in a lane (R91, R92). Whether the read is legal is check 7's. -/
def Env.latchVal (e : Env) (n lane : Nat) : W64 × Bool :=
  match FMap.find e.q.viewLatches n with
  | none => (0, false)
  | some L =>
    if L.switched then e.view.latchCopy L lane
    else (FMap.val 0 L.vals lane, L.bad.has lane)

/-- A source operand in a lane, read at `words` 32-bit words; an inline integer gives `imm`. What no check
guards, a source lane outside the lanes in effect (R212, R218), reads zero at a negative or unwritten register and an unaligned pair as it stands
(DESIGN CHOICE, notes/assumptions/133.md). -/
def Env.read (e : Env) (o : Opnd) (words imm lane : Nat) : Val :=
  match o with
  | .v n => e.view.vecVal n.toNat words lane
  | .x k off =>
    let i := e.view.indexed k off lane
    if i < 0 then { n := 0, bad := false } else e.view.vecVal i.toNat words lane
  | .s _ n => e.view.scalVal n.toNat words
  | .l _ n =>
    let v := e.latchVal n.toNat lane
    { n := if words = 2 then v.1.toNat else v.1.toNat % 2 ^ 32, bad := v.2 }
  | .imm _ => { n := imm, bad := false }

/-- A source operand in a lane, read in a type (R88, R172). -/
def Env.readTy (e : Env) (o : Opnd) (t : Ty) (lane : Nat) : Val :=
  let imm := match o with
    | .imm i => (inlineValue t i).getD 0
    | _ => 0
  e.read o t.words imm lane

/-- A once-per-quire source: a scalar, a latch read in the lowest lane that takes effect, or an inline integer. -/
def Env.readOnce (e : Env) (h : Hdr) (o : Opnd) (t : Ty) : Val :=
  e.readTy o t ((LaneSet.lowest e.width (e.effect h)).getD 0)

/-! ### Writing results -/

/-- The result of an instruction in one lane: a value of up to 64 bits and the marks of its two words. -/
structure LaneOut where
  lane : Nat
  n    : Nat
  badLo : Bool
  badHi : Bool
deriving DecidableEq, Repr

/-- The writes that store a lane's result to a vector register group of `words` (1 or 2) from register `n`. -/
def vecWrites (n words : Nat) (r : LaneOut) : List RegWrite :=
  if words = 2 then [.vec (vKey n r.lane) (BitVec.ofNat 32 r.n) r.badLo, .vec (vKey (n + 1) r.lane) (BitVec.ofNat 32 (r.n / 2 ^ 32)) r.badHi]
  else [.vec (vKey n r.lane) (BitVec.ofNat 32 r.n) r.badLo]

/-- The writes of a result to its destination (R78, R173): one scalar write, from the first lane's result, or a write per lane. -/
def Env.destWrites (e : Env) (d : Opnd) (words : Nat) (signed : Bool) (rs : List LaneOut) : List RegWrite :=
  match d with
  | .v n => rs.flatMap fun r => vecWrites n.toNat words r
  | .x k off => rs.flatMap fun r => vecWrites (e.view.indexed k off r.lane).toNat words r
  | .s _ n =>
    match rs with
    | [] => []
    | r :: _ => [.scal n.toNat (if words = 2 then BitVec.ofNat 64 r.n else widen signed r.n) (r.badLo || r.badHi)]
  | _ => []

def Regs.apply (r : Regs) : RegWrite → Regs
  | .vec key val bad => r.vputKey key val bad
  | .scal n val bad => r.sput n val bad
  | .pred k lanes val => r.pput k lanes val
  | .lat _ _ _ _ => r

def Regs.applyAll (r : Regs) (ws : List RegWrite) : Regs := ws.foldl Regs.apply r

/-- A lane of a latch that still stands. -/
def applyLatch (l : FMap Latch) : RegWrite → FMap Latch
  | .lat n lane val bad => FMap.modify l n fun L =>
      { L with vals := FMap.put 0 L.vals lane val, bad := if bad then L.bad ||| LaneSet.one lane else L.bad &&& ~~~LaneSet.one lane }
  | _ => l
def landLatches (l : FMap Latch) (ws : List RegWrite) : FMap Latch := ws.foldl applyLatch l

/-- Register writes that land in a quire, latches included. -/
def Quire.land (q : Quire) (ws : List RegWrite) : Quire := { q with regs := q.regs.applyAll ws, latches := landLatches q.latches ws }

/-- A write that was outstanding when handler mode began or ended (R445, R448): a scalar s112–s126 goes to the bank it was issued for, and a
handler's whose bank is dropped goes nowhere. -/
def Regs.applyFor (handler : Bool) (r : Regs) (w : RegWrite) : Regs :=
  match w, r.handler with
  | .scal n _ _, some h => if handler ∨ n < 112 then r.apply w else { ({ r with handler := none } : Regs).apply w with handler := some h }
  | .scal n _ _, none => if handler ∧ 112 ≤ n then r else r.apply w
  | _, _ => r.apply w
def Regs.applyAllFor (handler : Bool) (r : Regs) (ws : List RegWrite) : Regs := ws.foldl (Regs.applyFor handler) r

/-- What a higher slot's write leaves of some register writes (R78). -/
def cutWrites (cut : List Nat) (ws : List RegWrite) : List RegWrite :=
  ws.filter fun w => match w with
    | .vec key _ _ => !cut.contains key
    | .scal n _ _ => !cut.contains (2 ^ 20 + n)
    | .lat n _ _ _ => !cut.contains (2 ^ 21 + n)
    | .pred _ _ _ => true

/-- An outstanding result's writes land in a quire: its registers, and the latches of the line entry that issued it, which stand by while a
handler runs (R92). -/
def Quire.landFor (q : Quire) (handler : Bool) (ws : List RegWrite) : Quire :=
  let regs := q.regs.applyAllFor handler ws
  match regs.handler with
  | some h =>
    if handler then { q with regs := regs, latches := landLatches q.latches ws }
    else { q with regs := { regs with handler := some { h with latches := landLatches h.latches ws } } }
  | none => if handler then { q with regs := regs } else { q with regs := regs, latches := landLatches q.latches ws }

/-- The first register of a vector destination in a lane; an indexed one below zero names none. -/
def Env.firstReg (e : Env) (d : Opnd) (lane : Nat) : Nat :=
  match d with
  | .v n => n.toNat
  | .x k off => (e.view.indexed k off lane).toNat
  | _ => 0

/-- Registers a result of `words` words goes to in some lanes: vector numbers, scalars as `2^20 + n`. -/
def Env.destNames (e : Env) (d : Opnd) (words : Nat) (lanes : List Nat) : List Nat :=
  match d with
  | .v n => (List.range words).map (n.toNat + ·)
  | .x k off => ((lanes.filter fun l => decide (0 ≤ e.view.indexed k off l)).flatMap fun l => (List.range words).map (e.firstReg d l + ·)).eraseDups
  | .s _ n => [2 ^ 20 + n.toNat]
  | _ => []

/-- The latch an instruction writes (R91): its results, widened; in every other lane the value its destination has after the instruction,
in the registers `after`. -/
def Env.latchOf (e : Env) (h : Hdr) (d : Opnd) (words : Nat) (signed : Bool) (rs : List LaneOut) (after : Regs) : Latch :=
  let L : Latch := { vals := [], bad := 0, dst := d, at' := if d.isX then (e.lanes e.allLanes).foldl (fun m l => FMap.put 0 m l (e.firstReg d l)) [] else [],
                     names := e.destNames d words (e.lanes e.allLanes), wide := words == 2, signed := signed, nowb := h.nowb, group := e.q.groupNo,
                     overwritten := false, switched := false }
  let once : Option LaneOut := if d.isScal then rs.head? else none
  (e.lanes e.allLanes).foldl (fun L lane =>
    let r := match once with
      | some r => some r
      | none => rs.find? fun r => r.lane == lane
    let v : W64 × Bool := match r with
      | some r => (if words = 2 then BitVec.ofNat 64 r.n else widen signed r.n, r.badLo || (words == 2 && r.badHi))
      | none => after.latchCopy L lane
    { L with vals := FMap.put 0 L.vals lane v.1, bad := if v.2 then L.bad ||| LaneSet.one lane else L.bad }) L

/-- Deliver results at once: to the destination unless no-writeback is set, and to the result latch (R78, R80, R91). -/
def Env.deliver (e : Env) (h : Hdr) (d : Opnd) (words : Nat) (signed : Bool) (rs : List LaneOut) (q : Quire) : Quire :=
  let q := if h.nowb then q else { q with regs := q.regs.applyAll (e.destWrites d words signed rs) }
  if h.lat then { q with latches := FMap.insert q.latches h.latch.toNat (e.latchOf h d words signed rs q.regs) } else q

/-- Write a predicate in the lanes of `m` (R184): true where `p` holds. -/
def Env.putPred (e : Env) (k : Nat) (m : LaneSet) (p : Nat → Bool) (q : Quire) : Quire :=
  { q with regs := q.regs.pput k m (LaneSet.ofPred e.width p) }

end Sys2Proof.Machine
end

