-- ==== Sys2Proof/Machine/Device.lean ====
section
/-! DEFINITION. What the J384 writes to its host on its own account: host events (R496), error records (R479), fault entries and
their waiters (R248). -/
namespace Sys2Proof.Machine

/-- Bytes the J384 writes at a physical address for another agent to see: the L1s give up what they hold of the lines first. -/
def State.putHome (s : State) (pa : Nat) (bs : List W8) : State :=
  let s := s.recallRange pa bs.length
  { s with mem := s.mem.writeClean pa bs }

/-- Ring address and entry count of MG_EVENTS and MG_ERRORS (R489). -/
def ringBase (v : W64) : Nat := v.toNat % 2 ^ 52 / 64 * 64
def ringLog (v : W64) : Nat := v.toNat % 64

/-- A host event (R496): written and announced, or dropped and counted where no ring exists or the ring is full. -/
def State.hostEvent (s : State) (kind ctx seq : Nat) : State :=
  let base := ringBase s.evRing
  let a := base + 16 * s.evIx
  if base = 0 ∨ s.mem.byte (a + 3) = 1 then { s with evDrops := s.evDrops + 1 }
  else
    let e := leBytes 2 kind ++ [BitVec.ofNat 8 ctx, 1] ++ leBytes 4 seq ++ leBytes 8 s.ns
    { s.putHome a e with evIx := (s.evIx + 1) % 2 ^ ringLog s.evRing, interrupts := s.interrupts + 1 }

/-- An error record (R479), with its host event. -/
def State.errorRecord (s : State) (seq kind source location count ctx mode : Nat) : State :=
  let base := ringBase s.erRing
  let a := base + 32 * s.erIx
  if base = 0 ∨ s.mem.byte (a + 27) = 1 then { s with erDrops := s.erDrops + 1 }
  else
    let e := leBytes 4 seq ++ leBytes 2 kind ++ leBytes 2 source ++ leBytes 8 location ++ leBytes 8 s.ns
      ++ [BitVec.ofNat 8 (min count 255), BitVec.ofNat 8 ctx, BitVec.ofNat 8 mode, 1] ++ leBytes 4 0
    let s := { s.putHome a e with erIx := (s.erIx + 1) % 2 ^ ringLog s.erRing }
    s.hostEvent 3 ctx seq

/-- The location field of an error record for a lane (R479). -/
def laneLocation (lane part core : Nat) : Nat := lane + part * 2 ^ 6 + core * 2 ^ 8 + dieOfCore core * 2 ^ 17

/-! ### The fault ring (R248) -/

/-- Quires attached to an entry, as its waiters byte counts them. -/
def State.attached (s : State) (f : FaultEnt) : Nat :=
  min 255 (f.waiters.filterMap fun w => match w with
    | .quire id => some id
    | .delivery id => some id
    | .tree r => (s.treqs.find? fun x => x.id == r).map TreeReq.quire
    | _ => none).eraseDups.length

/-- The 32 bytes of a fault entry. -/
def FaultEnt.bytes (f : FaultEnt) (attached : Nat) : List W8 :=
  leBytes 8 f.va.toNat ++ leBytes 4 f.seq ++
  [BitVec.ofNat 8 f.code, BitVec.ofNat 8 f.access, BitVec.ofNat 8 f.level, BitVec.ofNat 8 attached] ++
  leBytes 2 f.core ++ [1] ++ leBytes 13 0

/-- Write an unwritten fault entry to the ring if the entry at the write index is free and its page is writable; otherwise its waiters
go on waiting, and a page that is not writable raises event 8 once. -/
def State.writeFault (s : State) (cid id : Nat) : State :=
  match FMap.find s.ctxs cid with
  | none => s
  | some c =>
    match FMap.find c.faults id with
    | none => s
    | some f =>
      if f.written then s
      else
        let va := c.faultRing + 32 * c.faultIx
        match s.translate 0 cid c.root va .ewrite with
        | (.error _, s) =>
          if c.event8 then s else (s.hostEvent 8 cid f.seq).setCtx cid { c with event8 := true }
        | (.ok x, s) =>
          if s.mem.byte (x.pa + 18) = 1 then s
          else
            let c := { c with faults := FMap.insert c.faults id { f with written := true, slot := c.faultIx },
                              faultIx := (c.faultIx + 1) % (max 1 c.faultSize) }
            (s.putHome x.pa (f.bytes (s.attached f))).setCtx cid c

/-- The pending entry of a context for a page and access kind, if one is. -/
def findFault : FMap FaultEnt → Nat → Nat → Option Nat
  | [], _, _ => none
  | (id, f) :: l, page, access => if f.va.toNat / 2 ^ 12 = page ∧ f.access = access then some id else findFault l page access

/-- The waiters byte of an entry that has been written follows its quires (R248). -/
def State.countFault (s : State) (cid id : Nat) : State :=
  match FMap.find s.ctxs cid with
  | none => s
  | some c =>
    match FMap.find c.faults id with
    | none => s
    | some f =>
      if !f.written then s
      else match s.translate 0 cid c.root (c.faultRing + 32 * f.slot) .ewrite with
        | (.error _, s) => s
        | (.ok x, s) => s.putHome (x.pa + 15) [BitVec.ofNat 8 (s.attached f)]

/-- A fault attaches to the pending entry of its page and access, or makes a new one (R248); the entry's identity comes back. -/
def State.addFault (s : State) (cid : Nat) (x : XFault) (seq core : Nat) (w : Waiter) : Nat × State :=
  match FMap.find s.ctxs cid with
  | none => (0, s)
  | some c =>
    match findFault c.faults (x.va / 2 ^ 12) x.access with
    | some id =>
      (id, (s.setCtx cid { c with faults := FMap.modify c.faults id fun f => { f with waiters := f.waiters ++ [w] } }).countFault cid id)
    | none =>
      let f : FaultEnt := { va := BitVec.ofNat 64 x.va, code := x.code, access := x.access, level := x.level, seq := seq, core := core,
                            written := false, slot := 0, waiters := [w] }
      let id := c.nextFault
      (id, (s.setCtx cid { c with faults := FMap.insert c.faults id f, nextFault := id + 1 }).writeFault cid id)

end Sys2Proof.Machine
end

