-- ==== Sys2Proof/Machine/Shadow.lean ====
section
/-! DEFINITION. Sealed launches (R46–R48, R485): the shadow versions of pages, how an access of a launch finds the version it reads or
writes, and how another agent's write breaks a seal. -/
namespace Sys2Proof.Machine

/-- The launch whose shadow set the accesses of a launch use: its outermost sealed ancestor, itself included (R46). -/
def State.sealRoot (s : State) : Nat → Nat → Option Nat
  | 0, _ => none
  | n + 1, vid =>
    match FMap.find s.vols vid with
    | none => none
    | some v =>
      let above := match v.parent with
        | some p => State.sealRoot s n p
        | none => none
      match above with
      | some r => some r
      | none => if v.sealedOn then some vid else none

/-- The launch whose copies of parameters stand for the accesses of a launch: of those above it, itself included, one that is being replayed. -/
def State.copyRoot (s : State) : Nat → Nat → Option Nat
  | 0, _ => none
  | n + 1, vid =>
    match FMap.find s.vols vid with
    | none => none
    | some v => if v.shadow.any (fun p => p.slot.isNone) then some vid else v.parent.bind (State.copyRoot s n)

def findShadow : List ShadowPage → Nat → Option ShadowPage
  | [], _ => none
  | p :: l, page => if p.page = page then some p else findShadow l page

/-- An address lies in what a page's version or copy stands for: a copy of parameters for the 128-byte lines that hold some. -/
def ShadowPage.stands (p : ShadowPage) (pa : Nat) : Bool :=
  p.slot.isSome || decide (p.lo / 128 ≤ pa % 2 ^ 12 / 128 ∧ pa % 2 ^ 12 / 128 < (p.hi + 127) / 128)

/-- Pages a sealed launch shadows: first- and second-tier pages (R485). -/
def shadowable (pa : Nat) : Bool := paKind pa == .first || paKind pa == .second

/-- Copy `n` bytes with their marks between physical addresses (R485). -/
def State.copyBytes (s : State) (src dst n : Nat) : State :=
  let s := (s.recallRange src n).recallRange dst n
  let bs := s.mem.bytes src n
  let marks := (List.range (n / 4)).filterMap fun i => if s.mem.bad (src + 4 * i) then some (dst / 4 + i) else none
  { s with mem := s.mem.writeMarked dst bs marks }

/-- A write to a page that a sealed launch outside the writer's family shadows breaks its seal (R48); a copy of parameters is no version. -/
def State.breakSeals (s : State) (own : Option Nat) (pa : Nat) : State :=
  { s with vols := s.vols.map fun e =>
      if e.2.sealedOn && own != some e.1 && ((findShadow e.2.shadow (pa / 2 ^ 12)).bind ShadowPage.slot).isSome then (e.1, { e.2 with broken := true }) else e }

/-- Every sector that sealed launch `r` wrote goes to its own page (R47, R485): its writes reach the page now, and break the seals of others that
shadow it (R48; log entry 49). -/
def State.copyBack (s : State) (r : Nat) (l : List ShadowPage) : State :=
  l.foldl (fun s p => p.sectors.foldl (fun s k => (s.breakSeals (some r) (2 ^ 12 * p.page)).copyBytes (p.copy + 32 * k) (2 ^ 12 * p.page + 32 * k) 32) s) s

/-- Copies of pages that the J384 keeps itself are gone. -/
def State.dropCopies (s : State) (l : List ShadowPage) : State :=
  { s with mem := l.foldl (fun m p => if p.slot.isSome then m else m.clear p.copy (2 ^ 12)) s.mem }

/-! ### Accesses under way when a page's version changes -/

/-- A launch's accesses use the shadow set of `r`. -/
def State.underSeal (s : State) (r vid : Nat) : Bool := s.sealRoot 12 vid == some r

/-- What a wait watches, by its new key. -/
def Wait.rekey (f : Nat → Nat) : Wait → Wait
  | .barwait k g sc => .barwait (f k) g sc
  | .tryw t => .tryw { t with key := f t.key }
  | w => w
def Quire.rekey (f : Nat → Nat) (q : Quire) : Quire :=
  let st := fun l : List StoreRec => l.map fun r => { r with key := f r.key }
  { q with store := st q.store, grp := q.grp.map fun g => { g with store := st g.store }, wait := q.wait.rekey f,
           arrived := q.arrived.foldl (fun a e => FMap.insert a (f e.1) e.2) [] }
def TreeProg.rekey (f : Nat → Nat) : TreeProg → TreeProg
  | .descend d l => .descend d (l.map fun x => (x.1, f x.2))
  | .undo l st x => .undo (l.map fun x => (x.1, f x.2)) st x
  | .backup l a b => .backup (l.map fun x => (x.1, f x.2)) a b
  | .sweep l => .sweep (l.map fun x => (x.1, f x.2))
  | .fresh => .fresh
def OutItem.rekey (f : Nat → Nat) : OutItem → OutItem
  | .store o r => .store o { r with key := f r.key }
  | .token o d x => .token o d x
  | .atom o i rel l => .atom o i rel (l.map fun g => f (8 * g) / 8)

/-- What launches that use the shadow set of `r` have under way by key moves to other keys: waits, barrier words, uncommitted and outbound
stores, tiles, atomics not yet served, nodes that tree operations hold; no core keeps a valid word of a page that `gone` picks. -/
def State.moveKeys (s : State) (r : Nat) (f : Nat → Nat) (gone : Nat → Bool) : State :=
  let mine := fun vid => s.underSeal r vid
  let gs := s.gaths.filter fun g => mine g.2.vol
  let qs := (s.quires.filter fun q => gs.any fun g => g.1 == q.2.gath).map Prod.fst
  let s := qs.foldl (fun s id => s.modQuire id fun q => q.rekey f) s
  let s := gs.foldl (fun s g => s.modGath g.1 fun g => { g with tracked := g.tracked.map f }) s
  { s with
    mjobs := s.mjobs.map (fun j => if mine j.vol then { j with stores := j.stores.map fun x => (f x.1, x.2) } else j),
    treqs := s.treqs.map (fun t => if mine t.vol then { t with prog := t.prog.rekey f } else t),
    asq := s.asq.map fun a => if mine a.vol then
        { a with lanes := a.lanes.map (fun x => { x with key := f x.key }), home := ((a.lanes.head?.map fun x => homeOf (f x.key)).getD a.home) } else a,
    cores := s.cores.map fun e => (e.1, { e.2 with out := e.2.out.map (OutItem.rekey f), clean := e.2.clean.filter fun w => !gone (4 * w.1 / 2 ^ 12) }) }

/-- The key in the original page of one in a shadow version. -/
def toPage (l : List ShadowPage) (k : Nat) : Nat :=
  match l.find? fun p => p.copy / 2 ^ 12 == k / 2 ^ 12 with
  | some p => p.page * 2 ^ 12 + k % 2 ^ 12
  | none => k

/-- The shadow set is committed and the launch goes on at containment mode 1 (R47); what it has under way goes to the pages themselves. A replay
under way keeps its copies of parameters (R25). -/
def State.dropSeal (s : State) (r : Nat) : State :=
  match FMap.find s.vols r with
  | none => s
  | some v =>
    let l := v.shadow.filter fun p => p.slot.isSome
    let pages := l.flatMap fun p => [p.page, p.copy / 2 ^ 12]
    ((s.copyBack r l).moveKeys r (toPage l) pages.contains).modVol r fun v =>
      { v with shadow := v.shadow.filter (fun p => p.slot.isNone), sealedOn := false, contain := 1 }

/-! ### Requests that are given up -/

/-- A reply reaches the quire's scoreboard: the writes wait to land; `done` when no lane is owed any more. -/
def Quire.answer (q : Quire) (req : Nat) (ws : List RegWrite) (done : Bool) : Quire :=
  { q with pend := q.pend.map fun p => if p.kind == .asq && p.req == req then { p with writes := p.writes ++ ws, ready := done } else p }

/-- An ASQ whose queue has emptied goes to its new host core (R524). -/
def State.asqMoved (s : State) (home : Nat) : State :=
  match FMap.find s.asqMoves home with
  | none => s
  | some m => if s.asq.any fun x => x.home == home && decide (x.id < m.2) then s else { s with asqMoves := FMap.remove s.asqMoves home }

/-- A request is gone from the list and from its core's stream; fence tokens it held back may retire. -/
def State.dropAsq (s : State) (r : AsqReq) : State :=
  ((({ s with asq := s.asq.filter fun x => x.id != r.id } : State).modCore r.core fun v =>
    { v with out := v.out.filter fun it => match it with
      | .atom _ i _ _ => i != r.id
      | _ => true }).settle r.core).asqMoved r.home

def State.answer (s : State) (r : AsqReq) (ws : List RegWrite) (done : Bool) : State :=
  match r.quire with
  | none => s
  | some id => s.modQuire id fun q => q.answer r.id ws done

/-- Tree operations of launches that use the shadow set of `r` are given up, and their results with them. -/
def State.dropTreesOf (s : State) (r : Nat) : State :=
  let mine := fun (t : TreeReq) => s.underSeal r t.vol
  if !s.treqs.any mine then s
  else
    { s with treqs := s.treqs.filter (fun t => !mine t),
             quires := s.quires.map fun q => (q.1, { q.2 with pend := q.2.pend.filter fun p => !(p.kind == .tree && s.treqs.any fun t => mine t && t.ins == p.req) }) }

/-- Shadow versions are discarded: what was still on its way to them goes with them (R49, R485); a reply that no home will send is cancelled. -/
def State.discardShadow (s : State) (r : Nat) : State :=
  match FMap.find s.vols r with
  | none => s
  | some v =>
    let gone := fun k => v.shadow.any fun p => p.copy / 2 ^ 12 == k / 2 ^ 12
    let s := (s.asq.filter fun a => a.lanes.any fun x => gone x.key).foldl (fun s a => (s.answer a [] true).dropAsq a) ((s.dropTreesOf r).dropCopies v.shadow)
    let s : State := { s.modVol r fun v => { v with shadow := [] } with
      mjobs := s.mjobs.map fun j => { j with stores := j.stores.filter fun x => !gone x.1 },
      cores := s.cores.map fun e => (e.1, { e.2 with
        out := e.2.out.filter (fun it => match it with
          | .store _ x => !gone x.key
          | _ => true),
        clean := e.2.clean.filter fun w => !gone (4 * w.1) }) }
    s.cores.foldl (fun s e => s.settle e.1) s

/-- Shadow pages of a context in use. -/
def State.shadowSlots (s : State) (cid : Nat) : List Nat :=
  s.vols.flatMap fun e => if e.2.ctx = cid then e.2.shadow.filterMap ShadowPage.slot else []

/-- A page of the shadow pool that is free and mapped: its slot and its physical page; none when the pool cannot supply one (R47). -/
def State.shadowAlloc (s : State) (die cid : Nat) : Option (Nat × Nat) × State :=
  match FMap.find s.ctxs cid with
  | none => (none, s)
  | some c =>
    let used := s.shadowSlots cid
    match (List.range (c.shadow.2 / 2 ^ 12)).find? fun k => !used.contains k with
    | none => (none, s)
    | some k =>
      match s.translate die cid c.root (c.shadow.1 + 2 ^ 12 * k) .ewrite with
      | (.ok x, s) => (some (k, x.pa), s)
      | (.error _, s) => (none, s)

/-- The version or copy an access of a launch to `pa` uses, as the shadow sets stand. -/
def State.shadowOf (s : State) (vid pa : Nat) : Option ShadowPage :=
  (((s.sealRoot 12 vid).or (s.copyRoot 12 vid)).bind fun r => FMap.find s.vols r).bind fun v =>
    (findShadow v.shadow (pa / 2 ^ 12)).filter fun p => p.stands pa
/-- The physical address an access of a launch uses in place of `pa`. -/
def State.shadowed (s : State) (vid pa : Nat) : Nat := match s.shadowOf vid pa with
  | some p => p.copy + pa % 2 ^ 12
  | none => pa

/-- Beside the parameters, the J384's own copy of a line holds what the page holds now (R25). -/
def State.refreshCopy (s : State) (p : ShadowPage) : State :=
  let src := p.page * 2 ^ 12
  let z := (p.hi + 3) / 4 * 4
  let s := s.recallRange (src + p.hi) (z - p.hi)
  let s : State := { s with mem := s.mem.setBytes (p.copy + p.hi) (s.mem.bytes (src + p.hi) (z - p.hi)) }
  (s.copyBytes (src + p.lo / 128 * 128) (p.copy + p.lo / 128 * 128) (p.lo % 128)).copyBytes (src + z) (p.copy + z) ((p.hi + 127) / 128 * 128 - z)

/-- A write a launch makes breaks the seals of the others (R48): where it reaches the page itself, and when it can no longer be taken back. -/
def State.breakFor (s : State) (vid pa : Nat) : State := if s.vols.any fun v => v.2.sealedOn then s.breakSeals (s.sealRoot 12 vid) pa else s

/-- A page of the launch gets a version of its own (R46): a copy of the page as it stands; what watches the page watches the version. -/
def State.openVersion (s : State) (r pa slot copy : Nat) (sectors : List Nat) : State :=
  let page := pa / 2 ^ 12
  let s := s.copyBytes (page * 2 ^ 12) copy (2 ^ 12)
  let f := fun k => if k / 2 ^ 12 = page then copy + k % 2 ^ 12 else k
  let waits := (s.quires.filter fun q => match FMap.find s.gaths q.2.gath with
    | some g => s.underSeal r g.vol
    | none => false).map Prod.fst
  let s := waits.foldl (fun s id => s.modQuire id fun q => { q with wait := q.wait.rekey f, arrived := q.arrived.foldl (fun a e => FMap.insert a (f e.1) e.2) [] }) s
  let s := (s.gaths.filter fun g => s.underSeal r g.2.vol).foldl (fun s g => s.modGath g.1 fun g => { g with tracked := g.tracked.map f }) s
  let s : State := { s with cores := s.cores.map fun e => (e.1, { e.2 with clean := e.2.clean.filter fun w => 4 * w.1 / 2 ^ 12 != copy / 2 ^ 12 }) }
  s.modVol r fun v => { v with shadow := v.shadow ++ [{ page := page, slot := some slot, copy := copy, sectors := sectors, lo := 0, hi := 0 }] }

/-- A page of which the J384 keeps a copy for the parameters' sake gets a version of the pool, with the parameters of the copy in it. -/
def State.openFromCopy (s : State) (r pa slot copy sector : Nat) (p : ShadowPage) : State :=
  let s := (s.modVol r fun v => { v with shadow := v.shadow.filter fun q => q.page != p.page }).openVersion r pa slot copy [sector]
  let s := s.copyBytes (p.copy + p.lo) (copy + p.lo) ((p.hi - p.lo) / 4 * 4)
  let tail := (p.hi - p.lo) % 4
  let s : State := { s with mem := s.mem.setBytes (copy + p.hi - tail) (s.mem.bytes (p.copy + p.hi - tail) tail) }
  (s.moveKeys r (fun x => if x / 2 ^ 12 = p.copy / 2 ^ 12 then copy + x % 2 ^ 12 else x) fun _ => false).dropCopies [p]

/-- A write of launch `vid` to `pa` (R46): the shadow version it goes to is made where the page has none, and the sector is noted. -/
def State.shadowWrite (s : State) (die vid cid pa : Nat) : Nat × State :=
  match s.sealRoot 12 vid with
  | none => (s.shadowed vid pa, s)
  | some r =>
    match FMap.find s.vols r with
    | none => (pa, s)
    | some v =>
      let sector := pa % 2 ^ 12 / 32
      let here := findShadow v.shadow (pa / 2 ^ 12)
      match here.bind ShadowPage.slot, here with
      | some _, some p =>
        (p.copy + pa % 2 ^ 12, s.setVol r { v with shadow := v.shadow.map fun q => if q.page = p.page then { q with sectors := setIns q.sectors sector } else q })
      | _, p =>
        if !shadowable pa then (s.shadowed vid pa, s)
        else match s.shadowAlloc die cid with
          | (none, s) => let s := s.dropSeal r; (s.shadowed vid pa, s)
          | (some (slot, copy), s) =>
            (copy + pa % 2 ^ 12, match p with
              | some p => s.openFromCopy r pa slot copy sector p
              | none => s.openVersion r pa slot copy [sector])

/-- Translation of an access a launch makes, engine accesses included: the address of the version it reads or writes (R46, R242). -/
def State.xl (s : State) (die vid cid root va : Nat) (acc : Acc) : Except XFault Xlated × State :=
  match s.translate die cid root va acc with
  | (.error f, s) => (.error f, s)
  | (.ok x, s) =>
    if acc.writes && (shadowable x.pa || s.shadowed vid x.pa != x.pa) then
      let s := if acc == .ewrite then s.breakFor vid x.pa else s
      let r := s.shadowWrite die vid cid x.pa
      (.ok { x with pa := r.1 }, r.2)
    else match s.shadowOf vid x.pa with
      | some p => (.ok { x with pa := p.copy + x.pa % 2 ^ 12 }, if p.slot.isSome then s else s.refreshCopy p)
      | none => (.ok x, s)

end Sys2Proof.Machine
end

