-- ==== Sys2Proof/Machine/Xfer.lean ====
section
/-! DEFINITION. Handle records and the engine side of transfers (R257, R258, R263–R273): how a transfer starts, delivers its pieces,
stops on a fault and ends, and the ownership of its destination lines (R267, R360). -/
namespace Sys2Proof.Machine

/-- A handle as a gathering is placed with it (R257). -/
def Handle.fresh : Handle := { fill := 0, size := 0, offset := 0, error := 0, multicast := false, state := .free }
def Gathering.handle (g : Gathering) (n : Nat) : Handle := FMap.val Handle.fresh g.handles n
def Gathering.setHandle (g : Gathering) (n : Nat) (h : Handle) : Gathering := { g with handles := FMap.put Handle.fresh g.handles n h }
def State.modHandle (s : State) (gid n : Nat) (f : Handle → Handle) : State := s.modGath gid fun g => g.setHandle n (f (g.handle n))
def State.handle (s : State) (gid n : Nat) : Handle :=
  match FMap.find s.gaths gid with
  | none => Handle.fresh
  | some g => g.handle n

/-- Two-bit state code (R257). -/
def HState.code : HState → Nat | .free => 0 | .filling => 1 | .full => 2 | .draining => 3

/-- A transfer waits for the handle to become FREE (R263). -/
def State.heldOn (s : State) (gid n : Nat) : Bool := s.xfers.any fun e => e.2.gath == gid && e.2.handle == n && !e.2.started

/-- The record HSTAT reads (R257). -/
def State.handleWord (s : State) (gid n : Nat) : W64 :=
  let h := s.handle gid n
  BitVec.ofNat 64 (h.fill * 2 ^ 48 + h.size * 2 ^ 32 + h.offset * 2 ^ 16 + h.error * 2 ^ 8
    + (if s.heldOn gid n then 2 ^ 7 else 0) + (if h.multicast then 2 ^ 6 else 0) + h.state.code)

/-- Byte `o` of a handle's buffer as a memory key: the gathering's portion on its physical core. -/
def Gathering.bufKey (g : Gathering) (h : Handle) (o : Nat) : Nat := spadKey g.pcore (g.base + 16 * h.offset + o)

/-- Pieces of a transfer; ASBUILD and COLL count as one (R340, R422). -/
def Transfer.total (x : Transfer) : Nat :=
  match x.kind with
  | .build _ _ _ _ => 1
  | .coll _ => 1
  | _ => x.bytes / 16

/-- A die-scratchpad address (R225 code 3) of a context. -/
def dspadOf (c : Context) (ea : Nat) : Nat := dspadKey (ea / 2 ^ 25 % 4) (c.windowBase + ea % 2 ^ 25)

/-- Tensor descriptor (R265) as read: none when it breaks its table. -/
def tensorOf (bs : List W8) : Option Tensor :=
  let num := fun o n => leValue ((bs.drop o).take n)
  let es := num 8 1
  let dims := num 9 1
  let ext := (List.range 4).map fun i => num (16 + 4 * i) 4
  let str := (List.range 3).map fun i => (BitVec.ofNat 64 (num (32 + 8 * i) 8)).toInt
  let box := (List.range 4).map fun i => num (56 + i) 1
  let esize := 2 ^ es
  let base := num 0 8
  let ok := decide (es ≤ 3) && decide (1 ≤ dims ∧ dims ≤ 4) && num 10 6 == 0
    && (List.range 4).all (fun i => decide (i < dims) || (ext.getD i 0 == 1 && box.getD i 0 == 1))
    && box.all (fun b => decide (1 ≤ b)) && decide (base % esize = 0)
    && str.all (fun t => decide (t % (esize : Int) = 0))
    && decide (box.foldl (· * ·) 1 * esize % 16 = 0)
  if ok then
    let f := (bs.drop 60).take 4
    some { base := base, esize := esize, dims := dims, extents := ext, strides := str, box := box,
           fill := (if esize = 8 then f ++ [0, 0, 0, 0] else f.take esize) }
  else none

/-- Byte `o` of a tensor box: its virtual address, or the fill byte outside the extents (R264, R265). -/
def Tensor.byteAt (t : Tensor) (coords : W64) (o : Nat) : Sum Nat W8 :=
  let e := o / t.esize
  let k := o % t.esize
  let step := fun (acc : Nat × List Int) (i : Nat) =>
    let b := t.box.getD i 1
    (acc.1 / b, acc.2 ++ [(acc.1 % b : Nat) + (coords.extractLsb' (16 * i) 16).toInt])
  let idx := ((List.range 4).foldl step (e, [])).2
  let inside := (List.range 4).all fun i =>
    decide (t.dims ≤ i) || (decide (0 ≤ idx.getD i 0) && decide (idx.getD i 0 < (t.extents.getD i 1 : Int)))
  if inside then
    let off := (List.range 4).foldl (fun (a : Int) i =>
      if t.dims ≤ i then a else a + idx.getD i 0 * (if i = 0 then (t.esize : Int) else t.strides.getD (i - 1) 0)) 0
    .inl (((t.base : Int) + off + k) % 2 ^ 64).toNat
  else .inr (t.fill.getD k 0)

/-- A byte as an engine finds it: read, or at an address that leads to a peer (R415). -/
inductive Found where
  | byte (b : W8) (bad : Bool)
  | peer (pa : Nat)
deriving DecidableEq, Repr

/-- One byte an engine of core `pc` finds for launch `vid` at a virtual address, with its mark. -/
def State.engineVa (s : State) (pc vid cid root va : Nat) : Except XFault Found × State :=
  match s.xl (dieOfCore pc) vid cid root va .eread with
  | (.error f, s) => (.error f, s)
  | (.ok x, s) => (.ok (if paKind x.pa = .peer then .peer x.pa else .byte (s.engineByte pc x.pa) (s.engineBad pc x.pa)), s)

/-- `n` bytes an engine finds from a virtual address on. -/
def State.engineVaBytes (pc vid cid root : Nat) : Nat → Nat → State → Except XFault (List Found) × State
  | 0, _, s => (.ok [], s)
  | n + 1, va, s =>
    match s.engineVa pc vid cid root va with
    | (.error f, s) => (.error f, s)
    | (.ok b, s) =>
      match State.engineVaBytes pc vid cid root n (va + 1) s with
      | (.error f, s) => (.error f, s)
      | (.ok bs, s) => (.ok (b :: bs), s)

/-- Where a byte of a transfer comes from: a virtual address, a key on chip, or the command itself. -/
inductive Source where
  | va (a : Nat)
  | key (k : Nat)
  | val (b : W8) (bad : Bool)
deriving DecidableEq, Repr

/-- The source of byte `o` of a transfer (R264, R267). -/
def Transfer.source (x : Transfer) (g : Gathering) (c : Context) (o : Nat) : Source :=
  let at' := fun (dspad : Bool) (a : Nat) => if dspad then Source.key (dspadOf c a) else .va (a % 2 ^ 64)
  match x.kind with
  | .cpy src d => at' d (src.toNat + o)
  | .mc src d _ => at' d (src.toNat + o)
  | .cpy2d src d _ rb stride => at' d (((src.toNat : Int) + (o / rb : Nat) * stride.toInt + (o % rb : Nat)) % 2 ^ 64).toNat
  | .cpyt _ coords => match x.tensor with
    | none => .val 0 false
    | some t => match t.byteAt coords o with
      | .inl a => .va a
      | .inr b => .val b false
  | .cpyout _ _ => .key (g.bufKey (g.handle x.handle) o)
  | .fill pat bad => .val (pat.extractLsb' (8 * (o % 4)) 8) bad
  | .build _ _ _ _ => .val 0 false
  | .coll _ => .val 0 false

/-- What was found without a peer's bytes; none where one leads to a peer, which only sources and destinations may name (R416). -/
def foundBytes (l : List Found) : Option (List (W8 × Bool)) :=
  l.mapM fun b => match b with
    | .byte b bad => some (b, bad)
    | .peer _ => none

/-- Bytes of a transfer, in order; what has been read of them stands ready (R266, R415). -/
def State.findBytes (x : Transfer) (g : Gathering) (c : Context) (pc : Nat) : List Nat → State → Except XFault (List Found) × State
  | [], s => (.ok [], s)
  | o :: os, s =>
    let one : Except XFault Found × State :=
      match FMap.find x.got o with
      | some (b :: _) => (.ok (.byte b.1 b.2), s)
      | _ => match x.source g c o with
        | .val b bad => (.ok (.byte b bad), s)
        | .key k => (.ok (.byte (s.engineByte pc k) (s.engineBad pc k)), s)
        | .va a => s.engineVa pc x.vol x.ctx c.root a
    match one with
    | (.error f, s) => (.error f, s)
    | (.ok b, s) =>
      match State.findBytes x g c pc os s with
      | (.error f, s) => (.error f, s)
      | (.ok bs, s) => (.ok (b :: bs), s)

/-- Write bytes with their marks at a key (R263): a word takes the mark of any of its bytes. -/
def State.engineWrite (s : State) (k : Nat) (bs : List (W8 × Bool)) : State :=
  let s := s.recallRange k bs.length
  let marks := (bs.mapIdx fun i b => if b.2 then [(k + i) / 4] else []).flatten
  ({ s with mem := s.mem.writeMarked k (bs.map Prod.fst) marks } : State).mirror k bs.length

/-- A transfer's fault (R269): it stops as it stands and a fault entry is written; no quire parks. -/
def State.xferFault (s : State) (id : Nat) (x : Transfer) (f : XFault) : State :=
  let seq := match FMap.find s.vols x.vol with | some v => v.pkt.seq | none => 0
  let core := match FMap.find s.gaths x.issuer with | some g => g.core | none => 0
  let r := s.addFault x.ctx f seq core (.transfer id)
  { r.2 with xfers := FMap.insert r.2.xfers id { x with fault := some r.1 } }

/-- A transfer ends: the handle goes to FULL with an error code (R258, R269) and the transfer is gone. -/
def State.xferEnd (s : State) (id : Nat) (x : Transfer) (err : Nat) : State :=
  let s := { s with xfers := FMap.remove s.xfers id }
  s.modHandle x.gath x.handle fun h => { h with state := .full, error := err }

def Transfer.isMc (x : Transfer) : Bool := match x.kind with | .mc _ _ _ => true | _ => false
/-- Transfers that share one reading of the source (R266): those of one CPYMC, or the transfer alone. -/
def Transfer.readBy (id : Nat) (x : Transfer) : Nat := match x.kind with | .mc _ _ cmd => cmd | _ => id

/-- A transfer starts on its handle (R263): a multicast target that is too small, and a tensor descriptor that breaks its table, end
it at once with error 0x03 and nothing delivered (R265, R266). A descriptor whose address faults is still to be read: `bytes` is 0; one at a
peer ends the transfer with error 0x0D (R416). -/
def State.xferStart (s : State) (id : Nat) : State :=
  match FMap.find s.xfers id with
  | none => s
  | some x =>
    if x.started then s
    else
      match FMap.find s.gaths x.gath, FMap.find s.ctxs x.ctx, FMap.find s.gaths x.issuer with
      | some g, some c, some gi =>
        let h := g.handle x.handle
        let s := s.modHandle x.gath x.handle fun h => { h with state := .filling, fill := 0, error := 0, multicast := x.isMc }
        let x := { x with started := true }
        let s := { s with xfers := FMap.insert s.xfers id x }
        match x.kind with
        | .mc _ _ _ => if 16 * h.size < x.bytes then s.xferEnd id x 3 else s
        | .cpyt desc _ =>
          match State.engineVaBytes gi.pcore x.vol x.ctx c.root 64 desc.toNat s with
          | (.error f, s) => s.xferFault id { x with bytes := 0 } f
          | (.ok bs, s) =>
            match (foundBytes bs).map fun bs => tensorOf (bs.map Prod.fst) with
            | none => s.xferEnd id x 0x0D
            | some none => s.xferEnd id x 3
            | some (some t) =>
              let n := t.box.foldl (· * ·) 1 * t.esize
              if 16 * h.size < n then s.xferEnd id x 3
              else { s with xfers := FMap.insert s.xfers id { x with bytes := n, tensor := some t } }
        | _ => s
      | _, _, _ => s

/-- A piece has landed: it counts in the handle's fill, and the last one ends the transfer. -/
def State.pieceDone (s : State) (id : Nat) (x : Transfer) (p : Nat) : State :=
  let x := { x with pieces := setIns x.pieces p }
  let s := s.modHandle x.gath x.handle fun h => { h with fill := x.pieces.length }
  if x.total ≤ x.pieces.length then s.xferEnd id x 0 else { s with xfers := FMap.insert s.xfers id x }

/-- A flit leaves on one of the stations of a mask that are up (R413, R414). -/
def State.flit (s : State) (mask : Nat) : State :=
  let up := (List.range 16).filter fun k => mask.testBit k && s.stations.testBit k
  match up[Config.free .serial s.tick % up.length]? with
  | none => s
  | some k => { s.bump with flits := FMap.insert s.flits k (FMap.val [] s.flits k ++ [s.ns]) }

/-- A peer-table entry is not valid, or its peer is lost (R414, R419). -/
def State.entryLost (s : State) (i : Nat) : Bool := !(s.peerEntry i).getLsbD 0 || (s.peerEntry i).getLsbD 1

/-- A request to a peer leaves, with the poison of its words, on one of its entry's stations that are up (R413, R414); the entry is read again
at that moment, and one that may not be used has lost the request. -/
def State.peerSend (s : State) (pa core : Nat) (data : List W8) (marks : List Nat) (len : Nat) (use : PeerUse) : Nat × State :=
  let r := s.fresh
  let o : PeerOut := { id := r.1, entry := peerIndex pa, addr := pa % 2 ^ 42, core := core, data := data, marks := marks, len := len, sentAt := r.2.ns,
                       lost := s.entryLost (peerIndex pa), use := use }
  let s : State := { r.2 with peerOut := r.2.peerOut ++ [o] }
  (r.1, if o.lost then s else s.flit (bits (s.peerEntry o.entry).toNat 41 26))

/-! ### What may not be overtaken at memory -/

/-- A core's stream holds a store to a range, or an atomic that names an eight of it, that has not reached its home: what an engine writes there
comes after it (R360). -/
def State.heldBytes (s : State) (k n : Nat) : Bool := s.cores.any fun e => e.2.out.any (OutItem.blocks k n)

/-- A core's stream holds, for a range, what is not free to reach its home yet. -/
def stuckAt (s : State) (k n : Nat) : Bool :=
  s.cores.any fun e => stuckIn e.2.quiet e.2.out k n || e.2.out.any fun it => match it with
    | .atom _ _ _ l => l.any fun g => runsMeet (8 * g) 8 k n
    | _ => false

/-- Committed bytes of a core for a range of a peer's memory leave for the peer, in order, as far as they are free to (R415). -/
def State.flushPeer (s : State) (c k n : Nat) : State :=
  let step := fun (a : List OutItem × State) (it : OutItem) =>
    match it with
    | .store _ r =>
      if r.far && r.meets k n && outReady (a.1 ++ [it]) a.1.length then
        let d := keyHomeDie r.key
        (a.1, (a.2.peerSend r.key c r.bytes (if r.bad then r.words else []) r.bytes.length (.write (some d))).2.modCore c fun v =>
          { v with cnt := FMap.put 0 v.cnt d (FMap.val 0 v.cnt d + 1) })
      else (a.1 ++ [it], a.2)
    | it => (a.1 ++ [it], a.2)
  if (outStores (s.core c).out).any fun r => r.far && r.meets k n then
    let r := (s.core c).out.foldl step ([], s)
    r.2.modCore c fun v => { v with out := r.1 }
  else s

/-- A read of a peer by a core has to wait for the core's own earlier bytes (R352, R360). -/
def State.peerHeld (s : State) (c k n : Nat) : Bool := ((s.flushPeer c k n).core c).out.any (OutItem.blocks k n)

/-! ### Pieces -/

/-- Requests to peers for the bytes of a piece that lead there, a run at a time. -/
def peerRuns (l : List (Nat × Nat)) : List (List (Nat × Nat)) :=
  l.foldr (fun x acc => match acc with
    | (y :: ys) :: rest => if y.1 = x.1 + 1 ∧ y.2 = x.2 + 1 then (x :: y :: ys) :: rest else [x] :: (y :: ys) :: rest
    | _ => [x] :: acc) []

/-- Bytes read for a transfer are there for every transfer that shares the reading (R266). -/
def State.gotBytes (s : State) (cmd : Nat) (l : List (Nat × W8 × Bool)) : State :=
  { s with xfers := s.xfers.map fun e => if e.2.readBy e.1 = cmd then (e.1, { e.2 with got := l.foldl (fun m b => FMap.insert m b.1 [b.2]) e.2.got }) else e }

/-- A request for source bytes of a piece is outstanding. -/
def State.asksPiece (s : State) (cmd p : Nat) : Bool := s.peerOut.any fun o => match o.use with
  | .piece c q _ => c == cmd && q == p
  | _ => false

/-- The bytes of a piece, with those of peers asked for where they are not at hand; none while one is still to come. -/
def State.pieceBytes (s : State) (id : Nat) (x : Transfer) (g : Gathering) (c : Context) (pc p : Nat) : Except XFault (Option (List (W8 × Bool))) × State :=
  let os := (List.range 16).map (16 * p + ·)
  match State.findBytes x g c pc os s with
  | (.error f, s) => (.error f, s)
  | (.ok l, s) =>
    let far := (os.zip l).filterMap fun b => match b.2 with | .peer pa => some (b.1, pa) | _ => none
    match far with
    | [] =>
      let bs := l.map fun b => match b with | .byte b bad => (b, bad) | .peer _ => (0, false)
      (.ok (some bs), if x.isMc then s.gotBytes (x.readBy id) (os.zip bs) else s)
    | _ =>
      if far.any (fun b => s.peerHeld pc b.2 1) || s.asksPiece (x.readBy id) p then (.ok none, s)
      else (.ok none, (peerRuns far).foldl (fun s run => match run with
        | [] => s
        | b :: _ => ((s.flushPeer pc b.2 run.length).peerSend b.2 pc [] [] run.length (.piece (x.readBy id) p b.1)).2) s)

/-- Deliver one piece of a started transfer (R263), unless it has landed, or the transfer is stopped by a fault. Bytes on their way to where it
goes reach their homes first (R360); a piece for a peer has landed when the peer completes it. -/
def State.xferPiece (s : State) (id p : Nat) : State :=
  match FMap.find s.xfers id with
  | none => s
  | some x =>
    if !x.started || x.fault.isSome || x.pieces.contains p || decide (x.total ≤ p) || s.peerOut.any (fun o => o.use == .wrote id p) then s
    else
      match FMap.find s.gaths x.gath, FMap.find s.ctxs x.ctx, FMap.find s.gaths x.issuer with
      | some g, some c, some gi =>
        match s.pieceBytes id x g c gi.pcore p with
        | (.error f, s) => s.xferFault id x f
        | (.ok none, s) => s
        | (.ok (some bs), s) =>
          let put := fun (s : State) (k : Nat) =>
            let s := s.recallRange k 16
            if s.heldBytes k 16 then s else (s.engineWrite k bs).pieceDone id x p
          match FMap.find s.xfers id with
          | none => s
          | some x =>
            match x.kind with
            | .cpyout dst true => put s (dspadOf c (dst.toNat + 16 * p))
            | .cpyout dst false =>
              match s.xl (dieOfCore gi.pcore) x.vol x.ctx c.root (dst.toNat + 16 * p) .ewrite with
              | (.error f, s) => s.xferFault id x f
              | (.ok t, s) =>
                if paKind t.pa != .peer then put s t.pa
                else if s.peerHeld gi.pcore t.pa 16 then s
                else ((s.flushPeer gi.pcore t.pa 16).peerSend t.pa gi.pcore (bs.map Prod.fst)
                  ((List.range 4).filter fun i => ((bs.drop (4 * i)).take 4).any Prod.snd) 16 (.wrote id p)).2
            | .build _ _ _ _ => s
            | .coll _ => s
            | _ => put s (g.bufKey (g.handle x.handle) (16 * p))
      | _, _, _ => s

/-! ### Lines an engine owns (R267, R340, R360, R425) -/

/-- The physical address a launch's access would go to as the tables stand, without any effect. -/
def State.peekPa (s : State) (vid root va : Nat) : Option Nat :=
  if !canonical va then none
  else match walk s.mem root (va % 2 ^ 57) with
    | .leaf l => some (s.shadowed vid (l.frame + va % 2 ^ 12))
    | .fault _ _ _ => none
/-- Bytes as they stand at virtual addresses, without any effect; zero where nothing is mapped. -/
def State.peek (s : State) (vid root va n : Nat) : List W8 :=
  (List.range n).map fun i => match s.peekPa vid root (va + i) with | some pa => s.mem.byte pa | none => 0

/-- Bytes of an element of a collective (R424). -/
def elemBytes (ty : Nat) : Nat := match ty with | 0 => 8 | 1 => 4 | 2 => 2 | 3 => 4 | _ => 8
/-- Bytes of a contribution and of a destination (R425). -/
def Coll.chunk (c : Coll) : Nat := c.count * elemBytes c.ty
def Coll.destBytes (c : Coll) : Nat := if c.kind = 2 then c.n * c.chunk else c.chunk

/-- Generic memory an engine owns: launch, root, first address, bytes. -/
structure Owned where
  vol  : Nat
  root : Nat
  va   : Nat
  len  : Nat
deriving DecidableEq, Repr

/-- A field of a record (R338). -/
def recNum (bs : List W8) (o n : Nat) : Nat := leValue ((bs.drop o).take n)
/-- The sizes of a structure and its scratch space (R339), from the descriptor's kind, counts and flags. -/
def sizeOfBuild (bs : List W8) (which : Nat) : Nat :=
  Config.asSize which (recNum bs 0 1) (recNum bs 4 4 + 2 ^ 32 * recNum bs 20 4) (recNum bs 1 1 + 256 * recNum bs 2 1)

/-- What the transfers own, from their issue until they end: the destinations of CPYOUTs, structures being built and their scratch space. -/
def State.xferOwned (s : State) : List Owned :=
  s.xfers.flatMap fun e =>
    let x := e.2
    match FMap.find s.ctxs x.ctx with
    | none => []
    | some c =>
      let run := fun (va : W64) (len : Nat) => ({ vol := x.vol, root := c.root, va := va.toNat, len := max 1 len } : Owned)
      match x.kind with
      | .cpyout dst false => [run dst x.bytes]
      | .build desc dst scr refit =>
        let d := s.peek x.vol c.root desc.toNat 64
        [run dst (sizeOfBuild d 0), run scr (sizeOfBuild d (if refit then 2 else 1))]
      | _ => []
/-- A collective with what its descriptor and group table say of its destination as they stand. -/
def State.peekColl (s : State) (root : Nat) (c : Coll) : Coll :=
  let d := s.peek c.vol root c.desc.toNat 64
  { c with dst := BitVec.ofNat 64 (recNum d 16 8), count := recNum d 24 8 % 2 ^ 32, n := min 1024 (leValue (s.peek c.vol root (recNum d 0 8) 2)) }
/-- What the collectives own: their destinations, from issue to FULL (R425). -/
def State.collOwned (s : State) : List Owned :=
  s.colls.filterMap fun e =>
    match FMap.find s.ctxs e.2.ctx with
    | none => none
    | some x =>
      if e.2.phase == .ended || (e.2.settled && !e.2.opened) then none
      else
        let c := if e.2.opened then e.2 else s.peekColl x.root e.2
        some { vol := c.vol, root := x.root, va := c.dst.toNat, len := max 1 c.destBytes }
def State.owned (s : State) : List Owned := s.xferOwned ++ s.collOwned

/-- A run of owned memory takes in the line of a physical address. -/
def Owned.hasLine (s : State) (o : Owned) (pa : Nat) : Bool :=
  (List.range (o.len / 128 + 2)).any fun i =>
    let a := min (128 * i) (o.len - 1)
    match s.peekPa o.vol o.root (o.va + a) with
    | some x => x / 128 == pa / 128
    | none => false
/-- An engine owns the line of a physical address, a matrix unit from the issue of an MSTC on (R292): a lane access to it waits (R267, R360). -/
def State.lineOwned (s : State) (pa : Nat) : Bool :=
  keyIsGeneric pa && (s.owned.any (fun o => o.hasLine s pa) || s.mjobs.any fun j => j.stores.any fun x => x.1 / 128 == pa / 128)

/-- A handle that became FREE: the first command held on it starts at once (R258, R263). -/
def State.startHeld (s : State) (gid n : Nat) : State :=
  match s.xfers.find? fun e => e.2.gath == gid && e.2.handle == n && !e.2.started with
  | some e => s.xferStart e.1
  | none => s

/-- Transfers of one core's streamer (R263): a CPYMC is one, a saved gathering's are none (R273). -/
def State.streamerQueue (s : State) (pcore : Nat) : Nat :=
  ((s.xfers.filter fun e => match FMap.find s.gaths e.2.issuer with
    | some g => g.pcore == pcore && g.saved.isNone
    | none => false).map fun e => e.2.readBy e.1).eraseDups.length

end Sys2Proof.Machine
end

