-- ==== Sys2Proof/Machine/Retire.lean ====
section
/-! DEFINITION. Barrier words as they are joined and left (R373, R381), and how quires, gatherings and launches come to an end
(R383, R448, R480–R482, R317, R272). -/
namespace Sys2Proof.Machine

/-! ### Words at their home -/

/-- A number of `n` bytes at its home, after every L1 has given up what it holds of the line (R359). -/
def State.homeNum (s : State) (k n : Nat) : Nat × State :=
  let s := if keyIsGeneric k then s.recall (k / 128) else s.recallRange k n
  (s.mem.num k n, s)

/-- The core whose ASQ writes a generic key keeps no older word of it (R230). -/
def State.servedAt (s : State) (k n : Nat) : State :=
  match (if keyIsGeneric k then s.asqCore (homeOf k) else none) with
  | some c => s.observed c k n
  | none => s
def State.putHomeNum (s : State) (k n v : Nat) : State :=
  let s := s.servedAt k n
  ({ s with mem := s.mem.writeClean k (leBytes n v) } : State).mirror k n

/-- `n` bytes written at their home with the mark of their words (R369, R467). -/
def State.putMarked (s : State) (k n v : Nat) (bad : Bool) : State :=
  let s := s.servedAt k n
  ({ s with mem := s.mem.writeMarked k (leBytes n v) (if bad then (List.range ((n + 3) / 4)).map fun i => k / 4 + i else []) } : State).mirror k n

/-! ### Barrier words (R373) -/

structure Bar where
  expected : Nat
  arrived  : Nat
  gen      : Nat
  low      : Nat
deriving DecidableEq, Repr

def Bar.of (v : Nat) : Bar := { expected := bits v 63 52, arrived := bits v 51 40, gen := bits v 39 24, low := v % 2 ^ 24 }
def Bar.word (b : Bar) : Nat := b.expected % 4096 * 2 ^ 52 + b.arrived % 4096 * 2 ^ 40 + b.gen % 65536 * 2 ^ 24 + b.low
def Bar.tracked (b : Bar) : Bool := b.low.testBit 16
/-- The atomic step of a release (R373). -/
def Bar.release (b : Bar) : Bar := { b with arrived := 0, gen := (b.gen + 1) % 65536 }
/-- Released whenever arrived = expected and expected > 0. -/
def Bar.settle (b : Bar) : Bar := if b.arrived = b.expected ∧ 0 < b.expected then b.release else b

/-- The gathering whose portion a scratchpad key lies in: each stands on a stretch of its core of its own. -/
def State.holderOf (s : State) (k : Nat) : Option Nat :=
  if keyIsSpad k then
    (s.gaths.find? fun e => e.2.saved.isNone && e.2.pcore == keyCore k && decide (spadKey e.2.pcore e.2.base ≤ k ∧ k < spadKey e.2.pcore e.2.base + 2 ^ 19)).map Prod.fst
  else none
/-- A barrier word in scratchpad that an operation has acted on is marked, for the saves of the gathering whose portion holds it (R458). -/
def State.markBarrier (s : State) (k : Nat) : State := match s.holderOf k with
  | some gid => s.modGath gid fun g => { g with marked := setIns g.marked k }
  | none => s

/-- A quire joins (R381): none when a tracked word is full, and then no word changes. -/
def State.join (s : State) (gid : Nat) : Option State :=
  match FMap.find s.gaths gid with
  | none => none
  | some g =>
    let words := g.tracked.filter fun k => (Bar.of (s.homeNum k 8).1).tracked
    if words.any fun k => (Bar.of (s.homeNum k 8).1).expected == 4095 then none
    else some (words.foldl (fun s k =>
      let r := s.homeNum k 8
      let b := Bar.of r.1
      (((r.2.breakFor g.vol k).putMarked k 8 { b with expected := b.expected + 1 }.word (r.2.mem.anyBad k 8)).observed g.pcore k 8).markBarrier k) s)

/-- A quire leaves (R381): each tracked word's expected falls, its own arrival in the current generation is taken back, and a count
that is then complete releases the others. The scratchpad words of a saved gathering go with its save. -/
def State.leave (s : State) (gid : Nat) (arrived : FMap Nat) : State :=
  match FMap.find s.gaths gid with
  | none => s
  | some g =>
    (g.tracked.filter fun k => !(g.saved.isSome && keyIsSpad k)).foldl (fun s k =>
      let r := s.homeNum k 8
      let b := Bar.of r.1
      if b.tracked then
        let mine := FMap.find arrived k == some b.gen
        let b := { b with expected := b.expected - 1, arrived := if mine then b.arrived - 1 else b.arrived }
        (((r.2.breakFor g.vol k).putMarked k 8 b.settle.word (r.2.mem.anyBad k 8)).observed g.pcore k 8).markBarrier k
      else r.2) s

/-! ### Retiring -/

/-- Ring slots still owe mesh gatherings (R317). -/
def Gathering.owes (g : Gathering) : Bool := g.owed.any fun e => e.2.1 != 0

/-- Stores of its own quires still on their way to a gathering's portion when the portion returns to its core are for nothing (R62). -/
def State.dropPortion (s : State) (g : Gathering) : State :=
  if g.saved.isSome then s
  else s.modCore g.pcore fun v => { v with out := v.out.filter fun it => match it with
    | .store _ r => !(keyIsSpad r.key && keyCore r.key == g.pcore && r.key - spadKey g.pcore 0 - g.base < 2 ^ 19 && g.base ≤ r.key - spadKey g.pcore 0)
    | _ => true }

/-- A retired gathering leaves the state when no transfer of it, or run for it, is left (R272, R481), and none of its ring slots owes a mesh
gathering, which takes its payload from it (R317). -/
def State.reap (s : State) (gid : Nat) : State :=
  match FMap.find s.gaths gid with
  | none => s
  | some g =>
    if g.retired && !g.owes && !(s.xfers.any fun e => e.2.gath == gid || e.2.issuer == gid) then { s.dropPortion g with gaths := FMap.remove s.gaths gid } else s

/-- The gathering of a transfer leaves the state once it has retired and none is left (R272). -/
def State.reapFor (s : State) (x : Transfer) : State := (s.reap x.gath).reap x.issuer

/-- A mesh gathering served by a ring slot has retired (R317): the slot is FREE again when the last of its gatherings has. -/
def State.meshRetired (s : State) (parent slot : Nat) : State :=
  (s.modGath parent fun g =>
    let run := FMap.val 0 g.running slot - 1
    let g := { g with running := FMap.put 0 g.running slot run }
    if run = 0 ∧ (FMap.val (0, 0) g.owed slot).1 = 0 then g.setHandle (60 + slot) { g.handle (60 + slot) with state := .free } else g).reap parent

/-- The effect of a transfer lands only in its gathering's scratchpad (R272). -/
def XferKind.spadOnly : XferKind → Bool
  | .cpy _ _ => true | .cpy2d _ _ _ _ _ => true | .cpyt _ _ => true | .fill _ _ => true | .mc _ _ _ => true
  | .cpyout _ _ => false | .build _ _ _ _ => false | .coll _ => false

/-- A gathering retires (R481): its lists are discarded, its slot returns, its held transfers are dropped or started (R272). -/
def State.retireGathering (s : State) (gid : Nat) : State :=
  match FMap.find s.gaths gid with
  | none => s
  | some g =>
    if g.retired then s
    else
      let s := s.setGath gid { g with tracked := [], episodes := [], wanted := [], retired := true, quires := [] }
      let s := s.modVol g.vol fun v => { v with live := v.live - 1 }
      let gone := ((s.xfers.filter fun e => e.2.gath == gid && !e.2.started && e.2.kind.spadOnly).map fun e => e.2.issuer).filter (· != gid)
      let s := { s with xfers := s.xfers.filter (fun e => !(e.2.gath == gid && !e.2.started && e.2.kind.spadOnly)),
                        apps := s.apps.filter (fun a => a.gath != gid) }
      let s := gone.foldl State.reap s
      let s := (s.xfers.filter fun e => e.2.gath == gid && !e.2.started).foldl (fun s e => s.xferStart e.1) s
      let s := match g.parent with
        | some (p, slot) => s.meshRetired p slot
        | none => s
      s.reap gid

/-- MSYNC episodes without a quire that has gone (R385): an episode all of whose named members have arrived is over. -/
def Gathering.dropEpisodes (g : Gathering) (members : List Nat) : Gathering :=
  { g with episodes := g.episodes.filter fun ep =>
      !((List.range 16).all fun i => !ep.mask.getLsbD i || ep.arrived.getLsbD i || !members.contains i) }

/-- Quires parked on an MSYNC whose episode is over wake (R385). -/
def State.wakeMsync (s : State) (gid : Nat) : State :=
  match FMap.find s.gaths gid with
  | none => s
  | some g => g.quires.foldl (fun s id => s.modQuire id fun q =>
      match q.wait with
      | .msync m => if g.episodes.any fun ep => ep.mask == m then q else { q with wait := .none }
      | _ => q) s

/-- Indices of the quires a gathering holds. -/
def State.memberIndices (s : State) (g : Gathering) : List Nat :=
  g.quires.filterMap fun id => (FMap.find s.quires id).map Quire.index

/-- A quire retires (R480): it leaves its gathering and its barriers as DETACH does (R381, R383); its open queries and held operands
are discarded, and the last quire of a gathering takes the gathering with it. -/
def State.retireQuire (s : State) (id : Nat) : State :=
  match FMap.find s.quires id with
  | none => s
  | some q =>
    let s := s.leave q.gath q.arrived
    let s := { s with quires := FMap.remove s.quires id, held := s.held.filter (fun h => h.quire != id),
                      treqs := s.treqs.filter (fun r => r.quire != id || r.faulted.isNone) }
    let s := s.modGath q.gath fun g => { g with quires := g.quires.filter (fun k => k != id) }
    match FMap.find s.gaths q.gath with
    | none => s
    | some g =>
      let s := (s.setGath q.gath (g.dropEpisodes (s.memberIndices g))).wakeMsync q.gath
      if g.quires.isEmpty then s.retireGathering q.gath else s

/-- A quire that issues nothing further (R480): without lanes or control stack, its stores and queries discarded; it retires when the
register writes still owed to it have landed, tree results that a fault has
cancelled apart (`owed` tells an instruction some lane of which is still at an engine). No rollback brings it back. -/
def Quire.end' (q : Quire) (owed : Nat → Bool) : Quire :=
  let regs := { q.regs with path := 0, stack := [], handler := none }
  { q with regs := regs, snap := none, grp := none, npc := q.pc, selfPc := q.pc, latches := [],
           wait := .none, stopped := false, stepping := false, store := [], queries := [], heldSlots := 0, save := .running, call := none,
           pend := q.pend.filter fun p => p.kind != .tree || p.ready || owed p.req,
           ckpt := { q.ckpt with regs := regs, record := [], queries := [], latches := [] } }

/-- A quire left without lanes can leave its gathering: its outstanding register writes have landed (R480), and its atomics on the generic words that
it leaves have been served, which an ASQ does in issue order (R363). -/
def State.mayRetire (s : State) (id : Nat) (q : Quire) : Bool :=
  q.pend.isEmpty && (match FMap.find s.gaths q.gath with
    | none => true
    | some g => !s.asq.any fun r => r.quire == some id && g.tracked.any fun k => keyIsGeneric k && homeOf k == r.home)

/-- TKILL.quire (R448): uncommitted stores are discarded, then the quire retires (R480), its rows and slot held until every outstanding
register write has landed. -/
def State.killQuire (s : State) (id : Nat) : State :=
  match FMap.find s.quires id with
  | none => s
  | some q =>
    let s : State := { s with treqs := s.treqs.filter fun r => !(r.quire == id && r.faulted.isSome) }
    let q := q.end' fun ins => s.treqs.any fun r => r.ins == ins
    let s := s.setQuire id q
    if s.mayRetire id q then s.retireQuire id else s

/-- Gatherings of a launch. -/
def State.gathsOf (s : State) (vid : Nat) : List Nat := (s.gaths.filter fun e => e.2.vol == vid).map Prod.fst
/-- Quires of a launch. -/
def State.quiresOf (s : State) (vid : Nat) : List Nat :=
  (s.quires.filter fun e => match FMap.find s.gaths e.2.gath with
    | some g => g.vol == vid
    | none => false).map Prod.fst

/-- Stop everything a launch has running (R482): every quire as if it had executed TKILL.quire; lanes in bins, creations asked for and
gatherings not yet placed go with it. -/
def State.stopVolume (s : State) (vid : Nat) : State :=
  let s := (s.gathsOf vid).foldl (fun s g => s.modGath g fun g => { g with owed := [], ringOrder := [] }) s
  let s := (s.quiresOf vid).foldl State.killQuire s
  let s := (s.gathsOf vid).foldl (fun s gid => match FMap.find s.gaths gid with
    | some g => if g.quires.isEmpty then s.retireGathering gid else s.setGath gid { g with wanted := [] }
    | none => s) s
  s.cores.foldl (fun s e => s.setCore e.1 { e.2 with bins := e.2.bins.filter fun b => b.2.vol != vid }) s

/-- How the children of an ended launch end (R482); those of a silent end leave no record either (R49). -/
def Ending.ofChild : Ending → Ending
  | .silent => .silent
  | _ => .killed 0

/-- A launch ends with an outcome, and every child with status 0x0002 (R482): `n` bounds the depth of children. -/
def State.endVolume : Nat → State → Nat → Ending → State
  | 0, s, _, _ => s
  | n + 1, s, vid, e =>
    match FMap.find s.vols vid with
    | none => s
    | some v =>
      let s := match v.ending with
        | .running => (s.setVol vid { v with ending := e }).stopVolume vid
        | _ => s
      ((s.vols.filter fun c => c.2.parent == some vid).map Prod.fst).foldl (fun s c => State.endVolume n s c e.ofChild) s

/-- End a launch and its descendants; sr.depth is at most 10 (R43). -/
def State.endLaunch (s : State) (vid : Nat) (e : Ending) : State := State.endVolume 12 s vid e

end Sys2Proof.Machine
end

