-- ==== Sys2Proof/Machine/Asq.lean ====
section
/-! DEFINITION. The home side of atomics and of arrivals at barrier words (R359, R363–R369, R373, R377, R416), and the landing of results
that were outstanding (R122, R525). -/
namespace Sys2Proof.Machine

/-! ### The record of a group (R525) -/

/-- The record of the checkpoint with a member added (R525): once a member's effect is accepted it is never repeated. -/
def recordAdd (l : List Accepted) (slot : Nat) (ws : List RegWrite) (point : Bool) : List Accepted :=
  if l.any fun a => a.slot == slot then
    l.map fun a => if a.slot = slot then { a with writes := a.writes ++ ws, words := none, point := a.point || point } else a
  else l ++ [{ slot := slot, writes := ws, words := none, point := point }]

def recordOf (l : List Accepted) (slot : Nat) : Option Accepted := l.find? fun a => a.slot == slot

/-- Results that a recorded member has been returned join its record. -/
def recordGrow (slot : Nat) (ws : List RegWrite) (l : List Accepted) : List Accepted :=
  if (recordOf l slot).isSome then recordAdd l slot ws false else l

/-- A pending result of the member at a slot: it leaves alone what a member of a higher slot of the group writes too (R78). -/
def Group.trim (g : Group) (p : Pending) : Pending :=
  match p.slot with
  | none => p
  | some k => match g.cut.find? fun c => c.1 == k with
    | none => p
    | some c => { p with cut := p.cut ++ c.2 }

/-- An outstanding result arrives (R122): in the quire's registers and latches; in the registers before the group in progress and in the
checkpoint where it was outstanding then; and, for a member of a group not complete, in the group's record (R525). -/
def Quire.arrive (q : Quire) (p : Pending) : Quire :=
  let p : Pending := if p.spoilt then { p with writes := p.writes.map RegWrite.spoil } else p
  match p.slot with
  | none =>
    let ws := cutWrites p.cut p.writes
    let here := p.handler == q.regs.handler.isSome
    let q := q.landFor p.handler ws
    { q with snap := q.snap.map fun r => r.applyAllFor p.handler ws,
             grp := q.grp.map fun g => { g with latches := if here then landLatches g.latches ws else g.latches },
             ckpt := if p.old then { q.ckpt with regs := q.ckpt.regs.applyAllFor p.handler ws } else q.ckpt }
  | some k =>
    let q := match q.grp with
      | some g => q.landFor p.handler (cutWrites (g.trim p).cut p.writes)
      | none => q
    let grow := fun r : Option (W64 × List Accepted) => r.map fun x => (x.1, recordGrow k p.writes x.2)
    { q with ckpt := { q.ckpt with record := recordGrow k p.writes q.ckpt.record }, held := grow q.held,
             regs := { q.regs with handler := q.regs.handler.map fun h => { h with held := grow h.held } } }

/-! ### The operations (R367) -/

/-- The new value an atomic operation writes (R367), at `w` bits. -/
def atomNew (op w old v c : Nat) : Nat :=
  let F : Fmt := if w = 64 then .f64 else .f32
  let so := intOf true w old
  let sv := intOf true w v
  match op with
  | 0x0 => (old + v) % 2 ^ w
  | 0x1 => (old + 2 ^ w - v % 2 ^ w) % 2 ^ w
  | 0x2 => if so ≤ sv then old else v
  | 0x3 => if sv ≤ so then old else v
  | 0x4 => min old v
  | 0x5 => max old v
  | 0x6 => old &&& v
  | 0x7 => old ||| v
  | 0x8 => old ^^^ v
  | 0x9 => v
  | 0xA => if old = c then v else old
  | 0xB => if v ≤ old then 0 else old + 1
  | 0xC => if old = 0 ∨ v < old then v else old - 1
  | 0xD => (F.add .rne false false (F.decode old) (F.decode v)).1
  | 0xE => (F.minmax false old v).1
  | _ => (F.minmax true old v).1

/-- Operations a peer performs (R416). -/
def peerOp (op : Nat) : Bool := [0x0, 0x6, 0x7, 0x8, 0x9, 0xA, 0x2, 0x3, 0x4, 0x5].contains op

/-- One lane performed at its home: the old value, and whether it or the operand is poisoned. Toward a portion whose gathering has retired
it changes nothing and returns zero (R57). -/
def State.atomAt (s : State) (op n : Nat) (x : AsqLane) : (Nat × Bool) × State :=
  if s.portionGone x.portion then ((0, false), s) else
  let r := s.homeNum x.key n
  let bad := r.2.mem.anyBad x.key n || x.bad
  ((r.1, bad), r.2.putMarked x.key n (atomNew op (8 * n) r.1 x.v.toNat x.c.toNat) bad)

/-! ### Serving a request -/

/-- The writes of an old value to the destination of the atomic (R368). -/
def oldWrites (dst : Option Opnd) (wide : Bool) (lane old : Nat) (bad : Bool) : List RegWrite :=
  match dst with
  | some (.v n) => vecWrites n.toNat (if wide then 2 else 1) { lane := lane, n := old, badLo := bad, badHi := bad }
  | some (.s _ n) => [.scal n.toNat (BitVec.ofNat 64 old) bad]
  | _ => []

/-- The lanes of a request of launch `vid`, performed in order; a seal of another launch on the page breaks (R48), and the core that asked keeps no
older word (R344, R353). -/
def State.atomLanes (vid core op : Nat) (wide : Bool) (dst : Option Opnd) : List AsqLane → State → List RegWrite × State
  | [], s => ([], s)
  | x :: xs, s =>
    let n := if wide then 8 else 4
    let a := (s.breakFor vid x.key).atomAt op n x
    let rest := State.atomLanes vid core op wide dst xs (a.2.observed core x.key n)
    (oldWrites dst wide x.lane a.1.1 a.1.2 ++ rest.1, rest.2)

/-- What a forwarded atomic carries (R416): its operand, and the comparand of `.cas`. -/
def peerAtomBytes (wide : Bool) (x : AsqLane) : List W8 :=
  let n := if wide then 8 else 4
  leBytes n x.v.toNat ++ leBytes n x.c.toNat

/-- A quire's arrival at a barrier word (R377), performed at its home: a word that takes none is unchanged and the arrival is refused. -/
def State.arriveAt (s : State) (r : AsqReq) (x : AsqLane) : State :=
  let k := x.key
  if s.portionGone x.portion then s.answer r (oldWrites r.dst true 0 0 false) true else
  let w := s.homeNum k 8
  let b := Bar.of w.1
  let s := w.2
  if b.expected = 0 ∨ b.expected ≤ b.arrived then
    match r.quire with
    | none => s
    | some id => (s.answer r [] true).modQuire id fun q =>
        let slot := (q.pend.find? fun p => p.kind == .asq && p.req == r.id).bind Pending.slot
        { q with wait := (match q.wait with | .reply _ => .reply true | w => w), ckpt := { q.ckpt with record := q.ckpt.record.filter fun a => slot != some a.slot } }
  else
    let bad := s.mem.anyBad k 8
    let s := ((s.breakFor r.vol k).putMarked k 8 ({ b with arrived := b.arrived + 1 } : Bar).settle.word bad).observed r.core k 8
    match r.quire with
    | none => s
    | some id =>
      match FMap.find s.quires id with
      | none => s
      | some q =>
        let tracked := match FMap.find s.gaths q.gath with
          | some g => g.tracked.contains k
          | none => false
        let s := s.markBarrier k
        let s := if tracked then s.modQuire id fun q => { q with arrived := FMap.insert q.arrived k b.gen } else s
        s.answer r (oldWrites r.dst true 0 b.gen bad) true

/-- Serve a request at its home (R363, R369). One that names a peer is forwarded behind its core's earlier stores there (R415, R416), and its
replies are awaited. -/
def State.serveAsq (s : State) (r : AsqReq) : State :=
  if r.sent then s
  else match r.op with
  | .arrive => (r.lanes.foldl (fun s x => s.arriveAt r x) s).dropAsq r
  | .atom op wide =>
    let n := if wide then 8 else 4
    if r.lanes.any fun x => keyIsGeneric x.key && paKind x.key == .peer then
      let s := r.lanes.foldl (fun s x => ((s.flushPeer r.core x.key n).peerSend x.key r.core (peerAtomBytes wide x) [] n (.atomic r.id x.lane)).2) s
      { s with asq := s.asq.map fun y => if y.id = r.id then { y with sent := true } else y }
    else
      let z := State.atomLanes r.vol r.core op.toNat wide r.dst r.lanes s
      (z.2.answer r z.1 true).dropAsq r

/-- What stands before a request in its core's stream, its owner there, and whether it releases. -/
def reqPlace (id : Nat) (before : List OutItem) : List OutItem → Option (List OutItem × Nat × Bool × List Nat)
  | [] => none
  | .atom o i rel l :: rest => if i = id then some (before, o, rel, l) else reqPlace id (before ++ [.atom o i rel l]) rest
  | it :: rest => reqPlace id (before ++ [it]) rest

/-- A request has left its core: a releasing one has no fence token of its quire before it (R350, R351), and the core's earlier stores to what
it names can go ahead of it (R359). -/
def State.asqLeft (s : State) (r : AsqReq) : Bool :=
  match reqPlace r.id [] (s.core r.core).out with
  | none => true
  | some (before, owner, rel, eights) =>
    !(rel && before.any fun it => match it with
        | .token o _ _ => o == owner
        | _ => false)
      && !eights.any fun g => stuckIn (s.core r.core).quiet before (8 * g) 8

/-- Requests an ASQ's queue holds (R363). -/
def asqSize : Nat := 512

/-- A request may be served: it has left its core and found room in the queue of its home (R363), which is not moving (R524), and those of
its quire to the same home before it have been served. -/
def State.asqReady (s : State) (r : AsqReq) : Bool :=
  let earlier := (s.asq.takeWhile fun x => x.id != r.id).filter fun x => x.home == r.home && !x.sent
  let waits := match FMap.find s.asqMoves r.home with
    | some m => decide (m.2 ≤ r.id)
    | none => false
  !r.sent && !waits && !(earlier.any fun x => x.quire.isSome && x.quire == r.quire) && s.asqLeft r
    && decide ((earlier.filter s.asqLeft).length < asqSize)

/-- A quire's requests that have not been performed. -/
def State.unserved (s : State) (id : Nat) : List AsqReq := s.asq.filter fun r => r.quire == some id

/-- Replies that have arrived land in the quire's rows. -/
def Quire.landReplies (q : Quire) : Quire :=
  let now := q.pend.filter fun p => p.kind == .asq && p.ready
  now.foldl Quire.arrive { q with pend := q.pend.filter fun p => !(p.kind == .asq && p.ready) }

/-- A rollback waits for the replies of the quire's atomics (R364): those that can be served are, and the quire goes on when the last has
landed. -/
def State.settleAsq (s : State) (id : Nat) : State :=
  ((s.unserved id).foldl (fun s r => if s.asqReady r then s.serveAsq r else s) s).modQuire id Quire.landReplies
/-- Replies of atomics are owed to a quire (R364). -/
def Quire.repliesDue (q : Quire) : Bool := q.pend.any fun p => p.kind == .asq

end Sys2Proof.Machine
end

