-- ==== Sys2Proof/Machine/Group.lean ====
section
/-! DEFINITION. The group in progress: the record it goes by (R525), giving it up (R117, R442), and parking (R92, R291). -/
namespace Sys2Proof.Machine

/-- The group in progress is the one the checkpoint restarts at. -/
def Quire.inRecord (q : Quire) : Bool := q.grp.isSome && q.recordLive && q.ckpt.pc == q.pc
/-- The record of the group in progress: the checkpoint's, or the one kept across a trap the group took. -/
def Quire.groupRecord (q : Quire) : List Accepted :=
  if q.recordLive ∧ q.ckpt.pc = q.pc then q.ckpt.record
  else match q.held with
    | some (pc, l) => if pc = q.pc then l else []
    | none => []

/-- A pending write that a return to the checkpoint keeps: it was outstanding then, or its member's effect has been accepted. -/
def Quire.keeps (q : Quire) (p : Pending) : Bool :=
  p.old || (match p.slot with
    | some k => q.inRecord && (recordOf q.ckpt.record k).isSome
    | none => false)

/-- Where the row of a name that only the checkpoint's map holds stands in `rows` and `spilled` (R127). -/
def heldRow (n : Nat) : Nat := n + 2 ^ 20

/-- A row when some names are mapped again to the rows the checkpoint's map has for them (R128): one they were mapped to since is freed. -/
def unmapRow (names : List Nat) (n : Nat) : Option Nat :=
  if names.contains n then none else if names.contains (n - 2 ^ 20) && decide (2 ^ 20 ≤ n) then some (n - 2 ^ 20) else some n
def unmapRows (names l : List Nat) : List Nat := l.filterMap (unmapRow names)

/-- The rows of a quire go by other names: its slots of the spill area follow (R128); a row that is freed gives up its slot. -/
def State.renameSpill (s : State) (id : Nat) (f : Nat → Option Nat) : State :=
  match s.envOf id with
  | none => s
  | some e =>
    if e.ctx.spillMap.isEmpty then s
    else s.modCtx e.vol.ctx fun c => { c with spillMap := c.spillMap.filterMap fun x =>
      if x.2.1 = id ∧ x.2.2 < 2 ^ 22 then (f x.2.2).map fun n => (x.1, (id, n)) else some x }

/-- The name of a row is live under a liveness entry (R436). -/
def liveRow (live : Option (Nat × Nat × Nat)) (n : Nat) : Bool :=
  match live with
  | none => true
  | some (first, count, _) => decide (first ≤ n / 256 ∧ n / 256 < first + count)

/-- Rows that only the last checkpoint's map held are freed (R127). -/
def freeHeld (l : List Nat) : List Nat := l.filter fun n => decide (n < 2 ^ 20)

/-- The group in progress takes no effect on the registers (R117, R442): what it did outside them that was accepted stays recorded. -/
def Quire.abortGroup (q : Quire) : Quire :=
  match q.grp with
  | none => q
  | some g =>
    { q with regs := q.view, snap := none, grp := none, npc := q.pc, selfPc := q.pc,
             store := g.store, spadEntries := g.entries, latches := g.latches, claimed := 0,
             rows := unmapRows g.mapped q.rows, spilled := unmapRows g.mapped q.spilled, fresh := q.fresh.filter fun n => !g.mapped.contains n,
             queries := g.queries, heldSlots := g.heldSlots, peerGot := [], pend := q.pend.filter fun p => p.slot.isNone || q.keeps p }
def State.abortGroup (s : State) (id : Nat) : State :=
  match FMap.find s.quires id with
  | none => s
  | some q =>
    let q' := q.abortGroup
    let s := match q.grp with
      | some g => s.renameSpill id (unmapRow g.mapped)
      | none => s
    { s.setQuire id q' with mjobs := s.mjobs.filter fun j => j.quire != id || !j.stores.isEmpty || q'.pend.any fun p => p.req == j.req }

/-- Latches after a switch (R92). -/
def switched (l : FMap Latch) : FMap Latch := l.map fun L => (L.1, { L.2 with switched := true })
def Quire.switch (q : Quire) : Quire := { q with latches := switched q.latches }
/-- A quire parks: a switch (R92), and the end of what the matrix unit holds for it (R291). -/
def Quire.park (q : Quire) (w : Wait) : Quire := { q.switch with wait := w, keepB := false }

end Sys2Proof.Machine
end

