-- ==== Sys2Proof/Machine/Trees.lean ====
section
/-! DEFINITION. The search-tree engine (R393–R412): trees as homed, nodes in memory, and each operation as the atomic steps the engine
makes of it. -/
namespace Sys2Proof.Machine

/-! ### Steps of an operation -/

/-- Why an operation comes to nothing: a status (R400), or a translation fault (R402). -/
inductive TErr where
  | status (n : Nat)
  | fault (f : XFault)
deriving DecidableEq, Repr

def tThen {α β : Type} (r : Except TErr α × State) (k : α → State → Except TErr β × State) : Except TErr β × State :=
  match r with
  | (.error x, s) => (.error x, s)
  | (.ok a, s) => k a s

def tEach {α β : Type} (f : α → State → Except TErr β × State) : List α → State → Except TErr (List β) × State
  | [], s => (.ok [], s)
  | a :: l, s => tThen (f a s) fun b s => tThen (tEach f l s) fun bs s => (.ok (b :: bs), s)

def tStop {α : Type} (s : State) (n : Nat) : Except TErr α × State := (.error (.status n), s)

/-- A request with what it needs at its engine: the context's root and the home die of the descriptor. -/
structure TreeEnv where
  r    : TreeReq
  root : Nat
  die  : Nat
deriving DecidableEq, Repr

/-- The physical address of an engine access for a request; no tree reaches a peer (R416). -/
def TreeEnv.pa (a : TreeEnv) (s : State) (va : Nat) (acc : Acc) : Except TErr Nat × State :=
  match s.xl a.die a.r.vol a.r.ctx a.root va acc with
  | (.error f, s) => (.error (.fault f), s)
  | (.ok x, s) => if paKind x.pa == .peer then tStop s 7 else (.ok x.pa, s)

/-- `n` bytes the engine reads; every L1 has given up what it held of them, and a poisoned word ends the operation (R400). -/
def TreeEnv.read (a : TreeEnv) (s : State) (va n : Nat) : Except TErr (List W8) × State :=
  tThen (a.pa s va .eread) fun pa s =>
    let s := s.recallRange pa n
    if s.mem.anyBad pa n then tStop s 9 else (.ok (s.mem.bytes pa n), s)

/-- Writes of one atomic act (R402): every address is translated before any byte is written. -/
def TreeEnv.write (a : TreeEnv) (s : State) (l : List (Nat × List W8)) : Except TErr Unit × State :=
  tThen (tEach (fun w s => tThen (a.pa s w.1 .ewrite) fun pa s => (.ok (pa, w.2), s)) l s) fun ws s =>
    (.ok (), ws.foldl (fun s w => s.putHome w.1 w.2) s)

/-! ### Nodes (R396, R397) -/

structure Node where
  n : Nat
  vl : Nat
  flags : Nat
  w : Nat
  p : Nat
  base : Nat
  count : Nat
  action : Nat
  parent : Nat
  gen : Nat
  term : Nat
deriving DecidableEq, Repr

def Node.of (bs : List W8) : Node :=
  let f := fun o k => leValue ((bs.drop o).take k)
  { n := f 0 4, vl := f 4 2, flags := f 6 2, w := f 8 8, p := f 16 4, base := f 20 4, count := f 24 2, action := f 26 2, parent := f 28 4,
    gen := f 32 4, term := f 36 4 }
def Node.bytes (x : Node) : List W8 :=
  leBytes 4 x.n ++ leBytes 2 x.vl ++ leBytes 2 x.flags ++ leBytes 8 x.w ++ leBytes 4 x.p ++ leBytes 4 x.base ++ leBytes 2 x.count
    ++ leBytes 2 x.action ++ leBytes 4 x.parent ++ leBytes 4 x.gen ++ leBytes 4 x.term ++ leBytes 24 0
def Node.expanded (x : Node) : Bool := x.flags.testBit 0
def Node.terminal (x : Node) : Bool := x.flags.testBit 1
def Node.pending (x : Node) : Bool := x.flags.testBit 2
def Node.setFlag (x : Node) (k : Nat) (b : Bool) : Node :=
  { x with flags := x.flags - (if x.flags.testBit k then 2 ^ k else 0) + if b then 2 ^ k else 0 }

/-- A node the engine holds, changed in one atomic act; poisoned words of it stay poisoned (R467). -/
def State.updateNode (s : State) (pa : Nat) (f : Node → Node) : State :=
  let s := s.recallRange pa 64
  { s with mem := s.mem.writeMarked pa (f (Node.of (s.mem.bytes pa 64))).bytes (((List.range 16).filter fun i => s.mem.bad (pa + 4 * i)).map (pa / 4 + ·)) }

def noNode : Nat := 0xFFFFFFFF
def Tree.nodeVa (t : Tree) (i : Nat) : Nat := t.pool.toNat + 64 * i
/-- A node of a homed tree; an index at or above the capacity is status 7. -/
def TreeEnv.node (a : TreeEnv) (t : Tree) (s : State) (i : Nat) : Except TErr Node × State :=
  if t.capacity ≤ i then tStop s 7 else tThen (a.read s (t.nodeVa i) 64) fun bs s => (.ok (Node.of bs), s)

/-- Descriptor bytes 12–23 (R395). -/
def Tree.back (t : Tree) : Nat × List W8 := (t.desc.toNat + 12, leBytes 4 t.freeHead ++ leBytes 4 t.root ++ leBytes 4 t.gen)
def State.setTree (s : State) (t : Tree) : State := { s with trees := s.trees.map fun x => if x.ctx = t.ctx ∧ x.pa = t.pa then t else x }
def findTree : List Tree → Nat → Nat → Option Tree
  | [], _, _ => none
  | t :: l, ctx, pa => if t.ctx = ctx ∧ t.pa = pa then some t else findTree l ctx pa

/-! ### Choosing a child (R405) -/

def f32OfNat (n : Nat) : Num := Fmt.f32.decode (Fmt.f32.ofNum .rne false false (.fin false n 0)).1
def f32Op (x : Nat × Fl) : Num := Fmt.f32.decode x.1
/-- s of R405. -/
def treeScale (n : Node) : Num := f32Op (Fmt.f32.sqrt .rne false false (f32OfNat (n.n + n.vl)))
/-- The score of a child. -/
def treeScore (t : Tree) (scale : Num) (c : Node) : Num :=
  let F := Fmt.f32
  let k := c.n + c.vl
  let w := f32Op (F.ofNum .rne false false (Fmt.f64.decode c.w))
  let loss := f32Op (F.mulr .rne false false (f32OfNat c.vl) (F.decode t.vloss.toNat))
  let q := if 0 < k then f32Op (F.div .rne false false (f32Op (F.add .rne false false w loss.negate)) (f32OfNat k)) else F.decode t.fpv.toNat
  let cp := f32Op (F.mulr .rne false false (F.decode t.c.toNat) (F.decode c.p))
  let u := f32Op (F.div .rne false false (f32Op (F.mulr .rne false false cp scale)) (f32OfNat (1 + k)))
  f32Op (F.add .rne false false q u)
/-- The place of the greatest score, the lowest of equals; a NaN ranks below every other. -/
def bestScore : List Num → Nat → Option (Nat × Num) → Nat
  | [], _, b => (b.map Prod.fst).getD 0
  | x :: l, i, none => bestScore l (i + 1) (if x.isNan then none else some (i, x))
  | x :: l, i, some b => bestScore l (i + 1) (if !x.isNan && x.cmp b.2 == .gt then some (i, x) else some b)

/-! ### The end of a request (R400, R401) -/

/-- The registers a lane's result goes to. -/
def TreeReq.writes (r : TreeReq) (ws : List (W32 × Bool)) : List RegWrite :=
  match r.dst with
  | .v n => ws.mapIdx fun i w => .vec (vKey (n.toNat + i) r.lane) w.1 w.2
  | .s _ n => [.scal n.toNat ((ws.headD (0, false)).1.setWidth 64) false]
  | _ => []

/-- What a lane is given where its operation came to nothing (R400, R404, R411). -/
def TreeOp.failed (op : TreeOp) (status : Nat) : List (W32 × Bool) :=
  match op with
  | .sel => [(0xFFFFFFFF, false), (0, false), (BitVec.ofNat 32 status, false), (0, false)]
  | .read _ => List.replicate 16 (0xFFFFFFFF, false)
  | _ => [(BitVec.ofNat 32 status, false)]

/-- A lane's result is on its way to the quire; those of an instruction land when none of its lanes is left at the engine. -/
def State.treeAnswer (s : State) (r : TreeReq) (ws : List (W32 × Bool)) : State :=
  let active := s.treqs.any fun x => x.ins == r.ins && x.faulted.isNone
  s.modQuire r.quire fun q => { q with pend := q.pend.map fun p =>
    if p.kind == .tree && p.req == r.ins then { p with writes := p.writes ++ r.writes ws, ready := !active } else p }

def State.setTreq (s : State) (r : TreeReq) : State := { s with treqs := s.treqs.map fun x => if x.id = r.id then r else x }
def State.dropTreq (s : State) (id : Nat) : State := { s with treqs := s.treqs.filter fun x => x.id != id }
def State.treeDone (s : State) (r : TreeReq) (ws : List (W32 × Bool)) : State := (s.dropTreq r.id).treeAnswer r ws
def State.treeStatus (s : State) (r : TreeReq) (n : Nat) : State := s.treeDone r (r.op.failed n)

/-- The trap of a TREAD's lane that faulted, which resolution 2 delivers (R411). -/
def TreeReq.trap (r : TreeReq) (f : XFault) : TrapInfo :=
  { code := f.code, pc := r.pc, resume := r.pc, cls := 1, lane := r.lane, detail := 0, addr := BitVec.ofNat 64 f.va, lanes := 1 <<< (r.lane % 32) }

/-- A translation fault (R402): the lane holds status 8 and its request waits on the entry. A TREAD's quire parks as a load's does (R411). -/
def State.treeFault (s : State) (r : TreeReq) (f : XFault) : State :=
  match FMap.find s.quires r.quire, FMap.find s.gaths r.gath, FMap.find s.vols r.vol with
  | some _, some g, some v =>
    match r.op with
    | .read _ =>
      let s := ({ s with treqs := s.treqs.filter fun x => x.ins != r.ins } : State).abortGroup r.quire
      let a := s.addFault r.ctx f v.pkt.seq g.core (.quire r.quire)
      a.2.modQuire r.quire fun q => ({ q with pend := q.pend.filter fun p => !(p.kind == .tree && p.req == r.ins) } : Quire).park (.fault a.1 (r.trap f) false)
    | _ =>
      let a := s.addFault r.ctx f v.pkt.seq g.core (.tree r.id)
      let r := { r with home := none, prog := .fresh, faulted := some a.1, faultVa := f.va }
      (a.2.setTreq r).treeAnswer r (r.op.failed 8)
  | _, _, _ => s.dropTreq r.id

/-- An act of the engine that ends the operation: its result, a status, or a fault. -/
def State.treeEnd (r : TreeReq) (x : Except TErr (List (W32 × Bool)) × State) : State :=
  match x with
  | (.ok ws, s) => s.treeDone r ws
  | (.error (.status n), s) => s.treeStatus r n
  | (.error (.fault f), s) => s.treeFault r f

/-- An act that leaves more of the operation to do. -/
def State.treeGoOn (r : TreeReq) (x : Except TErr (Option TreeProg × List (W32 × Bool)) × State) : State :=
  match x with
  | (.ok (some p, _), s) => s.setTreq { r with prog := p }
  | (.ok (none, ws), s) => s.treeDone r ws
  | (.error (.status n), s) => s.treeStatus r n
  | (.error (.fault f), s) => s.treeFault r f

def statusWord (n : Nat) : List (W32 × Bool) := [(BitVec.ofNat 32 n, false)]

/-! ### TINIT (R394, R403) -/

/-- A descriptor as read, homed at `pa` in its next generation (R403); none where it breaks R394. -/
def treeOf (ctx : Nat) (desc : W64) (pa : Nat) (bs : List W8) : Option Tree :=
  let f := fun o k => leValue ((bs.drop o).take k)
  let fin := fun o => match Fmt.f32.decode (f o 4) with | .fin _ _ _ => true | _ => false
  let c := Fmt.f32.decode (f 24 4)
  let ok := f 0 8 % 64 == 0 && decide (2 ≤ f 8 4 ∧ f 8 4 ≤ 2 ^ 31) && fin 24 && (!c.sign || c.isZero) && fin 28 && fin 32
    && decide (f 36 1 < 2) && f 37 1 != 0 && (decide (f 38 1 < 64) || f 38 1 == 255) && f 39 1 == 0 && decide (1 ≤ f 40 2 ∧ f 40 2 ≤ 4096)
    && f 44 84 == 0
  if ok then
    some { ctx := ctx, desc := desc, pa := pa, pool := BitVec.ofNat 64 (f 0 8), capacity := f 8 4, freeHead := 1, root := 0, gen := f 20 4 + 1,
           c := BitVec.ofNat 32 (f 24 4), fpv := BitVec.ofNat 32 (f 28 4), vloss := BitVec.ofNat 32 (f 32 4), twoPlayer := f 36 1 == 1,
           maxDepth := f 37 1, handle := f 38 1, batch := f 40 2, timer := f 42 2 }
  else none

def rootNode (gen : Nat) : Node :=
  { n := 0, vl := 0, flags := 0, w := 0, p := 0x3F800000, base := 0, count := 0, action := 0xFFFF, parent := noNode, gen := gen, term := 0 }

/-- The physical address of a request's descriptor, which names its tree (R393): as the engine has it, or as the tables stand. -/
def State.treeHome (s : State) (r : TreeReq) : Option Nat :=
  r.home.or ((FMap.find s.ctxs r.ctx).bind fun c => match walk s.mem c.root (r.desc.toNat % 2 ^ 57) with
    | .leaf l => some (l.frame + r.desc.toNat % 2 ^ 12)
    | .fault _ _ _ => none)

/-- Tree results that have arrived land (R401). -/
def Quire.landTrees (q : Quire) : Quire :=
  let now := q.pend.filter fun p => p.kind == .tree && p.ready
  let wait := fun p : Pending => { p with writes := [], ready := false }
  now.foldl Quire.arrive { q with pend := q.pend.map fun p => if p.kind == .tree && p.ready then wait p else p }

/-- Requests of an instruction that still wait on a fault entry keep its write pending; the others' is done with. -/
def State.dropTrees (s : State) (id : Nat) : State :=
  s.modQuire id fun q => { q with pend := q.pend.filter fun p => !(p.kind == .tree && !(s.treqs.any fun r => r.ins == p.req)) }

/-- Tree results of a quire land, which is an acquire (R401). -/
def State.landTrees (s : State) (id : Nat) : State :=
  let t := (s.modQuire id Quire.landTrees).dropTrees id
  match s.envOf id with
  | none => t
  | some e => if e.q.pend.any fun p => p.kind == .tree && p.ready then t.acquire e.g.pcore .dev else t

/-- Every operation of an earlier homing still held is discarded (R403): appends that wait, and requests that wait on a fault entry, which leave
status 8 behind; a quire parked for nothing else goes on. -/
def State.dropHoming (s : State) (r : TreeReq) (pa : Nat) : State :=
  let old := (s.treqs.takeWhile fun x => x.id != r.id).filter fun x => x.ctx == r.ctx && s.treeHome x == some pa
  let s : State := { s with treqs := s.treqs.filter fun x => !old.contains x, apps := s.apps.filter fun a => !(a.ctx == r.ctx && a.tree == pa) }
  (old.map TreeReq.quire).eraseDups.foldl (fun s id => match FMap.find s.quires id with
    | some q => (match q.wait with
      | .treeFault _ => if s.treqs.any fun x => x.quire == id then s else (s.landTrees id).modQuire id fun q => { q with wait := .none }
      | _ => s)
    | none => s) s

/-- TINIT at the engine. A descriptor that breaks R394 leaves the tree not homed; a TINIT that fails otherwise does nothing (R400, R402). -/
def TreeEnv.init (a : TreeEnv) (s : State) (pa : Nat) : Except TErr (List (W32 × Bool)) × State :=
  let others := fun (s : State) => s.trees.filter fun t => !(t.ctx == a.r.ctx && t.pa == pa)
  tThen (a.read s a.r.desc.toNat 128) fun bs s =>
    match treeOf a.r.ctx a.r.desc pa bs with
    | none => tStop { s with trees := others s } 7
    | some t =>
      if t.gen = 2 ^ 32 then tStop s 7
      else tThen (a.write s [(t.nodeVa 0, (rootNode t.gen).bytes), t.back]) fun _ s =>
        let s := s.dropHoming a.r pa
        (.ok (statusWord 0), { s with trees := others s ++ [t] })

/-! ### TSEL (R404) -/

/-- The result of a descent that stopped at node `i`. -/
def selResult (t : Tree) (i depth status : Nat) (x : Node) : List (W32 × Bool) :=
  [(BitVec.ofNat 32 i, false), (BitVec.ofNat 32 t.gen, false), (BitVec.ofNat 32 (status + depth * 2 ^ 8 + x.action * 2 ^ 16), false),
   (BitVec.ofNat 32 (if status = 1 then x.term else 0), false)]

/-- Raise VL at a node, as part of a step; the node as it is then held. -/
def TreeEnv.raise (a : TreeEnv) (t : Tree) (s : State) (i : Nat) : Except TErr (Nat × Nat) × State :=
  tThen (a.node t s i) fun x s =>
    if x.vl = 65535 then tStop s 6
    else tThen (a.pa s (t.nodeVa i) .ewrite) fun pa s => (.ok (i, pa), s.putHome pa { x with vl := x.vl + 1 }.bytes)

/-- One step of a descent: at the node that heads the path. -/
def TreeEnv.descend (a : TreeEnv) (t : Tree) (s : State) (depth : Nat) (path : List (Nat × Nat)) :
    Except TErr (Option TreeProg × List (W32 × Bool)) × State :=
  let i := (path.headD (0, 0)).1
  tThen (a.node t s i) fun x s =>
    if x.terminal then (.ok (none, selResult t i depth 1 x), s)
    else if !x.expanded then
      if x.pending then (.ok (none, selResult t i depth 2 x), s)
      else tThen (a.write s [(t.nodeVa i, (x.setFlag 2 true).bytes)]) fun _ s => (.ok (none, selResult t i depth 0 x), s)
    else if depth = t.maxDepth then (.ok (none, selResult t i depth 3 x), s)
    else if x.count = 0 then tStop s 7
    else
      let scale := treeScale x
      tThen (tEach (fun k s => tThen (a.node t s (x.base + k)) fun c s => (.ok (treeScore t scale c), s)) (List.range x.count) s) fun l s =>
        let c := x.base + bestScore l 0 none
        tThen (a.raise t s c) fun x s => (.ok (some (.descend (depth + 1) (x :: path)), []), s)

/-- A descent that cannot go on undoes what it raised, one node at a time, and then ends as it must. -/
def State.treeUndo (s : State) (r : TreeReq) (path : List (Nat × Nat)) (x : TErr) : State :=
  match path, x with
  | [], .status n => s.treeStatus r n
  | [], .fault f => s.treeFault r f
  | _, .status n => s.setTreq { r with prog := .undo path n none }
  | _, .fault f => s.setTreq { r with prog := .undo path 8 (some (f.code, f.level, f.access, f.va)) }

/-- A step of a descent: what stops it is left once what it raised has been undone. -/
def State.treeDescend (s : State) (a : TreeEnv) (t : Tree) (depth : Nat) (path : List (Nat × Nat)) : State :=
  match a.descend t s depth path with
  | (.error x, s) => s.treeUndo a.r path x
  | (.ok x, s) => State.treeGoOn a.r (.ok x, s)

/-! ### TEXP (R406, R407) -/

/-- k consecutive free nodes: `n` indices are still to be examined, at `i` with a run of `run` behind it. -/
def TreeEnv.alloc (a : TreeEnv) (t : Tree) (k : Nat) : Nat → Nat → Nat → State → Except TErr (Option Nat) × State
  | 0, _, _, s => (.ok none, s)
  | n + 1, i, run, s =>
    let at' := if t.capacity ≤ i then 0 else i
    let run := if t.capacity ≤ i then 0 else run
    match a.node t s at' with
    | (.error x, s) => (.error x, s)
    | (.ok x, s) =>
      if x.gen < t.gen then
        if run + 1 = k then (.ok (some (at' + 1 - k)), s) else TreeEnv.alloc a t k n (at' + 1) (run + 1) s
      else TreeEnv.alloc a t k n (at' + 1) 0 s

/-- A child as its entry makes it; none where the entry is bad. -/
def childOf (bs : List W8) (leaf gen : Nat) : Option Node :=
  let f := fun o k => leValue ((bs.drop o).take k)
  if 1 < f 6 2 ∨ f 12 4 ≠ 0 then none
  else some { n := 0, vl := 0, flags := 2 * f 6 2, w := 0, p := f 0 4, base := 0, count := 0, action := f 4 2, parent := leaf, gen := gen, term := f 8 4 }

def TreeEnv.expand (a : TreeEnv) (t : Tree) (s : State) (leaf gen : Nat) (list k : Nat) : Except TErr (List (W32 × Bool)) × State :=
  if gen ≠ t.gen then tStop s 4
  else tThen (a.node t s leaf) fun x s =>
    if k = 0 ∨ 65535 < k then tStop s 7
    else tThen (tEach (fun j s => tThen (a.read s (list + 16 * j) 16) fun bs s => (.ok (childOf bs leaf t.gen), s)) (List.range k) s) fun l s =>
      if l.any Option.isNone then tStop s 7
      else if x.terminal then tStop s 1
      else if x.expanded then tStop s 2
      else tThen (a.alloc t k t.capacity t.freeHead 0 s) fun b s =>
        match b with
        | none => tThen (a.write s [(t.nodeVa leaf, (x.setFlag 2 false).bytes)]) fun _ s => (.ok (statusWord 5), s)
        | some b =>
          let t' := { t with freeHead := (b + k) % t.capacity }
          let block := (l.filterMap id).mapIdx fun j c => (t.nodeVa (b + j), c.bytes)
          let leaf' := (t.nodeVa leaf, ({ x with base := b, count := k }.setFlag 0 true |>.setFlag 2 false).bytes)
          tThen (a.write s (block ++ [leaf', t'.back])) fun _ s => (.ok (statusWord 0), s.setTree t')

/-! ### TBACK (R409) -/

/-- The parent chain from a node to the root; `n` more parents may be met. -/
def TreeEnv.chain (a : TreeEnv) (t : Tree) : Nat → Nat → State → Except TErr (List Nat) × State
  | 0, _, s => tStop s 7
  | n + 1, i, s =>
    tThen (a.node t s i) fun x s =>
      if x.parent = noNode then (.ok [i], s) else tThen (TreeEnv.chain a t n x.parent s) fun l s => (.ok (i :: l), s)

def Node.backed (x : Node) (v : Num) (leaf : Bool) : Node :=
  let x := { x with n := min (x.n + 1) 0xFFFFFFFF, vl := x.vl - 1, w := (Fmt.f64.add .rne false false (Fmt.f64.decode x.w) v).1 }
  if leaf then x.setFlag 2 false else x

/-- One node of a backup: the first, and then the rest. -/
def State.treeBackup (s : State) (t : Tree) (v : W64) (leaf neg : Bool) : List (Nat × Nat) → (Option TreeProg × List (W32 × Bool)) × State
  | [] => ((none, statusWord 0), s)
  | i :: rest =>
    let x := Fmt.f64.decode v.toNat
    let s := s.updateNode i.2 fun n => n.backed (if neg then x.negate else x) leaf
    if rest.isEmpty then ((none, statusWord 0), s) else ((some (.backup rest false (neg != t.twoPlayer)), []), s)

/-- Nodes to be written, held with their physical addresses: all of them are reached before anything is written (R402). -/
def TreeEnv.reach (a : TreeEnv) (t : Tree) (s : State) (l : List Nat) : Except TErr (List (Nat × Nat)) × State :=
  tEach (fun i s => tThen (a.pa s (t.nodeVa i) .ewrite) fun pa s => (.ok (i, pa), s)) l s

/-- The start of a backup: everything it will read and write is reached (R402). -/
def TreeEnv.startBackup (a : TreeEnv) (t : Tree) (s : State) (leaf gen : Nat) : Except TErr (Option TreeProg × List (W32 × Bool)) × State :=
  if gen ≠ t.gen then tStop s 4
  else tThen (a.chain t 257 leaf s) fun l s => tThen (a.reach t s l) fun l s => (.ok (some (.backup l true false), []), s)

/-! ### TREUSE (R410) -/

/-- The kept subtree, level by level: `n` bounds its depth. -/
def TreeEnv.subtree (a : TreeEnv) (t : Tree) : Nat → List Nat → List Nat → State → Except TErr (List Nat) × State
  | 0, _, seen, s => (.ok seen, s)
  | n + 1, level, seen, s =>
    if level.isEmpty then (.ok seen, s)
    else tThen (tEach (fun i s => tThen (a.node t s i) fun x s =>
        (.ok (if x.expanded then (List.range x.count).map (x.base + ·) else []), s)) level s) fun ls s =>
      let next := ls.flatten.eraseDups.filter fun i => !seen.contains i
      TreeEnv.subtree a t n next (seen ++ next) s

/-- TREUSE up to its sweep: the whole of the kept subtree is reached first, then the root changes. -/
def TreeEnv.startReuse (a : TreeEnv) (t : Tree) (s : State) (node : Nat) : Except TErr (Option TreeProg × List (W32 × Bool)) × State :=
  tThen (a.node t s t.root) fun r s =>
    tThen (a.node t s node) fun x s =>
      if !(r.expanded && decide (r.base ≤ node ∧ node < r.base + r.count)) ∨ x.gen ≠ t.gen ∨ t.gen = noNode then tStop s 7
      else tThen (a.subtree t t.capacity [node] [node] s) fun l s =>
        tThen (a.reach t s l) fun l s =>
          let t' := { t with gen := t.gen + 1, root := node }
          tThen (a.write s [(t.nodeVa t.root, (r.setFlag 3 true).bytes), (t.nodeVa node, { x with parent := noNode }.bytes), t'.back]) fun _ s =>
            (.ok (some (.sweep l), []), s.setTree t')

/-- One node of a sweep: the first, and then the rest. -/
def State.treeSweep (s : State) (t : Tree) : List (Nat × Nat) → (Option TreeProg × List (W32 × Bool)) × State
  | [] => ((none, statusWord 0), s)
  | i :: rest =>
    let s := s.updateNode i.2 fun x => { x with gen := t.gen, vl := 0 }.setFlag 2 false
    if rest.isEmpty then ((none, statusWord 0), s) else ((some (.sweep rest), []), s)

/-! ### TREAD and TLEAF -/

def TreeEnv.readNode (a : TreeEnv) (t : Tree) (s : State) (i : Nat) : Except TErr (List (W32 × Bool)) × State :=
  if t.capacity ≤ i then tStop s 7
  else tThen (a.pa s (t.nodeVa i) .eread) fun pa s =>
    let s := s.recallRange pa 64
    (.ok ((List.range 16).map fun j => (BitVec.ofNat 32 (s.mem.num (pa + 4 * j) 4), s.mem.bad (pa + 4 * j))), s)

/-- TLEAF's acceptance (R408). -/
def TreeEnv.leaf (a : TreeEnv) (t : Tree) (s : State) (leaf gen tag : W32) (handles : Nat) : Except TErr (List (W32 × Bool)) × State :=
  let ring := match FMap.find s.gaths a.r.gath with
    | some g => g.role == .task && decide (60 ≤ t.handle)
    | none => false
  if gen.toNat ≠ t.gen then tStop s 4
  else if handles ≤ t.handle ∨ ring = true ∨ 16 * (s.handle a.r.gath t.handle).size < 16 * t.batch then tStop s 7
  else
    let bs := leBytes 4 leaf.toNat ++ leBytes 4 gen.toNat ++ leBytes 4 tag.toNat ++ [BitVec.ofNat 8 a.r.index, BitVec.ofNat 8 a.r.lane] ++ leBytes 2 0
    (.ok (statusWord 0), { s with apps := s.apps ++ [{ ctx := a.r.ctx, tree := t.pa, gath := a.r.gath, handle := t.handle, bytes := bs, batch := t.batch, timer := t.timer }] })

/-! ### One act of the engine -/

/-- The next atomic act of a request (R412). -/
def State.treeAct (s : State) (a : TreeEnv) (pa : Nat) (t : Option Tree) : State :=
  let r := a.r
  match t with
  | none => match r.op with
    | .init => State.treeEnd r (a.init s pa)
    | _ => s.treeStatus r 7
  | some t =>
    match r.prog, r.op with
    | .undo (i :: path) st f, _ =>
      (s.updateNode i.2 fun x => { x with vl := x.vl - 1 }).treeUndo r path (match f with
        | some (code, level, access, va) => .fault { code := code, level := level, access := access, va := va }
        | none => .status st)
    | .undo [] st _, _ => s.treeStatus r st
    | .descend depth path, _ => s.treeDescend a t depth path
    | .backup rest leaf neg, .back _ _ v => let x := s.treeBackup t v leaf neg rest; State.treeGoOn r (.ok x.1, x.2)
    | .backup _ _ _, _ => s.treeStatus r 7
    | .sweep rest, _ => let x := s.treeSweep t rest; State.treeGoOn r (.ok x.1, x.2)
    | .fresh, .init => State.treeEnd r (a.init s pa)
    | .fresh, .sel => match a.raise t s t.root with
      | (.error x, s) => s.treeUndo r [] x
      | (.ok x, s) => s.treeDescend a t 0 [x]
    | .fresh, .exp leaf gen list count => State.treeEnd r (a.expand t s leaf.toNat gen.toNat list.toNat count.toNat)
    | .fresh, .back leaf gen _ => State.treeGoOn r (a.startBackup t s leaf.toNat gen.toNat)
    | .fresh, .leaf leaf gen tag handles => State.treeEnd r (a.leaf t s leaf gen tag handles)
    | .fresh, .reuse node => State.treeGoOn r (a.startReuse t s node.toNat)
    | .fresh, .read node => State.treeEnd r (a.readNode t s node.toNat)

/-- The engine of a request's tree takes its next act; the descriptor names the tree by its physical address (R393), which the engine finds once. -/
def State.treeStep (s : State) (r : TreeReq) : State :=
  match FMap.find s.ctxs r.ctx with
  | none => s.dropTreq r.id
  | some c =>
    let act := fun (pa : Nat) (s : State) =>
      let r := { r with home := some pa }
      (s.setTreq r).treeAct { r := r, root := c.root, die := homeDie pa } pa (findTree s.trees r.ctx pa)
    match r.home with
    | some pa => act pa s
    | none => match s.translate 0 r.ctx c.root r.desc.toNat .eread with
      | (.error f, s) => s.treeFault r f
      | (.ok x, s) => if paKind x.pa == .peer then s.treeStatus r 7 else act x.pa s

/-- An operation that others of its tree wait for, and that waits for all before it (R403, R410). -/
def TreeOp.alone : TreeOp → Bool
  | .init => true
  | .reuse _ => true
  | _ => false

/-- A request may act now (R404, R409, R412): operations of a tree begin in arrival order; descents keep their order on the way down, and
backups theirs at every node. -/
def State.treeReady (s : State) (r : TreeReq) : Bool :=
  let before := (s.treqs.takeWhile fun x => x.id != r.id).filter fun x => x.ctx == r.ctx && s.treeHome x == s.treeHome r && x.faulted.isNone
  r.faulted.isNone && (match r.prog with
    | .fresh => before.all (fun x => x.prog != .fresh && !x.op.alone) && (!r.op.alone || before.isEmpty)
    | .descend depth _ => before.all fun x => match x.prog with
      | .descend d _ => decide (depth < d)
      | _ => true
    | .backup (i :: _) _ _ => before.all fun x => match x.prog with
      | .backup l _ _ => !(l.map Prod.fst).contains i.1
      | _ => true
    | _ => true)

/-- Act on requests until none of a quire is left at an engine: `n` bounds the acts. -/
def State.treeRun (id : Nat) : Nat → State → State
  | 0, s => s
  | n + 1, s =>
    if s.treqs.any fun r => r.quire == id && r.faulted.isNone then
      match s.treqs.find? s.treeReady with
      | none => s
      | some r => State.treeRun id n (s.treeStep r)
    else s

/-- Every tree operation of a quire is performed and its results land, as a rollback waits for (R401); its TREADs are given up. -/
def State.settleTrees (s : State) (id : Nat) : State :=
  let s : State := { s with treqs := s.treqs.filter fun r => !(r.quire == id && (match r.op with | .read _ => true | _ => false)) }
  (State.treeRun id (2 ^ 40) s).landTrees id

end Sys2Proof.Machine
end

