-- ==== Sys2Proof/Machine/Ops.lean ====
section
/-! DEFINITION. The operations instructions share: commit and checkpoint (R345, R433, R525), rollback (R435), taking a trap and coming
back from it (R442–R448), parking on a fault (R248), stalling (R119), and the checks that stand before an effect. -/
namespace Sys2Proof.Machine

/-! ### Commit, checkpoint, rollback -/

/-- A checkpoint taken inside a group: the registers before the group, its start, what it has done (R433, R525). With no group in
progress the checkpoint holds the registers as they stand and restarts at the current PC. -/
def Quire.checkpointHere (q : Quire) : Quire :=
  match q.grp with
  | none =>
    { q with ckpt := { q.ckpt with regs := q.regs, pc := q.pc, record := [], queries := q.queries, latches := q.latches, groupNo := q.groupNo },
             recordLive := true, rows := freeHeld q.rows, spilled := freeHeld q.spilled, fresh := [],
             pend := q.pend.map fun p => { p with slot := none, old := true } }
  | some g =>
    let record := g.stored.foldl (fun r k => recordAdd r k [] false) q.groupRecord
    { q with
      ckpt := { q.ckpt with regs := q.view, pc := q.pc, record := record, queries := g.queries, latches := g.latches, groupNo := q.groupNo },
      recordLive := true, rows := q.rows.filter (fun n => decide (n < 2 ^ 20) || g.mapped.contains (n - 2 ^ 20)),
      spilled := q.spilled.filter (fun n => decide (n < 2 ^ 20) || g.mapped.contains (n - 2 ^ 20)), fresh := g.mapped,
      heldSlots := q.heldSlots - g.heldSlots,
      grp := some { g with committed := true, stored := [], store := [], entries := 0, heldSlots := 0 },
      pend := q.pend.map fun p => if p.slot.isNone then { p with old := true } else p }

/-- A quire's uncommitted stores enter its core's order in store order (R235, R347), each breaking the seals it falls on (R48). Bytes for a
scratchpad portion whose gathering has retired are discarded (R57). -/
def State.commitStores (s : State) (pc vid owner : Nat) (l : List StoreRec) : State :=
  l.foldl (fun s r => if s.portionGone r.portion then s else (s.breakFor vid r.key).commitUnit pc owner r) s

/-- A store among some goes to a line an engine owns: it commits only after the engine has released it (R360). -/
def State.storesOwned (s : State) (l : List StoreRec) : Bool := !(s.xfers.isEmpty && s.colls.isEmpty && s.mjobs.isEmpty) && l.any fun r => s.lineOwned r.key

/-- The commit of a commit point (R345, R433): the stores leave the quire, surrendered blocks go back to the pool (R219), slots held for
closed queries are free (R331), and the checkpoint is taken. -/
def State.commit (s : State) (id : Nat) : State :=
  match FMap.find s.quires id with
  | none => s
  | some q =>
    match FMap.find s.gaths q.gath with
    | none => s
    | some g =>
      let s := s.commitStores g.pcore g.vol id q.store
      let given := q.view.surrendered
      let regs : Regs := { q.regs with surrendered := q.regs.surrendered - given }
      let snap : Option Regs := q.snap.map fun r => { r with surrendered := 0 }
      s.setQuire id ({ q with store := [], spadEntries := 0, heldSlots := if q.grp.isSome then q.heldSlots else 0, regs := regs, snap := snap } : Quire).checkpointHere

/-- The effect of the member at the current slot has been accepted (R433): it is recorded with the register results it returned. -/
def Quire.accept (q : Quire) (ws : List RegWrite) : Quire :=
  { q with ckpt := { q.ckpt with record := recordAdd q.ckpt.record (pcSlot q.selfPc) ws true } }
def State.accept (s : State) (id : Nat) (ws : List RegWrite) : State := s.modQuire id fun q => q.accept ws

/-- Names dead under a liveness entry read zero (R436): vectors outside the range, scalars whose bit is clear. -/
def Regs.killDead (r : Regs) (live : Option (Nat × Nat × Nat)) : Regs :=
  match live with
  | none => r
  | some (first, count, mask) =>
    let vOk := fun key : Nat => decide (first ≤ key / 256 ∧ key / 256 < first + count)
    { r with v := r.v.filter fun e => vOk e.1, vbad := r.vbad.filter vOk,
             s := r.s.filter fun e => mask.testBit e.1, sbad := r.sbad.filter fun k => mask.testBit (k / 2) }

/-- Rollback of a quire (R435). Replies still owed to it land when they come, in its registers and in its checkpoint; dead names are
zero (R436). No rollback completes while a reply of the quire's atomics or a tree result is owed (R364, R401): the quire goes on when the last reply
has landed. A rollback is counted (R451). -/
def State.rollback (s : State) (id : Nat) : State :=
  let s := (s.settleAsq id).settleTrees id
  let s := s.renameSpill id fun n => (FMap.find s.quires id).bind fun q => unmapRow q.fresh n
  match FMap.find s.quires id with
  | none => s
  | some q =>
    let kept := q.pend.filter q.keeps
    let live := q.ckpt.regs.killDead q.ckpt.live
    let q' := { q with regs := live, snap := none, grp := none, pc := q.ckpt.pc, npc := q.ckpt.pc, selfPc := q.ckpt.pc, checked := false,
                       latches := switched q.ckpt.latches, line := none, groupNo := q.ckpt.groupNo, sealing := none,
                       rows := unmapRows q.fresh q.rows, spilled := unmapRows q.fresh q.spilled, fresh := [], refilled := [], held := none, wait := if q.repliesDue then .drain else .none, store := [], spadEntries := 0, queries := q.ckpt.queries, heldSlots := 0,
                       pend := kept, claimed := 0, keepB := false, peerGot := [], recordLive := true, ckpt := { q.ckpt with regs := live } }.perfAdd 4 1
    { s.setQuire id q' with
      held := s.held.filter (fun h => h.quire != id),
      mjobs := s.mjobs.filter (fun j => j.quire != id || !j.stores.isEmpty || kept.any fun p => p.req == j.req),
      peerOut := s.peerOut.map fun o => match o.use with
        | .operand k pa => if k = id then { o with use := .operand 0 pa } else o
        | _ => o }

/-- A latch after a group that writes the registers `ws` (R92): one whose destination an earlier group wrote is overwritten by it. -/
def Latch.after (L : Latch) (group : Nat) (ws : List Nat) : Latch :=
  if L.group < group && L.names.any ws.contains then { L with overwritten := true } else L

/-- The group in progress is complete (R117, R525): its writes stand, issue goes on after it, and where one of its members was a commit
point the checkpoint moves to the first group after it; stores of the group that followed the commit are committed with it. -/
def State.finishGroup (s : State) (id : Nat) : State :=
  match FMap.find s.quires id with
  | none => s
  | some q =>
    match q.grp with
    | none => s
    | some g =>
      let same := lineVa q.npc == lineVa q.pc && !g.left
      let q' := { q with snap := none, grp := none, pc := q.npc, selfPc := q.npc, groupNo := q.groupNo + 1, recordLive := false, peerGot := [],
                         latches := if same then q.latches.map (fun e => (e.1, e.2.after q.groupNo g.wrote)) else [], resumed := none,
                         line := if same then q.line else none, held := q.held.filter (fun x => x.1 == q.npc && x.1 != q.pc),
                         sealing := if same then q.sealing.map (fun _ => true) else none,
                         pend := q.pend.map (fun p => { g.trim p with slot := none }) }
      let q' := match q.resumed with
        | some (l, line, n) => if lineVa q.npc == line then { q' with latches := l, groupNo := n } else q'
        | none => q'
      let q' := if q.stopped then q'.switch else q'
      if g.committed then (s.setQuire id q').commit id else s.setQuire id q'

/-! ### Traps (R442–R446) -/

/-- Class code of a trap (R442). -/
def trapClass (code : Nat) : Nat :=
  if code = 0x12 ∨ code = 0x13 then 3 else if code = 0x1A then 2 else if 0x0C ≤ code ∧ code ≤ 0x10 then 1 else 0

/-- A trap raised at the member being executed, with the resume PC of its class (R442): the next group after a breakpoint or a
deliberate trap, else the start of the group. A region-class trap's resume PC is the restart PC, which delivery fills in. -/
def Env.trapInfo (e : Env) (code lane detail addr : Nat) (lanes : W32) : TrapInfo :=
  { code := code, pc := e.q.selfPc, resume := if code = 0x19 then e.q.fall else if code = 0x12 ∨ code = 0x13 then e.q.npc else e.q.pc,
    cls := trapClass code, lane := lane, detail := BitVec.ofNat 32 detail, addr := BitVec.ofNat 64 addr, lanes := lanes }

/-- A trap at fault in a set of lanes (R444): the lowest lane, and the lanes at fault of its mask word. -/
def Env.trapLanes (e : Env) (code detail addr : Nat) (bad : LaneSet) : TrapInfo :=
  match LaneSet.lowest e.width bad with
  | none => e.trapInfo code 0xFFFF detail addr 0
  | some l => e.trapInfo code l detail addr (wordOf bad l)

/-- A trap of the whole quire. -/
def Env.trapAll (e : Env) (code detail : Nat) : TrapInfo := e.trapInfo code 0xFFFF detail 0 0

/-- The quire's slot of the trap area (R444). -/
def Env.recordVa (e : Env) : Nat := e.ctx.trapArea + 64 * (64 * e.g.core + 16 * e.q.part + e.q.slot)

/-- The 64 bytes of a trap record (R444). -/
def Env.recordBytes (e : Env) (t : TrapInfo) (entry sig : W32) (clock : Nat) : List W8 :=
  leBytes 8 t.pc.toNat ++ leBytes 8 t.resume.toNat ++ [BitVec.ofNat 8 t.code, BitVec.ofNat 8 t.cls] ++ leBytes 2 t.lane
    ++ leBytes 4 t.detail.toNat ++ leBytes 8 t.addr.toNat ++ leBytes 4 entry.toNat ++ leBytes 4 e.vol.pkt.seq
    ++ leBytes 2 e.g.core ++ [BitVec.ofNat 8 e.g.slot, BitVec.ofNat 8 e.q.index] ++ leBytes 4 t.lanes.toNat
    ++ leBytes 8 sig.toNat ++ leBytes 8 clock

/-- Enter handler mode (R445): a handler marker, the handler bank, trap enables read zero, transfer to the handler entry. The latches of the
line entry interrupted stand by for its resumption, switched (R92). -/
def Regs.enterHandler (r : Regs) (recordVa : W64) (code : Nat) (held : Option (W64 × List Accepted)) (q : Quire) : Regs :=
  { r with
    stack := .handler :: r.stack,
    handler := some { bank := FMap.put 0 (FMap.put 0 [] 112 recordVa) 113 (BitVec.ofNat 64 code), bad := [], fpmode := r.fpmode, record := recordVa, held := held,
                      latches := q.switch.latches, line := lineVa q.npc, groups := q.groupNo },
    fpmode := r.fpmode &&& ~~~0x1F0 }

/-- What a quire that has left its group keeps of the group's record (R525). -/
def Quire.heldRecord (q : Quire) : Option (W64 × List Accepted) :=
  match q.groupRecord with
  | [] => none
  | l => some (q.pc, l)

/-- The 64 bytes of a trap record at their place: in the page itself and in the version of it that the launch's accesses use, which no kill takes
back (R444); no core keeps an older word of them. -/
def State.putRecord (s : State) (vid pa : Nat) (bs : List W8) : State :=
  let copy := s.shadowed vid pa
  let s := (s.breakFor vid pa).putHome pa bs
  let s := if copy = pa then s else s.putHome copy bs
  { s with cores := s.cores.map fun v => (v.1, { v.2 with clean := v.2.clean.filter fun w => !(runsMeet pa 64 (4 * w.1) 4 || runsMeet copy 64 (4 * w.1) 4) }) }

/-- The quire enters handler mode with its trap record at a physical address (R444, R445). -/
def State.enterHandler (s : State) (id : Nat) (t : TrapInfo) (pa : Nat) : State :=
  match s.envOf id with
  | none => s
  | some e =>
    (s.putRecord e.g.vol pa (e.recordBytes t e.q.regs.entry e.q.regs.sig s.clock)).setQuire id
      { e.q with regs := e.q.regs.enterHandler (BitVec.ofNat 64 e.recordVa) t.code e.q.heldRecord e.q, snap := none, grp := none, pc := e.ctx.handler,
                     npc := e.ctx.handler, selfPc := e.ctx.handler, checked := true, latches := [], line := none, sealing := none, groupNo := 0, claimed := 0,
                     wait := if t.cls = 1 ∧ e.q.repliesDue then .drain else .none, keepB := false, stopped := e.q.stopped || e.q.stepping, stepping := false }

/-- Delivery (R444, R445): the record is written where the trap area translates, and the handler is entered; where it does not, delivery
waits on a fault entry with the quire parked; a slot at a peer, which R416 admits to nothing but loads and stores of instructions, ends the launch as
resolution 2 of that entry would (DESIGN CHOICE, notes/assumptions/139.md). A breakpoint's or a deliberate trap's group completes as it is delivered. A
context with no handler ends the launch, as a double trap does (R446). -/
def State.deliver (s : State) (id : Nat) (t : TrapInfo) : State :=
  match s.envOf id with
  | none => s
  | some e =>
    if e.ctx.handler = 0 then (s.hostEvent 2 e.vol.ctx e.vol.pkt.seq).endLaunch e.g.vol (.error t.code)
    else
      match s.translate (dieOfCore e.g.pcore) e.vol.ctx e.ctx.root e.recordVa .store with
      | (.error f, s) =>
        let r := s.addFault e.vol.ctx f e.vol.pkt.seq e.g.core (.delivery id)
        r.2.modQuire id fun q => q.park (.deliver t r.1)
      | (.ok x, s) =>
        if paKind x.pa = .peer then s.endLaunch e.g.vol (.error t.code)
        else (if t.cls = 3 ∨ t.code = 0x19 then s.finishGroup id else s).enterHandler id t x.pa

/-- The instruction at a PC is a commit point of the quire's group whose effect has been accepted (R442). -/
def Quire.acceptedAt (q : Quire) (pc : W64) : Bool :=
  lineVa pc == lineVa q.pc && q.recordLive && q.ckpt.pc == q.pc && (recordOf q.ckpt.record (pcSlot pc)).any Accepted.point

/-- Taking a trap (R442, R446). In handler mode it is a double trap and ends the launch, and so is a resume PC that TRET cannot enter (R448). A region-class trap rolls the quire back first,
unless it is told to keep its place or falls on a commit point whose effect has been accepted, and resumes at the restart PC. A breakpoint or deliberate trap resumes at the next group, so its
group completes first; every other trap discards the group's register writes. -/
def State.takeTrap (s : State) (id : Nat) (t : TrapInfo) (keep : Bool) : State :=
  match s.envOf id with
  | none => s
  | some e =>
    let badReturn := e.q.returning && ((t.code == 0x02 && t.detail == 7) || (t.code == 0x0D && !canonical t.addr.toNat))
    if e.handlerMode || badReturn then
      (s.hostEvent 2 e.vol.ctx e.vol.pkt.seq).endLaunch e.g.vol (.error t.code)
    else if t.cls = 1 ∧ !keep then
      (if e.q.acceptedAt t.pc then s.abortGroup id else s.rollback id).deliver id { t with resume := e.q.ckpt.pc }
    else if t.cls = 3 ∨ t.code = 0x19 then s.deliver id t
    else (s.abortGroup id).deliver id t

/-- A precise trap 0x18 keeps the flags the instruction raised (R167). -/
def State.takeFlagsTrap (s : State) (id : Nat) (t : TrapInfo) (fl : Fl) : State :=
  let or' := fun r : Regs => { r with fpflags := r.fpflags ||| fl.setWidth 64 }
  (s.modQuire id fun q => { q with regs := or' q.regs, snap := q.snap.map or' }).takeTrap id t false

/-! ### What an instruction's execution comes to -/

/-- How a step of an instruction ends short of its effect: a trap, a trap 0x18 with the flags it keeps, a park on a fault entry, or a
stall at issue. -/
inductive Halt where
  | trap (t : TrapInfo)
  | flags (t : TrapInfo) (fl : Fl)
  | fault (f : XFault)
  /-- a fault of a matrix instruction that keeps the rows it has done (R288) -/
  | rows (f : XFault)
  | stall (k : Stall)
deriving DecidableEq, Repr

/-- A fault of check 6 of R229 (R248): the instruction has no effect, the quire parks on the entry. -/
def State.parkFault (s : State) (e : Env) (f : XFault) (matrix : Bool) : State :=
  let s := s.abortGroup e.id
  let r := s.addFault e.vol.ctx f e.vol.pkt.seq e.g.core (.quire e.id)
  r.2.modQuire e.id fun q => q.park (.fault r.1 (e.trapLanes f.code 0 f.va f.lanes) matrix)

/-- A group that has not issued after all is not counted (R392, R451). -/
def Quire.uncount (q : Quire) (g : Group) : Quire :=
  let q : Quire := if q.regs.handler.isSome then q else { q with budget := q.budget - 1 }
  (q.perfAdd 0 (2 ^ 64 - 1)).perfAdd 1 (2 ^ 64 - g.clocks)

/-- A stall at issue (R119): the group issues again when the condition ends. -/
def State.stallOn (s : State) (e : Env) (k : Stall) : State :=
  ((s.fresh.2).abortGroup e.id).modQuire e.id fun q =>
    let q : Quire := { q with wait := .stall k }
    match e.q.grp with
    | some g => q.uncount g
    | none => q

/-- An access of a member that has issued waits for an engine or for accesses before it (R267, R352): the member acts when they have done. -/
def State.holdMember (s : State) (e : Env) (k : Stall) : State :=
  s.modQuire e.id fun q => { q with wait := .stall k, grp := q.grp.map fun g => { g with done := g.done - 1 } }
/-- A stall that holds a member in its place, not its group at issue. -/
def Stall.holds (k : Stall) : Bool := k == .build || k == .order
/-- A quire whose member is held in its place. -/
def Quire.memberHeld (q : Quire) : Bool := q.grp.isSome && (q.wait == .stall .build || q.wait == .stall .order)

def State.halt (s : State) (e : Env) : Halt → State
  | .trap t => s.takeTrap e.id t false
  | .flags t fl => s.takeFlagsTrap e.id t fl
  | .fault f => s.parkFault e f false
  | .rows f => s.parkFault e f true
  | .stall k => if k.holds && e.q.grp.isSome then s.holdMember e k else s.stallOn e k

/-- The result of a meaning's checks and computation: a state, or a halt with the state it happens in. -/
abbrev Res (α : Type) := Except (Halt × State) α

def Env.trapRes (e : Env) {α : Type} (s : State) (code detail : Nat) : Res α := .error (.trap (e.trapAll code detail), s)

/-- A quire's update, at the quire itself. -/
def State.upd (s : State) (e : Env) (f : Quire → Quire) : State := s.modQuire e.id f

/-! ### Flags (R166, R167) -/

/-- Flags that lanes raise: each lane with its flags, padding lanes raising none (R166). -/
structure LaneFl where
  lane : Nat
  fl   : Fl
deriving DecidableEq, Repr

def flUnion (l : List LaneFl) : Fl := l.foldl (fun a x => a ||| x.fl) 0

/-- Trap enables of sr.fpmode, in the layout of the flags (R165). -/
def Env.enables (e : Env) : Fl := (e.view.fpmode >>> 4).setWidth 5
def Env.ftz16 (e : Env) : Bool := e.view.fpmode.getLsbD 9
/-- The rounding mode of an instruction: its field, or sr.fpmode where the field says so (R100, R160). -/
def Env.mode (e : Env) (r : RndField) : Rnd :=
  match r with
  | .rne => .rne | .rtz => .rtz | .rup => .rup | .rdn => .rdn | .rna => .rna
  | _ => Rnd.ofCode (e.view.fpmode.toNat % 8)

/-- Raise flags: sticky in sr.fpflags. -/
def Quire.raise (q : Quire) (fl : Fl) : Quire :=
  { q with regs := { q.regs with fpflags := q.regs.fpflags ||| fl.setWidth 64 } }

/-- The trap 0x18 that flags call for, if any (R167): the lowest lane that raised a trapped flag. -/
def Env.flagTrap (e : Env) (l : List LaneFl) : Option TrapInfo :=
  let bad := l.foldl (fun m x => if x.fl &&& e.enables = 0 then m else m ||| LaneSet.one x.lane) (0 : LaneSet)
  if bad = 0 then none else some (e.trapLanes 0x18 (flUnion l).toNat 0 bad)

end Sys2Proof.Machine
end

