-- ==== Sys2Proof/Machine/Parts.lean ====
section
/-! DEFINITION. Cores, clusters and their resources (R52, R53, R58, R61, R524), and the rows of a partition (R125, R219). -/
namespace Sys2Proof.Machine

/-- Die and within-die index of a logical core 16 × y + c (R52). -/
def logicalDie (l : Nat) : Nat := 2 * (l / 16 / 12) + l % 16 / 8
def logicalIndex (l : Nat) : Nat := 8 * (l / 16 % 12) + l % 16 % 8
/-- The physical core a logical core maps to (R53, R524): the identity where no entry stands. -/
def State.physOf (s : State) (l : Nat) : Nat := FMap.val (96 * logicalDie l + logicalIndex l) s.spanMap l
def State.available (s : State) (l : Nat) : Bool := !s.unavail.contains l

/-- One entry of a span map is written (R53, R524): it names a physical core of its die, or marks its logical core unavailable; a retired core is
named by none. -/
def State.mapEntry (s : State) (l : Nat) (dest : Option Nat) : State :=
  match dest with
  | none => { s with unavail := setIns s.unavail l }
  | some p =>
    if dieOfCore p ≠ logicalDie l ∨ 384 ≤ l then s
    else if s.retired.contains p then { s with unavail := setIns s.unavail l }
    else { s with spanMap := FMap.put (96 * logicalDie l + logicalIndex l) s.spanMap l p, unavail := s.unavail.filter (· != l) }
/-- A map change is applied in one step between two placement decisions (R54); what stands on a core stays there. -/
def State.mapChange (s : State) (m : List (Nat × Option Nat)) : State := m.foldl (fun s x => s.mapEntry x.1 x.2) s
/-- Logical cores a physical core serves. -/
def State.logicalsOf (s : State) (p : Nat) : List Nat := (List.range 384).filter fun l => s.physOf l == p

/-- ASQs that run on a physical core. -/
def State.asqsOn (s : State) (p : Nat) : Nat := ((List.range 12).filter fun k => s.asqCore (12 * (p / 96) + k) == some p).length

/-- Quire slots and vector rows of a partition (R58, R61): each ASQ of the core holds a slot and 128 rows of partition 0. -/
def State.slotsOf (s : State) (p part : Nat) : Nat := if part = 0 then 16 - s.asqsOn p else 16
def State.rowsOf (s : State) (p part : Nat) : Nat := if part = 0 then 2048 - 128 * s.asqsOn p else 2048

/-- Mask words of a gathering's quires (R9, R26). -/
def State.wordsOf (s : State) (g : Gathering) : Nat :=
  match FMap.find s.vols g.vol with
  | none => 1
  | some v =>
    let d := match v.render with
      | none => v.desc
      | some r => match g.role with
        | .mesh => r.mesh
        | .pixel => r.pixel
        | _ => v.desc
    2 ^ d.width

/-- Quires resident on a partition of a physical core; a saved one is not (R462). -/
def State.onPart (s : State) (p part : Nat) : List (Nat × Quire) :=
  s.quires.filter fun e => e.2.part == part && e.2.save != .saved && (match FMap.find s.gaths e.2.gath with
    | some g => g.pcore == p
    | none => false)

/-- Rows a quire is sure of (R125): its reservation, with blocks given up and not yet returned, and blocks granted to a CLAIM. -/
def State.sureRows (s : State) (q : Quire) : Nat :=
  (q.regs.reserve + q.regs.surrendered + q.claimed) * 16 * (match FMap.find s.gaths q.gath with
    | some g => s.wordsOf g
    | none => 1)

/-- Rows reserved by the quires of a partition. -/
def State.rowsTaken (s : State) (p part : Nat) : Nat := (s.onPart p part).foldl (fun n e => n + s.sureRows e.2) 0

/-- Rows not reserved (R125): rows other quires hold beyond their reservations count as available (R219). -/
def State.poolRows (s : State) (p part : Nat) : Nat := s.rowsOf p part - s.rowsTaken p part

/-! ### Rows and the spill area (R124–R129) -/

/-- A slot of the spill area still holds what it was taken for: a spilled row, or a control-stack entry beyond the 32 on chip. -/
def State.spillLive (s : State) (x : Nat × Nat) : Bool :=
  match FMap.find s.quires x.1 with
  | none => false
  | some q => q.save != .saved && (if 2 ^ 22 ≤ x.2 then decide (x.2 - 2 ^ 22 < q.regs.stack.length) else q.spilled.contains x.2)

/-- The lowest slot of 128 bytes free in a context's spill area, whole pieces of 64 KiB of its pool (R126). -/
def State.spillSlot (s : State) (c : Context) : Option Nat :=
  let used := c.spillMap.filter fun x => s.spillLive x.2
  (List.range (min (c.spill.2 / 65536 * 512) (used.length + 1))).find? fun k => (FMap.find used k).isNone

/-- Something of a quire goes to the spill area (R126, R129), whose bytes are the J384's own; none where no slot is free. The piece is pinned from
its first slot on: where a page of it lies is found once, and a page that is not mapped writable offers no slot (log entry 122). -/
def State.spillOut (s : State) (id x : Nat) : Option State :=
  match s.envOf id with
  | none => some s
  | some e =>
    (s.spillSlot e.ctx).bind fun k =>
      let live := e.ctx.spillMap.filter fun y => s.spillLive y.2
      let pins := e.ctx.pins.filter fun y => live.any fun z => z.1 / 512 == y.1 / 16
      let put := fun (s : State) (pa : Nat) =>
        ((s.modCtx e.vol.ctx fun c => { c with spillMap := FMap.insert live k (id, x), pins := FMap.insert pins (k / 32) pa }).putHome (pa + 128 * (k % 32))
          (leBytes 128 (Config.free .spill s.tick))).bump
      match FMap.find pins (k / 32) with
      | some pa => some (put s pa)
      | none => match s.translate (dieOfCore e.g.pcore) e.vol.ctx e.ctx.root (e.ctx.spill.1 + 4096 * (k / 32)) .ewrite with
        | (.ok y, s) => some (put s y.pa)
        | (.error _, _) => none

/-- A row of a quire is spilled (R125); the counter of R451 counts it. -/
def State.spillRow (s : State) (id row : Nat) : Option State :=
  (s.spillOut id row).map fun s => s.modQuire id fun q =>
    ({ q with rows := q.rows.erase row, spilled := q.spilled ++ [row] } : Quire).perfAdd 5 1

/-- Room on chip for one more row of a quire (R125). Within what it is sure of, a row comes from the partition, reclaimed from a quire that
holds more than it is sure of where none is free; beyond that from the pool, or in exchange for its own least recently written row. None
where a row must be spilled and the spill area has no room. -/
def State.takeRow (s : State) (p part id : Nat) : Option State :=
  match FMap.find s.quires id with
  | none => some s
  | some q =>
    let l := s.onPart p part
    let free := decide (l.foldl (fun n e => n + e.2.rows.length) 0 < s.rowsOf p part)
    let pool := decide (l.foldl (fun n e => n + max (s.sureRows e.2) e.2.rows.length) 0 < s.rowsOf p part)
    if q.rows.length < s.sureRows q then
      if free then some s
      else
        let rich := l.filter fun e => e.1 != id && decide (s.sureRows e.2 < e.2.rows.length)
        match rich[Config.free .order s.tick % rich.length]? with
        | none => some s
        | some e => s.bump.spillRow e.1 (e.2.rows.headD 0)
    else if free && pool then some s
    else match q.rows with
      | [] => some s
      | r :: _ => s.spillRow id r

/-- A write of a word maps its name to a row (R124): the row the checkpoint's map has is held (R127), one mapped since is used again. -/
def State.mapName (s : State) (p part id n : Nat) : Option State :=
  match FMap.find s.quires id with
  | none => some s
  | some q =>
    let used := q.fresh.contains n
    let keep := fun l : List Nat => if used then l.filter (· != n) else l.map fun k => if k = n then heldRow n else k
    let s := s.renameSpill id fun k => if k = n then (if used then none else some (heldRow n)) else if k = heldRow n && !used then none else some k
    let s := s.setQuire id { q with rows := keep q.rows, spilled := keep q.spilled, fresh := if used then q.fresh else q.fresh ++ [n] }
    (s.takeRow p part id).map fun s => s.modQuire id fun q => { q with rows := q.rows ++ [n] }

def State.mapNames (p part id : Nat) : List Nat → State → Option State
  | [], s => some s
  | n :: l, s => (s.mapName p part id n).bind (State.mapNames p part id l)

/-- A spilled row comes back into a row of its own (R126), and what stands before the quire has read it, whatever is spilled for its other
rows; none where that takes a spill and the area is full. -/
def State.refill (s : State) (p part id n : Nat) : Option State :=
  ((s.modQuire id fun q => { q with spilled := q.spilled.filter (· != n) }).takeRow p part id).map fun s =>
    s.modQuire id fun q => { q with rows := q.rows ++ [n], refilled := q.refilled ++ [n] }

/-- Control-stack entries of a quire beyond the 32 on chip that have no slot in the spill area take one each (R129). -/
def State.spillStack (s : State) (id : Nat) : State :=
  match s.envOf id with
  | none => s
  | some e => (((List.range e.q.regs.stack.length).drop 32).filter fun k => !(e.ctx.spillMap.any fun x => x.2 == (id, 2 ^ 22 + k))).foldl
      (fun s k => (s.spillOut id (2 ^ 22 + k)).getD s) s

/-- Traversal slots in use on a core (R331): open queries, and those RAYEND closed that are still held. -/
def State.querySlots (s : State) (p : Nat) : Nat :=
  s.quires.foldl (fun n e => match FMap.find s.gaths e.2.gath with
    | some g => if g.pcore = p ∧ e.2.save ≠ .saved then n + e.2.queries.length + e.2.heldSlots else n
    | none => n) 0

end Sys2Proof.Machine
end

