-- ==== Sys2Proof/Machine/Records.lean ====
section
/-! DEFINITION. What the queue engine writes (R27, R36): completion records and progress lines; the packets of a queue that are finished, and those
that end with a parent (R49, R482). -/
namespace Sys2Proof.Machine

/-- Co-resident, span, sealed and timestamp flags of a packet (R20). -/
def Packet.coResident (p : Packet) : Bool := p.flags.testBit 0
def Packet.span (p : Packet) : Bool := p.flags.testBit 1
def Packet.isSealed (p : Packet) : Bool := p.flags.testBit 2
def Packet.stamps (p : Packet) : Bool := p.flags.testBit 3

/-- Bytes the queue engine writes through a context's translation, as a launch sees memory; where the page is not mapped writable, or leads to a
peer (R416), nothing is written. Such a write breaks the seal of a launch that shadows the page, as another agent's would (R48; DESIGN CHOICE,
notes/assumptions/126.md). -/
def State.engineStore (s : State) (cid vid va : Nat) (bs : List W8) : State :=
  match FMap.find s.ctxs cid with
  | none => s
  | some c =>
    match s.xl 0 vid cid c.root va .ewrite with
    | (.ok x, s) => if paKind x.pa == .peer then s else s.putHome x.pa bs
    | (.error _, s) => s

/-- The 32 bytes of a completion record (R27). -/
def completionBytes (p : Packet) (status cls ns contain : Nat) (mask : W64) : List W8 :=
  leBytes 4 p.seq ++ leBytes 2 status ++ leBytes 2 cls ++ leBytes 8 (if p.stamps then ns else 0) ++ leBytes 8 mask.toNat
    ++ [BitVec.ofNat 8 contain] ++ leBytes 7 0

/-- The containment cap of a context's policy as its record states it now (R4, R495): a write of 3 is refused, and the cap last read stands. -/
def State.policyCap (s : State) (cid : Nat) : Nat :=
  match FMap.find s.ctxs cid with
  | none => 2
  | some c => let k := (s.mem.byte (c.record + 26)).toNat % 4; if k = 3 then c.cap else k
/-- The policy is read: its cap stands until another is read (R4). -/
def State.takeCap (s : State) (cid : Nat) : State := s.modCtx cid fun c => { c with cap := s.policyCap cid }

/-- The containment mode a launch's gatherings may run under (R4, R7): what its packet asks for; sealed only where the cap let it be accepted so. -/
def Packet.modeUnder (p : Packet) (cap : Nat) : Nat :=
  let m := if p.type = 2 then min p.contain 1 else p.contain
  if m = 2 ∧ cap < 2 then 1 else m

/-- The mode a launch has used (R7): the least that its gatherings were placed under (log entry 120), or what the cap allows where none was placed. -/
def Volume.usedMode (v : Volume) (cap : Nat) : Nat := min v.contain (v.used.getD cap)

/-- The containment a packet runs under (R7, R26): its own up to the context's cap; a render launch is never sealed. -/
def Packet.containFor (p : Packet) (cap : Nat) : Nat := let m := min p.contain cap; if p.type = 2 then min m 1 else m

/-- A record for a packet that has no launch, or none any more (R27): nothing where the VA is zero or misaligned. -/
def State.writeRecordOf (s : State) (cid vid : Nat) (p : Packet) (status cls contain : Nat) (mask : W64) : State :=
  if p.record = 0 ∨ p.record % 32 ≠ 0 then s else s.engineStore cid vid p.record (completionBytes p status cls s.ns contain mask)

def State.modQueue (s : State) (qk : Nat) (f : Queue → Queue) : State := { s with queues := FMap.modify s.queues qk f }
def QState.code : QState → Nat | .disabled => 0 | .running => 1 | .waiting => 2 | .halted => 3

/-- The progress line (R36), written with every change of its fields. -/
def State.progress (s : State) (qk : Nat) : State :=
  match FMap.find s.queues qk with
  | none => s
  | some Q =>
    s.engineStore (qk / 4096) 0 Q.progVa (leBytes 4 Q.accepted ++ leBytes 4 Q.completed ++ leBytes 4 Q.submitted ++ leBytes 4 s.epoch
      ++ [BitVec.ofNat 8 Q.state.code, BitVec.ofNat 8 Q.fault] ++ leBytes 46 0)

/-- Every queue's progress line is written: the epoch has changed (R36). -/
def State.progressAll (s : State) : State := s.queues.foldl (fun s e => s.progress e.1) s

/-- Completed runs over finished packets without a gap (R36, R484). -/
def Queue.advance (Q : Queue) : Queue :=
  let done := Q.open'.takeWhile fun x => x.2
  { Q with completed := (done.getLast?.map Prod.fst).getD Q.completed, open' := Q.open'.drop done.length }

/-- The first packet of a number that is not finished is. -/
def finishFirst (seq : Nat) : List (Nat × Bool) → List (Nat × Bool)
  | [] => []
  | (n, d) :: l => if n = seq ∧ d = false then (n, true) :: l else (n, d) :: finishFirst seq l

/-- Packet `seq` of a queue is finished. -/
def State.finishPacket (s : State) (qk seq : Nat) : State :=
  match FMap.find s.queues qk with
  | none => s
  | some Q =>
    let Q' := ({ Q with open' := finishFirst seq Q.open' } : Queue).advance
    let s' : State := { s with queues := FMap.insert s.queues qk Q' }
    if Q'.completed = Q.completed then s' else s'.progress qk

/-- A queue that waited goes on (R37). -/
def Queue.unblock (Q : Queue) : Queue := { Q with blocked := none, state := if Q.state == .waiting then .running else Q.state }

/-- The outstanding child of a volume is counted off (R44). -/
def State.childGone (s : State) (parent : Option Nat) : State :=
  match parent with
  | none => s
  | some p => s.modVol p fun v => { v with children := v.children - 1 }

/-- The parent a queue still notes for a packet: one not yet accepted, or a dependency or signal packet not yet done. -/
def State.parentOf (s : State) (qk seq : Nat) : Option Nat := (FMap.find s.queues qk).bind fun Q => FMap.find Q.parents seq

/-- A packet with no launch is finished: its record, its count with its parent, its place in the queue. -/
def State.closePacket (s : State) (qk : Nat) (p : Packet) (parent : Option Nat) (silent : Bool) (status cls : Nat) : State :=
  let s := if silent then s else s.writeRecordOf (qk / 4096) (parent.getD 0) p status cls (p.containFor (s.policyCap (qk / 4096))) 0
  ((s.childGone parent).modQueue qk fun Q => { Q with parents := FMap.remove Q.parents p.seq }).finishPacket qk p.seq

/-- Accepted dependency and signal packets that a launch pushed end without a record or an effect (R49). -/
def State.dropAccepted (s : State) (vid : Nat) : State :=
  s.queues.foldl (fun s e =>
    let mine := fun p : Packet => FMap.find e.2.parents p.seq == some vid
    let blocked := match e.2.blocked with
      | some p => if p.type = 3 ∧ mine p = true then [p] else []
      | none => []
    let l := blocked ++ e.2.signals.filter mine
    if l.isEmpty then s
    else
      let s := s.modQueue e.1 fun Q => { (if blocked.isEmpty then Q else Q.unblock) with signals := Q.signals.filter fun p => !mine p }
      (l.foldl (fun s p => s.closePacket e.1 p (some vid) true 0 0) s).progress e.1) s

/-- Children pushed and not yet accepted lose their parent: they end without a record when they are accepted, and count no longer (R49). -/
def State.orphanPushed (s : State) (r : Nat) : State :=
  let mine := fun (Q : Queue) (x : Nat × Nat) => x.2 == r && !(Q.open'.any fun y => y.1 == x.1)
  let n := s.queues.foldl (fun n e => n + (e.2.parents.filter (mine e.2)).length) 0
  ({ s with queues := s.queues.map fun e => (e.1, { e.2 with parents := e.2.parents.map fun x => if mine e.2 x then (x.1, 0) else x }) } : State).modVol r
    fun v => { v with children := v.children - n }

end Sys2Proof.Machine
end

