-- ==== Sys2Proof/Machine/Repair.lean ====
section
/-! DEFINITION. Containment (R469–R471): what a detected error does to the quire it struck, the whole-launch path, the sealed replay
(R49), and the units that are pre-empted as one (R455, R66). -/
namespace Sys2Proof.Machine

/-- Span width and height of a launch (R23, R56): one without spans. -/
def Volume.spanWidth (v : Volume) : Nat := if v.pkt.spanW = 0 then 1 else v.pkt.spanW
def Volume.spanHeight (v : Volume) : Nat := if v.pkt.spanH = 0 then 1 else v.pkt.spanH

/-- The unit a gathering is pre-empted with (R66, R455): its volume when co-resident, its span, or itself alone. -/
def State.unitOf (s : State) (gid : Nat) : List Nat :=
  match FMap.find s.gaths gid with
  | none => []
  | some g =>
    match FMap.find s.vols g.vol with
    | none => [gid]
    | some v =>
      let mates := (s.gaths.filter fun e => e.2.vol == g.vol && (!e.2.retired || e.2.owes))
      if v.pkt.coResident then mates.map Prod.fst
      else if v.pkt.span then
        (mates.filter fun e => e.2.x / v.spanWidth == g.x / v.spanWidth && e.2.y / v.spanHeight == g.y / v.spanHeight && e.2.z == g.z).map Prod.fst
      else [gid]

/-- A pre-emption request for the unit of a gathering (R455); `avoid` is the cluster it must leave (R469, R477). -/
def State.requestPreemption (s : State) (gid : Nat) (avoid : Option Nat) : State :=
  (s.unitOf gid).foldl (fun s k => s.modGath k fun g => { g with asked := g.asked.or (some s.ns), avoid := avoid.or g.avoid }) s

/-- A gathering that comes to be in a unit for which a request stands is asked with it (R455). -/
def State.askWith (s : State) (gid : Nat) : State :=
  match (s.unitOf gid).findSome? fun k => (FMap.find s.gaths k).bind fun g => if g.saved.isNone then g.asked.map fun t => (t, g.avoid) else none with
  | some (t, a) => s.modGath gid fun g => { g with asked := some t, avoid := a }
  | none => s

/-- A place for a copy of a page that the J384 keeps itself, outside every memory a program can name. -/
def State.ownCopy (s : State) : Nat :=
  let used := s.vols.flatMap fun e => e.2.shadow.map ShadowPage.copy
  2 ^ 54 + 2 ^ 12 * ((List.range (used.length + 1)).find? fun k => !used.contains (2 ^ 54 + 2 ^ 12 * k)).getD 0

/-- The bytes of a parameter block in one page of it: where they begin in the block, the page's first parameter byte and its end. -/
def paramPiece (param n k : Nat) : Nat × Nat × Nat :=
  let start := if k = 0 then 0 else 4096 * k - param % 4096
  let lo := if k = 0 then param % 4096 else 0
  (start, lo, min 4096 (lo + (n - start)))

/-- The parameter copy of a sealed launch stands for the block in a replay (R25, R49): in pages the J384 keeps itself (DESIGN CHOICE, log entry 107). -/
def State.overlayParams (s : State) (r : Nat) : State :=
  match FMap.find s.vols r with
  | none => s
  | some v =>
    match FMap.find s.ctxs v.ctx with
    | none => s
    | some c =>
      (List.range ((v.pkt.param % 4096 + v.params.length + 4095) / 4096)).foldl (fun s k =>
        let x := paramPiece v.pkt.param v.params.length k
        match s.translate 0 v.ctx c.root (v.pkt.param + x.1) .eread with
        | (.error _, s) => s
        | (.ok y, s) =>
          let copy := s.ownCopy
          (s.modVol r fun v => { v with shadow := v.shadow ++ [{ page := y.pa / 2 ^ 12, slot := none, copy := copy, sectors := [], lo := x.2.1, hi := x.2.2 }] }).putHome
            (copy + x.2.1) ((v.params.drop x.1).take (x.2.2 - x.2.1))) s

/-- A render launch as accepted. -/
def Render.restart (r : Render) : Render :=
  { r with nextSerial := 0, work := [], final := false, spawnCursor := 0, cores := [], clears := [], abandoned := none }

/-- The containment mode a quire's work runs under (R4): that of its gathering's placement, or less where the launch's seal has gone (R47). -/
def Env.contain (e : Env) : Nat := min e.g.contain e.vol.contain

/-- Children of a launch, and theirs: `n` bounds the depth. -/
def State.descendants (s : State) : Nat → Nat → List Nat
  | 0, _ => []
  | n + 1, vid =>
    let kids := (s.vols.filter fun c => c.2.parent == some vid).map Prod.fst
    kids ++ kids.flatMap (State.descendants s n)

/-- A launch and its children are stopped for a replay (R49): no child leaves a record, and no transfer of theirs writes any more. -/
def State.silenceFamily (s : State) (r : Nat) : State :=
  let kids := s.descendants 12 r
  let s := kids.foldl (fun s c => (s.endLaunch c .silent).modVol c fun v => { v with ending := .silent }) s
  let s := (r :: kids).foldl State.dropAccepted (s.stopVolume r)
  let gone := s.xfers.filter fun e => (r :: kids).contains e.2.vol && !e.2.kind.spadOnly && (match e.2.kind with | .coll _ => false | _ => true)
  let s : State := { s with xfers := s.xfers.filter fun e => !(gone.any fun g => g.1 == e.1) }
  (gone.foldl (fun s e => s.reapFor e.2) s).orphanPushed r

/-- The whole launch is replayed from its shadow pages (R49), or ends when its seal is broken or it has been replayed three times; `source` is the
row of R466's table the error stands in, `loc` and `count` what its record says. -/
def State.sealedReplay (s : State) (r source loc count : Nat) : State :=
  match FMap.find s.vols r with
  | none => s
  | some v =>
    if v.broken ∨ 3 ≤ v.replays ∨ !v.sealedOn then
      (s.errorRecord v.pkt.seq 8 source loc count v.ctx (v.usedMode 2)).endLaunch r (.error 0x0F)
    else
      let s := ((s.errorRecord v.pkt.seq 7 source loc count v.ctx (v.usedMode 2)).discardShadow r).silenceFamily r
      (s.modVol r fun v => { v with next := 0, live := 0, replays := v.replays + 1, render := v.render.map Render.restart }).overlayParams r

/-- A detected error is delivered as a trap, and recorded (R479): as the end of the launch where no handler takes it (R446), else as the rollback the
delivery begins with (log entry 125). -/
def State.trapRecorded (s : State) (e : Env) (t : TrapInfo) (source loc count : Nat) : State :=
  let s := s.takeTrap e.id t false
  let ended : Bool := match FMap.find s.vols e.g.vol with
    | some v => v.ending != .running
    | none => true
  s.errorRecord e.vol.pkt.seq (if ended then 8 else 2) source loc count e.vol.ctx e.contain

/-- The whole-launch path of one quire (R471): a sealed replay, or trap 0x0F at its restart PC. -/
def State.wholeLaunch (s : State) (id detail source loc count : Nat) : State :=
  match s.envOf id with
  | none => s
  | some e =>
    if e.contain = 2 then s.sealedReplay ((s.sealRoot 12 e.g.vol).getD e.g.vol) source loc count
    else s.trapRecorded e { e.trapInfo 0x0F 0xFFFF detail 0 0 with pc := e.q.ckpt.pc } source loc count

/-- A datapath error of a quire (R469), from row `source` of R466's table at `loc`. -/
def State.datapathError (s : State) (id source loc count : Nat) (ckptRow : Bool) : State :=
  match s.envOf id with
  | none => s
  | some e =>
    let record := fun (s : State) (kind : Nat) => s.errorRecord e.vol.pkt.seq kind source loc count e.vol.ctx e.contain
    if e.contain = 0 then (record s 8).endLaunch e.g.vol (.error 0x0F)
    else if e.view.entry.getLsbD 31 || ckptRow then
      s.wholeLaunch id ((if e.view.entry.getLsbD 31 then 1 else 0) + (if ckptRow then 2 else 0)) source loc count
    else
      let n := e.q.errors + 1
      let s := (s.rollback id).modQuire id fun q => { q with errors := n }
      if n = 4 then ((record s 3).requestPreemption e.q.gath (some (clusterOf e.g.pcore))).modQuire id fun q => { q with save := .atPoint }
      else if n ≤ 7 then record s 2
      else s.wholeLaunch id 4 source loc count

/-- A mismatch of SIGCK (R441), an event of row 3 of R466's table that counts toward nothing: two replays, then trap 0x10; in a region that cannot be
replayed, the whole-launch path. -/
def State.signatureError (s : State) (id detail : Nat) : State :=
  match s.envOf id with
  | none => s
  | some e =>
    let record := fun (s : State) (kind : Nat) => s.errorRecord e.vol.pkt.seq kind 3 0 0 e.vol.ctx e.contain
    if e.contain = 0 then (record s 8).endLaunch e.g.vol (.error 0x0F)
    else if e.view.entry.getLsbD 31 then s.wholeLaunch id 1 3 0 0
    else
      let same := e.q.sigFails.2 == (e.q.selfPc, e.view.entry)
      let n := if same then e.q.sigFails.1 + 1 else 1
      if 3 ≤ n then
        (s.trapRecorded e (e.trapAll 0x10 detail) 3 0 0).modQuire id fun q => { q with sigFails := (0, 0, 0) }
      else (record (s.rollback id) 2).modQuire id fun q => { q with sigFails := (n, e.q.selfPc, e.view.entry) }

end Sys2Proof.Machine
end

