-- ==== Sys2Proof/Machine/Place.lean ====
section
/-! DEFINITION. Admission and the search for a place (R56–R65): what a core has free, the rectangles in their order, and how gatherings and
quires come to stand on a core (R14, R54, R58–R62). -/
namespace Sys2Proof.Machine

/-! ### What a launch needs (R58) -/

/-- The descriptor the quires of a role run under (R26). -/
def Volume.descOf (v : Volume) (r : Role) : Descriptor :=
  match v.render with
  | none => v.desc
  | some x => match r with
    | .mesh => x.mesh
    | .pixel => x.pixel
    | _ => v.desc
def Volume.wordsOf (v : Volume) (r : Role) : Nat := 2 ^ (v.descOf r).width
def Volume.laneCount (v : Volume) (r : Role) : Nat := 32 * v.wordsOf r

/-- What a gathering asks of a core: its quires with the rows of each, its scratchpad, its handle records. -/
structure Need where
  quires  : Nat
  rows    : Nat
  spad    : Nat
  handles : Nat
deriving DecidableEq, Repr

def Volume.rowsPerQuire (v : Volume) (r : Role) : Nat := v.pkt.reserve * v.wordsOf r * 16
def Volume.portion (v : Volume) : Nat := 1024 * v.pkt.spad
def Volume.need (v : Volume) (r : Role) (quires : Nat) : Need :=
  { quires := quires, rows := v.rowsPerQuire r, spad := v.portion, handles := (v.descOf r).handles }

/-! ### What a core has taken -/

/-- Resources in use on a physical core; quires and rows by partition. -/
structure Load where
  slots   : Nat
  spad    : Nat
  handles : Nat
  quires  : List Nat
  rows    : List Nat
deriving DecidableEq, Repr

/-- The gatherings that hold resources of a physical core: a retired one keeps its scratchpad and handles until its transfers have ended (R481). -/
def State.onCore (s : State) (p : Nat) : List (Nat × Gathering) := s.gaths.filter fun e => e.2.pcore == p && e.2.saved.isNone

/-- The load of a core as if it held only the gatherings `keep` picks (R41). -/
def State.loadOf (s : State) (p : Nat) (keep : Nat → Gathering → Bool) : Load :=
  let gs := (s.onCore p).filter fun e => keep e.1 e.2
  let mine := s.quires.filter fun q => q.2.save != .saved && gs.any fun g => g.1 == q.2.gath
  let sum := fun (f : Gathering → Nat) => gs.foldl (fun n e => n + f e.2) 0
  { slots := (gs.filter fun e => !e.2.retired).length, spad := sum Gathering.portion, handles := sum Gathering.records,
    quires := (List.range 4).map fun k => (mine.filter fun q => q.2.part == k).length,
    rows := (List.range 4).map fun k => (mine.filter fun q => q.2.part == k).foldl (fun n q =>
      n + s.sureRows q.2) 0 }

/-- Everything a core holds. -/
def keepAll : Nat → Gathering → Bool := fun _ _ => true
/-- Work of class `b` or of classes below it (R41). -/
def State.keepClass (s : State) (b : Nat) : Nat → Gathering → Bool := fun _ g =>
  match FMap.find s.vols g.vol with
  | some v => decide (v.prio ≤ b)
  | none => true

/-! ### Admission (R58, R60) -/

/-- Free rows and quire slots of a partition under a load. -/
def State.freeRows (s : State) (p : Nat) (L : Load) (k : Nat) : Nat := s.rowsOf p k - L.rows.getD k 0
def State.freeSlots (s : State) (p : Nat) (L : Load) (k : Nat) : Nat := s.slotsOf p k - L.quires.getD k 0

/-- The partition a quire goes to (R60): the most free rows among those with a free slot, the lowest number of equals; it must have the rows. -/
def State.partFor (s : State) (p : Nat) (L : Load) (rows : Nat) : Option Nat :=
  let best := ((List.range 4).filter fun k => s.freeSlots p L k != 0).foldl (fun (b : Option Nat) k =>
    match b with
    | none => some k
    | some j => if s.freeRows p L j < s.freeRows p L k then some k else some j) none
  match best with
  | none => none
  | some k => if rows ≤ s.freeRows p L k then some k else none

def Load.addQuire (L : Load) (k rows : Nat) : Load :=
  { L with quires := L.quires.set k (L.quires.getD k 0 + 1), rows := L.rows.set k (L.rows.getD k 0 + rows) }

/-- `n` quires assigned in ascending index: their partitions. -/
def State.assign (s : State) (p rows : Nat) : Nat → Load → Option (List Nat × Load)
  | 0, L => some ([], L)
  | n + 1, L =>
    match s.partFor p L rows with
    | none => none
    | some k =>
      match State.assign s p rows n (L.addQuire k rows) with
      | none => none
      | some r => some (k :: r.1, r.2)

/-- A gathering admitted to a core: the partitions of its quires, and the load with it. -/
def State.placeOn (s : State) (p : Nat) (L : Load) (n : Need) : Option (List Nat × Load) :=
  if 16 ≤ L.slots ∨ 512 * 1024 < L.spad + n.spad ∨ 256 < L.handles + n.handles then none
  else s.assign p n.rows n.quires { L with slots := L.slots + 1, spad := L.spad + n.spad, handles := L.handles + n.handles }

/-! ### The search (R56, R63) -/

/-- Logical core at a column and row of a die (R52). -/
def logicalAt (d c y : Nat) : Nat := 16 * (12 * (d / 2) + y) + 8 * (d % 2) + c

/-- Top-left positions in the order of R63: die, row, column. -/
def candidates (w h : Nat) : List (Nat × Nat × Nat) :=
  (List.range 4).flatMap fun d => (List.range (13 - h)).flatMap fun y => (List.range (9 - w)).map fun c => (d, c, y)

/-- The logical cores of a rectangle with the span position of each, x fastest. -/
def rectangle (w h : Nat) (t : Nat × Nat × Nat) : List (Nat × Nat × Nat) :=
  (List.range h).flatMap fun j => (List.range w).map fun i => (i, j, logicalAt t.1 (t.2.1 + i) (t.2.2 + j))

/-- Where one gathering goes: span position, logical and physical core, the partitions of its quires. -/
structure Spot' where
  i : Nat
  j : Nat
  core  : Nat
  pcore : Nat
  parts : List Nat
deriving DecidableEq, Repr

/-- A placement decision under way: the loads it has changed so far, over those of `keep`. -/
structure Plan where
  keep  : Nat → Gathering → Bool
  loads : FMap Load

def State.planned (s : State) (a : Plan) (p : Nat) : Load := (FMap.find a.loads p).getD (s.loadOf p a.keep)

/-- One rectangle tried: every core available, open to the launch, and admitting its gathering. -/
def State.tryRect (s : State) (open' : Nat → Bool) (n : Need) : List (Nat × Nat × Nat) → Plan → Option (List Spot' × Plan)
  | [], a => some ([], a)
  | (i, j, l) :: rest, a =>
    if !s.available l || !open' l then none
    else
      let p := s.physOf l
      match s.placeOn p (s.planned a p) n with
      | none => none
      | some r =>
        match State.tryRect s open' n rest { a with loads := FMap.insert a.loads p r.2 } with
        | none => none
        | some x => some ({ i := i, j := j, core := l, pcore := p, parts := r.1 } :: x.1, x.2)

/-- The first of several rectangles at which a gathering or a span is admitted. -/
def State.tryRects (s : State) (open' : Nat → Bool) (n : Need) (a : Plan) (w h : Nat) : List (Nat × Nat × Nat) → Option (List Spot' × Plan)
  | [] => none
  | t :: rest => match s.tryRect open' n (rectangle w h t) a with
    | some r => some r
    | none => State.tryRects s open' n a w h rest

def State.search (s : State) (open' : Nat → Bool) (n : Need) (a : Plan) (w h : Nat) : Option (List Spot' × Plan) :=
  s.tryRects open' n a w h (candidates w h)

/-! ### A launch's gatherings (R56, R63) -/

/-- Gatherings and spans of a volume: how many, and the coordinates of one. -/
def Volume.spans (v : Volume) : Nat := v.pkt.vx / v.spanWidth * (v.pkt.vy / v.spanHeight) * v.pkt.vz
def Volume.spanAt (v : Volume) (k : Nat) : Nat × Nat × Nat :=
  let nx := v.pkt.vx / v.spanWidth
  let ny := v.pkt.vy / v.spanHeight
  (k % nx, k / nx % ny, k / (nx * ny))

/-- The role of a launch's own gatherings. -/
def Volume.firstRole (v : Volume) : Role := if v.render.isSome then .task else .main
def Volume.firstNeed (v : Volume) : Need := v.need v.firstRole v.pkt.minQ

/-- `n` spans of a volume, each at its first candidate: span number and places. -/
def State.planSpans (s : State) (open' : Nat → Bool) (v : Volume) : Nat → Nat → Plan → Option (List (Nat × List Spot') × Plan)
  | 0, _, a => some ([], a)
  | n + 1, k, a =>
    match s.search open' v.firstNeed a v.spanWidth v.spanHeight with
    | none => none
    | some r =>
      match State.planSpans s open' v n (k + 1) r.2 with
      | none => none
      | some x => some ((k, r.1) :: x.1, x.2)

/-- What one placement step of a launch places (R63, R65): the whole of a co-resident volume, else the next gathering or span. -/
def Volume.stepSpans (v : Volume) : Nat := if v.pkt.coResident then v.spans - v.next else 1
def State.planStep (s : State) (open' : Nat → Bool) (v : Volume) (keep : Nat → Gathering → Bool) : Option (List (Nat × List Spot') × Plan) :=
  s.planSpans open' v v.stepSpans v.next { keep := keep, loads := [] }

/-- A co-resident volume fits a device empty of other work (R65). -/
def State.fitsEmpty (s : State) (v : Volume) : Bool :=
  (s.planSpans (fun _ => true) v v.spans 0 { keep := fun _ _ => false, loads := [] }).isSome

/-! ### Placing -/

/-- The lowest gathering slot free on a core; the lowest quire slot free on a partition. -/
def State.freeGathSlot (s : State) (p : Nat) : Nat :=
  ((List.range 16).find? fun k => !((s.onCore p).any fun e => !e.2.retired && e.2.slot == k)).getD 0
def State.freeQuireSlot (s : State) (p part : Nat) : Nat := ((List.range 16).find? fun k => !((s.onPart p part).any fun e => e.2.slot == k)).getD 0

/-- Where a portion stands: the lowest 512 KiB stretch of its core that no gathering uses. -/
def State.freeStretch (s : State) (p : Nat) : Nat :=
  2 ^ 19 * ((List.range 128).find? fun k => !((s.onCore p).any fun e => e.2.base == 2 ^ 19 * k)).getD 0

/-- The scalars that inline bytes reach (R14, R26): s8 to s14. -/
def Volume.inlineWords (v : Volume) (r : Role) : List W64 :=
  let w := v.pkt.inline
  match v.render, r with
  | none, _ => w
  | some _, .task => [0, 0, 0] ++ w.drop 3
  | some _, _ => w.drop 3

/-- The registers a quire of a launch starts with (R14). -/
def Volume.startRegs (v : Volume) (r : Role) (lanes absent : LaneSet) : Regs :=
  Regs.start lanes absent v.pkt.reserve (BitVec.ofNat 64 v.pkt.param) (BitVec.ofNat 64 v.pkt.seq) (v.inlineWords r)

/-- A quire about to fetch at an entry, which R74 checks. -/
def Quire.atStart (gid index part slot age : Nat) (entry : W64) (r : Regs) : Quire :=
  { gath := gid, index := index, part := part, slot := slot, regs := r, snap := none, grp := none, pc := entry, selfPc := entry, fall := entry,
    npc := entry, checked := true, line := none, sealing := none, refetch := none, latches := [], groupNo := 0, held := none, wait := .none, waited := 0, watched := 0,
    stopped := false, stepping := false, store := [], spadEntries := 0, ckpt := { regs := r, pc := entry, record := [], queries := [], live := none, latches := [], groupNo := 0 },
    pend := [], queries := [], heldSlots := 0, budget := 0, perf := [], age := age, passed := 0, promoted := none, sweep := none, errors := 0,
    sigFails := (0, 0, 0), arrived := [], save := .running, oldLane := none, spilled := [], rows := [], refilled := [], fresh := [], claimed := 0, yielded := none,
    keepB := false, resumed := none,
    call := none, returning := false, recordLive := true, peerGot := [] }

/-- A quire comes to be in a gathering, on a partition of its core: its start is an acquire (R351). -/
def State.addQuire (s : State) (gid index part : Nat) (entry : W64) (r : Regs) : State :=
  match FMap.find s.gaths gid with
  | none => s
  | some g =>
    let id := s.fresh
    (({ id.2 with quires := FMap.insert id.2.quires id.1 (Quire.atStart gid index part (s.freeQuireSlot g.pcore part) s.clock entry r) } : State).modGath gid
      fun g => { g with quires := g.quires ++ [id.1] }).acquire g.pcore .sys

/-- The entry of a descriptor: slot 0 of its code line (R15). -/
def Descriptor.entry (d : Descriptor) : W64 := pcOf (BitVec.ofNat 64 d.code) 0

/-- Payload bytes of a render launch's ring slots (R315). -/
def Volume.payload (v : Volume) : Nat := match v.render with | some r => r.target.payload | none => 0

/-- Ring slots of a task gathering (R315): h60–h63 name their buffers at the end of the portion. -/
def ringHandles (portion payload : Nat) : FMap Handle :=
  (List.range 4).foldl (fun (m : FMap Handle) k =>
    FMap.put Handle.fresh m (60 + k) { Handle.fresh with offset := (portion - 4 * payload + k * payload) / 16, size := payload / 16 }) []

/-- A gathering stands on a core, without quires yet (R58, R61); its containment mode is bounded by the context's policy at this moment (R4). -/
def State.addGathering (s : State) (vid : Nat) (v : Volume) (role : Role) (x y z core pcore : Nat) (parent : Option (Nat × Nat)) (bin : Bool) : Nat × State :=
  let cap := s.policyCap v.ctx
  let id := (s.takeCap v.ctx).fresh
  let task := role == .task
  let base := s.freeStretch pcore
  let g : Gathering :=
    { vol := vid, role := role, x := x, y := y, z := z, core := core, pcore := pcore, slot := s.freeGathSlot pcore, base := base,
      size := if task then v.portion - 4 * v.payload else v.portion, quires := [], handles := if task then ringHandles v.portion v.payload else [],
      tracked := [], episodes := [], wanted := [], owed := [], running := [], ringOrder := [], parent := parent,
      meshlet := { verts := [], prims := [], closed := false }, batches := [], shrink := false, minQuires := if bin then 1 else v.pkt.minQ, tile := none,
      ranges := [], marked := [], asked := none, avoid := none, holdoff := none, saved := none, bins := [], retired := false, fromBin := bin, placed := id.1,
      contain := min v.contain cap, portion := v.portion, records := (v.descOf role).handles }
  let s : State := { id.2 with gaths := FMap.insert id.2.gaths id.1 g, mem := id.2.mem.clear (spadKey pcore base) v.portion }
  (id.1, (s.modVol vid fun v => { v with live := v.live + 1, used := some (min (v.used.getD 2) (min v.contain cap)) }).askWith id.1)

/-- The starting quires of a gathering, at indices from 0 (R59). -/
def State.addQuires (s : State) (gid : Nat) (v : Volume) (role : Role) (parts : List Nat) : State :=
  let n := v.laneCount role
  (parts.mapIdx fun i k => (i, k)).foldl (fun s p => s.addQuire gid p.1 p.2 (v.descOf role).entry (v.startRegs role (LaneSet.below n) 0)) s

/-- The gatherings of a span are placed in one step (R56). -/
def State.putSpan (s : State) (vid : Nat) (v : Volume) (k : Nat) (l : List Spot') : State :=
  let c := v.spanAt k
  l.foldl (fun s p =>
    let r := s.addGathering vid v v.firstRole (c.1 * v.spanWidth + p.i) (c.2.1 * v.spanHeight + p.j) c.2.2 p.core p.pcore none false
    r.2.addQuires r.1 v v.firstRole p.parts) s

end Sys2Proof.Machine
end

