-- ==== Sys2Proof/Machine/Bins.lean ====
section
/-! DEFINITION. Collation bins (R67, R386, R387): the quire a full bin launches, where a lane enters, and what a SPAWN enters. -/
namespace Sys2Proof.Machine

/-! ### The quire of a full bin (R67, R387) -/

/-- The logical core that a physical core serves. -/
def State.logicalOf (s : State) (p : Nat) : Nat :=
  ((List.range 384).find? fun l => s.physOf l == p).getD (logicalAt (p / 96) (p % 96 % 8) (p % 96 / 8))

/-- Only a resident context has work placed (R464). -/
def State.live (s : State) (cid : Nat) : Bool := match FMap.find s.ctxs cid with
  | some c => c.resident && !c.leaving
  | none => false

/-- The lowest quire index free in a gathering (R10). -/
def State.freeIndex (s : State) (g : Gathering) : Nat := ((List.range 16).find? fun k => !(s.memberIndices g).contains k).getD 0

/-- The gathering a bin's quire joins (R387): live and below its maximum. -/
def State.joinTarget (s : State) (p : Nat) (v : Volume) (b : Bin) : Option (Nat × Gathering) :=
  if !b.join then none
  else (b.lanes.head?).bind fun l => (FMap.find s.gaths l.gath).bind fun g =>
    if !g.retired && g.pcore == p && decide (g.quires.length + g.wanted.length < v.pkt.maxQ) then some (l.gath, g) else none

def Bin.role (b : Bin) : Role := (b.lanes.head?.map BinLane.role).getD .main

/-- Creations of a launch on a retired core wait to move with its gatherings there (R54); where it has none, its bins launch where they are (R458). -/
def State.leavesCore (s : State) (p vid : Nat) : Bool :=
  s.retired.contains p && s.gaths.any fun e => e.2.pcore == p && e.2.vol == vid && !e.2.retired && e.2.saved.isNone

/-- What a full bin's quire is admitted to (R67): the gathering it joins, or none for one of its own, and its partition. -/
def State.binPlan (s : State) (p : Nat) (b : Bin) : Option (Option Nat × Nat) :=
  match FMap.find s.vols b.vol with
  | none => none
  | some v =>
    if !b.full ∨ !s.live v.ctx ∨ s.leavesCore p b.vol then none
    else
      let L := s.loadOf p keepAll
      match s.joinTarget p v b with
      | some (gid, g) => if g.saved.isSome ∨ (s.join gid).isNone then none else (s.partFor p L (v.rowsPerQuire b.role)).map fun k => (some gid, k)
      | none => (s.placeOn p L (v.need b.role 1)).bind fun r => r.1.head?.map fun k => (none, k)

/-- A bin quire's registers (R387): lane i holds the payload of the i-th lane entered; unfilled lanes are absent. -/
def Bin.regs (b : Bin) (v : Volume) : Regs :=
  let lanes := LaneSet.below b.lanes.length
  let r := v.startRegs b.role lanes (LaneSet.below (v.laneCount b.role) &&& ~~~lanes)
  let l := (b.lanes.mapIdx fun i x => x.payload.mapIdx fun j w => (j, i, w)).flatten
  l.foldl (fun r w => r.vput w.1 w.2.1 w.2.2.1 w.2.2.2) r

/-- Rows of a bin quire's payload registers (R124): a name per register and mask word that holds a lane. -/
def Bin.rowNames (b : Bin) : List Nat :=
  let n := b.lanes.foldl (fun n x => max n x.payload.length) 0
  (List.range n).flatMap fun j => (List.range ((b.lanes.length + 31) / 32)).map fun w => 256 * j + w

/-- The quire just made of a bin holds its payload in rows of its own (R124, R125); where they cannot be had it is not launched yet. -/
def State.bindRows (s : State) (p part id : Nat) (b : Bin) : Option State :=
  (State.mapNames p part id b.rowNames s).map fun s => s.modQuire id fun q => { q with fresh := [] }

/-- A full bin launches its quire (R67, R387); one that joins holds in s3 the sr.quire of the quire whose lane entered first, and 0 in s2
(DEDUCED, notes/assumptions/41.md). -/
def State.placeBin (s : State) (p n : Nat) : State :=
  match FMap.find (s.core p).bins n with
  | none => s
  | some b =>
    match FMap.find s.vols b.vol, s.binPlan p b, b.lanes with
    | some v, some (target, part), f :: _ =>
      let gone := s.modCore p fun c => { c with bins := FMap.remove c.bins n }
      match target with
      | some gid =>
        match gone.join gid, FMap.find s.gaths gid with
        | some s', some g =>
          let regs := ((b.regs v).sput 2 0 false).sput 3 (BitVec.ofNat 64 f.quire) false
          ((s'.addQuire gid (s.freeIndex g) part b.entry regs).bindRows p part s'.nextId b).getD s
        | _, _ => s
      | none =>
        let r := gone.addGathering b.vol v b.role f.x f.y f.z (s.logicalOf p) p none true
        match (r.2.addQuire r.1 0 part b.entry (b.regs v)).bindRows p part r.2.nextId b with
        | none => s
        | some s => if s.retired.contains p then s.requestPreemption r.1 (some (clusterOf p)) else s
    | _, _, _ => s

/-! ### Entering -/

/-- The bin of a launch, entry and key. -/
def keyBin : FMap Bin → Nat → W64 → Nat → Option (Nat × Bin)
  | [], _, _, _ => none
  | (n, b) :: l, vol, entry, key => if b.vol = vol ∧ b.entry = entry ∧ b.key = key then some (n, b) else keyBin l vol entry key

/-- A free bin of the 32, the lowest. -/
def freeBin (m : FMap Bin) : Option Nat := (List.range 32).find? fun n => (FMap.find m n).isNone

/-- One lane enters a bin of a core (R386): the one of its key, else a free one, which `b` is when it is opened; none when a bin of its key
stays full, its quire not admitted, or when no bin is free (R67). A bin that is then full launches at once, where its quire is admitted. -/
def State.enterBin (s : State) (p : Nat) (b : Bin) (width : Nat) (x : BinLane) : Option State :=
  let put := fun (s : State) (n : Nat) (b : Bin) =>
    let b : Bin := { b with lanes := b.lanes ++ [x], full := decide (width ≤ b.lanes.length + 1) }
    let s := s.modCore p fun c => { c with bins := FMap.insert c.bins n b }
    if b.full then s.placeBin p n else s
  match keyBin (s.core p).bins b.vol b.entry b.key with
  | some (n, o) => if o.full then none else some (put s n o)
  | none => (freeBin (s.core p).bins).map fun n => put s n b

/-- The entry PC of a SPAWN in a lane, and its key. -/
def Env.spawnEntry (e : Env) (f : FmtE) (lane : Nat) : Val := e.readTy f.a .n64 lane
def Env.spawnKey (e : Env) (f : FmtE) (lane : Nat) : Val := e.readTy f.b .n32 lane

/-- The payload of a lane: registers vp to v(p + n − 1), with their poison. -/
def Env.payload (e : Env) (o : Opnd) (n lane : Nat) : List (W32 × Bool) :=
  (List.range n).map fun i =>
    match o with
    | .v b => (e.view.vget (b.toNat + i) lane, e.view.vbadAt (b.toNat + i) lane)
    | .x k off => let b := (e.view.indexed k off lane).toNat + i; (e.view.vget b lane, e.view.vbadAt b lane)
    | _ => (0, false)

/-- Lanes of a SPAWN enter bins of the quire's core in order (R386); none when one finds no bin. -/
def Env.enterLanes (e : Env) (f : FmtE) (entry : W64) : List Nat → State → Option State
  | [], s => some s
  | l :: ls, s =>
    (s.enterBin e.g.pcore { vol := e.g.vol, entry := entry, key := (e.spawnKey f l).n % 2 ^ 16, join := f.m.getLsbD 1, lanes := [], full := false, opened := s.ns }
      e.width { payload := e.payload f.d (spawnRegs f) l, gath := e.q.gath, quire := e.q.index, x := e.g.x, y := e.g.y, z := e.g.z, role := e.g.role }).bind (e.enterLanes f entry ls)

/-- A lane of a SPAWN would find no bin (R67): tested for every lane before any enters (R119). -/
def State.spawnBlocked (s : State) (e : Env) (h : Hdr) (f : FmtE) : Bool :=
  match e.lanes (e.contrib h) with
  | [] => false
  | l :: ls => (e.enterLanes f (BitVec.ofNat 64 (e.spawnEntry f l).n) (l :: ls) s).isNone

end Sys2Proof.Machine
end

