-- ==== Sys2Proof/Machine/ReadOnly.lean ====
section
/-! DEFINITION. The read-only path of a core (R79, R238): the lines it holds, what a read of one returns, and what CINV.ro and FENCE.ro
drop. -/
namespace Sys2Proof.Machine

def findRo : List RoLine → Nat → Option RoLine
  | [], _ => none
  | r :: l, line => if r.line = line then some r else findRo l line

/-- The 128 bytes of a line at their home, with the words that are marked. -/
def State.roFresh (s : State) (line : Nat) : RoLine :=
  { line := line, bytes := s.mem.bytes (128 * line) 128, marks := (List.range 32).filter fun w => s.mem.bad (128 * line + 4 * w) }

/-- Piece `p` of a read-only line cut into pieces of `16 * u` bytes: its bytes and the marked words among them. -/
def RoLine.piece (r : RoLine) (u p : Nat) : List W8 × List Nat :=
  ((r.bytes.drop (16 * u * p)).take (16 * u), r.marks.filter fun w => w / (4 * u) == p)

/-- A line held whose home has moved on: each of its pieces is met old or new (R79, R238, R295), `p` pieces being left to do. -/
def roMerge (old new : RoLine) (u tick : Nat) : Nat → RoLine
  | 0 => { old with bytes := [], marks := [] }
  | p + 1 =>
    let r := roMerge old new u tick p
    let a := old.piece u p
    let b := new.piece u p
    let z := if a = b ∨ Config.free .stale (tick + p) % 2 = 0 then a else b
    { r with bytes := r.bytes ++ z.1, marks := r.marks ++ z.2 }

/-- A read-only miss (R451), where `sure`; else the line may have been replaced and fetched again. -/
def State.roMiss (s : State) (core : Nat) (sure : Bool) : State :=
  let n := if sure then 1 else Config.free .elapsed s.tick % 2
  (if sure then s else s.bump).modCore core fun v => { v with perf := FMap.insert v.perf 10 (FMap.val 0 v.perf 10 + BitVec.ofNat 64 n) }

/-- A line read through the read-only path in pieces of `16 * u` bytes: what the line held or any later value (R238). The core then holds what was
read. -/
def State.roLine (s : State) (core pa u : Nat) : RoLine × State :=
  let line := pa / 128
  let new := s.roFresh line
  let keep := fun (s : State) (r : RoLine) => s.modCore core fun v => { v with ro := r :: v.ro.filter fun x => x.line != line }
  match findRo (s.core core).ro line with
  | none => (new, (keep s new).roMiss core true)
  | some old =>
    if old = new then (new, s.roMiss core false)
    else
      let r := roMerge old new u s.tick (8 / u)
      (r, (keep { s with tick := s.tick + 8 } r).roMiss core (r != old))

/-- `n` bytes at `pa` through the read-only path, all in one line, with their marks, in pieces of `16 * u` bytes. -/
def State.roCut (s : State) (core pa n u : Nat) : List (W8 × Bool) × State :=
  let r := s.roLine core pa u
  ((List.range n).map fun i => (r.1.bytes.getD (pa % 128 + i) 0, r.1.marks.contains ((pa % 128 + i) / 4)), r.2)

/-- `n` bytes at `pa` through the read-only path, of one moment (R295). -/
def State.roRead (s : State) (core pa n : Nat) : List (W8 × Bool) × State := s.roCut core pa n (max 1 (n / 16))

/-- A line is discarded from the read-only cache of every core (R75). -/
def State.roDrop (s : State) (pa : Nat) : State :=
  { s with cores := s.cores.map fun e => (e.1, { e.2 with ro := e.2.ro.filter fun x => x.line != pa / 128 }) }

/-- What every core's read-only cache holds is discarded: the first fetches of a launch follow its submitter's release (R79). -/
def State.roNone (s : State) : State := { s with cores := s.cores.map fun e => (e.1, { e.2 with ro := [] }) }

/-- Drop every line of a core's read-only cache. -/
def State.roClear (s : State) (core : Nat) : State := s.modCore core fun v => { v with ro := [] }

end Sys2Proof.Machine
end

