-- ==== Sys2Proof/Machine/Operands.lean ====
section
/-! DEFINITION. The operand checks of R106 as they fall on a quire at issue: privilege (check 4), fields and specifiers (check 5, the part
that hangs on index registers included), register bounds lane by lane (check 6, R499), latches (check 7), and the names the scoreboard
goes by (R122). -/
namespace Sys2Proof.Machine

/-- Instructions a quire in handler mode may execute (R446). -/
def handlerAdmits (i : Instr) : Bool :=
  match i with
  | .region _ _ | .exit _ _ => false
  | .barinit _ _ | .bararv _ _ | .barwait _ _ | .bartry _ _ | .trywait _ _ | .msync _ _ | .attach _ _ | .detach _ _ | .spawn _ _ | .qpush _ _
  | .cpy _ _ | .cpy2d _ _ | .cpyt _ _ | .cpymc _ _ | .cpyout _ _ | .cpyfill _ _ | .hset _ _ | .hwait _ _ | .hdrain _ _ | .hfree _ _ | .hstat _ _
  | .mma _ _ | .mmas _ _ | .mmar _ _ | .mldc _ _ | .mstc _ _ | .mzero _ _ | .mact _ _
  | .tex _ _ | .tld _ _ | .tgath _ _ | .tqry _ _ | .hgfetch _ _ | .hgscat _ _ | .ntex _ _
  | .tpay _ _ | .mvtx _ _ | .mprim _ _ | .mdone _ _ | .visrd _ _ | .attr _ _ | .pixout _ _
  | .rayq _ _ | .raynext _ _ | .rayacc _ _ | .rayend _ _ | .rayget _ _ | .asbuild _ _ | .asinfo _ _
  | .tinit _ _ | .tsel _ _ | .texp _ _ | .tback _ _ | .tleaf _ _ | .treuse _ _ | .tread _ _ | .coll _ _ | .collinfo _ _
  | .trap _ _ => false
  | _ => true

/-- Check 4: handler mode admits the instruction (R446), and DECSEL has its rights (R103). -/
def Env.privileged (e : Env) (i : Instr) : Bool :=
  match i with
  | .decsel _ _ => e.handlerMode && e.ctx.loadTables
  | _ => !e.handlerMode || handlerAdmits i

/-- The first register of a use in a lane, indexed or not; none for an operand that is no vector. -/
def Env.base (e : Env) (u : Use) (lane : Nat) : Option Int :=
  match u.o with
  | .v n => some (n.toNat : Int)
  | .x k off => some (e.view.indexed k off lane)
  | _ => none

/-- An indexed pair or quadruple whose base is not aligned in a lane (R89). -/
def Env.misaligned (e : Env) (us : List Use) (lane : Nat) : Bool :=
  us.any fun u => u.o.isX && (match e.base u lane with
    | some b => decide (b % (u.al : Int) ≠ 0)
    | none => false)

/-- The register number a use fails its bounds with in a lane (R87, R499): xk + off for an indexed operand, else the highest register. -/
def Env.outOfBounds (e : Env) (u : Use) (lane : Nat) : Option Int :=
  match e.base u lane with
  | none => none
  | some b =>
    let top := b + (max u.n 1 : Nat) - 1
    if b < 0 ∨ (e.names : Int) ≤ top then some (if u.o.isX then b else top) else none

def firstSome {α : Type} (f : Use → Option α) : List Use → Option α
  | [] => none
  | u :: us => match f u with
    | some x => some x
    | none => firstSome f us

/-- Check 6 over the lanes that take effect: the trap 0x04, naming the register of R499. -/
def Env.bounds (e : Env) (us : List Use) (lanes : List Nat) : Option TrapInfo :=
  let bad := lanes.foldl (fun m l => if (firstSome (fun u => e.outOfBounds u l) us).isSome then m ||| LaneSet.one l else m) (0 : LaneSet)
  match LaneSet.lowest e.width bad with
  | none => none
  | some l => some (e.trapLanes 0x04 (((firstSome (fun u => e.outOfBounds u l) us).getD 0) % 2 ^ 32).toNat 0 bad)

/-- A latch may be read (R91, R92): an earlier group of this line entry wrote it, and after a switch its register copy still stands. -/
def Env.latchOk (e : Env) (n : Nat) : Bool :=
  match FMap.find e.q.viewLatches n with
  | none => false
  | some L => decide (L.group < e.q.groupNo) && !(L.switched && (L.nowb || L.overwritten))

def Env.latchesOk (e : Env) (us : List Use) : Bool :=
  us.all fun u => match u.o with
    | .l _ n => u.wr || e.latchOk n.toNat
    | _ => true

/-- Lanes in which an instruction takes effect; none for an event. -/
def Env.effectOf (e : Env) (i : Instr) : LaneSet :=
  match Instr.hdr i with
  | none => 0
  | some h => e.effect h

/-- Check 4 of R106: privilege. -/
def Env.check4 (e : Env) (i : Instr) : Option TrapInfo := if e.privileged i then none else some (e.trapAll 0x0D 0)

/-- A handle number names a handle of the launch, or a ring slot of a task quire (R257, R511). -/
def Env.handleNamed (e : Env) (n : Nat) : Bool :=
  decide (n < e.desc.handles) || (e.g.role == .task && decide (60 ≤ n ∧ n < 64))

/-- The handle operand of an instruction that R262 checks. -/
def handleOpnd (i : Instr) : Option Opnd :=
  match i with
  | .cpy _ f | .cpy2d _ f | .cpyt _ f | .cpymc _ f | .cpyout _ f | .cpyfill _ f | .hset _ f | .hwait _ f | .hdrain _ f | .hfree _ f | .asbuild _ f
  | .coll _ f => some f.d
  | .hstat _ f => some f.a
  | _ => none

/-- A handle number that names no handle (R257, R262): a poisoned one is left to check 4 of R262, and one whose register is still pending to the
scoreboard. -/
def Env.handleBad (e : Env) (i : Instr) (h : Hdr) : Bool :=
  match handleOpnd i with
  | none => false
  | some o =>
    let v := e.readOnce h o .n64
    let due := match o with
      | .s _ n => e.q.pend.any fun p => p.names.contains (2 ^ 20 + n.toNat)
      | .l _ n => e.q.pend.any fun p => p.names.contains (2 ^ 21 + n.toNat)
      | _ => false
    (o.isImm || e.effect h != 0) && !due && !v.bad && !e.handleNamed v.n

/-- Attributes of the launch's render target (R310). -/
def Env.attrs (e : Env) : Nat := (e.vol.render.map fun r => r.target.attrs).getD 0

/-- The registers an instruction's word names, with as many of MVTX's attribute base as the render target has attributes (R313). -/
def Env.uses (e : Env) (i : Instr) : List Use :=
  match i with
  | .mvtx _ f => (Instr.form i).uses.dropLast ++ [useN f.c (max 1 e.attrs) 1 false]
  | _ => (Instr.form i).uses

/-- MVTX's attribute base is 0 where the render target has no attributes (R313). -/
def Env.attrBad (e : Env) (i : Instr) : Bool :=
  match i with
  | .mvtx _ f => e.vol.render.isSome && e.attrs == 0 && !f.c.isZero
  | _ => false

/-- Check 5: the word as written, the handle it names (R262), then the bases of indexed groups in each lane (R89). -/
def Env.check5 (e : Env) (i : Instr) : Option TrapInfo :=
  match Instr.hdr i with
  | none => none
  | some h =>
    let F := Instr.form i
    match F.trap h with
    | some code => some (e.trapAll code 0)
    | none =>
      if e.handleBad i h || e.attrBad i then some (e.trapAll 0x03 0)
      else
      let odd := (e.lanes (e.effect h)).filter (e.misaligned F.uses)
      if odd.isEmpty then none else some (e.trapLanes 0x03 0 0 (odd.foldl (fun m l => m ||| LaneSet.one l) 0))

/-- Check 6: register bounds in each lane that takes effect. -/
def Env.check6 (e : Env) (i : Instr) : Option TrapInfo :=
  match Instr.hdr i with
  | none => none
  | some h => e.bounds (e.uses i) (e.lanes (e.effect h))

/-- Check 7: latches. -/
def Env.check7 (e : Env) (i : Instr) : Option TrapInfo := if e.latchesOk (Instr.form i).uses then none else some (e.trapAll 0x05 0)

/-- Checks 4 to 7 of R106 on one instruction. -/
def Env.check (e : Env) (i : Instr) : Option TrapInfo :=
  match e.check4 i with
  | some t => some t
  | none =>
    match e.check5 i with
    | some t => some t
    | none =>
      match e.check6 i with
      | some t => some t
      | none => e.check7 i

/-! ### Scoreboard names (R122) -/

/-- Mask words a group sweeps: those with a lane of the path (R115). -/
def Env.swept (e : Env) : List Nat := (List.range e.words).filter fun w => e.path.word w != 0

/-- Vector registers a use names, over the lanes that take effect. -/
def Env.vecNames (e : Env) (u : Use) (lanes : List Nat) : List Nat :=
  let run := fun b : Int => if b < 0 then [] else (List.range (max u.n 1)).map fun i => b.toNat + i
  match u.o with
  | .v n => run (n.toNat : Int)
  | .x k off => (lanes.flatMap fun l => run (e.view.indexed k off l)).eraseDups
  | _ => []

/-- The names a use goes by on the scoreboard: `256 * n + word`, scalars `2^20 + n`, latches `2^21 + n`. -/
def Env.useNames (e : Env) (u : Use) (lanes : List Nat) : List Nat :=
  match u.o with
  | .s _ n => [2 ^ 20 + n.toNat]
  | .l _ n => [2 ^ 21 + n.toNat]
  | _ => (e.vecNames u lanes).flatMap fun n => e.swept.map fun w => 256 * n + w

/-- Registers an instruction may touch beyond those its word counts, where a record or a render target decides how many (R294, R295, R319):
the scoreboard waits for as many as they can be. -/
def Env.hiddenUses (_e : Env) (i : Instr) : List Use :=
  match i with
  | .tex _ f => [useN f.a 5 1 false]
  | .tgath _ f => [useN f.a 4 1 false]
  | .hgfetch _ f => [useN f.a 3 1 false, useN f.d 64 1 true]
  | .hgscat _ f => [useN f.a 3 1 false, useN f.c 64 1 false]
  | .ntex _ f => [useN f.a 3 1 false]
  | .attr _ f => [{ o := .v 0, n := 1, wr := false }, useN f.d 16 1 true]
  | _ => []

/-- The names an instruction reads or writes, its result latch included. -/
def Env.allNames (e : Env) (i : Instr) : List Nat :=
  match Instr.hdr i with
  | none => []
  | some h =>
    let lanes := e.lanes (e.effect h)
    ((e.uses i ++ e.hiddenUses i).flatMap fun u => e.useNames u lanes) ++ (if h.lat then [2 ^ 21 + h.latch.toNat] else [])

/-- Registers an instruction writes (R92): vector numbers, scalars as `2^20 + n`. -/
def Env.wroteNames (e : Env) (i : Instr) : List Nat :=
  match Instr.hdr i with
  | none => []
  | some h =>
    if h.nowb ∨ e.effect h = 0 then []
    else
      let lanes := e.lanes (e.effect h)
      (Instr.form i).uses.flatMap fun u => if u.wr then (match u.o with
        | .s _ n => [2 ^ 20 + n.toNat]
        | _ => e.vecNames u lanes) else []

end Sys2Proof.Machine
end

