-- ==== Sys2Proof/Machine/Issue.lean ====
section
/-! DEFINITION. The frame in which every instruction executes: the checks of R106, the member already recorded in the checkpoint (R525),
the stalls of R119, then the instruction's own description; and how the instructions of groups 0x1 to 0x5 read their sources and
deliver their results (R172–R176). -/
namespace Sys2Proof.Machine

/-! ### Stalls at issue (R119) -/

/-- Commit points (R345): REGION, EXIT and their like; `true` where the instruction places a fence token (R350, R357). -/
def commitKind (i : Instr) : Option Bool :=
  let wide := fun sc : Scope => decide (2 ≤ scopeCode sc)
  match i with
  | .region _ _ | .exit _ _ => some false
  | .strel _ f => some (wide f.scope)
  | .fence _ f => if f.sel.toNat = 0 ∨ f.sel.toNat = 2 ∨ f.sel.toNat = 3 then some (wide f.scope) else none
  | .atom _ f | .red _ f | .atoms _ f => some (wide f.scope)
  | .bararv _ f => some (mSpace f.m != 1)
  | .barinit _ _ | .attach _ _ | .detach _ _ | .spawn _ _ => some false
  | .qpush _ _ => some true
  | .cpy _ _ | .cpy2d _ _ | .cpyt _ _ | .cpymc _ _ | .cpyout _ _ | .cpyfill _ _ | .hset _ _ | .hdrain _ _ | .hfree _ _ => some false
  | .mstc _ _ | .hgscat _ _ | .tpay _ _ | .mvtx _ _ | .mprim _ _ | .mdone _ _ | .pixout _ _ | .asbuild _ _ => some false
  | .tinit _ _ | .tsel _ _ | .texp _ _ | .tback _ _ | .tleaf _ _ | .treuse _ _ | .coll _ _ | .trapcall _ _ => some false
  | _ => none

/-- The fence-token limits (R357): at most 8 tokens, with `ahead` that its group takes before, and 256 waiting stores to a core. A waiting store is what becomes visible at once (R343). -/
def State.tokensFull (s : State) (e : Env) (ahead : Nat) (token : Bool) : Bool :=
  let out := (s.core e.g.pcore).out
  (token && decide (8 ≤ tokenCount out + ahead)) || (decide (0 < tokenCount out) && decide (256 < waitingStores out + e.q.store.length))

/-- A commit of the quire's stores stalls (R119, R357, R360): on the fence-token limits, or on a line an engine owns. -/
def State.commitStall (s : State) (e : Env) (ahead : Nat) (token : Bool) : Option Stall :=
  if s.tokensFull e ahead token then some .tokens else if s.storesOwned e.q.store then some .build else none

/-- The commit at the end of quire `id`'s group has to wait. -/
def State.commitHeld (s : State) (id : Nat) : Bool := (s.envOf id).any fun e => (s.commitStall e 0 false).isSome

/-- An instruction whose accesses an engine makes, or that acts at a home itself: it follows every atomic of its quire (R352, R360, R363). -/
def enginesAfter (i : Instr) : Bool :=
  match i with
  | .barinit _ _ | .cpy _ _ | .cpy2d _ _ | .cpyt _ _ | .cpymc _ _ | .cpyout _ _ | .mma _ _ | .mmas _ _ | .mmar _ _ | .mldc _ _ | .mstc _ _ | .mact _ _
  | .tex _ _ | .tld _ _ | .tgath _ _ | .tqry _ _ | .hgfetch _ _ | .hgscat _ _ | .ntex _ _ | .rayq _ _ | .raynext _ _ | .asbuild _ _ | .asinfo _ _
  | .tinit _ _ | .tsel _ _ | .texp _ _ | .tback _ _ | .tleaf _ _ | .treuse _ _ | .tread _ _ | .coll _ _ | .trapcall _ _ => true
  | _ => false

/-- A release at gath scope, which leaves no token that the quire's atomics could stand before (R350, R352). -/
def gathRelease (i : Instr) : Bool :=
  match i with
  | .strel _ f | .atom _ f | .red _ f | .atoms _ f => scopeCode f.scope == 1
  | .fence _ f => decide (f.sel.toNat = 0) && scopeCode f.scope == 1
  | .bararv _ f => mSpace f.m == 1
  | _ => false

/-- An instruction that waits for every load of its quire to be performed: FENCE with an acquire (R351, R356), HFREE (R268). -/
def loadsBefore (i : Instr) : Bool :=
  match i with
  | .fence _ f => decide (1 ≤ f.sel.toNat ∧ f.sel.toNat ≤ 3)
  | .hfree _ _ => true
  | _ => false
def Quire.loadsDue (q : Quire) : Bool := q.pend.any fun p => p.kind == .load && !p.ready

/-- An instruction has to wait for earlier atomics or loads of its quire (R352). -/
def State.mustFollow (s : State) (e : Env) (i : Instr) : Bool :=
  let fence := match i with
    | .fence _ f => decide (1 ≤ f.sel.toNat ∧ f.sel.toNat ≤ 3)
    | _ => false
  (loadsBefore i && e.q.loadsDue) || ((fence || gathRelease i || enginesAfter i) && !(s.unserved e.id).isEmpty)

/-- Jobs of one partition's matrix unit (R286). -/
def State.matrixJobs (s : State) (core part : Nat) : Nat := (s.mjobs.filter fun j => j.core == core && j.part == part).length

/-- Leaf appends of a gathering that wait, requested ones included (R408). -/
def State.appends (s : State) (gid : Nat) : Nat :=
  (s.apps.filter fun a => a.gath == gid).length + (s.treqs.filter fun r => match r.op, FMap.find s.quires r.quire with
    | .leaf _ _ _ _, some q => q.gath == gid
    | _, _ => false).length

/-- Blocks a CLAIM asks for after `m` that its group claims before it (R208, R219): none where it takes no effect or a trap. -/
def Env.claimBlocks (e : Env) (m : Nat) (h : Hdr) (f : FmtA) : Nat :=
  let a := e.readOnce h f.a .n32
  let up := e.q.regs.reserve + m + a.n
  if e.uniform h != .all ∨ (a.bad && e.contrib h != 0) ∨ e.vol.pkt.alloc < up ∨ 128 / e.words < up then 0 else a.n

/-- A CLAIM of the partition that stalled earlier (R219). -/
def State.claimAhead (s : State) (e : Env) : Bool :=
  (s.onPart e.g.pcore e.q.part).any fun x => x.1 != e.id && (match x.2.wait with
    | .stall (.claim _ _) => true
    | _ => false)

/-- The stall of CLAIMs that ask for `n` blocks (R219): the pool cannot supply what has not been granted, or an earlier CLAIM is still stalled. -/
def State.claimStall (s : State) (e : Env) (n : Nat) : Option Stall :=
  if n ≤ e.q.claimed then none
  else if s.poolRows e.g.pcore e.q.part < (n - e.q.claimed) * e.words * 16 ∨ s.claimAhead e then some (.claim n s.nextId) else none

/-- The stall an instruction would take at issue, tested before any member of its group acts (R119); the members before it take `ahead` fence
tokens. -/
def State.stallOf (s : State) (e : Env) (ahead : Nat) (i : Instr) : Option Stall :=
  let f := e.effectOf i
  let transfers := if 64 ≤ s.streamerQueue e.g.pcore then some Stall.streamer else none
  let matrix := if 4 ≤ s.matrixJobs e.g.pcore e.q.part then some Stall.matrix else none
  let own := match i with
    | .claim h fa => s.claimStall e (e.claimBlocks 0 h fa)
    | .rayq h _ =>
      let need := ((e.lanes (e.contrib h)).filter fun l => (FMap.find e.q.queries l).isNone).length
      if 2048 < s.querySlots e.g.pcore + need then some .rayq else none
    | .spawn h fe => if s.spawnBlocked e h fe then some .spawn else none
    | .coll _ _ => if 64 ≤ (s.colls.filter fun c => c.2.phase != .ended).length then some .coll else transfers
    | .tleaf h _ => if 256 < s.appends e.q.gath + (e.lanes (e.contrib h)).length then some .tleaf else none
    | .mma _ _ | .mmas _ _ | .mmar _ _ | .mldc _ _ | .mstc _ _ | .mzero _ _ | .mact _ _ => matrix
    | .cpy _ _ | .cpy2d _ _ | .cpyt _ _ | .cpymc _ _ | .cpyout _ _ | .cpyfill _ _ | .asbuild _ _ => transfers
    | _ => none
  if f = 0 then none
  else
    match own with
    | some k => some k
    | none =>
      if s.mustFollow e i then some .order
      else match commitKind i with
      | some token => s.commitStall e ahead token
      | none => none

/-! ### Executing an instruction -/

/-- The member at the current slot is recorded as accepted (R525): the record it left. -/
def Env.recorded (e : Env) : Option Accepted :=
  if e.q.grp.isSome then
    match recordOf e.q.groupRecord e.slot with
    | some a => if a.words.isNone then some a else none
    | none => none
  else none

/-- A recorded tree instruction whose lanes still wait on a fault entry waits with them (R402). -/
def State.waitTrees (s : State) (e : Env) : State :=
  match s.treqs.find? fun r => r.quire == e.id && r.pc == e.q.selfPc && r.faulted.isSome with
  | some r => s.upd e fun q => q.park (.treeFault (r.faulted.getD 0))
  | none => s

/-- Execute an instruction in the current quire: its checks, then its own description. A recorded member delivers what it returned. -/
def State.perform (s : State) (i : Instr) (body : Env → State → Res State) : Out :=
  s.onQuire fun e =>
    match e.check i with
    | some t => .next (s.takeTrap e.id t false)
    | none =>
      match e.recorded with
      | some a => .next ((s.upd e fun q => q.land a.writes).waitTrees e)
      | none =>
        match s.stallOf e 0 i with
        | some k => .next (s.halt e (.stall k))
        | none =>
          match body e s with
          | .ok s' => .next s'
          | .error (h, s') => .next (s'.halt e h)

/-- An instruction whose description is a plain update of its quire. -/
def State.local (s : State) (i : Instr) (f : Env → Quire → Quire) : Out :=
  s.perform i fun e s => .ok (s.upd e (f e))

/-! ### Instructions on registers alone (R172–R176) -/

/-- A lane's sources. -/
structure Srcs where
  a : Val
  b : Val
  c : Val
  d : Val
deriving DecidableEq, Repr

/-- What a lane's computation gives: the result, the flags, and a predicate value. -/
structure LaneRes where
  n  : Nat
  fl : Fl
  p  : Bool
deriving DecidableEq, Repr

def Val.zero : Val := { n := 0, bad := false }
def Env.optRead (e : Env) (o : Opnd) (t : Option Ty) (lane : Nat) : Val :=
  match t with
  | some t => e.readTy o t lane
  | none => Val.zero

/-- The sources of an instruction of formats A and I in a lane, as its specification types them. -/
def Env.srcs (e : Env) (x : Alu) (p : AluSpec) (lane : Nat) : Srcs :=
  { a := e.optRead x.a p.ta lane,
    b := match x.imm, p.tb with
      | some w, some t => { n := immValue t w, bad := false }
      | some w, none => { n := w.toNat, bad := false }
      | none, t => e.optRead x.b t lane,
    c := e.optRead x.c p.tc lane,
    d := if p.partialD then e.optRead x.d p.td lane else Val.zero }

/-- An integer instruction none of whose operands is a vector executes once per quire (R116); a floating-point compare of latches compares in every
lane (R91, R190). -/
def Alu.once (x : Alu) (p : AluSpec) : Bool :=
  p.scal && !((p.ta.isSome && x.a.isVec) || (x.imm.isNone && p.tb.isSome && x.b.isVec) || (p.tc.isSome && x.c.isVec) || (p.td.isSome && x.d.isVec))

/-- Poison of a result (R175): any source word read for the lane. -/
def Srcs.bad (z : Srcs) : Bool := z.a.bad || z.b.bad || z.c.bad || z.d.bad

/-- What each lane that takes effect reads and computes. Once per quire (R116), every lane takes what one lane computes; of a latch, which
holds a value per lane, it is the lowest lane that takes effect (DESIGN CHOICE, notes/assumptions/94.md). -/
def Env.aluLanes (e : Env) (x : Alu) (p : AluSpec) (f : Nat → Srcs → LaneRes) : List (Nat × Srcs × LaneRes) :=
  let lanes := e.lanes (e.effect x.h)
  if x.once p then
    match lanes with
    | [] => []
    | l :: _ => lanes.map fun k => (k, e.srcs x p l, f l (e.srcs x p l))
  else lanes.map fun l => (l, e.srcs x p l, f l (e.srcs x p l))

/-- Run an instruction on registers: every lane that takes effect computes; flags of lanes that are neither padding nor poisoned are raised
(R166, R175), and a trapped one takes trap 0x18 with no result written (R167, R176); then results and predicate are delivered. A lane with one poisoned source, the kept part of
its destination included, raises no flag of its clean ones (R175; DESIGN CHOICE, notes/assumptions/129.md). -/
def Env.alu (e : Env) (s : State) (x : Alu) (p : AluSpec) (pd : Option Nat) (bad : Nat → Srcs → Bool) (f : Nat → Srcs → LaneRes) : Res State :=
  let m := e.effect x.h
  let rs := e.aluLanes x p f
  let fl : List LaneFl := (rs.filter fun r => !e.view.padding.has r.1 && !bad r.1 r.2.1 && r.2.2.fl != 0).map fun r => { lane := r.1, fl := r.2.2.fl }
  match e.flagTrap fl with
  | some t => .error (.flags t (flUnion fl), s)
  | none =>
    let words := match p.td with | some t => t.words | none => 1
    let out : List LaneOut := rs.map fun r => { lane := r.1, n := r.2.2.n, badLo := bad r.1 r.2.1, badHi := bad r.1 r.2.1 }
    .ok (s.upd e fun q =>
      let q := if flUnion fl = 0 then q else q.raise (flUnion fl)
      let q := match pd with
        | some k => { q with regs := q.regs.pput k m (rs.foldl (fun (acc : LaneSet) r => if r.2.2.p then acc ||| LaneSet.one r.1 else acc) 0) }
        | none => q
      match p.td with
      | some _ => e.deliver x.h x.d words (p.td == some .i32) out q
      | none => q)

/-- An instruction with one result, no predicate and the common rule of poison. -/
def State.aluOp (s : State) (i : Instr) (x : Alu) (p : AluSpec) (f : Env → Srcs → LaneRes) : Out :=
  s.perform i fun e s => e.alu s x p none (fun _ => Srcs.bad) (fun _ => f e)

/-- The result of a lane without flags. -/
def LaneRes.of (n : Nat) : LaneRes := { n := n, fl := 0, p := false }

/-- Elementwise over a type: element codes of the sources to an element code and flags (R172). -/
def perElem (t : Ty) (f : Nat → Nat → Nat → Nat × Fl) (z : Srcs) : LaneRes :=
  let w := t.width
  let rs := (List.range t.count).map fun k => f (elemOf w z.a.n k) (elemOf w z.b.n k) (elemOf w z.c.n k)
  { n := packElems w (rs.map Prod.fst), fl := rs.foldl (fun a r => a ||| r.2) 0, p := false }

end Sys2Proof.Machine
end

