-- ==== Sys2Proof/Machine/Flags.lean ====
section
/-! DEFINITION. Floating-point sources, results and flags of groups 0x2 and 0x3 (R95, R160–R167, R187–R193): one element at a time, with
the flags each raises. -/
namespace Sys2Proof.Machine

/-- The format of a floating type's elements. -/
def fmtOf (t : Ty) : Fmt :=
  match t.elem with
  | .flt F => F
  | _ => .f32

/-- A source code after neg/abs (R95): both act on the sign bit alone. -/
def fltSrc (F : Fmt) (n : NegAbs) (code : Nat) : Nat :=
  let top := 2 ^ (F.e + F.f)
  let c := if n.abs then code % top else code % (2 * top)
  if n.neg then (c + top) % (2 * top) else c

/-- What the environment gives an operation: rounding mode, saturate, ftz16 for the format. -/
structure FpEnv where
  mode : Rnd
  sat  : Bool
  ftz  : Bool
deriving DecidableEq, Repr

def Env.fp (e : Env) (x : Alu) (t : Ty) : FpEnv := { mode := e.mode x.rnd, sat := x.sat, ftz := t.elem.ftz e.ftz16 }

/-- An operation on element codes of one type. -/
def State.fpOp (s : State) (i : Instr) (x : Alu) (p : AluSpec) (op : FpEnv → Fmt → Nat → Nat → Nat → Nat × Fl) : Out :=
  s.aluOp i x p fun e z =>
    let F := fmtOf x.ty
    perElem x.ty (fun a b c => op (e.fp x x.ty) F (fltSrc F x.na a) (fltSrc F x.nb b) (fltSrc F x.nc c)) z

/-- Addition, subtraction, multiplication, fused multiply-add, division, square root (R188). -/
def fpAdd (m : FpEnv) (F : Fmt) (a b _ : Nat) : Nat × Fl := F.add m.mode m.sat m.ftz (F.decode a) (F.decode b)
def fpSub (m : FpEnv) (F : Fmt) (a b _ : Nat) : Nat × Fl := F.add m.mode m.sat m.ftz (F.decode a) (F.decode b).negate
def fpMul (m : FpEnv) (F : Fmt) (a b _ : Nat) : Nat × Fl := F.mulr m.mode m.sat m.ftz (F.decode a) (F.decode b)
def fpFma (m : FpEnv) (F : Fmt) (a b c : Nat) : Nat × Fl := F.fma m.mode m.sat m.ftz (F.decode a) (F.decode b) (F.decode c)
def fpDiv (m : FpEnv) (F : Fmt) (a b _ : Nat) : Nat × Fl := F.div m.mode m.sat m.ftz (F.decode a) (F.decode b)
def fpSqrt (m : FpEnv) (F : Fmt) (a _ _ : Nat) : Nat × Fl := F.sqrt m.mode m.sat m.ftz (F.decode a)
/-- Minimum and maximum (R189). -/
def fpMin (_ : FpEnv) (F : Fmt) (a b _ : Nat) : Nat × Fl := F.minmax false a b
def fpMax (_ : FpEnv) (F : Fmt) (a b _ : Nat) : Nat × Fl := F.minmax true a b
/-- Integral value and fraction (R192). -/
def fpRound (m : FpEnv) (F : Fmt) (a _ _ : Nat) : Nat × Fl := F.integral m.mode (F.decode a)
def fpFrac (m : FpEnv) (F : Fmt) (a _ _ : Nat) : Nat × Fl := F.fraction m.ftz (F.decode a)

/-- Classification (R191): one class bit, at bit 16k for element k of a packed type. -/
def classLane (x : Alu) (z : Srcs) : LaneRes :=
  let F := fmtOf x.ty
  let w := x.ty.width
  LaneRes.of ((List.range x.ty.count).foldl (fun n k => n + 2 ^ (16 * k + F.class (fltSrc F x.na (elemOf w z.a.n k)))) 0)

/-- Scaling by 2^n (R188): one signed 32-bit count for every element. -/
def scaleLane (e : Env) (x : Alu) (z : Srcs) : LaneRes :=
  let F := fmtOf x.ty
  let m := e.fp x x.ty
  perElem x.ty (fun a _ _ => F.scale m.mode m.sat m.ftz (F.decode (fltSrc F x.na a)) (intOf true 32 z.b.n)) z

/-- FDOT2 (R188): c + a0 b0 + a1 b1, exact, then one rounding to FP32. -/
def dotLane (e : Env) (x : Alu) (z : Srcs) : LaneRes :=
  let F := fmtOf x.ty
  let m := e.fp x .f32
  let a := fun k => F.decode (fltSrc F x.na (elemOf 16 z.a.n k))
  let b := fun k => F.decode (fltSrc F x.nb (elemOf 16 z.b.n k))
  let c := Fmt.f32.decode (fltSrc .f32 x.nc z.c.n)
  let r := Fmt.f32.sumOf m.mode m.sat false [a 0, b 0, a 1, b 1, c] [Num.mul (a 0) (b 0), Num.mul (a 1) (b 1), some c]
  { n := r.1, fl := r.2, p := false }

/-- Comparison (R190): every element must satisfy the condition. -/
def fcmpLane (x : Alu) (z : Srcs) : LaneRes :=
  let F := fmtOf x.ty
  let w := x.ty.width
  let rs := (List.range x.ty.count).map fun k =>
    fcompare (x.fn % 16) (F.decode (fltSrc F x.na (elemOf w z.a.n k))) (F.decode (fltSrc F x.nb (elemOf w z.b.n k)))
  { n := condMasks (rs.map Prod.fst), fl := rs.foldl (fun a r => a ||| r.2) 0, p := (rs.map Prod.fst).all id }
where
  /-- All ones or zero in each element; one 32-bit mask where there is one element. -/
  condMasks (hits : List Bool) : Nat :=
    let w := if hits.length = 1 then 32 else 16
    packElems w (hits.map fun h => if h then 2 ^ w - 1 else 0)

def State.fcmp (s : State) (i : Instr) (types : List Ty) (x : Alu) : Out :=
  s.perform i fun e s => e.alu s x (specFcmp types x) (some (x.fn / 16 % 8)) (fun _ => Srcs.bad) (fun _ => fcmpLane x)

/-- An approximation (R193) with its FP32 function, narrowed for the packed types. -/
def State.approxOp (s : State) (i : Instr) (x : Alu) (f : Nat → Nat × Fl) : Out :=
  s.aluOp i x (specFp tyF 1 false false x) fun e z =>
    let F := fmtOf x.ty
    perElem x.ty (fun a _ _ =>
      let a := fltSrc F x.na a
      if x.ty = .f32 then f a else approxNarrow F (e.fp x x.ty).ftz f a) z

end Sys2Proof.Machine
end

