-- ==== Sys2Proof/Machine/Convert.lean ====
section
/-! DEFINITION. Group 0x4, conversions (R195–R204): scalar and packed conversion, block quantisation, bit planes, bead pairs, the byte
multiplexer; and the meaning of each instruction. -/
namespace Sys2Proof.Machine

/-- Deliver lane results with their flags: a trapped flag of a lane that is not padding takes trap 0x18 and nothing is written (R176); a
poisoned lane raises none (R175). -/
def Env.finish (e : Env) (s : State) (h : Hdr) (d : Opnd) (words : Nat) (signed : Bool) (rs : List (LaneOut × Fl)) : Res State :=
  let fl : List LaneFl := (rs.filter fun r => !e.view.padding.has r.1.lane && !r.1.badLo && !r.1.badHi && r.2 != 0).map fun r => { lane := r.1.lane, fl := r.2 }
  match e.flagTrap fl with
  | some t => .error (.flags t (flUnion fl), s)
  | none => .ok (s.upd e fun q => e.deliver h d words signed (rs.map Prod.fst) (if flUnion fl = 0 then q else q.raise (flUnion fl)))

/-- The lanes that take effect in each mask word. -/
def Env.byWord (e : Env) (m : LaneSet) : List (List Nat) :=
  (List.range e.words).map fun w => (e.lanes m).filter fun l => l / 32 == w

/-- One element converted (R164, R197). Within one type the input comes back, whatever code it has; a NaN is the default NaN, and saturate clamps
an infinity (R162; DEDUCED, notes/assumptions/31.md). -/
def cvtElem (src dst : Ty) (mode : Rnd) (sat ftz16 : Bool) (code : Nat) : Nat × Fl :=
  if src = dst ∧ (src.elem.num code).isFin then (code, 0) else convertElem src.elem dst.elem mode sat ftz16 code

def cvtLane (e : Env) (x : Alu) (z : Srcs) : LaneRes :=
  let t := tyOfCode x.fn
  let r := cvtElem x.ty t (e.mode x.rnd) x.sat e.ftz16 (elemOf x.ty.width z.a.n (x.fn / 16 % 8))
  { n := if t.count = 1 then r.1 else putElem t.width z.d.n (x.fn / 128 % 8) r.1, fl := r.2, p := false }

def cvtpLane (e : Env) (x : Alu) (z : Srcs) : LaneRes :=
  let t := tyOfCode x.fn
  let q := x.fn / 16 % 4
  let a := cvtElem x.ty t (e.mode x.rnd) x.sat e.ftz16 z.a.n
  let b := cvtElem x.ty t (e.mode x.rnd) x.sat e.ftz16 z.b.n
  { n := putElem t.width (putElem t.width z.d.n (2 * q) a.1) (2 * q + 1) b.1, fl := a.2 ||| b.2, p := false }

/-- PACK (R199): low bits, or each source clamped to the signed or unsigned range of the element. -/
def packLane (x : Alu) (z : Srcs) : LaneRes :=
  let w := packWidth x
  let q := x.fn % 4
  let one := fun v : Nat =>
    let i := intOf x.ty.isSigned 32 v
    intBits w (if x.sat then clampInt (intLeast x.ty.isSigned w) (intGreatest x.ty.isSigned w) i else i)
  LaneRes.of (putElem w (putElem w z.d.n (2 * q) (one z.a.n)) (2 * q + 1) (one z.b.n))

/-- DEQ (R201). -/
def deqLane (e : Env) (x : Alu) (z : Srcs) : LaneRes :=
  let scale := z.b.n % 256
  let code := elemOf x.ty.width z.a.n (x.fn % 8)
  if scale = 255 then LaneRes.of Fmt.f32.nanCode
  else
    let shift : Int := (scale : Int) - 127 - (if x.ty = .i8x4 then 6 else 0)
    let v := match x.ty.elem.num code with
      | .fin s m k => Num.fin s m (k + shift)
      | v => v
    let r := Fmt.f32.ofNum (e.mode x.rnd) false false v
    { n := r.1, fl := r.2, p := false }

def b8decLane (x : Alu) (z : Srcs) : LaneRes :=
  let byte := fun k => (cvtElem .bp8x4 x.ty .rne false false (elemOf 8 z.a.n k)).1
  if x.ty.count = 2 then LaneRes.of (packElems 16 [byte (2 * (x.fn % 2)), byte (2 * (x.fn % 2) + 1)])
  else LaneRes.of (byte (x.fn % 4))

def b8encLane (x : Alu) (z : Srcs) : LaneRes :=
  let enc := fun c => bpOfNum (x.ty.elem.num c)
  if x.ty.count = 2 then
    let a := enc (elemOf 16 z.a.n 0)
    let b := enc (elemOf 16 z.a.n 1)
    let h := x.fn % 2
    { n := putElem 8 (putElem 8 z.d.n (2 * h) a.1) (2 * h + 1) b.1, fl := a.2 ||| b.2, p := false }
  else
    let a := enc z.a.n
    { n := putElem 8 z.d.n (x.fn % 4) a.1, fl := a.2, p := false }

/-- BMUX (R204): each byte by a five-bit selector. -/
def bmuxLane (z : Srcs) : LaneRes :=
  let src := fun i : Nat => if i < 4 then elemOf 8 z.a.n i else elemOf 8 z.b.n (i - 4)
  let byte := fun k : Nat =>
    let sel := z.c.n / 2 ^ (5 * k) % 32
    let b := src (sel % 8)
    match sel / 8 with
    | 0 => b
    | 1 => if 128 ≤ b then 255 else 0
    | 2 => 0
    | _ => 255
  LaneRes.of (packElems 8 ((List.range 4).map byte))

/-! ### Blocks (R200, R203) -/

/-- The largest exponent of an element format of CVTQ. -/
def blockEmax (t : Ty) : Int := match t with | .e4m3x4 => 8 | .e5m2x4 => 15 | .e2m1x8 => 2 | _ => 0

/-- The greater of two finite magnitudes. -/
def maxMag (a b : Num) : Num := if Num.cmp (if a.sign then a.negate else a) (if b.sign then b.negate else b) == .lt then b else a

/-- The scale code of a block that is finite and not all zero. -/
def blockScale (t : Ty) (vs : List Num) : Nat :=
  match vs.foldl maxMag (.fin false 0 0) with
  | .fin _ m k => (clampInt 0 254 (ilog2 m 1 + k - blockEmax t + 127)).toNat
  | _ => 127

/-- One value quantised against a scale (R200). -/
def quantise (t : Ty) (mode : Rnd) (X : Nat) (v : Num) : Nat × Fl :=
  match v with
  | .fin s m k =>
    let k' := k + 127 - (X : Int)
    match t.elem with
    | .flt F => F.round mode true false s m 1 k'
    | _ =>
      let r := rint mode s m 1 (k' + 6) 0
      let i : Int := if s then -(r.1 : Int) else r.1
      let c := clampInt (-128) 127 i
      (intBits 8 c, Fl.when (r.2 || c != i) Fl.inexact)
  | _ => (0, Fl.invalid)

/-- The quantised word of each lane of one block, with its flags. -/
def cvtqBlock (t : Ty) (mode : Rnd) (src : List (Nat × Nat)) : List (Nat × Nat × Fl) :=
  let vs := src.map fun p => Fmt.f32.decode p.2
  if vs.any fun v => v.isNan || v.isInf then
    let q := match t with | .e4m3x4 => 0x7F | .e5m2x4 => 0x7E | _ => 0
    src.map fun p => (p.1, 0xFF00 + q, Fl.invalid)
  else if vs.all Num.isZero then src.map fun p => (p.1, 127 * 256, 0)
  else
    let X := blockScale t vs
    src.map fun p => let r := quantise t mode X (Fmt.f32.decode p.2); (p.1, X * 256 + r.1 % 256, r.2)

def Env.cvtq (e : Env) (s : State) (x : Alu) : Res State :=
  let t := tyOfCode x.fn
  let rs := (e.byWord (e.effect x.h)).flatMap fun ls =>
    let src := ls.map fun l => (l, e.readTy x.a .f32 l)
    let bad := src.any fun p => p.2.bad
    (cvtqBlock t (e.mode x.rnd) (src.map fun p => (p.1, p.2.n))).map fun r =>
      (({ lane := r.1, n := r.2.1, badLo := bad, badHi := bad } : LaneOut), r.2.2)
  e.finish s x.h x.d 1 false rs

/-- Plane j of the 64 elements of a word (R159, R203): bit i of a from lane i, bit 32 + i of b. -/
def planeOf (src : List (Nat × Nat × Nat)) (j : Nat) : Nat :=
  src.foldl (fun n p => n + (if p.2.1.testBit j then 2 ^ (p.1 % 32) else 0) + (if p.2.2.testBit j then 2 ^ (32 + p.1 % 32) else 0)) 0

/-- BPPACK (R203): a plane beyond the width is zero and carries no mark (DESIGN CHOICE, notes/assumptions/132.md). -/
def Env.bppack (e : Env) (s : State) (x : Alu) : Res State :=
  let rs := (e.byWord (e.effect x.h)).flatMap fun ls =>
    let a := ls.map fun l => (l, e.readTy x.a .n32 l, e.readTy x.b .n32 l)
    let bad := a.any fun p => p.2.1.bad || p.2.2.bad
    let src := a.map fun p => (p.1, p.2.1.n, p.2.2.n)
    ls.map fun l =>
      let j := l % 32
      let in' := decide (j < planes x)
      (({ lane := l, n := if in' then planeOf src j else 0, badLo := in' && bad, badHi := in' && bad } : LaneOut), (0 : Fl))
  e.finish s x.h x.d 2 false rs

def Env.bpunp (e : Env) (s : State) (x : Alu) : Res State :=
  let b := planes x
  let h := if x.fn.testBit 2 then 1 else 0
  let j0 := x.fn / 8 % 4
  let rs := (e.byWord (e.effect x.h)).flatMap fun ls =>
    let plane := fun j => (ls.find? fun l => l % 32 == j).map fun l => e.readTy x.a .n64 l
    let js := (List.range b).filter fun j => decide (j0 ≤ j)
    let bad := js.any fun j => match plane j with | some v => v.bad | none => false
    ls.map fun l =>
      let i := l % 32
      let v := js.foldl (fun n j => match plane j with
        | some v => if v.n.testBit (32 * h + i) then n + 2 ^ j else n
        | none => n) 0
      (({ lane := l, n := intBits 32 (intOf (x.ty == .i32) b v), badLo := bad, badHi := bad } : LaneOut), (0 : Fl))
  e.finish s x.h x.d 1 (x.ty == .i32) rs

/-! ### Meanings -/

/-- CVT (R197). -/
def execCvt (h : Hdr) (f : FmtA) (s : State) : Out :=
  let x := Alu.ofA h f
  s.aluOp (.cvt h f) x (specCvt x) fun e z => cvtLane e x z
/-- CVTP (R198). -/
def execCvtp (h : Hdr) (f : FmtA) (s : State) : Out :=
  let x := Alu.ofA h f
  s.aluOp (.cvtp h f) x (specCvtp x) fun e z => cvtpLane e x z
/-- CVTQ (R200). -/
def execCvtq (h : Hdr) (f : FmtA) (s : State) : Out := s.perform (.cvtq h f) fun e s => e.cvtq s (Alu.ofA h f)
/-- DEQ (R201). -/
def execDeq (h : Hdr) (f : FmtA) (s : State) : Out :=
  let x := Alu.ofA h f
  s.aluOp (.deq h f) x (specDeq x) fun e z => deqLane e x z
/-- BPPACK (R203). -/
def execBppack (h : Hdr) (f : FmtA) (s : State) : Out := s.perform (.bppack h f) fun e s => e.bppack s (Alu.ofA h f)
/-- BPUNP (R203). -/
def execBpunp (h : Hdr) (f : FmtA) (s : State) : Out := s.perform (.bpunp h f) fun e s => e.bpunp s (Alu.ofA h f)
/-- B8DEC (R202). -/
def execB8dec (h : Hdr) (f : FmtA) (s : State) : Out :=
  let x := Alu.ofA h f
  s.aluOp (.b8dec h f) x (specB8dec x) fun _ z => b8decLane x z
/-- B8ENC (R202). -/
def execB8enc (h : Hdr) (f : FmtA) (s : State) : Out :=
  let x := Alu.ofA h f
  s.aluOp (.b8enc h f) x (specB8enc x) fun _ z => b8encLane x z
/-- BMUX (R204). -/
def execBmux (h : Hdr) (f : FmtA) (s : State) : Out :=
  let x := Alu.ofA h f
  s.aluOp (.bmux h f) x (specBmux x) fun _ z => bmuxLane z
/-- PACK (R199). -/
def execPack (h : Hdr) (f : FmtA) (s : State) : Out :=
  let x := Alu.ofA h f
  s.aluOp (.pack h f) x (specPack x) fun _ z => packLane x z

end Sys2Proof.Machine
end

