-- ==== Sys2Proof/Machine/Lanes.lean ====
section
/-! DEFINITION. Group 0x5, lanes, predicates and register windows (R205–R223): votes, cross-lane moves and folds, special and index
registers, the reservation, padding; and the meaning of each instruction. -/
namespace Sys2Proof.Machine

/-- Lanes leave the current path and every entry of the control stack (R132). -/
def StackEntry.drop (m : LaneSet) : StackEntry → StackEntry
  | .reconv rpc full pend => .reconv rpc (full &&& ~~~m) (pend.map fun p => (p.1, p.2 &&& ~~~m))
  | .call => .call
  | .handler => .handler
def Regs.dropLanes (r : Regs) (m : LaneSet) : Regs :=
  { r with path := r.path &&& ~~~m, padding := r.padding &&& ~~~m, absent := r.absent ||| m, stack := r.stack.map (StackEntry.drop m) }

/-- Trap 0x0E with its detail bit (R468): 1 address, 2 branch condition, 4 stored data, 8 other operand. -/
def Env.poison (e : Env) {α : Type} (s : State) (detail : Nat) (bad : LaneSet) : Res α := .error (.trap (e.trapLanes 0x0E detail 0 bad), s)

/-- An instruction that executes once per quire under a guard uniform over E (R208): it stops on a mixed guard (trap 0x06 detail 2) and
has no effect when every guard is false. -/
def Env.onceUniform (e : Env) (s : State) (h : Hdr) (k : Res State) : Res State :=
  match e.uniform h with
  | .none => .ok s
  | .mixed => e.trapRes s 0x06 2
  | .all => k

/-- The lanes of `m` for which `p` holds. -/
def Env.pick (e : Env) (m : LaneSet) (p : Nat → Bool) : LaneSet :=
  (e.lanes m).foldl (fun (acc : LaneSet) l => if p l then acc ||| LaneSet.one l else acc) 0

/-! ### Predicates and votes -/

/-- PLOP (R209). -/
def plop (e : Env) (x : Alu) (q : Quire) : Quire :=
  let f := e.effect x.h
  let r := e.view
  let a := r.pget (x.fn / 8 % 8)
  let b := r.pget (x.fn % 8)
  let c := r.pget x.a.immVal.toNat
  let code := x.b.immVal.toNat
  let p := fun l => code.testBit ((if a.has l then 1 else 0) + (if b.has l then 2 else 0) + (if c.has l then 4 else 0))
  { q with regs := q.regs.pput (x.fn / 64 % 8) f (e.pick f p) }

/-- PMOV.get's word in a lane: bit k from predicate k. -/
def predWord (r : Regs) (l : Nat) : Nat := (List.range 8).foldl (fun n k => if (r.pget k).has l then n + 2 ^ k else n) 0

/-- PMOV (R210). -/
def Env.pmov (e : Env) (s : State) (x : Alu) : Res State :=
  let f := e.effect x.h
  if x.fn.testBit 9 then
    let a := fun l => (e.readTy x.a .n32 l).n
    .ok (s.upd e fun q => { q with regs := (List.range 8).foldl (fun r k =>
      if x.fn.testBit k && k != 0 then r.pput k f (e.pick f fun l => (a l).testBit k) else r) q.regs })
  else
    e.finish s x.h x.d 1 false ((e.lanes f).map fun l => ({ lane := l, n := predWord e.view l, badLo := false, badHi := false }, 0))

/-- POLL (R211). -/
def Env.poll (e : Env) (s : State) (x : Alu) : Res State :=
  let f := e.effect x.h
  let v := e.contrib x.h
  let p := e.view.pget (x.fn % 8)
  let q := (if x.fn.testBit 3 then ~~~p else p) &&& v
  let mode := x.fn / 128
  let out := fun (n : Nat → Nat) (words : Nat) =>
    e.finish s x.h x.d words false ((e.lanes f).map fun l => ({ lane := l, n := n l, badLo := false, badHi := false }, 0))
  let vote := fun b : Bool => Except.ok (s.upd e fun z => { z with regs := z.regs.pput (x.fn / 16 % 8) f (if b then f else 0) })
  match mode with
  | 0 => vote (q == v)
  | 1 => vote (q != 0)
  | 2 => vote (q == 0)
  | 3 => vote (q == v || q == 0)
  | 4 =>
    if x.d.isScal then
      if e.width > 64 then e.trapRes s 0x03 0 else out (fun _ => (q.extractLsb' 0 64).toNat) 2
    else out (fun l => (wordOf q l).toNat) 1
  | _ => out (fun _ => (e.lanes q).length) 1

/-! ### Moving values between lanes -/

/-- Lanes of a segment code (R212): zero is the whole quire; none when it is wider than the quire. -/
def Env.segment (e : Env) (g : Nat) : Option Nat :=
  if g = 0 then some e.width else if 2 ^ g ≤ e.width then some (2 ^ g) else none

/-- The source lane of XLANE (R212). -/
def xlaneSource (mode size l n : Nat) : Nat :=
  let sb := l - l % size
  match mode with
  | 0 => sb + n % size
  | 1 =>
    let j := (l : Int) + intOf true 32 n
    if (sb : Int) ≤ j ∧ j < ((sb + size : Nat) : Int) then j.toNat else l
  | 2 => sb + (l - sb + n) % size
  | _ => sb + Nat.xor (l - sb) (n % size)

def Env.xlane (e : Env) (s : State) (x : Alu) : Res State :=
  match e.segment (x.fn / 4 % 16) with
  | none => e.trapRes s 0x03 0
  | some size =>
    let bt : Ty := if x.fn % 4 = 1 then .i32 else .n32
    e.finish s x.h x.d x.ty.words false ((e.lanes (e.effect x.h)).map fun l =>
      let b := e.readTy x.b bt l
      let a := e.readTy x.a x.ty (xlaneSource (x.fn % 4) size l b.n)
      ({ lane := l, n := a.n, badLo := a.bad || b.bad, badHi := a.bad || b.bad }, 0))

/-- One step of a fold (R213), with its flags. -/
def foldOp (t : Ty) (op : Nat) (mode : Rnd) (a b : Nat) : Nat × Fl :=
  let w := t.width
  let i := intOf t.isSigned w
  match t.elem with
  | .flt F =>
    if op = 0 then F.add mode false false (F.decode a) (F.decode b) else F.minmax (op == 2) a b
  | _ =>
    match op with
    | 0 => (intBits w (i a + i b), 0)
    | 1 => (intBits w (min (i a) (i b)), 0)
    | 2 => (intBits w (max (i a) (i b)), 0)
    | 3 => (a &&& b, 0)
    | 4 => (a ||| b, 0)
    | _ => (a ^^^ b, 0)

/-- What the first contributor leaves (R213): its value, a NaN as the default NaN with invalid where it is signalling (R153). -/
def foldBegin (t : Ty) (a : Nat) : Nat × Fl :=
  match t.elem with
  | .flt F => let v := F.decode a; if v.isNan then (F.nanCode, readFlags [v]) else (a, 0)
  | _ => (a, 0)

/-- The identity of a fold (R213). -/
def foldIdentity (t : Ty) (op : Nat) : Nat :=
  let w := t.width
  match t.elem with
  | .flt F => if op = 0 then 0 else F.infCode (op == 2)
  | _ =>
    match op with
    | 1 => intBits w (intGreatest t.isSigned w)
    | 2 => intBits w (intLeast t.isSigned w)
    | 3 => 2 ^ w - 1
    | _ => 0

/-- A fold as it stands: the value, none at the identity, whether poison has entered it, and its results so far. -/
structure Fold where
  acc : Option Nat
  bad : Bool
  out : List (LaneOut × Fl)
  fl  : List LaneFl
deriving DecidableEq, Repr

/-- REDQ and SCANQ over one segment (R213). -/
def Env.foldSegment (e : Env) (x : Alu) (scan : Bool) (f v : LaneSet) (lanes : List Nat) : Fold :=
  let op := x.fn % 8
  let excl := x.fn.testBit 7
  let mode := e.mode x.rnd
  let value := fun (z : Fold) => z.acc.getD (foldIdentity x.ty op)
  let emit := fun (z : Fold) (l : Nat) =>
    { z with out := z.out ++ [({ lane := l, n := value z, badLo := z.bad, badHi := z.bad }, 0)] }
  let step := fun (z : Fold) (m : Nat) =>
    let z := if scan && excl && f.has m then emit z m else z
    let z := if v.has m then
        let a := e.readTy x.a x.ty m
        match z.acc with
        | none =>
          let r := foldBegin x.ty a.n
          { z with acc := some r.1, bad := z.bad || a.bad, fl := z.fl ++ (if r.2 = 0 ∨ a.bad then [] else [{ lane := m, fl := r.2 }]) }
        | some c =>
          let r := foldOp x.ty op mode c a.n
          { z with acc := some r.1, bad := z.bad || a.bad, fl := z.fl ++ (if r.2 = 0 ∨ z.bad ∨ a.bad then [] else [{ lane := m, fl := r.2 }]) }
      else z
    if scan && !excl && f.has m then emit z m else z
  let z := lanes.foldl step { acc := none, bad := false, out := [], fl := [] }
  if scan then z else (lanes.filter f.has).foldl emit z

def Env.fold (e : Env) (s : State) (x : Alu) (scan : Bool) : Res State :=
  match e.segment (x.fn / 8 % 16) with
  | none => e.trapRes s 0x03 0
  | some size =>
    let f := e.effect x.h
    let v := e.contrib x.h
    let segs := (List.range (e.width / size)).map fun k => e.foldSegment x scan f v ((List.range size).map fun i => k * size + i)
    let fl := segs.flatMap Fold.fl
    match e.flagTrap fl with
    | some t => .error (.flags t (flUnion fl), s)
    | none =>
      .ok (s.upd e fun q => e.deliver x.h x.d x.ty.words (x.ty == .i32) ((segs.flatMap Fold.out).map Prod.fst)
        (if flUnion fl = 0 then q else q.raise (flUnion fl)))

/-- MATCH (R214). -/
def Env.matchLanes (e : Env) (s : State) (x : Alu) : Res State :=
  let f := e.effect x.h
  let v := e.contrib x.h
  let vals := (e.lanes v).map fun l => (l, e.readTy x.a x.ty l)
  let same := match vals with
    | [] => true
    | p :: ps => ps.all fun r => r.2.n == p.2.n
  let outs := (e.lanes f).map fun l =>
    let a := e.readTy x.a x.ty l
    let peers := vals.filter fun p => p.1 / 32 == l / 32
    let n := peers.foldl (fun n p => if p.2.n = a.n then n + 2 ^ (p.1 % 32) else n) 0
    let bad := a.bad || peers.any fun p => p.2.bad
    (({ lane := l, n := n, badLo := bad, badHi := bad } : LaneOut), (0 : Fl))
  match e.finish s x.h x.d 1 false outs with
  | .error r => .error r
  | .ok s => .ok (s.upd e fun q => { q with regs := q.regs.pput (x.fn % 8) f (if same then f else 0) })

/-- UBCAST (R215). -/
def Env.ubcast (e : Env) (s : State) (x : Alu) : Res State :=
  match LaneSet.lowest e.width (e.contrib x.h) with
  | none => e.finish s x.h x.d x.ty.words false []
  | some m =>
    let a := e.readTy x.a x.ty m
    e.finish s x.h x.d x.ty.words false ((e.lanes (e.effect x.h)).map fun l => ({ lane := l, n := a.n, badLo := a.bad, badHi := a.bad }, 0))

/-! ### Special registers (R216, R217) -/

/-- The value of a special register, in a lane (R216). -/
def Env.special (e : Env) (s : State) (k lane : Nat) : Nat :=
  let r := e.view
  match k with
  | 0x00 => lane
  | 0x01 => e.width
  | 0x02 => e.q.index
  | 0x03 => e.g.slot
  | 0x04 => e.g.x
  | 0x05 => e.g.y
  | 0x06 => e.g.z
  | 0x07 => e.g.x % e.vol.spanWidth
  | 0x08 => e.g.y % e.vol.spanHeight
  | 0x09 => e.vol.spanWidth
  | 0x0A => e.vol.spanHeight
  | 0x0B => e.g.core
  | 0x0C => logicalDie e.g.core
  | 0x0D => e.vol.depth
  | 0x0E => r.entry.toNat
  | 0x0F => r.sig.toNat
  | 0x10 => r.rowprog.toNat
  | 0x11 => s.clock
  | 0x12 => r.fpmode.toNat
  | 0x13 => r.fpflags.toNat
  | 0x14 => if e.g.shrink then 1 else 0
  | 0x15 => e.vol.pkt.seq
  | _ => if r.poison then 1 else 0

def Env.sread (e : Env) (s : State) (x : Alu) : Res State :=
  e.finish s x.h x.d x.ty.words false ((e.lanes (e.effect x.h)).map fun l =>
    ({ lane := l, n := e.special s x.fn l % 2 ^ x.ty.width, badLo := false, badHi := false }, 0))

/-- What a write of sr.fpmode keeps (R165, R445): reserved bits read zero, trap enables read zero in handler mode. -/
def Env.fpmodeOf (e : Env) (v : Nat) : W64 :=
  (BitVec.ofNat 64 v) &&& (if e.handlerMode then 0x207 else 0x3F7)

/-- SWRITE (R217). -/
def Env.swrite (e : Env) (s : State) (x : Alu) : Res State :=
  e.onceUniform s x.h (
    let a := e.readOnce x.h x.a .i64
    if a.bad && e.contrib x.h != 0 then e.poison s 8 0
    else if x.fn = 0x12 then
      if 5 ≤ a.n % 8 then e.trapRes s 0x03 0
      else .ok (s.upd e fun q => { q with regs := { q.regs with fpmode := e.fpmodeOf a.n } })
    else .ok (s.upd e fun q => { q with regs := { q.regs with fpflags := BitVec.ofNat 64 (a.n % 32) } }))

/-! ### Index registers (R218) -/

/-- XSET and XADD. -/
def Env.xreg (e : Env) (s : State) (x : Alu) (add : Bool) : Res State :=
  let f := e.effect x.h
  let k := x.fn % 4
  let vals := (e.lanes f).map fun l => (l, e.readTy x.a .i32 l)
  let bad := vals.foldl (fun (m : LaneSet) p => if p.2.bad && !e.view.padding.has p.1 then m ||| LaneSet.one p.1 else m) 0
  if bad ≠ 0 then e.poison s 8 bad
  else .ok (s.upd e fun q => { q with regs := vals.foldl (fun r p =>
    r.xput k p.1 (BitVec.ofNat 32 p.2.n + (if add then e.view.xget k p.1 else 0))) q.regs })

/-! ### The reservation (R219) -/

def Env.claim (e : Env) (s : State) (x : Alu) : Res State :=
  e.onceUniform s x.h (
    let a := e.readOnce x.h x.a .n32
    if a.bad && e.contrib x.h != 0 then e.poison s 8 0
    else
      let up := e.q.regs.reserve + a.n
      if a.n = 0 then .ok s
      else if e.vol.pkt.alloc < up ∨ 128 / e.words < up then e.trapRes s 0x03 0
      else .ok (s.upd e fun q => { q with claimed := q.claimed - a.n, regs := { q.regs with reserve := q.regs.reserve + a.n } }))

def Env.surr (e : Env) (s : State) (x : Alu) : Res State :=
  e.onceUniform s x.h (
    let a := e.readOnce x.h x.a .n32
    if a.bad && e.contrib x.h != 0 then e.poison s 8 0
    else if e.q.regs.reserve < 1 + a.n then e.trapRes s 0x03 0
    else .ok (s.upd e fun q => { q with regs := { q.regs with reserve := q.regs.reserve - a.n, surrendered := q.regs.surrendered + a.n } }))

/-! ### Masks and padding (R222, R223) -/

/-- The 8-bit summary of R9 over active and padding lanes. -/
def Env.summary (e : Env) (m : LaneSet) : Nat := (List.range e.words).foldl (fun n w => if m.word w != 0 then n + 2 ^ w else n) 0

def Env.maskrd (e : Env) (s : State) (x : Alu) : Res State :=
  let r := e.view
  let kind := x.fn % 4
  let w := x.fn / 4 % 8
  if e.words ≤ w then e.trapRes s 0x03 0
  else
    let m := match kind with
      | 0 => e.active
      | 1 => r.padding
      | _ => r.absent &&& e.allLanes
    e.finish s x.h x.d 1 false ((e.lanes (e.effect x.h)).map fun l =>
      ({ lane := l, n := if kind = 3 then e.summary e.path else (m.word (if x.d.isScal then w else l / 32)).toNat, badLo := false, badHi := false }, 0))

/-- Lanes of the words a PAD or UNPAD selects; none when its mask names a word the quire lacks. -/
def Env.padWords (e : Env) (mask : Nat) : Option LaneSet :=
  if 2 ^ e.words ≤ mask then none
  else if mask = 0 then some e.allLanes
  else some ((List.range e.words).foldl (fun (m : LaneSet) w => if mask.testBit w then m ||| LaneSet.wordAll w else m) 0)

def StackEntry.isReconv : StackEntry → Bool | .reconv _ _ _ => true | _ => false

def Env.padOn (e : Env) (s : State) (x : Alu) : Res State :=
  e.onceUniform s x.h (
    match e.padWords x.fn with
    | none => e.trapRes s 0x03 0
    | some m =>
      if e.view.stack.any StackEntry.isReconv then e.trapRes s 0x06 5
      else .ok (s.upd e fun q =>
        let n := q.regs.absent &&& m &&& e.allLanes
        { q with regs := { q.regs with padding := q.regs.padding ||| n, absent := q.regs.absent &&& ~~~n, path := q.regs.path ||| n } }))

def Env.padOff (e : Env) (s : State) (x : Alu) : Res State :=
  e.onceUniform s x.h (
    match e.padWords x.fn with
    | none => e.trapRes s 0x03 0
    | some m => .ok (s.upd e fun q => { q with regs := q.regs.dropLanes (q.regs.padding &&& m) }))

/-! ### Meanings -/

/-- PLOP (R209). -/
def execPlop (h : Hdr) (f : FmtA) (s : State) : Out := s.local (.plop h f) fun e q => plop e (Alu.ofA h f) q
/-- PMOV (R210). -/
def execPmov (h : Hdr) (f : FmtA) (s : State) : Out := s.perform (.pmov h f) fun e s => e.pmov s (Alu.ofA h f)
/-- POLL (R211). -/
def execPoll (h : Hdr) (f : FmtA) (s : State) : Out := s.perform (.poll h f) fun e s => e.poll s (Alu.ofA h f)
/-- XLANE (R212). -/
def execXlane (h : Hdr) (f : FmtA) (s : State) : Out := s.perform (.xlane h f) fun e s => e.xlane s (Alu.ofA h f)
/-- REDQ (R213). -/
def execRedq (h : Hdr) (f : FmtA) (s : State) : Out := s.perform (.redq h f) fun e s => e.fold s (Alu.ofA h f) false
/-- SCANQ (R213). -/
def execScanq (h : Hdr) (f : FmtA) (s : State) : Out := s.perform (.scanq h f) fun e s => e.fold s (Alu.ofA h f) true
/-- MATCH (R214). -/
def execMatchQ (h : Hdr) (f : FmtA) (s : State) : Out := s.perform (.matchQ h f) fun e s => e.matchLanes s (Alu.ofA h f)
/-- SREAD (R216). -/
def execSread (h : Hdr) (f : FmtA) (s : State) : Out := s.perform (.sread h f) fun e s => e.sread s (Alu.ofA h f)
/-- SWRITE (R217). -/
def execSwrite (h : Hdr) (f : FmtA) (s : State) : Out := s.perform (.swrite h f) fun e s => e.swrite s (Alu.ofA h f)
/-- XSET (R218). -/
def execXset (h : Hdr) (f : FmtA) (s : State) : Out := s.perform (.xset h f) fun e s => e.xreg s (Alu.ofA h f) false
/-- XADD (R218). -/
def execXadd (h : Hdr) (f : FmtA) (s : State) : Out := s.perform (.xadd h f) fun e s => e.xreg s (Alu.ofA h f) true
/-- CLAIM (R219). -/
def execClaim (h : Hdr) (f : FmtA) (s : State) : Out := s.perform (.claim h f) fun e s => e.claim s (Alu.ofA h f)
/-- SURR (R219). -/
def execSurr (h : Hdr) (f : FmtA) (s : State) : Out := s.perform (.surr h f) fun e s => e.surr s (Alu.ofA h f)
/-- MASKRD (R222). -/
def execMaskrd (h : Hdr) (f : FmtA) (s : State) : Out := s.perform (.maskrd h f) fun e s => e.maskrd s (Alu.ofA h f)
/-- PAD (R223). -/
def execPad (h : Hdr) (f : FmtA) (s : State) : Out := s.perform (.pad h f) fun e s => e.padOn s (Alu.ofA h f)
/-- UNPAD (R223). -/
def execUnpad (h : Hdr) (f : FmtA) (s : State) : Out := s.perform (.unpad h f) fun e s => e.padOff s (Alu.ofA h f)
/-- UBCAST (R215). -/
def execUbcast (h : Hdr) (f : FmtA) (s : State) : Out := s.perform (.ubcast h f) fun e s => e.ubcast s (Alu.ofA h f)

end Sys2Proof.Machine
end

