-- ==== Sys2Proof/Machine/Control.lean ====
section
/-! DEFINITION. Group 0x0, control flow (R129–R150), region entries (R438) and the signature check (R439–R441): how lanes split and
transfer, and the meaning of each instruction. -/
namespace Sys2Proof.Machine

/-! ### Transfers -/

/-- A taken transfer ends the line entry after the group (R78), and with it the latches of the entry (R91). `checked` marks the transfers R74
holds to the target mask. -/
def Quire.goto (q : Quire) (pc : W64) (checked : Bool) : Quire := 
  { q with npc := pc, checked := checked, grp := q.grp.map fun g => { g with left := true } }

/-- A target by displacement (R70). -/
def Env.target (e : Env) (disp : BitVec 24) : W64 := e.q.selfPc + disp.signExtend 64

/-- The lanes not taken wait at the reconvergence point of the stack's top already (R130). -/
def Env.topAt (e : Env) (fall rpc : W64) : Bool :=
  match e.q.regs.stack with
  | .reconv r _ _ :: _ => fall == rpc && r == rpc
  | _ => false

/-- The split of R130 over the lanes of the path: `taken` branches to `pc`. -/
def Env.split (e : Env) (s : State) (taken : LaneSet) (pc : W64) (rdisp : BitVec 24) : Res State :=
  if taken = e.path then .ok (s.upd e fun q => q.goto pc true)
  else if taken = 0 then .ok s
  else if rdisp = 0 then e.trapRes s 0x06 1
  else
    let rpc := e.target rdisp
    let here := fun (q : Quire) (l : List StackEntry) =>
      ({ q with regs := { q.regs with path := q.regs.path &&& taken, stack := l } } : Quire).goto pc true
    if e.topAt e.q.fall rpc then .ok (s.upd e fun q => here q q.regs.stack)
    else if 1024 ≤ e.q.regs.stack.length then e.trapRes s 0x06 4
    else if e.q.fall = rpc then .ok (s.upd e fun q => here q (.reconv rpc q.regs.path none :: q.regs.stack))
    else .ok (s.upd e fun q => here q (.reconv rpc q.regs.path (some (e.q.fall, q.regs.path &&& ~~~taken)) :: q.regs.stack))

/-- BRC's condition against zero (R141). -/
def brcHolds (t : Ty) (cond code : Nat) : Bool :=
  match t.elem with
  | .flt F => (fcompare cond (F.decode code) (F.decode 0)).1
  | _ =>
    let v := intOf t.isSigned t.width code
    match cond with
    | 0 => v == 0 | 1 => v != 0 | 2 => decide (v < 0) | 3 => decide (v ≤ 0) | 4 => decide (0 < v) | _ => decide (0 ≤ v)

/-- Lanes of a set whose read of an operand is poisoned and which are not padding (R221). -/
def Env.poisoned (e : Env) (m : LaneSet) (o : Opnd) (t : Ty) : LaneSet :=
  e.pick (m &&& ~~~e.view.padding) fun l => (e.readTy o t l).bad

/-- The lanes BRC takes (R140, R141); a poisoned condition of a padding lane reads false (R221). -/
def Env.brcTaken (e : Env) (h : Hdr) (f : FmtC) : LaneSet :=
  match brcType f.m with
  | none => 0
  | some t => e.pick (e.effect h) fun l => let v := e.readTy f.a t l; !v.bad && brcHolds t (f.m.toNat / 4096) v.n

def Env.brc (e : Env) (s : State) (h : Hdr) (f : FmtC) : Res State :=
  match brcType f.m with
  | none => e.trapRes s 0x03 0
  | some t =>
    let bad := e.poisoned (e.effect h) f.a t
    if bad ≠ 0 then e.poison s 2 bad else e.split s (e.brcTaken h f) (e.target f.tdisp) f.rdisp

/-- The one PC every lane of `m` holds in a register operand (R142), or the trap of a poisoned or a mixed one. Where
padding lanes alone take effect a poisoned one is used as it stands (R221; DESIGN CHOICE, notes/assumptions/134.md). -/
def Env.pcOperand (e : Env) (s : State) (m : LaneSet) (o : Opnd) : Res W64 :=
  let bad := e.poisoned m o .n64
  if bad ≠ 0 then e.poison s 2 bad
  else
    match e.lanes m with
    | [] => .ok 0
    | l :: ls =>
      let pc := (e.readTy o .n64 l).n
      if ls.all fun k => (e.readTy o .n64 k).n == pc then .ok (BitVec.ofNat 64 pc) else e.trapRes s 0x06 2

def Env.brx (e : Env) (s : State) (h : Hdr) (f : FmtC) : Res State :=
  let m := e.effect h
  if m = 0 then .ok s
  else match e.pcOperand s m f.a with
    | .error r => .error r
    | .ok pc => e.split s m pc f.rdisp

/-- CALL and CALLX once the target is known (R143). -/
def Env.callTo (e : Env) (s : State) (f : FmtC) (pc : W64) : Res State :=
  if 1024 ≤ e.q.regs.stack.length then e.trapRes s 0x06 4
  else .ok (s.upd e fun q =>
    ({ q with regs := { (q.regs.sput (f.m.toNat % 128) e.q.fall false) with stack := .call :: q.regs.stack } } : Quire).goto pc true)

def Env.callx (e : Env) (s : State) (h : Hdr) (f : FmtC) : Res State :=
  e.onceUniform s h (match e.pcOperand s (e.effect h) f.a with
    | .error r => .error r
    | .ok pc => e.callTo s f pc)

def Env.ret (e : Env) (s : State) (h : Hdr) (f : FmtC) : Res State :=
  e.onceUniform s h (
    let v := e.readOnce h f.a .n64
    if v.bad && e.contrib h != 0 then e.poison s 2 (e.contrib h)
    else match e.q.regs.stack with
      | .call :: l => .ok (s.upd e fun q => ({ q with regs := { q.regs with stack := l } } : Quire).goto (BitVec.ofNat 64 v.n) false)
      | _ => e.trapRes s 0x06 3)

/-- The counters a vector LOOP leaves (R146). -/
def Env.loopCounts (e : Env) (h : Hdr) (f : FmtC) : List LaneOut :=
  (e.lanes (e.effect h)).map fun l =>
    let v := e.readTy f.a .n32 l
    { lane := l, n := (BitVec.ofNat 32 v.n - 1).toNat, badLo := v.bad, badHi := v.bad }
/-- The lanes a vector LOOP takes: those whose counter is not zero; a poisoned one of a padding lane reads false (R221). -/
def Env.loopTaken (e : Env) (h : Hdr) (f : FmtC) : LaneSet :=
  (e.loopCounts h f).foldl (fun (a : LaneSet) r => if r.n != 0 && !r.badLo then a ||| LaneSet.one r.lane else a) 0

def Env.loop (e : Env) (s : State) (h : Hdr) (f : FmtC) : Res State :=
  let m := e.effect h
  match f.a with
  | .s _ n =>
    e.onceUniform s h (
      let v := e.readOnce h f.a .n64
      if v.bad && e.contrib h != 0 then e.poison s 2 (e.contrib h)
      else
        let c := BitVec.ofNat 64 v.n - 1
        .ok (s.upd e fun q =>
          let q := { q with regs := q.regs.sput n.toNat c v.bad }
          if c ≠ 0 ∧ !v.bad then q.goto (e.target f.tdisp) true else q))
  | _ =>
    let bad := e.poisoned m f.a .n32
    if bad ≠ 0 then e.poison s 2 bad
    else
      e.split (s.upd e fun q => { q with regs := q.regs.applyAll (e.destWrites f.a 1 false (e.loopCounts h f)) }) (e.loopTaken h f) (e.target f.tdisp) f.rdisp

/-! ### EXIT, YIELD, BKPT -/

def Env.exit (e : Env) (s : State) (h : Hdr) : Res State :=
  let m := e.effect h
  if m = 0 then .ok s
  else .ok ((s.commit e.id).upd e fun q =>
    { q with regs := q.regs.dropLanes m, queries := q.queries.filter fun r => !m.has r.1 })

/-- BKPT (R149): trap 0x19, or a debug stop under the context's policy (R454). -/
def Env.bkpt (e : Env) (s : State) (h : Hdr) (f : FmtC) : Res State :=
  if e.effect h = 0 then .ok s
  else if e.ctx.debugBkpt then .ok (s.upd e fun q => { q with stopped := true })
  else e.trapRes s 0x19 (f.m.toNat % 256)

/-! ### Signature and regions -/

/-- One bit of the CRC-32C register (R439). -/
def crcBit (c : W32) : W32 := if c.getLsbD 0 then (c >>> 1) ^^^ 0x82F63B78 else c >>> 1
/-- One byte taken into the signature (R439). -/
def crcByte (c : W32) (b : W8) : W32 := crcBit (crcBit (crcBit (crcBit (crcBit (crcBit (crcBit (crcBit (c ^^^ b.setWidth 32))))))))
/-- An issued instruction's word: opcode × 8 + slot, low byte first. -/
def crcIssue (c : W32) (opcode slot : Nat) : W32 :=
  let w := opcode * 8 + slot
  crcByte (crcByte c (BitVec.ofNat 8 w)) (BitVec.ofNat 8 (w / 256))

def Env.reconv (e : Env) (q : Quire) : Quire :=
  { q with regs := { q.regs with latchedMask := q.regs.path &&& ~~~q.regs.padding,
                                 sig := if e.handlerMode then q.regs.sig else crcByte q.regs.sig 0xA5 } }

def Env.sigck (e : Env) (s : State) (f : FmtC) : Res State :=
  let imm : W32 := f.tdisp ++ f.rdisp.extractLsb' 16 8
  let r := e.q.regs
  let mask := r.path &&& ~~~r.padding
  let detail := (if r.sig = imm then 0 else 1) + (if mask = r.latchedMask then 0 else 2)
  if e.handlerMode then .ok s
  else if !f.m.getLsbD 0 && detail != 0 then .ok (s.signatureError e.id detail)
  else .ok (s.upd e fun q => { q with regs := { q.regs with sig := 0, latchedMask := mask },
                                      sigFails := if q.sigFails.2 == (q.selfPc, r.entry) then (0, 0, 0) else q.sigFails })

/-- A liveness entry as read (R18): first vector, count, scalar mask, scratchpad start and length, tile flag; none when it breaks its table. -/
def livenessOf (bs : List W8) (names size : Nat) : Option ((Nat × Nat × Nat) × (Nat × Nat) × Bool) :=
  let num := fun o n => leValue ((bs.drop o).take n)
  let first := num 0 2
  let count := num 2 2
  let start := num 4 4
  let len := num 8 4
  if first ≤ 1535 ∧ count ≤ 1536 ∧ first + count ≤ names ∧ start % 16 = 0 ∧ len % 16 = 0 ∧ start + len ≤ size ∧ num 12 1 < 2 ∧ num 13 3 = 0 then
    some ((first, count, num 16 16), (start, len), num 12 1 == 1)
  else none

/-- REGION once its entry is read (R438): rows of dead names go back. -/
def Env.regionEnter (e : Env) (s : State) (f : FmtC) (live : (Nat × Nat × Nat) × (Nat × Nat) × Bool) : State :=
  let s := s.commit e.id
  let s := s.modGath e.q.gath fun g =>
    { g with ranges := FMap.insert g.ranges e.q.index live.2.1,
             tile := if live.2.2 then (if live.2.1.2 = 0 then none else some live.2.1) else g.tile }
  s.upd e fun q =>
    let entry : W32 := ((q.regs.entry + 1) &&& 0x7FFFFFFF) ||| (if f.m.getLsbD 12 then 0 else 0x80000000)
    { q with regs := { q.regs with entry := entry, poison := false }, errors := 0, oldLane := none,
             ckpt := { q.ckpt with live := some live.1 },
             rows := q.rows.filter (liveRow (some live.1)), spilled := q.spilled.filter (liveRow (some live.1)),
             save := if f.m.getLsbD 13 && e.g.asked.isSome then .atPoint else q.save }

def Env.region (e : Env) (s : State) (f : FmtC) : Res State :=
  let d := e.desc
  let ix := f.m.toNat % 4096
  if d.liveN ≤ ix then e.trapRes s 0x03 0
  else
    match s.xl (dieOfCore e.g.pcore) e.g.vol e.vol.ctx e.ctx.root (d.liveVa + 32 * ix) .load with
    | (.error x, s) => .error (.fault { x with access := 3 }, s)
    | (.ok x, s) =>
      if paKind x.pa == .peer then .error (.trap (e.trapInfo 0x0D 0xFFFF 0 (d.liveVa + 32 * ix) 0), s)
      else
      let r := s.roRead e.g.pcore x.pa 32
      match livenessOf (r.1.map Prod.fst) e.names e.vol.portion with
      | none => e.trapRes r.2 0x03 0
      | some live =>
        if !e.q.queries.isEmpty then e.trapRes r.2 0x06 7
        else .ok (e.regionEnter r.2 f live)

/-! ### Meanings -/

/-- NOP (R139). -/
def execNop (h : Hdr) (f : FmtC) (s : State) : Out := s.local (.nop h f) fun _ q => q
/-- BRA (R140). -/
def execBra (h : Hdr) (f : FmtC) (s : State) : Out := s.perform (.bra h f) fun e s => e.split s (e.effect h) (e.target f.tdisp) f.rdisp
/-- BRC (R140, R141). -/
def execBrc (h : Hdr) (f : FmtC) (s : State) : Out := s.perform (.brc h f) fun e s => e.brc s h f
/-- BRX (R142). -/
def execBrx (h : Hdr) (f : FmtC) (s : State) : Out := s.perform (.brx h f) fun e s => e.brx s h f
/-- CALL (R143). -/
def execCall (h : Hdr) (f : FmtC) (s : State) : Out := s.perform (.call h f) fun e s => e.onceUniform s h (e.callTo s f (e.target f.tdisp))
/-- CALLX (R143). -/
def execCallx (h : Hdr) (f : FmtC) (s : State) : Out := s.perform (.callx h f) fun e s => e.callx s h f
/-- RET (R144). -/
def execRet (h : Hdr) (f : FmtC) (s : State) : Out := s.perform (.ret h f) fun e s => e.ret s h f
/-- RECONV (R145, R439). -/
def execReconv (h : Hdr) (f : FmtC) (s : State) : Out := s.local (.reconv h f) Env.reconv
/-- LOOP (R146). -/
def execLoop (h : Hdr) (f : FmtC) (s : State) : Out := s.perform (.loop h f) fun e s => e.loop s h f
/-- EXIT (R147). -/
def execExit (h : Hdr) (f : FmtC) (s : State) : Out := s.perform (.exit h f) fun e s => e.exit s h
/-- REGION (R438). -/
def execRegion (h : Hdr) (f : FmtC) (s : State) : Out := s.perform (.region h f) fun e s => e.region s f
/-- SIGCK (R440, R441). -/
def execSigck (h : Hdr) (f : FmtC) (s : State) : Out := s.perform (.sigck h f) fun e s => e.sigck s f
/-- YIELD (R148). Inside a sealed line it gives the partition up for the rest of the line entry (R93; DESIGN CHOICE, notes/assumptions/128.md). -/
def execYield (h : Hdr) (f : FmtC) (s : State) : Out :=
  s.perform (.yield h f) fun e s => .ok (if e.effect h = 0 then s else s.upd e fun q => { q with age := s.clock, passed := 0, promoted := none, yielded := some s.clock, sealing := none })
/-- BKPT (R149, R454). -/
def execBkpt (h : Hdr) (f : FmtC) (s : State) : Out := s.perform (.bkpt h f) fun e s => e.bkpt s h f

end Sys2Proof.Machine
end

