-- ==== Sys2Proof/Machine/Fetch.lean ====
section
/-! DEFINITION. How a quire comes to its next instruction: the reconvergence procedure (R131), the fetch of a line and its checks (R68–R76),
the issue group and its checks (R77, R106), the scoreboard (R122), and the start of a group (R115–R118, R392). -/
namespace Sys2Proof.Machine

/-! ### Reconvergence (R131) -/

/-- A transfer between groups. -/
def Quire.jump (q : Quire) (pc : W64) (checked : Bool) : Quire :=
  { q with pc := pc, npc := pc, selfPc := pc, checked := checked, latches := [], line := none, sealing := none }

/-- R131 before a group issues; none when the quire retires. `n` bounds the entries it can take off the stack. A waiting path resumes
where it fell through; lanes that wait at a reconvergence point go on there. -/
def Quire.reconverge : Nat → Quire → Option Quire
  | 0, q => some q
  | n + 1, q =>
    let atRpc := match q.regs.stack with
      | .reconv rpc _ _ :: _ => q.pc == rpc
      | _ => false
    if q.regs.path == 0 || atRpc then
      match q.regs.stack with
      | [] => none
      | .call :: l => Quire.reconverge n { q with regs := { q.regs with stack := l } }
      | .handler :: l => Quire.reconverge n { q with regs := { q.regs with stack := l, handler := none } }
      | .reconv rpc full (some (pc, m)) :: l =>
        if m = 0 then Quire.reconverge n { q with regs := { q.regs with stack := .reconv rpc full none :: l } }
        else Quire.reconverge n (({ q with regs := { q.regs with path := m, stack := .reconv rpc full none :: l } } : Quire).jump pc false)
      | .reconv rpc full none :: l =>
        let q' : Quire := { q with regs := { q.regs with path := full, stack := l } }
        Quire.reconverge n (if q.pc = rpc then q' else q'.jump rpc true)
    else some q

/-! ### Lines (R68, R71–R76) -/

/-- Bits of a line word. -/
def lineWord (bs : List W8) : Nat := leValue (bs.take 4)
def lineTarget (w slot : Nat) : Bool := w.testBit (13 + slot)
def lineSealed (w : Nat) : Bool := w.testBit 12
/-- The template's code of a slot. -/
def lineCode (w slot : Nat) : Nat := bits w (19 + 2 * slot) (18 + 2 * slot)
/-- The 96 bits of a slot. -/
def lineSlot (bs : List W8) (slot : Nat) : BitVec 96 := wordOfBytes ((bs.drop (4 + 12 * slot)).take 12)

def onesOf : Nat → Nat → Nat
  | 0, _ => 0
  | n + 1, v => v % 2 + onesOf n (v / 2)

/-- The parity bit of every quarter of the instruction area holds. -/
def lineParityOk (bs : List W8) : Bool :=
  let w := lineWord bs
  (List.range 4).all fun q => (onesOf 120 (leValue ((bs.drop (4 + 15 * q)).take 15)) + (if w.testBit (28 + q) then 1 else 0)) % 2 == 0

/-- Groups of a line as runs of slots (R72): each slot's place in its group, zero for a start, none for an empty slot. -/
def groupPlaces (w : Nat) : List (Option Nat) :=
  ((List.range 5).foldl (fun (acc : List (Option Nat) × Option Nat) k =>
    match lineCode w k with
    | 0 => (acc.1 ++ [some 0], some 0)
    | 1 => (acc.1 ++ [acc.2.map (· + 1)], acc.2.map (· + 1))
    | _ => (acc.1 ++ [none], none)) ([], none)).1

/-- The fault of check 1 of R106, parity aside: the lowest detail value of R76 among those found on entering at `slot`. -/
def lineFault (bs : List W8) (slot : Nat) (checked : Bool) : Option Nat :=
  let w := lineWord bs
  let codes := (List.range 5).map (lineCode w)
  let places := groupPlaces w
  if codes.any (· == 3) then some 2
  else if (List.range 5).any (fun k => codes.getD k 0 == 1 && (places.getD k none).isNone) then some 3
  else if places.any (fun p => decide (3 ≤ p.getD 0)) then some 4
  else if w % 4096 ≠ 0 then some 5
  else if (List.range 5).any (fun k => codes.getD k 0 == 2 && (lineSlot bs k != 0 || lineTarget w k)) then some 6
  else if codes.getD slot 0 == 1 || (checked && (codes.getD slot 0 != 0 || !lineTarget w slot)) then some 7
  else none

/-- Fetch the line of a quire's PC (R73, R75): it stands in `line`, or the quire has trapped, parked, or been rolled back to fetch again. -/
def State.fetchLine (s : State) (id : Nat) : State :=
  match s.envOf id with
  | none => s
  | some e =>
    let pc := e.q.pc
    let va := lineVa pc
    let trap := fun (s : State) (code detail addr : Nat) => s.takeTrap id (e.trapInfo code 0xFFFF detail addr 0) false
    if !canonical va.toNat then trap s 0x0D 0 va.toNat
    else
      match s.xl (dieOfCore e.g.pcore) e.g.vol e.vol.ctx e.ctx.root va.toNat .fetch with
      | (.error f, s) => s.parkFault e f false
      | (.ok x, s) =>
        if paKind x.pa == .peer then trap s 0x0D 0 va.toNat
        else
        let r := s.roCut e.g.pcore x.pa 64 1
        let s := r.2
        let bs := r.1.map Prod.fst
        if r.1.any Prod.snd then trap s 0x0E 16 va.toNat
        else if !lineParityOk bs then
          if e.q.refetch = some va then trap (s.modQuire id fun q => { q with refetch := none }) 0x02 1 0
          else ((s.roDrop x.pa).modQuire id fun q => { q with refetch := some va }).datapathError id 5 (laneLocation 0 e.q.part e.g.pcore) 0 false
        else
          match lineFault bs (pcSlot pc) e.q.checked with
          | some d => trap s 0x02 d 0
          | none => s.modQuire id fun q => 
              { q with line := some (va, bs), checked := false, refetch := q.refetch.filter (· != va), sealing := if lineSealed (lineWord bs) then some false else none }

/-! ### The next group -/

/-- Slots of the group that starts at `slot` (R72). -/
def groupSlots (w slot : Nat) : List Nat := slot :: ((List.range 5).filter fun k => decide (slot < k)).takeWhile fun k => lineCode w k == 1

/-- The first group start of a line at or after a slot. -/
def nextStart (w slot : Nat) : Option Nat := ((List.range 5).filter fun k => decide (slot ≤ k)).find? fun k => lineCode w k == 0

/-- The decode table a quire's launch runs under (R104, R105): none for table 0. -/
def Env.table (e : Env) (s : State) : Option (List W16) := if e.vol.table = 0 then none else some (FMap.val [] s.tables e.vol.table)

/-- A member of a group: its slot, its word, the instruction it decodes to. -/
structure Member where
  slot : Nat
  word : BitVec 96
  ins  : Instr
deriving DecidableEq, Repr

/-- Issue classes (R77): control, integer, FP32, FP64, memory, engine; and the limit of each. -/
def issueClass (i : Instr) : Nat :=
  match parts i with
  | none => 0
  | some p =>
    let g := p.1.toNat / 64
    if g = 0 then 0 else if g = 1 ∨ g = 4 ∨ g = 5 then 1 else if g = 2 then 2 else if g = 3 then 3 else if g = 6 ∨ g = 7 then 4 else 5
def classLimit (c : Nat) : Nat := if c = 1 then 3 else if c = 2 then 2 else 1

/-- The environment at one member of a group about to issue: traps name its PC. -/
def Env.atSlot (e : Env) (slot : Nat) : Env := { e with q := { e.q with selfPc := pcOf (lineVa e.q.pc) slot } }

/-- Check 3 (R76, R77): the slot at fault and its detail. Of a class with too many members the first beyond its limit is the one at fault (DESIGN CHOICE,
notes/assumptions/127.md). -/
def classFault (l : List Member) : Option (Nat × Nat) :=
  let last := l.length
  ((l.mapIdx fun k m =>
    let c := issueClass m.ins
    let same := ((l.take (k + 1)).filter fun x => issueClass x.ins == c).length
    if classLimit c < same then [(m.slot, 8)] else if c == 0 && k + 1 != last then [(m.slot, 9)] else []).flatten).head?

def firstTrap (e : Env) (f : Env → Instr → Option TrapInfo) : List Member → Option TrapInfo
  | [] => none
  | m :: l => match f (e.atSlot m.slot) m.ins with
    | some t => some t
    | none => firstTrap e f l

/-- Checks 3 to 7 of R106 over a group. -/
def Env.groupTrap (e : Env) (l : List Member) : Option TrapInfo :=
  match classFault l with
  | some (slot, d) => some ((e.atSlot slot).trapAll 0x02 d)
  | none =>
    (firstTrap e Env.check4 l).or <| (firstTrap e Env.check5 l).or <| (firstTrap e Env.check6 l).or (firstTrap e Env.check7 l)

/-- A member whose trap comes with its effect: it acts after the others of its group (R442). -/
def Member.late (m : Member) (handler : Bool) : Bool :=
  match m.ins with
  | .trap _ _ => true
  | .trapcall _ _ => !handler
  | .bkpt _ _ => true
  | _ => false

/-- The members of the group a quire is about to issue, in slot order; none where a word does not decode, with its slot. -/
def Env.members (e : Env) (s : State) (bs : List W8) : Except Nat (List Member) :=
  (groupSlots (lineWord bs) (pcSlot e.q.pc)).foldl (fun (acc : Except Nat (List Member)) k =>
    match acc with
    | .error n => .error n
    | .ok l =>
      match decodeUnder (e.table s) (lineSlot bs k) with
      | some i => .ok (l ++ [{ slot := k, word := lineSlot bs k, ins := i }])
      | none => .error k) (.ok [])

/-- The scoreboard (R122): no member names a register that is pending in a word the group sweeps. -/
def Env.scoreboardOk (e : Env) (l : List Member) : Bool :=
  let busy := e.q.pend.flatMap Pending.names
  busy.isEmpty || l.all fun m => (e.allNames m.ins).all fun n => !busy.contains n

/-- Names of a group that are spilled and must come back first (R126). -/
def Env.spilledNames (e : Env) (l : List Member) : List Nat :=
  if e.q.spilled.isEmpty then []
  else (l.flatMap fun m => e.allNames m.ins).eraseDups.filter fun n => e.q.spilled.contains n && !e.q.refilled.contains n

/-- A member that completes in one clock whatever the width (R115, R116). -/
def onceClock (i : Instr) : Bool :=
  match parts i with
  | none => true
  | some p =>
    let g := p.1.toNat / 64
    if g = 0 ∨ g = 15 then true
    else match i with
      | .swrite _ _ | .claim _ _ | .surr _ _ | .pad _ _ | .unpad _ _ | .cinv _ _ | .cwb _ _ | .lds _ _ | .sts _ _ | .atoms _ _ | .fence _ _ => true
      | _ => (g = 1 ∨ g = 8 ∨ g = 9) && !((Instr.form i).uses.any fun u => u.o.isVec)

/-- Clocks a group holds its partition (R115). -/
def Env.sweepClocks (e : Env) (l : List Member) : Nat := if l.all fun m => onceClock m.ins then 1 else max 1 e.swept.length

/-- The fall-through PC of a group (R130). -/
def fallPc (pc : W64) (w lastSlot : Nat) : W64 :=
  match nextStart w (lastSlot + 1) with
  | some k => pcOf (lineVa pc) k
  | none => pcOf (lineVa pc + 64) 0

/-- A quire whose next group may be looked at: not parked, not stopped, not at its save point, no stall that an event ends. -/
def Quire.mayIssue (q : Quire) : Bool :=
  !q.stopped && q.save == .running && (match q.wait with
    | .none => true
    | .stall (.claim _ _) => false
    | .stall _ => q.grp.isNone
    | _ => false)

/-- A quire between groups after R131; none when it retires. -/
def Quire.settled (q : Quire) : Option Quire := q.reconverge (q.regs.stack.length + 1)
/-- The quire is to fetch the line of its PC. -/
def Quire.wantsLine (q : Quire) : Bool := q.mayIssue && q.grp.isNone && q.settled.any fun q => q.line.isNone

/-- Vector names a group writes, by word (R124). -/
def Env.mapped (e : Env) (l : List Member) : List Nat :=
  ((l.flatMap fun m => e.wroteNames m.ins).eraseDups.filter fun n => decide (n < 2 ^ 20)).flatMap fun n => e.swept.map fun w => 256 * n + w

/-- Rows for what a group writes (R124, R125); none where it must wait for a spill. -/
def State.mapRows (s : State) (e : Env) (l : List Member) : Option State := State.mapNames e.g.pcore e.q.part e.id (e.mapped l) s

/-- Blocks that the CLAIMs of a group ask for together (R119, R219). -/
def Env.claimsOf (e : Env) (l : List Member) : Nat :=
  l.foldl (fun n m => match m.ins with
    | .claim h f => n + e.claimBlocks n h f
    | _ => n) 0

/-- A control instruction pushes an entry on the control stack (R129, R130), where it takes no trap: `fall` is its fall-through PC. -/
def Env.pushes (e : Env) (fall : W64) (i : Instr) : Bool :=
  let splits := fun (taken : LaneSet) (rdisp : BitVec 24) => taken != e.path && taken != 0 && rdisp != 0 && !e.topAt fall (e.target rdisp)
  let agreed := fun (h : Hdr) (f : FmtC) => e.poisoned (e.effect h) f.a .n64 == 0 && (e.lanes (e.effect h)).all fun l =>
    (e.readTy f.a .n64 l).n == (e.readOnce h f.a .n64).n
  decide (e.q.regs.stack.length < 1024) && (match i with
  | .bra h f => splits (e.effect h) f.rdisp
  | .brx h f => splits (e.effect h) f.rdisp && agreed h f
  | .brc h f => splits (e.brcTaken h f) f.rdisp && ((brcType f.m).any fun t => e.poisoned (e.effect h) f.a t == 0)
  | .loop h f => !f.a.isScal && splits (e.loopTaken h f) f.rdisp && e.poisoned (e.effect h) f.a .n32 == 0
  | .call h _ => e.uniform h == .all
  | .callx h f => e.uniform h == .all && agreed h f
  | _ => false)

/-- A group must wait for the spill area (R126, R129): for a row it needs, or for a control-stack entry beyond the 32 on chip. -/
def State.spillStall (s : State) (e : Env) (l : List Member) : Bool :=
  let fall := match e.q.line with
    | some (_, bs) => fallPc e.q.pc (lineWord bs) ((l.getLast?.map Member.slot).getD 0)
    | none => e.q.pc
  (s.mapRows e l).isNone || (decide (32 ≤ e.q.regs.stack.length) && (l.any fun m => (e.atSlot m.slot).pushes fall m.ins)
    && (s.spillOut e.id (2 ^ 22 + e.q.regs.stack.length)).isNone)

/-- The stall of the first member that has not acted yet and would stall, every member tested before any acts, with the fence tokens that those
before it will take (R119). -/
def State.memberStall (s : State) (e : Env) (ahead : Nat) : List Member → Option Stall
  | [] => none
  | m :: l =>
    let e' := e.atSlot m.slot
    if (recordOf e.q.groupRecord m.slot).any (fun a => a.words.isNone) then s.memberStall e ahead l
    else (s.stallOf e' ahead m.ins).or (s.memberStall e (if commitKind m.ins == some true && e'.effectOf m.ins != 0 then ahead + 1 else ahead) l)

/-- The stall of a group (R119): its CLAIMs ask together (R219). -/
def State.groupStall (s : State) (e : Env) (l : List Member) : Option Stall :=
  (s.claimStall e (e.claimsOf l)).or <| (s.memberStall { e with q := { e.q with claimed := max e.q.claimed (e.claimsOf l) } } 0 l).or
    (if s.spillStall e l then some .spill else none)

/-- The group a quire stands before: none where its line is missing, holds no further group, or does not decode. -/
def Env.nextGroup (e : Env) (s : State) : Option (List Member) :=
  match e.q.line with
  | none => none
  | some (_, bs) => if lineCode (lineWord bs) (pcSlot e.q.pc) = 0 then (e.members s bs).toOption else none

/-- Ready (R119): what stands in the way of the quire's next group is not a missing line, the scoreboard, a spilled row or a stall. A group
that will trap is ready. -/
def State.ready (s : State) (id : Nat) : Bool :=
  match s.envOf id with
  | none => false
  | some e =>
    e.q.mayIssue && (e.q.grp.isSome || (match e.q.settled with
      | none => s.mayRetire id e.q
      | some q =>
        let e : Env := { e with q := q }
        match e.nextGroup s with
        | none => q.line.isSome
        | some l => (e.groupTrap l).isSome || (e.scoreboardOk l && (e.spilledNames l).isEmpty && (s.groupStall e l).isNone)))

/-- The quire's next group meets a stall that it does not yet stand in (R119): its turn begins it. -/
def State.stallsNow (s : State) (id : Nat) : Bool :=
  match s.envOf id with
  | none => false
  | some e => e.q.mayIssue && e.q.wait == .none && e.q.grp.isNone && e.q.settled.any fun q =>
    let e : Env := { e with q := q }
    (e.nextGroup s).any fun l => (e.groupTrap l).isNone && e.scoreboardOk l && (e.spilledNames l).isEmpty && (s.groupStall e l).isSome

/-- Another quire of the partition issues a group of `clocks` clocks (R92, R120). -/
def Quire.passOver (q : Quire) (ready : Bool) (clocks : Nat) : Quire :=
  { q.switch with sealing := if q.sealing = some true then none else q.sealing, yielded := none, sweep := some (clocks, ready) }

/-- The sweep that passed a quire over is done (R120): its count rises by the clocks in which it was ready, all of them where it was from the first
to the last; where it came to be ready or ceased to be on the way, by as many as `k` says. It is promoted in the clock in which the count
reaches 256. -/
def Quire.countSweep (q : Quire) (ready : Bool) (k stamp : Nat) : Quire :=
  match q.sweep with
  | none => q
  | some (c, was) =>
    let n := if was && ready then c else if was then min c (1 + k % c) else if ready then k % c else 0
    let late := if was then 0 else c - n
    { q with sweep := none, passed := q.passed + n,
             promoted := if q.promoted.isNone && decide (256 ≤ q.passed + n) then some (16 * stamp + late + (256 - q.passed)) else q.promoted }

def State.sharesPart (s : State) (e : Env) (q : Quire) : Bool :=
  q.part == e.q.part && (match FMap.find s.gaths q.gath with
    | some g => g.pcore == e.g.pcore
    | none => false)

/-- What a member writes (R78): vector words lane by lane, scalars as `2^20 + n`, its latch as `2^21 + n`. -/
def Env.writtenKeys (e : Env) (i : Instr) : List Nat :=
  match Instr.hdr i with
  | none => []
  | some h =>
    let uses := if h.nowb ∨ e.effect h = 0 then [] else ((Instr.form i).uses ++ e.hiddenUses i).filter Use.wr
    (uses.flatMap fun u => match u.o with
      | .s _ n => [2 ^ 20 + n.toNat]
      | _ => (e.lanes (e.effect h)).flatMap fun l => (e.vecNames u [l]).map fun n => vKey n l) ++ (if h.lat then [2 ^ 21 + h.latch.toNat] else [])

/-- Members that share a destination with a member of a higher slot, and what they share (R78). -/
def Env.overlaps (e : Env) : List Member → List (Nat × List Nat)
  | [] => []
  | m :: l =>
    let names := fun i => e.wroteNames i ++ ((e.hiddenUses i).flatMap fun u => e.vecNames u (e.lanes e.path)) ++ (match Instr.hdr i with
      | some h => if h.lat then [2 ^ 21 + h.latch.toNat] else []
      | none => [])
    let mine := names m.ins
    let rest := if mine.isEmpty then [] else l.filter fun k => (names k.ins).any mine.contains
    (if rest.isEmpty then [] else
      let keys := rest.flatMap fun k => e.writtenKeys k.ins
      [(m.slot, (e.writtenKeys m.ins).filter keys.contains)]) ++ e.overlaps l

/-- The signature takes the opcode of an issued member as encoded (R439), SIGCK's excepted. -/
def feedMember (r : Regs) (m : Member) : Regs :=
  match m.ins with
  | .sigck _ _ => r
  | _ => { r with sig := crcIssue r.sig (opcodeOf m.word).toNat m.slot }

/-- Start a group: the snapshot its members read, its counts (R118, R392, R451), the latches of the partition's other quires (R92). -/
def State.startGroup (s : State) (e : Env) (l : List Member) (w : Nat) : State :=
  let handler := e.handlerMode
  let early := l.filter fun m => !m.late handler
  let late := l.filter fun m => m.late handler
  let last := (l.getLast?.map Member.slot).getD 0
  let fall := fallPc e.q.pc w last
  let clocks := e.sweepClocks l
  let s : State := { s with
    quires := s.quires.map (fun x : Nat × Quire => if x.1 != e.id && s.sharesPart e x.2 then (x.1, x.2.passOver (s.ready x.1) clocks) else x),
    nextId := s.nextId + 1 }
  s.upd e fun q =>
    let r := q.groupRecord
    let q : Quire := { q with
      wait := .none, returning := false, yielded := none, refilled := [], snap := some q.regs, npc := fall, fall := fall, passed := 0, promoted := none, sweep := none,
      claimed := max q.claimed (e.claimsOf l), regs := if handler then q.regs else l.foldl feedMember q.regs,
      budget := if handler then q.budget else q.budget + 1,
      grp := some { start := q.pc, slots := (early ++ late).map Member.slot, done := 0, committed := r.any Accepted.point, store := q.store,
                    entries := q.spadEntries, queries := q.queries, stored := [], latches := q.latches, left := false, owed := none, heldSlots := q.heldSlots,
                    cut := e.overlaps l, mapped := (e.mapped l).filter fun n => !e.q.fresh.contains n,
                    wrote := (l.flatMap fun m : Member => e.wroteNames m.ins).eraseDups, clocks := clocks } }
    (q.perfAdd 0 1).perfAdd 1 clocks

/-- A spilled row that the quire's next group names (R122). -/
def Env.rowWanted (e : Env) (s : State) : Option Nat := (e.nextGroup s).bind fun l => (e.spilledNames l).head?

/-- Bring a quire to its next member: R131 (a quire left without lanes retires once its outstanding writes have landed, R480, and its atomics on the words it leaves have been served, R363), the line, the checks, the start of its group. Where the quire then stands in a group with
no wait, its next member is to be executed. -/
def State.prepare (s : State) (id : Nat) : State :=
  match s.envOf id with
  | none => s
  | some e =>
    if e.q.memberHeld then s.setQuire id { e.q with wait := .none }
    else if !e.q.mayIssue || e.q.grp.isSome then s
    else
      match e.q.settled with
      | none => if s.mayRetire id e.q then s.retireQuire id else s.setQuire id { e.q with regs := { e.q.regs with stack := [] } }
      | some q =>
        let s := s.setQuire id q
        let s := if q.line.isSome then s else s.fetchLine id
        match s.envOf id with
        | none => s
        | some e =>
          match e.q.line with
          | none => s
          | some (_, bs) =>
            let w := lineWord bs
            match nextStart w (pcSlot e.q.pc) with
            | none => s.upd e fun q => q.jump (pcOf (lineVa q.pc + 64) 0) false
            | some k =>
              let pc := pcOf (lineVa e.q.pc) k
              let e : Env := { e with q := { e.q with pc := pc, npc := pc, selfPc := pc } }
              let s := s.setQuire id e.q
              match e.members s bs with
              | .error slot => s.takeTrap id ((e.atSlot slot).trapAll 0x01 0) false
              | .ok l =>
                match e.groupTrap l with
                | some t => s.takeTrap id t false
                | none =>
                  if !e.scoreboardOk l then s
                  else if !(e.spilledNames l).isEmpty then
                    (if ((e.rowWanted s).bind (s.refill e.g.pcore e.q.part id)).isNone then s.upd e fun q => { q with wait := .stall .spill } else s)
                  else if !e.handlerMode && e.vol.pkt.budget != 0 && decide (2 ^ e.vol.pkt.budget < e.q.budget + 1) then
                    (s.modQuire id fun q => { q with budget := 0 }).takeTrap id (e.trapAll 0x11 0) false
                  else
                    match s.groupStall e l with
                    | some k => s.fresh.2.upd e fun q => { q with wait := .stall k }
                    | none => ((s.mapRows e l).getD s).startGroup e l w

/-- The member a quire executes next: its slot, word and instruction. -/
def State.nextMember (s : State) (id : Nat) : Option Member :=
  match s.envOf id with
  | none => none
  | some e =>
    match e.q.grp, e.q.line with
    | some g, some (_, bs) =>
      if e.q.wait != .none || e.q.stopped then none
      else match g.slots[g.done]? with
        | none => none
        | some k => (decodeUnder (e.table s) (lineSlot bs k)).map fun i => { slot := k, word := lineSlot bs k, ins := i }
    | _, _ => none

/-- The quire is about to execute a member: it is the current quire, its PC names the member, and the member counts as begun. -/
def State.enterMember (s : State) (id : Nat) (m : Member) : State :=
  ({ s with cur := id } : State).modQuire id fun q =>
    { q with selfPc := pcOf (lineVa q.pc) m.slot, grp := q.grp.map fun g => { g with done := g.done + 1 } }

/-- After a member: the group is complete when every member has run and no wait holds it; the commit of a commit point among them waits as one at
issue would, with the stores of the point itself (R357, R360). -/
def State.afterMember (s : State) (id : Nat) : State :=
  match FMap.find s.quires id with
  | none => s
  | some q =>
    match q.grp with
    | none => s
    | some g =>
      if q.wait == .none && decide (g.slots.length ≤ g.done) && !(g.committed && s.commitHeld id) then
        let s := (if 32 < q.regs.stack.length then s.spillStack id else s).finishGroup id
        match g.owed with
        | some t => s.deliver id { t with resume := q.npc }
        | none =>
        if q.stepping then s.modQuire id fun q => { q.switch with stepping := false, stopped := true } else s
      else s

end Sys2Proof.Machine
end

