-- ==== Sys2Proof/Machine/Access.lean ====
section
/-! DEFINITION. Lane accesses to memory (R224–R237, R248): where an access of format M goes, its checks in the order of R229, what a load
reads, how a store enters the store queue, and loads from UALink peers (R415). -/
namespace Sys2Proof.Machine

/-! ### Addresses (R224–R227) -/

/-- A signed value of the low `n` bits. -/
def signedLow (n v : Nat) : Int := (BitVec.ofNat n v).toInt

def Env.baseVal (e : Env) (f : FmtM) (lane : Nat) : Val := e.read f.base (if f.space == .gen then 2 else 1) 0 lane
def Env.indexVal (e : Env) (f : FmtM) (lane : Nat) : Val := e.readTy f.index .i32 lane

/-- The effective address (R224); in lane-private space the address within the lane's slice (R226). -/
def Env.eaOf (e : Env) (f : FmtM) (lane : Nat) : Nat :=
  let b := (e.baseVal f lane).n
  let i := (e.indexVal f lane).n % 2 ^ 32
  let si := signedLow 32 i
  let o := f.off.toInt
  match f.space with
  | .gen => (((b : Int) + si + o) % 2 ^ 64).toNat
  | .sspad => ((((b % 2 ^ 32 + i % 2 ^ 24 : Nat) : Int) + o) % 2 ^ 32).toNat
  | .lpriv => ((si + o) % 2 ^ 32).toNat
  | _ => ((((b % 2 ^ 32 : Nat) : Int) + si + o) % 2 ^ 32).toNat

/-- The gathering at a place offset of the same span, if it lives (R57): of two that a replay has left at one position (R49) the later placed. -/
def State.spanMate (s : State) (e : Env) (dx dy : Int) : Option (Nat × Gathering) :=
  let w := e.vol.spanWidth
  let h := e.vol.spanHeight
  let px := ((e.g.x % w : Nat) : Int) + dx
  let py := ((e.g.y % h : Nat) : Int) + dy
  if px < 0 ∨ (w : Int) ≤ px ∨ py < 0 ∨ (h : Int) ≤ py then none
  else
    let x := e.g.x / w * w + px.toNat
    let y := e.g.y / h * h + py.toNat
    if x = e.g.x ∧ y = e.g.y then some (e.q.gath, e.g)
    else s.gaths.reverse.find? fun p => p.2.vol == e.g.vol && p.2.role == e.g.role && p.2.x == x && p.2.y == y && p.2.z == e.g.z && !p.2.retired

/-- Place offset of an index operand (R57). -/
def placeOffset (i : Nat) : Int × Int := (signedLow 4 (i / 2 ^ 28), signedLow 4 (i / 2 ^ 24))

/-- Keys of `n` bytes from a key. -/
def runKeys (k n : Nat) : List Nat := (List.range n).map (k + ·)

/-- Where an access goes on chip: the byte keys, and the gathering when it is another's portion; none outside the bounds (R225, R226). -/
def State.place (s : State) (e : Env) (sp : Space) (ea size base index lane : Nat) : Option (List Nat × Option Nat) :=
  match sp with
  | .cspad => if ea + size ≤ e.g.size then some (runKeys (spadKey e.g.pcore (e.g.base + ea)) size, none) else none
  | .sspad =>
    let d := placeOffset index
    match s.spanMate e d.1 d.2 with
    | none => none
    | some m => if ea + size ≤ m.2.size then some (runKeys (spadKey m.2.pcore (m.2.base + ea)) size, if m.1 = e.q.gath then none else some m.1) else none
  | .dspad =>
    if ea / 2 ^ 27 = 0 ∧ ea % 2 ^ 25 + size ≤ e.ctx.windowLen then some (runKeys (dspadOf e.ctx ea) size, none) else none
  | .lpriv =>
    let words := (size + 3) / 4
    let p := fun k => base + (ea / 4 + k) * 4 * e.width + 4 * lane + ea % 4
    let len := min size 4
    if base % 128 = 0 ∧ (List.range words).all (fun k => decide (p k + len ≤ e.g.size)) then
      some ((List.range words).flatMap (fun k => runKeys (spadKey e.g.pcore (e.g.base + p k)) len), none)
    else none
  | _ => none

def Env.placeOf (e : Env) (s : State) (f : FmtM) (size lane : Nat) : Option (List Nat × Option Nat) :=
  s.place e f.space (e.eaOf f lane) size ((e.baseVal f lane).n % 2 ^ 32) ((e.indexVal f lane).n % 2 ^ 32) lane

/-! ### Checks (R229) -/

/-- Where one lane's access goes. -/
structure Spot where
  lane : Nat
  keys : List Nat
  cached : Bool
  portion : Option Nat
deriving DecidableEq, Repr

/-- The lanes of a list as a set. -/
def setOf (l : List Nat) : LaneSet := l.foldl (fun m k => m ||| LaneSet.one k) 0

/-- A lane-private base must be a multiple of 128, in every lane that takes effect (R226). -/
def Env.privTrap (e : Env) (f : FmtM) (lanes : List Nat) : Option TrapInfo :=
  match lanes.filter fun l => f.space == .lpriv && !(e.baseVal f l).bad && (e.baseVal f l).n % 128 != 0 with
  | [] => none
  | l => some (e.trapLanes 0x03 0 0 (setOf l))

/-- Checks 2 to 5 over the lanes that are not padding. An instruction that executes once per quire names `all`, the lanes it takes effect for
(0 for the others, whose lanes at fault are named). -/
def Env.addrTrap (e : Env) (s : State) (f : FmtM) (size : Nat) (all : LaneSet) (lanes : List Nat) : Option TrapInfo :=
  let fail := fun (code detail : Nat) (va : Bool) (p : Nat → Bool) =>
    match lanes.filter p with
    | [] => none
    | l :: ls =>
      let a := if va then e.eaOf f l else 0
      some (e.trapLanes code detail a (if all = 0 then setOf (l :: ls) else all))
  (fail 0x0E 1 false fun l => (e.baseVal f l).bad || (e.indexVal f l).bad).or <|
  (fail 0x0B 0 true fun l => f.space != .gen && (e.placeOf s f size l).isNone).or <|
  (fail 0x0A 0 true fun l => e.eaOf f l % size != 0).or <|
  (fail 0x0D 0 true fun l => f.space == .gen && !canonical (e.eaOf f l))

/-- An access that waits for an engine to release its line sees what the engine wrote: its core keeps no older word of the line (R267). -/
def State.waitsOn (s : State) (e : Env) (k : Nat) : State := if s.lineOwned k then s.observed e.g.pcore (k / 128 * 128) 128 else s

/-- Check 6 of a lane access to generic memory: translated; it waits while an engine owns its line (R267, R360). -/
def State.xlLane (s : State) (e : Env) (va : Nat) (acc : Acc) : Except Halt Xlated × State :=
  match s.xl (dieOfCore e.g.pcore) e.g.vol e.vol.ctx e.ctx.root va acc with
  | (.error f, s) => (.error (.fault f), s)
  | (.ok x, s) => (if s.lineOwned x.pa then .error (.stall .build) else .ok x, s.waitsOn e x.pa)

/-- Check 6 and the place of each lane's access, lowest lane first; `bypass` is an access past the L1. -/
def Env.spotsFrom (e : Env) (f : FmtM) (size : Nat) (acc : Acc) (bypass : Bool) : List Nat → State → Except XFault (List Spot) × State
  | [], s => (.ok [], s)
  | l :: ls, s =>
    if f.space == .gen then
      match s.xl (dieOfCore e.g.pcore) e.g.vol e.vol.ctx e.ctx.root (e.eaOf f l) acc with
      | (.error x, s) => (.error x, s)
      | (.ok x, s) =>
        match Env.spotsFrom e f size acc bypass ls s with
        | (.error x, s) => (.error x, s)
        | (.ok r, s) =>
          (.ok ({ lane := l, keys := runKeys x.pa size, cached := !x.uncached && !bypass && paKind x.pa != .peer, portion := none } :: r), s)
    else
      match e.placeOf s f size l with
      | none => Env.spotsFrom e f size acc bypass ls s
      | some p =>
        match Env.spotsFrom e f size acc bypass ls s with
        | (.error x, s) => (.error x, s)
        | (.ok r, s) => (.ok ({ lane := l, keys := p.1, cached := false, portion := p.2 } :: r), s)

/-- A load follows its quire's earlier atomics on its bytes, and one from a peer its core's earlier stores there (R352, R353, R415). -/
def State.loadWaits (s : State) (e : Env) (keys : List Nat) : Bool :=
  ((s.unserved e.id).any fun r => !r.sent && r.lanes.any fun x => keys.any fun k => k / 8 == x.key / 8)
    || (match keys with
      | k :: _ => keyIsGeneric k && paKind k == .peer && s.peerHeld e.g.pcore k keys.length
      | [] => false)

/-- Why accesses have to wait: for an engine that owns a line of theirs (R267), or for what they must follow. A store waits when it commits
(R360). -/
def State.accessWait (s : State) (e : Env) (acc : Acc) (xs : List Spot) : Option Stall :=
  if acc != .store && xs.any (fun x => s.lineOwned (x.keys.headD 0)) then some .build
  else if acc == .load && xs.any (fun x => s.loadWaits e x.keys) then some .order
  else none

/-- The lanes whose access does not translate. -/
def Env.faulting (e : Env) (s : State) (f : FmtM) (acc : Acc) (lanes : List Nat) : LaneSet :=
  setOf (lanes.filter fun l => f.space == .gen && !(s.xl (dieOfCore e.g.pcore) e.g.vol e.vol.ctx e.ctx.root (e.eaOf f l) acc).1.isOk)

/-- All the checks of R229 on the lanes of an access that are not padding, and the waits that stand before it. -/
def Env.spots (e : Env) (s : State) (f : FmtM) (size : Nat) (all : LaneSet) (bypass : Bool) (acc : Acc) (lanes : List Nat) : Res (List Spot × State) :=
  match e.addrTrap s f size all lanes with
  | some t => .error (.trap t, s)
  | none =>
    match Env.spotsFrom e f size acc bypass lanes s with
    | (.error x, s') => .error (.fault { x with lanes := if all = 0 then e.faulting s f acc lanes else all }, s')
    | (.ok l, s) => match s.accessWait e acc l with
      | some k => .error (.stall k, l.foldl (fun s x => s.waitsOn e (x.keys.headD 0)) s)
      | none => .ok (l, s)

/-- The places of padding lanes whose access passes every check (R221). -/
def Env.padSpots (e : Env) (s : State) (f : FmtM) (size : Nat) (bypass : Bool) (lanes : List Nat) : List Spot × State :=
  lanes.foldl (fun (acc : List Spot × State) l =>
    match e.addrTrap acc.2 f size 0 [l] with
    | some _ => acc
    | none => match Env.spotsFrom e f size .load bypass [l] acc.2 with
      | (.ok r, s) => (acc.1 ++ r, s)
      | (.error _, s) => (acc.1, s)) ([], s)

/-! ### Loads (R230–R233) -/

/-- Words of one sector as the storing quire sees them, with their marks: its own uncommitted stores over the committed words (R233). -/
def State.quireWords (s : State) (e : Env) (ws : List Nat) (cached : Bool) : List (Nat × W32 × Bool) × State :=
  let r := s.coreWords e.g.pcore ws cached
  let l := match FMap.find s.quires e.id with
    | some q => q.store
    | none => []
  ((ws.zip r.1).map fun x => (x.1, overlay l x.1 x.2), r.2)

/-- The words of an access, sector by sector: those of one aligned eight are of one moment (R343). -/
def State.readWords (e : Env) (cached : Bool) (ws : List Nat) : List Nat → State → List (Nat × W32 × Bool) × State
  | [], s => ([], s)
  | k :: ks, s =>
    let r := s.quireWords e (ws.filter fun w => w / 8 == k) cached
    let rest := State.readWords e cached ws ks r.2
    (r.1 ++ rest.1, rest.2)

/-- The bytes at keys as a quire sees them, with the marks of their words. -/
def State.readKeys (s : State) (e : Env) (keys : List Nat) (cached : Bool) : List (W8 × Bool) × State :=
  let ws := (keys.map (· / 4)).eraseDups
  let r := State.readWords e cached ws (ws.map (· / 8)).eraseDups s
  (keys.map fun k => match r.1.find? fun x => x.1 == k / 4 with
    | some x => (x.2.1.extractLsb' (8 * (k % 4)) 8, x.2.2)
    | none => (0, false), r.2)

/-- The 32-bit words a loaded datum makes, each with its mark: a narrow one zero- or sign-extended (R251). -/
def datumWords (sx : Bool) (bs : List (W8 × Bool)) : List (W32 × Bool) :=
  let v := leValue (bs.map Prod.fst)
  match bs.length with
  | 1 => [(if sx then (BitVec.ofNat 8 v).signExtend 32 else BitVec.ofNat 32 v, bs.any Prod.snd)]
  | 2 => [(if sx then (BitVec.ofNat 16 v).signExtend 32 else BitVec.ofNat 32 v, bs.any Prod.snd)]
  | n => (List.range (n / 4)).map fun i =>
      (BitVec.ofNat 32 (leValue (((bs.map Prod.fst).drop (4 * i)).take 4)), ((bs.drop (4 * i)).take 4).any Prod.snd)

/-- A scalar's 64 bits of a loaded datum (R255). -/
def datumScalar (sx : Bool) (bs : List (W8 × Bool)) : W64 :=
  let v := leValue (bs.map Prod.fst)
  let n := 8 * bs.length
  if sx ∧ n < 64 then BitVec.ofInt 64 (signedLow n v) else BitVec.ofNat 64 v

/-- The register writes of one lane of a vector load, its latch included (R91). -/
def Env.laneWrites (e : Env) (h : Hdr) (d : Opnd) (lane : Nat) (ws : List (W32 × Bool)) : List RegWrite :=
  let base := match d with
    | .v n => n.toNat
    | .x k off => (e.view.indexed k off lane).toNat
    | _ => 0
  let vec := if h.nowb then [] else ws.mapIdx fun i w => RegWrite.vec (vKey (base + i) lane) w.1 w.2
  let lat := if h.lat then
      [RegWrite.lat h.latch.toNat lane (match ws with
        | [a] => a.1.setWidth 64
        | a :: b :: _ => W64.ofWords a.1 b.1
        | [] => 0) (ws.any Prod.snd)]
    else []
  vec ++ lat

/-- The register writes of a scalar result, its latch included. -/
def Env.scalarWrites (e : Env) (h : Hdr) (d : Opnd) (v : W64) (bad : Bool) : List RegWrite :=
  (if h.nowb then [] else match d with
    | .s _ n => [RegWrite.scal n.toNat v bad]
    | _ => []) ++
  (if h.lat then (e.lanes e.allLanes).map fun l => RegWrite.lat h.latch.toNat l v bad else [])

/-- The names a result goes to are pending (R122); the latch of the line entry is made now and its lanes filled when the result lands. -/
def Env.outstanding (e : Env) (h : Hdr) (d : Opnd) (words : Nat) (lanes : List Nat) (ps : List Pending) (q : Quire) : Quire :=
  let names := (if h.nowb then [] else e.useNames { o := d, n := words, wr := true } lanes) ++ (if h.lat then [2 ^ 21 + h.latch.toNat] else [])
  let slot := if q.grp.isSome then some e.slot else none
  let q := { q with pend := q.pend ++ ps.map fun p => { p with names := names, slot := slot, handler := q.regs.handler.isSome } }
  if h.lat then { q with latches := FMap.insert q.latches h.latch.toNat (e.latchOf h d words false [] q.regs) } else q

/-- A result that no lane has: the latch takes the destination's values (R91). -/
def Env.keepLatch (e : Env) (h : Hdr) (d : Opnd) (words : Nat) (q : Quire) : Quire := if h.lat then e.outstanding h d words [] [] q else q

def Pending.load (writes : List RegWrite) (ready : Bool) (req : Nat) : Pending :=
  { kind := .load, writes := writes, names := [], ready := ready, req := req, acq := none, slot := none, old := false }

/-! ### Peers (R415) -/

/-- One lane's load from a peer: the request leaves, and the register writes wait for its completion. -/
def State.peerLoad (s : State) (e : Env) (sx : Bool) (keys : List Nat) (writes : List RegWrite) : Pending × State :=
  let k := keys.headD 0
  let s := s.flushPeer e.g.pcore k keys.length
  let own := (List.range keys.length).filterMap fun i => (storeByte e.q.store (k + i)).map fun b => (i, b)
  let r := s.peerSend k e.g.pcore [] [] keys.length (.load e.id sx own)
  (Pending.load writes false r.1, r.2)

def Spot.peer (x : Spot) : Bool := match x.keys with
  | k :: _ => keyIsGeneric k && paKind k == .peer
  | [] => false

/-! ### Stores (R235, R237) -/

/-- The stores of one lane: a unit for the bytes in each aligned eight (R343). -/
def storeRecs (keys : List Nat) (bytes : List W8) (evict : Bool) (portion : Option Nat) : List StoreRec :=
  (keys.zip bytes).foldr (fun p l => match l with
    | r :: rest => if p.1 + 1 = r.key ∧ r.key % 8 ≠ 0 then { r with key := p.1, bytes := p.2 :: r.bytes } :: rest
      else { key := p.1, bytes := [p.2], bad := false, evict := evict, portion := portion } :: r :: rest
    | [] => [{ key := p.1, bytes := [p.2], bad := false, evict := evict, portion := portion }]) []

/-- L1 lines that hold uncommitted bytes. -/
def storeLines (l : List StoreRec) : List Nat := ((l.filter fun r => keyIsGeneric r.key).map fun r => r.key / 128).eraseDups

/-- The forced commit of R237 before mask word `w` of the store at the current slot. Its checkpoint stays at the start of the group, since the
store's own bytes enter the fresh budget uncommitted. -/
def State.forceCommit (s : State) (e : Env) (w : Nat) : State :=
  let bit31 := fun r : Regs => { r with entry := r.entry ||| 0x80000000 }
  let s := (s.upd e fun q => { q with regs := bit31 q.regs, snap := q.snap.map bit31 }).commit e.id
  s.upd e fun q =>
    let q : Quire := { q with grp := q.grp.map fun g => { g with committed := (e.q.grp.map Group.committed).getD false } }
    if w = 0 then q
    else
      let k := pcSlot q.selfPc
      let a : Accepted := { slot := k, writes := [], words := some w, point := false }
      { q with ckpt := { q.ckpt with record := (q.ckpt.record.filter fun x => x.slot != k) ++ [a] } }

/-- One mask word of a store enters the store queue, after a forced commit where the budget calls for one; a commit may stall (R357, R360). -/
def State.storeWord (s : State) (e : Env) (w entries : Nat) (l : List StoreRec) : Res State :=
  match FMap.find s.quires e.id with
  | none => .ok s
  | some q =>
    let put := fun s : State => s.upd e fun q => { q with store := q.store ++ l, spadEntries := q.spadEntries + entries }
    if 32 < (storeLines (q.store ++ l)).length ∨ (entries ≠ 0 ∧ 256 < q.spadEntries + entries) then
      match s.commitStall { e with q := q } 0 false with
      | some k => .error (.stall k, s)
      | none => .ok (put (s.forceCommit e w))
    else .ok (put s)

/-- Mask words of a store, one after another. -/
def State.storeWords (e : Env) (entries : Nat) (l : List (Nat × List StoreRec)) : List Nat → State → Res State
  | [], s => .ok s
  | w :: ws, s =>
    match s.storeWord e w entries ((l.filter fun p => p.1 / 32 == w).flatMap Prod.snd) with
    | .error r => .error r
    | .ok s => State.storeWords e entries l ws s

/-- The first mask word a partly committed store still has to act in (R525). -/
def Env.firstWord (e : Env) : Nat :=
  if e.q.grp.isSome then match recordOf e.q.groupRecord e.slot with
    | some a => a.words.getD 0
    | none => 0
  else 0

/-- The store of the member at the current slot stands uncommitted (R525). -/
def Quire.stored (q : Quire) : Quire :=
  { q with grp := q.grp.map fun g => { g with stored := if g.stored.contains (pcSlot q.selfPc) then g.stored else g.stored ++ [pcSlot q.selfPc] } }

/-- A store of all its lanes, mask word by mask word (R235): `perWord` entries of the scratchpad budget for each in which a lane of `eff`,
padding or not, takes effect (R237). -/
def State.storeLanes (s : State) (e : Env) (onChip : Bool) (perWord : Nat) (eff : LaneSet) (l : List (Nat × List StoreRec)) : Res State :=
  match State.storeWords e (if onChip then perWord else 0) l (e.swept.filter fun w => decide (e.firstWord ≤ w) && eff.word w != 0) s with
  | .error r => .error r
  | .ok s => .ok (s.upd e Quire.stored)

end Sys2Proof.Machine
end

