-- ==== Sys2Proof/Machine/Memory.lean ====
section
/-! DEFINITION. Group 0x6, memory instructions (R250–R256): loads and stores of every space, the read-only path, prefetch, cache
maintenance, and the acquiring and releasing forms. -/
namespace Sys2Proof.Machine

/-- The vector destination's 32-bit words. -/
def loadWords (f : FmtM) : Nat := widthRegs f.width
def bypassed (f : FmtM) : Bool := hintOf f == 3

/-- L1 load misses and merging fills are counted by as many as the caches make of them (R451): at most one for each lane. -/
def State.countMisses (s : State) (e : Env) (n : Nat) : State :=
  let k := Config.free .elapsed s.tick
  s.bump.modCore e.g.pcore fun v =>
    { v with perf := FMap.insert (FMap.insert v.perf 8 (FMap.val 0 v.perf 8 + BitVec.ofNat 64 (k % (n + 1))))
                       9 (FMap.val 0 v.perf 9 + BitVec.ofNat 64 (k / (n + 1) % (n + 1))) }

/-- Loads of the lanes given: the writes of those served at once, and the outstanding ones to peers. -/
def State.loadSpots (e : Env) (h : Hdr) (f : FmtM) (writes : Nat → List (W8 × Bool) → List RegWrite) : List Spot → State → List RegWrite × List Pending × State
  | [], s => ([], [], s)
  | x :: xs, s =>
    if x.peer then
      let r := s.peerLoad e (sxOf f) x.keys (writes x.lane (x.keys.map fun _ => (0, false)))
      let rest := State.loadSpots e h f writes xs r.2
      (rest.1, r.1 :: rest.2.1, rest.2.2)
    else
      let r := s.readKeys e x.keys x.cached
      let rest := State.loadSpots e h f writes xs r.2
      (writes x.lane r.1 ++ rest.1, rest.2.1, rest.2.2)

/-- A load of vector registers (R251). -/
def Env.loadVector (e : Env) (s : State) (h : Hdr) (f : FmtM) : Res State :=
  let size := Wd f.width
  let pad := e.lanes (e.effect h &&& e.view.padding)
  match e.privTrap f (e.lanes (e.effect h)), e.spots s f size 0 (bypassed f) .load (e.lanes (e.contrib h)) with
  | some t, _ => .error (.trap t, s)
  | none, .error r => .error r
  | none, .ok (xs, s) =>
    let p := e.padSpots s f size (bypassed f) pad
    match p.2.accessWait e .load p.1 with
    | some k => .error (.stall k, p.2)
    | none =>
    let writes := fun (l : Nat) (bs : List (W8 × Bool)) => e.laneWrites h f.data l (datumWords (sxOf f) bs)
    let r := State.loadSpots e h f writes (xs ++ p.1) p.2
    let zero := (pad.filter fun l => !(p.1.any fun x => x.lane == l)).flatMap fun l => writes l (List.replicate size (0, false))
    let s := if f.space == .gen && !xs.isEmpty then r.2.2.countMisses e xs.length else r.2.2
    .ok (s.upd e (e.outstanding h f.data (loadWords f) (e.lanes (e.effect h)) (Pending.load (r.1 ++ zero) true 0 :: r.2.1)))

/-- A load of a scalar, once per quire (R255). -/
def Env.loadScalar (e : Env) (s : State) (h : Hdr) (f : FmtM) : Res State :=
  let size := Wd f.width
  match LaneSet.lowest e.width (e.effect h) with
  | none => .ok (s.upd e (e.keepLatch h f.data 1))
  | some l =>
    let writes := fun (_ : Nat) (bs : List (W8 × Bool)) => e.scalarWrites h f.data (datumScalar (sxOf f) bs) (bs.any Prod.snd)
    let done := fun (s : State) (ws : List RegWrite) (ps : List Pending) =>
      Except.ok (s.upd e (e.outstanding h f.data 1 [l] (if ps.isEmpty then [Pending.load ws true 0] else ps)))
    if e.contrib h = 0 then
      match e.padSpots s f size (bypassed f) [l] with
      | ([], s) => done s (writes l (List.replicate size (0, false))) []
      | (xs, s) =>
        match s.accessWait e .load xs with
        | some k => .error (.stall k, s)
        | none =>
          let r := State.loadSpots e h f writes xs s
          done r.2.2 r.1 r.2.1
    else
      match e.spots s f size (e.contrib h) (bypassed f) .load [l] with
      | .error r => .error r
      | .ok (xs, s) =>
        let r := State.loadSpots e h f writes xs (if f.space == .gen then s.countMisses e 1 else s)
        done r.2.2 r.1 r.2.1

/-! ### Stores -/

/-- A store's datum in a lane: its bytes, and whether a word of it is poisoned. An inline integer stored w64
is sign-extended (R250; DESIGN CHOICE, notes/assumptions/135.md). -/
def Env.datum (e : Env) (f : FmtM) (lane : Nat) : List W8 × Bool :=
  let size := Wd f.width
  let words := if f.data.isVec then widthRegs f.width else 2
  let one := fun i : Nat =>
    match f.data with
    | .v n => e.view.vecVal (n.toNat + i) 1 lane
    | .x k off => let b := e.view.indexed k off lane; if b < 0 then { n := 0, bad := false } else e.view.vecVal (b.toNat + i) 1 lane
    | _ => { n := 0, bad := false }
  if f.data.isVec then
    ((((List.range words).map one).flatMap fun v : Val => leBytes 4 v.n).take size, ((List.range words).map one).any Val.bad)
  else
    match f.data with
    | .imm i => (leBytes size (BitVec.ofInt 64 i.toInt).toNat, false)
    | o =>
      let v := e.read o (if size = 8 then 2 else 1) 0 lane
      (leBytes size v.n, v.bad)

/-- Scratchpad store entries of a mask word (R237). -/
def wordEntries (w : Width) : Nat := match w with | .w64 => 2 | .w128 => 4 | _ => 1

/-- The checks of a store over its lanes, with the poison of the data after those of R229 (R251); what each lane stores. -/
def Env.storePlan (e : Env) (s : State) (f : FmtM) (all : LaneSet) (lanes : List Nat) : Res (List (Nat × List StoreRec) × State) :=
  match e.spots s f (Wd f.width) all (bypassed f) .store lanes with
  | .error r => .error r
  | .ok (xs, s) =>
    let bad := lanes.filter fun l => (e.datum f l).2
    if !bad.isEmpty then .error (.trap (e.trapLanes 0x0E 4 0 (if all = 0 then setOf bad else all)), s)
    else .ok (xs.map fun x => (x.lane, storeRecs x.keys (e.datum f x.lane).1 (!x.cached) x.portion), s)

def Env.storeVector (e : Env) (s : State) (h : Hdr) (f : FmtM) : Res State :=
  match e.privTrap f (e.lanes (e.effect h)), e.storePlan s f 0 (e.lanes (e.contrib h)) with
  | some t, _ => .error (.trap t, s)
  | none, .error r => .error r
  | none, .ok (l, s) => s.storeLanes e (f.space != .gen) (wordEntries f.width) (e.effect h) l

/-- STS (R255): one entry in total; only padding lanes, no store. -/
def Env.storeScalar (e : Env) (s : State) (h : Hdr) (f : FmtM) : Res State :=
  if e.contrib h = 0 then .ok s
  else
    match LaneSet.lowest e.width (e.effect h) with
    | none => .ok s
    | some k =>
      match e.storePlan s f (e.contrib h) [k] with
      | .error r => .error r
      | .ok (l, s) => s.storeLanes e (f.space != .gen) 1 (LaneSet.one k) l

/-! ### The read-only path, prefetch, cache maintenance -/

/-- LDRO's lanes through the read-only cache; peers are not admitted (R416). -/
def Env.roLanes (e : Env) (h : Hdr) (f : FmtM) : List Nat → State → Res (List RegWrite × State)
  | [], s => .ok ([], s)
  | l :: ls, s =>
    let va := e.eaOf f l
    match s.xlLane e va .load with
    | (.error x, s) => .error (x, s)
    | (.ok x, s) =>
      if paKind x.pa = .peer then .error (.trap (e.trapLanes 0x0D 0 va (LaneSet.one l)), s)
      else
        let r := s.roRead e.g.pcore x.pa (Wd f.width)
        match Env.roLanes e h f ls r.2 with
        | .error r => .error r
        | .ok (ws, s) => .ok (e.laneWrites h f.data l (datumWords (sxOf f) r.1) ++ ws, s)

/-- A padding lane's LDRO: what it reads, or zero. -/
def Env.roPad (e : Env) (h : Hdr) (f : FmtM) (acc : List RegWrite × State) (l : Nat) : List RegWrite × State :=
  let zero := e.laneWrites h f.data l (datumWords false (List.replicate (Wd f.width) (0, false)))
  match e.addrTrap acc.2 f (Wd f.width) 0 [l] with
  | some _ => (acc.1 ++ zero, acc.2)
  | none => match e.roLanes h f [l] acc.2 with
    | .ok (ws, s) => (acc.1 ++ ws, s)
    | .error (_, s) => (acc.1 ++ zero, s)

/-- LDRO (R252). -/
def Env.loadRo (e : Env) (s : State) (h : Hdr) (f : FmtM) : Res State :=
  let lanes := e.lanes (e.contrib h)
  match e.addrTrap s f (Wd f.width) 0 lanes with
  | some t => .error (.trap t, s)
  | none =>
    match e.roLanes h f lanes s with
    | .error (.fault x, s') => .error (.fault { x with lanes := e.faulting s f .load lanes }, s')
    | .error r => .error r
    | .ok (ws, s) =>
      let p := (e.lanes (e.effect h &&& e.view.padding)).foldl (e.roPad h f) (ws, s)
      .ok (p.2.upd e (e.outstanding h f.data (loadWords f) (e.lanes (e.effect h)) [Pending.load p.1 true 0]))

/-- PREF (R253): the line comes into the L1 where the hint says so; a poisoned address word takes the trap of check 2 of R229, an address that
fails its other checks does nothing. A padding lane's line is requested too, where its address passes (R81, R229). -/
def Env.pref (e : Env) (s : State) (h : Hdr) (f : FmtM) : Res State :=
  let bad := (e.lanes (e.contrib h)).filter fun l => (e.baseVal f l).bad || (e.indexVal f l).bad
  if !bad.isEmpty then .error (.trap (e.trapLanes 0x0E 1 0 (setOf bad)), s)
  else .ok ((e.lanes (e.effect h)).foldl (fun s l =>
    if (e.addrTrap s f 1 0 [l]).isSome then s
    else match s.xlLane e (e.eaOf f l) .load with
      | (.error _, s) => s
      | (.ok x, s) =>
        if hintOf f = 3 ∨ x.uncached ∨ paKind x.pa = .peer then s
        else (List.range 4).foldl (fun s i => s.fillSector e.g.pcore (x.pa / 128 * 32 + 8 * i)) s) s)

/-- Lines a CINV or CWB names (R254): none for the whole cache, else the physical lines its addresses lead to. -/
def Env.namedLines (e : Env) (s : State) (h : Hdr) (f : FmtM) : Option (List Nat) × State :=
  let n := (e.readOnce h f.data .n32).n
  let va := e.eaOf f ((LaneSet.lowest e.width (e.effect h)).getD 0)
  if n = 0 ∨ 8192 < n then (none, s)
  else
    let r := (List.range n).foldl (fun (acc : List Nat × State) i =>
      let a := va / 128 * 128 + 128 * i
      if !canonical a then acc
      else match acc.2.xl (dieOfCore e.g.pcore) e.g.vol e.vol.ctx e.ctx.root a .load with
        | (.ok x, s) => (x.pa / 128 :: acc.1, s)
        | (.error _, s) => (acc.1, s)) ([], s)
    (some r.1, r.2)

/-- Some lane takes effect and its address words carry no poison (R254). -/
def Env.maintain (e : Env) (s : State) (h : Hdr) (f : FmtM) (k : Option (List Nat) → State → Res State) : Res State :=
  match LaneSet.lowest e.width (e.effect h) with
  | none => .ok s
  | some l =>
    if (e.contrib h != 0) && ((e.baseVal f l).bad || (e.indexVal f l).bad) then .error (.trap (e.trapLanes 0x0E 1 0 (e.contrib h)), s)
    else
      let r := e.namedLines s h f
      k r.1 r.2

def inLines (l : Option (List Nat)) (line : Nat) : Bool := match l with
  | none => true
  | some l => l.contains line

/-- CINV.l1: clean words of the named lines that no committed byte of the core overlays. -/
def State.dropClean (s : State) (c : Nat) (l : Option (List Nat)) : State :=
  s.modCore c fun v => { v with clean := v.clean.filter fun w => !inLines l (w.1 / 32) || (outStores v.out).any fun r => r.words.contains w.1 }

/-- L1 lines of a core that hold uncommitted bytes of any of its quires (R235). -/
def State.heldLines (s : State) (c : Nat) : List Nat :=
  s.quires.flatMap fun q => match FMap.find s.gaths q.2.gath with
    | some g => if g.pcore = c then storeLines q.2.store else []
    | none => []

def Env.cinv (e : Env) (s : State) (h : Hdr) (f : FmtM) : Res State :=
  e.maintain s h f fun l s =>
    .ok (if hintOf f = 1 then s.modCore e.g.pcore fun v => { v with ro := v.ro.filter fun r => !inLines l r.line }
      else s.dropClean e.g.pcore l)

/-- CWB (R254): committed bytes of the named lines go to their homes, and it waits for the last of them; `.evict` then drops the lines that hold
no uncommitted byte of the core's quires. -/
def Env.cwb (e : Env) (s : State) (h : Hdr) (f : FmtM) : Res State :=
  e.maintain s h f fun l s =>
    let named := fun r : StoreRec => keyIsGeneric r.key && !r.far && inLines l (r.key / 128)
    let s := s.recallCore e.g.pcore named
    if (outStores (s.core e.g.pcore).out).any named then .error (.stall .order, s)
    else if hintOf f = 1 then
      let held := s.heldLines e.g.pcore
      .ok (s.modCore e.g.pcore fun v => { v with clean := v.clean.filter fun w => !inLines l (w.1 / 32) || held.contains (w.1 / 32) })
    else .ok s

/-! ### Acquire and release -/

/-- Loads of the member at the current slot that have not been performed acquire as they land, and the quire waits for them (R350). -/
def Quire.awaitLoads (q : Quire) (sc : Scope) : Quire :=
  let mine := fun p : Pending => p.kind == .load && !p.ready && p.slot == (if q.grp.isSome then some (pcSlot q.selfPc) else none)
  if q.pend.any mine then { q with wait := .reply false, pend := q.pend.map fun p => if mine p then { p with acq := some sc } else p } else q

/-- LDACQ (R256): the load, then an acquire at its scope (R350), before any later access of the quire. -/
def Env.ldacq (e : Env) (s : State) (h : Hdr) (f : FmtM) : Res State :=
  match (if f.data.isScal then e.loadScalar s h f else e.loadVector s h f) with
  | .error r => .error r
  | .ok s => .ok (if e.effect h = 0 then s else (s.acquire e.g.pcore f.scope).upd e fun q => q.awaitLoads f.scope)

/-- A release of a quire at a scope (R350, R357): nothing beyond the commit at quire and gath scope, else a fence token. -/
def State.release (s : State) (core owner : Nat) (sc : Scope) (fence : Bool) : State :=
  if scopeCode sc < 2 then s else s.placeToken core owner (scopeCode sc) fence

/-- STREL (R256): checks, the commit of the region, the release, then its own data; one that goes on after a forced commit of its data has
released (R237). -/
def Env.strel (e : Env) (s : State) (h : Hdr) (f : FmtM) : Res State :=
  if e.effect h = 0 then .ok s
  else
    match e.storePlan s f 0 (e.lanes (e.contrib h)) with
    | .error r => .error r
    | .ok (l, s) =>
      let s := if e.firstWord = 0 then (s.commit e.id).release e.g.pcore e.id f.scope false else s
      s.storeLanes e (f.space != .gen) (wordEntries f.width) (e.effect h) l

/-! ### Meanings -/

/-- LD (R251). -/
def execLd (h : Hdr) (f : FmtM) (s : State) : Out := s.perform (.ld h f) fun e s => if e.effect h = 0 then .ok (s.upd e (e.keepLatch h f.data (loadWords f))) else e.loadVector s h f
/-- ST (R251). -/
def execSt (h : Hdr) (f : FmtM) (s : State) : Out := s.perform (.st h f) fun e s => if e.effect h = 0 then .ok s else e.storeVector s h f
/-- LDRO (R252). -/
def execLdro (h : Hdr) (f : FmtM) (s : State) : Out := s.perform (.ldro h f) fun e s => if e.effect h = 0 then .ok (s.upd e (e.keepLatch h f.data (loadWords f))) else e.loadRo s h f
/-- PREF (R253). -/
def execPref (h : Hdr) (f : FmtM) (s : State) : Out := s.perform (.pref h f) fun e s => e.pref s h f
/-- CINV (R254). -/
def execCinv (h : Hdr) (f : FmtM) (s : State) : Out := s.perform (.cinv h f) fun e s => e.cinv s h f
/-- CWB (R254). -/
def execCwb (h : Hdr) (f : FmtM) (s : State) : Out := s.perform (.cwb h f) fun e s => e.cwb s h f
/-- LDS (R255). -/
def execLds (h : Hdr) (f : FmtM) (s : State) : Out := s.perform (.lds h f) fun e s => e.loadScalar s h f
/-- STS (R255). -/
def execSts (h : Hdr) (f : FmtM) (s : State) : Out := s.perform (.sts h f) fun e s => e.storeScalar s h f
/-- LDACQ (R256). -/
def execLdacq (h : Hdr) (f : FmtM) (s : State) : Out := s.perform (.ldacq h f) fun e s => e.ldacq s h f
/-- STREL (R256). -/
def execStrel (h : Hdr) (f : FmtM) (s : State) : Out := s.perform (.strel h f) fun e s => e.strel s h f

end Sys2Proof.Machine
end

