-- ==== Sys2Proof/Machine/Atomic.lean ====
section
/-! DEFINITION. Group 0x7 (R366–R371): atomics and fences. -/
namespace Sys2Proof.Machine

/-! ### Sending requests (R363, R369) -/

/-- Requests by mask word and line, lanes in ascending order. -/
def groupRequests (l : List AsqLane) : List (Nat × Nat × List AsqLane) :=
  ((l.map fun x => (x.lane / 32, x.key / 128)).eraseDups).map fun p =>
    (p.1, p.2, l.filter fun x => x.lane / 32 == p.1 && x.key / 128 == p.2)

/-- What one atomic instruction sends: its operation, destination, roles. -/
structure AtomPlan where
  op   : AsqOp
  dst  : Option Opnd
  words : Nat
  acq  : Option Scope
  rel  : Bool
deriving DecidableEq, Repr

/-- Scoreboard names of a destination in one mask word. -/
def destNames (dst : Option Opnd) (words w : Nat) : List Nat :=
  match dst with
  | some (.v n) => (List.range words).map fun i => 256 * (n.toNat + i) + w
  | some (.s _ n) => if n.toNat = 127 then [] else [2 ^ 20 + n.toNat]
  | _ => []

/-- One request leaves the core: it joins the stream and the home's queue, and its reply is outstanding; `rel` where it waits for its quire's fence
tokens. -/
def State.sendAsq (s : State) (e : Env) (p : AtomPlan) (rel : Bool) (r : Nat × Nat × List AsqLane) : State :=
  let id := s.nextId
  let req : AsqReq := { id := id, quire := some e.id, vol := e.g.vol, core := e.g.pcore, home := homeOf (128 * r.2.1), op := p.op, lanes := r.2.2, dst := p.dst,
                        acq := p.acq, sent := false }
  let reply := p.dst.isSome || p.op == .arrive
  let pend : Pending := { kind := .asq, writes := [], names := destNames p.dst p.words r.1, ready := false, req := id, acq := p.acq,
                          slot := if e.q.grp.isSome then some e.slot else none, old := false,
                          handler := e.handlerMode }
  let s := { s.fresh.2 with asq := s.asq ++ [req] }
  let s := s.modCore e.g.pcore fun v =>
    { v with out := v.out ++ [.atom e.id id rel (r.2.2.map fun x => x.key / 8).eraseDups] }
  if reply then s.upd e fun q => { q with pend := q.pend ++ [pend] } else s

/-- The commit, the release, the requests, the acceptance; an acquiring atomic or an arrival then waits for its replies. The instruction's writes
release where it does, and where it is the first after a FENCE (R351). -/
def State.sendAtomics (s : State) (e : Env) (p : AtomPlan) (sc : Scope) (lanes : List AsqLane) : State :=
  let s := s.commit e.id
  if lanes.isEmpty then s
  else
    let s := if p.rel then s.release e.g.pcore e.id sc false else s
    let rel := p.rel || fenceLast (s.core e.g.pcore).out e.id
    let s := (groupRequests lanes).foldl (fun s r => s.sendAsq e p rel r) (s.accept e.id [])
    if p.acq.isSome || p.op == .arrive then s.upd e fun q => { q with wait := .reply false } else s

/-! ### ATOM, RED, ATOMS -/

/-- Operand and comparand of an atomic in a lane (R368), with their poison. -/
def Env.atomData (e : Env) (f : FmtM) (vector : Bool) (lane : Nat) : Val × Val :=
  let wide := f.width == .w64
  let n := Opnd.num f.data
  if vector && f.data.isVec then
    let k := if wide then 2 else 1
    if isCas f then (e.view.vecVal (n + k) k lane, e.view.vecVal n k lane) else (e.view.vecVal n k lane, Val.zero)
  else if isCas f then (e.read (nextScal f.data) (if wide then 2 else 1) 0 lane, e.read f.data (if wide then 2 else 1) 0 lane)
  else (e.readTy f.data (if wide then .i64 else .i32) lane, Val.zero)

/-- The lanes of an atomic after every check of R369, lowest lane first. -/
def Env.atomLanes (e : Env) (s : State) (f : FmtM) (all : LaneSet) (lanes : List Nat) : Res (List AsqLane × State) :=
  match e.spots s f (Wd f.width) all false .atomic lanes with
  | .error r => .error r
  | .ok (xs, s) =>
    let far := xs.filter fun x => x.peer && !peerOp f.sel.toNat
    let bad := lanes.filter fun l => let d := e.atomData f (all == 0) l; d.1.bad || d.2.bad
    match far, bad with
    | x :: _, _ => .error (.trap (e.trapLanes 0x0B 0 (e.eaOf f x.lane) (if all = 0 then setOf (far.map Spot.lane) else all)), s)
    | [], _ :: _ => .error (.trap (e.trapLanes 0x0E 4 0 (if all = 0 then setOf bad else all)), s)
    | [], [] =>
      .ok (xs.map fun x =>
        let d := e.atomData f (all == 0) x.lane
        { lane := x.lane, key := x.keys.headD 0, v := BitVec.ofNat 64 d.1.n, c := BitVec.ofNat 64 d.2.n, bad := false, portion := x.portion }, s)

/-- Scope code 0 gives an atomic no ordering (R367). -/
def ordered (sc : Scope) : Bool := scopeCode sc != 0

/-- ATOM and RED. -/
def Env.atomic (e : Env) (s : State) (h : Hdr) (f : FmtM) (reply : Bool) : Res State :=
  if e.effect h = 0 then .ok s
  else
    match e.atomLanes s f 0 (e.lanes (e.contrib h)) with
    | .error r => .error r
    | .ok (l, s) =>
      let p : AtomPlan := { op := .atom f.sel (f.width == .w64), dst := if reply then some f.data else none, words := atomWords f,
                            acq := if reply && ordered f.scope then some f.scope else none, rel := ordered f.scope }
      .ok (s.sendAtomics e p f.scope l)

/-- ATOMS: once per quire, under the guard rule of R260. -/
def Env.atomicOnce (e : Env) (s : State) (h : Hdr) (f : FmtM) : Res State :=
  e.onceUniform s h (
    if e.contrib h = 0 then .ok s
    else
      match e.atomLanes s f (e.contrib h) ((LaneSet.lowest e.width (e.effect h)).toList) with
      | .error r => .error r
      | .ok (l, s) =>
        let p : AtomPlan := { op := .atom f.sel (f.width == .w64), dst := some f.data, words := 1,
                              acq := if ordered f.scope then some f.scope else none, rel := ordered f.scope }
        .ok (s.sendAtomics e p f.scope l))

/-! ### FENCE (R356, R371) -/

def Env.fence (e : Env) (s : State) (h : Hdr) (f : FmtM) : Res State :=
  e.onceUniform s h (
    let k := f.sel.toNat
    let c := e.g.pcore
    if k = 4 then .ok (s.roClear c)
    else
      let s := if k = 1 then s else (s.commit e.id).release c e.id f.scope true
      let s := if k = 0 then s else s.acquire c f.scope
      if k = 3 && !(s.core c).released e.id then .ok (s.upd e fun q => { q with wait := .stall .fence }) else .ok s)

/-! ### Meanings -/

/-- ATOM (R366–R369). -/
def execAtom (h : Hdr) (f : FmtM) (s : State) : Out := s.perform (.atom h f) fun e s => e.atomic s h f true
/-- RED (R366–R369). -/
def execRed (h : Hdr) (f : FmtM) (s : State) : Out := s.perform (.red h f) fun e s => e.atomic s h f false
/-- ATOMS (R366–R369). -/
def execAtoms (h : Hdr) (f : FmtM) (s : State) : Out := s.perform (.atoms h f) fun e s => e.atomicOnce s h f
/-- FENCE (R371). -/
def execFence (h : Hdr) (f : FmtM) (s : State) : Out := s.perform (.fence h f) fun e s => e.fence s h f

end Sys2Proof.Machine
end

