-- ==== Sys2Proof/Machine/Astc.lean ====
section
/-! DEFINITION. ASTC blocks of two dimensions (R300): what a texel of one decodes to, in the full profile, as the Khronos Data Format
Specification 1.3 gives it (PRESUMED, log entry 60: the specification stands outside the manual). Bits are counted from the least
significant bit of byte 0. -/
namespace Sys2Proof.Machine

/-- A decoded channel: UNORM16 of an LDR colour, FP16 code of an HDR one. -/
inductive AstcVal where
  | norm (v : Nat)
  | half (v : Nat)
deriving DecidableEq, Repr

/-- The error colour: opaque magenta, or four NaNs, which the specification admits where the colours are not sRGB. -/
def astcError (srgb : Bool) : List AstcVal :=
  if !srgb && Config.astcNan then List.replicate 4 (.half 0xFFFF) else [.norm 65535, .norm 0, .norm 65535, .norm 65535]

/-! ### Integer sequences -/

/-- A range of integers: a trit, a quint or neither above `bits` plain bits. -/
structure AstcRange where
  trit  : Bool
  quint : Bool
  bits  : Nat
deriving DecidableEq, Repr

def AstcRange.plain (n : Nat) : AstcRange := { trit := false, quint := false, bits := n }
def AstcRange.trits (n : Nat) : AstcRange := { trit := true, quint := false, bits := n }
def AstcRange.quints (n : Nat) : AstcRange := { trit := false, quint := true, bits := n }

/-- Bits that `n` integers take. -/
def AstcRange.size (r : AstcRange) (n : Nat) : Nat :=
  n * r.bits + (if r.trit then (8 * n + 4) / 5 else if r.quint then (7 * n + 2) / 3 else 0)

/-- Five trits of eight bits, the first lowest. -/
def tritsOf (t : Nat) : List Nat :=
  let hi := bits t 4 2 == 7
  let c := if hi then bits t 7 5 * 4 + bits t 1 0 else bits t 4 0
  let top := if hi then [2, 2] else if bits t 6 5 = 3 then [bits t 7 7, 2] else [bits t 6 5, bits t 7 7]
  let low :=
    if bits c 1 0 = 3 then [bits c 3 3 * 2 + (if bits c 3 3 = 1 then 0 else bits c 2 2), bits c 4 4, 2]
    else if bits c 3 2 = 3 then [bits c 1 0, 2, 2]
    else [bits c 1 1 * 2 + (if bits c 1 1 = 1 then 0 else bits c 0 0), bits c 3 2, bits c 4 4]
  low ++ top

/-- Three quints of seven bits, the first lowest. -/
def quintsOf (q : Nat) : List Nat :=
  if bits q 2 1 = 3 ∧ bits q 6 5 = 0 then
    let z := bits q 0 0
    [4, 4, z * 4 + (if z = 1 then 0 else bits q 4 3)]
  else
    let hi := bits q 2 1 == 3
    let c := if hi then bits q 4 3 * 8 + (3 - bits q 6 5) * 2 + bits q 0 0 else bits q 4 0
    let top := if hi then 4 else bits q 6 5
    if bits c 2 0 = 5 then [bits c 4 3, 4, top] else [bits c 2 0, bits c 4 3, top]

/-- Where the bits of a group go: after each integer's plain bits some bits of the group's trits or quints. -/
def astcGroup (b : Nat) (shares : List Nat) (v : Nat) : List Nat × Nat :=
  let step := fun (a : List Nat × Nat × Nat × Nat) (k : Nat) =>
    (a.1 ++ [v / 2 ^ a.2.2.2 % 2 ^ b], a.2.1 + v / 2 ^ (a.2.2.2 + b) % 2 ^ k * 2 ^ a.2.2.1, a.2.2.1 + k, a.2.2.2 + b + k)
  let r := shares.foldl step ([], 0, 0, 0)
  (r.1, r.2.1)

/-- `n` integers of a sequence that stands in the low bits of `v`; each as its trit or quint and its plain bits. -/
def AstcRange.decode (r : AstcRange) (v n : Nat) : List (Nat × Nat) :=
  let v := v % 2 ^ r.size n
  if r.trit then
    ((List.range ((n + 4) / 5)).flatMap fun k =>
      let g := astcGroup r.bits [2, 2, 1, 2, 1] (v / 2 ^ (k * (5 * r.bits + 8)) % 2 ^ (5 * r.bits + 8))
      (tritsOf g.2).zip g.1).take n
  else if r.quint then
    ((List.range ((n + 2) / 3)).flatMap fun k =>
      let g := astcGroup r.bits [3, 2, 2] (v / 2 ^ (k * (3 * r.bits + 7)) % 2 ^ (3 * r.bits + 7))
      (quintsOf g.2).zip g.1).take n
  else (List.range n).map fun i => (0, v / 2 ^ (i * r.bits) % 2 ^ r.bits)

/-! ### Unquantising -/

/-- `b` bits repeated from the top of `w` bits. -/
def repeatBits (b w v : Nat) : Nat := if b = 0 then 0 else (List.range w).foldl (fun a i => 2 * a + v / 2 ^ (b - 1 - i % b) % 2) 0

/-- A word of `w` bits that picks bits of `v`, named from the top by their places; any other place is a zero. -/
def pickBits (v : Nat) (l : List Nat) : Nat := l.foldl (fun a i => 2 * a + v / 2 ^ i % 2) 0

/-- The table of a range with trits or quints above `bits` bits: the constant C, and the places in B, from the top, that bits 1 and up of the value
take; 9 stands for none. -/
def colourTable (r : AstcRange) : Nat × List Nat :=
  match r.trit, r.bits with
  | true, 1 => (204, [])
  | true, 2 => (93, [1, 9, 9, 9, 1, 9, 1, 1, 9])
  | true, 3 => (44, [2, 1, 9, 9, 9, 2, 1, 2, 1])
  | true, 4 => (22, [3, 2, 1, 9, 9, 9, 3, 2, 1])
  | true, 5 => (11, [4, 3, 2, 1, 9, 9, 9, 4, 3])
  | true, _ => (5, [5, 4, 3, 2, 1, 9, 9, 9, 5])
  | false, 1 => (113, [])
  | false, 2 => (54, [1, 9, 9, 9, 9, 1, 1, 9, 9])
  | false, 3 => (26, [2, 1, 9, 9, 9, 9, 2, 1, 2])
  | false, 4 => (13, [3, 2, 1, 9, 9, 9, 9, 3, 2])
  | false, _ => (6, [4, 3, 2, 1, 9, 9, 9, 9, 4])
def weightTable (r : AstcRange) : Nat × List Nat :=
  match r.trit, r.bits with
  | true, 1 => (50, [])
  | true, 2 => (23, [1, 9, 9, 9, 1, 9, 1])
  | true, _ => (11, [2, 1, 9, 9, 9, 2, 1])
  | false, 1 => (28, [])
  | false, _ => (13, [1, 9, 9, 9, 9, 1, 9])

/-- A value unquantised to `w` bits, `w + 1` of them under way, by a table's constants. -/
def unquantise (w : Nat) (t : Nat × List Nat) (d v : Nat) : Nat :=
  let a := if v % 2 = 1 then 2 ^ (w + 1) - 1 else 0
  let x := Nat.xor (d * t.1 + pickBits v t.2) a
  Nat.lor (Nat.land a (2 ^ (w - 1))) (x / 4)

/-- An endpoint value, 0–255. -/
def AstcRange.colour (r : AstcRange) (x : Nat × Nat) : Nat :=
  if r.trit || r.quint then unquantise 8 (colourTable r) x.1 x.2 else repeatBits r.bits 8 x.2

/-- A weight, 0–64. -/
def AstcRange.weight (r : AstcRange) (x : Nat × Nat) : Nat :=
  let u :=
    if r.trit && r.bits == 0 then [0, 32, 63].getD x.1 0
    else if r.quint && r.bits == 0 then [0, 16, 32, 47, 63].getD x.1 0
    else if r.trit || r.quint then unquantise 6 (weightTable r) x.1 x.2
    else repeatBits r.bits 6 x.2
  if 32 < u then u + 1 else u

/-! ### Block modes -/

/-- A weight grid: width, height, range, two planes. -/
structure AstcMode where
  w : Nat
  h : Nat
  range : AstcRange
  dual : Bool
deriving DecidableEq, Repr

/-- Weight ranges by R, at low and at high precision. -/
def weightRange (high : Bool) (r : Nat) : AstcRange :=
  match r, high with
  | 2, false => .plain 1
  | 3, false => .trits 0
  | 4, false => .plain 2
  | 5, false => .quints 0
  | 6, false => .trits 1
  | _, false => .plain 3
  | 2, true => .quints 1
  | 3, true => .trits 2
  | 4, true => .plain 4
  | 5, true => .quints 2
  | 6, true => .trits 3
  | _, true => .plain 5

/-- The block mode of the low eleven bits; none where it is reserved. -/
def astcMode (m : Nat) : Option AstcMode :=
  let a := bits m 6 5
  let b := bits m 8 7
  let make := fun (w h r : Nat) (high dual : Bool) => some ({ w := w, h := h, range := weightRange high r, dual := dual } : AstcMode)
  let high := m.testBit 9
  let dual := m.testBit 10
  if bits m 1 0 ≠ 0 then
    let r := bits m 1 0 * 2 + bits m 4 4
    match bits m 3 2 with
    | 0 => make (b + 4) (a + 2) r high dual
    | 1 => make (b + 8) (a + 2) r high dual
    | 2 => make (a + 2) (b + 8) r high dual
    | _ => if m.testBit 8 then make (bits m 7 7 + 2) (a + 2) r high dual else make (a + 2) (bits m 7 7 + 6) r high dual
  else if bits m 3 2 = 0 then none
  else
    let r := bits m 3 2 * 2 + bits m 4 4
    match b with
    | 0 => make 12 (a + 2) r high dual
    | 1 => make (a + 2) 12 r high dual
    | 2 => make (a + 6) (bits m 10 9 + 6) r false false
    | _ => match a with
      | 0 => make 6 10 r high dual
      | 1 => make 10 6 r high dual
      | _ => none

def AstcMode.count (m : AstcMode) : Nat := m.w * m.h * (if m.dual then 2 else 1)
def AstcMode.bits' (m : AstcMode) : Nat := m.range.size m.count

/-! ### Endpoints -/

/-- Two endpoints of a partition, red first, and whether red, green and blue, and alpha, are HDR. -/
structure AstcEnds where
  lo : List Int
  hi : List Int
  hdr : Bool
  hdrA : Bool
deriving DecidableEq, Repr

def clampTo (n : Int) (v : Int) : Int := max 0 (min n v)

/-- A signed base and offset of the modes that add one to the other: the value changed, and its offset. -/
def transferSigned (a b : Nat) : Int × Int :=
  let x := a / 2 % 64
  ((b / 2 + a / 128 * 128 : Nat), if 32 ≤ x then (x : Int) - 64 else x)

def blueContract (c : List Int) : List Int := [(c.getD 0 0 + c.getD 2 0) / 2, (c.getD 1 0 + c.getD 2 0) / 2, c.getD 2 0, c.getD 3 0]

/-- Two LDR colours put in order: the sum of the second's first three components tells whether blue was contracted. -/
def orderEnds (swap : Bool) (p q : List Int) : AstcEnds :=
  let c := fun l : List Int => l.map (clampTo 255)
  if swap then { lo := c (blueContract q), hi := c (blueContract p), hdr := false, hdrA := false } else { lo := c p, hi := c q, hdr := false, hdrA := false }

/-- A bit of `v` put at a place of a word under the modes that `mask` names. -/
def placeBit (mode mask v at' : Nat) : Nat := if mask.testBit mode then v % 2 * 2 ^ at' else 0

def swapMajor (k : Nat) (c : List Int) : List Int :=
  match k with
  | 1 => [c.getD 1 0, c.getD 0 0, c.getD 2 0]
  | 2 => [c.getD 2 0, c.getD 1 0, c.getD 0 0]
  | _ => c

/-- HDR RGB, base and scale. -/
def hdrScaled (v : Nat → Nat) : List Int × List Int :=
  let mv := bits (v 0) 7 6 + bits (v 1) 7 7 * 4 + bits (v 2) 7 7 * 8
  let (major, mode) := if mv / 4 ≠ 3 then (mv / 4, mv % 4) else if mv ≠ 15 then (mv % 4, 4) else (0, 5)
  let x := [bits (v 1) 6 6, bits (v 1) 5 5, bits (v 2) 6 6, bits (v 2) 5 5, bits (v 3) 7 7, bits (v 3) 6 6, bits (v 3) 5 5]
  let put := fun (l : List (Nat × Nat × Nat)) => l.foldl (fun n p => n + placeBit mode p.1 (x.getD p.2.1 0) p.2.2) 0
  let sh : Int := 2 ^ [1, 1, 2, 3, 4, 5].getD mode 0
  let green : Int := (bits (v 1) 4 0 + put [(0x30, 0, 6), (0x3A, 1, 5)] : Nat) * sh
  let blue : Int := (bits (v 2) 4 0 + put [(0x30, 2, 6), (0x3A, 3, 5)] : Nat) * sh
  let scale : Int := (bits (v 3) 4 0 + put [(0x3D, 6, 5), (0x2D, 5, 6), (0x04, 4, 7)] : Nat) * sh
  let red : Int := (bits (v 0) 5 0 + put [(0x3B, 4, 6), (0x04, 3, 6), (0x10, 5, 7), (0x0F, 2, 7), (0x05, 1, 8), (0x0A, 0, 8), (0x05, 0, 9), (0x02, 6, 9), (0x01, 3, 10),
    (0x02, 5, 10)] : Nat) * sh
  let c := swapMajor major (if mode = 5 then [red, green, blue] else [red, red - green, red - blue])
  (c.map fun a => clampTo 0xFFF (a - scale), c.map (clampTo 0xFFF))

/-- The low `n` bits as a signed number. -/
def lowSigned (n v : Nat) : Int := let x := v % 2 ^ n; if 2 ^ (n - 1) ≤ x then (x : Int) - 2 ^ n else x

/-- HDR RGB, direct. -/
def hdrDirect (v : Nat → Nat) : List Int × List Int :=
  let mode := bits (v 1) 7 7 + bits (v 2) 7 7 * 2 + bits (v 3) 7 7 * 4
  let major := bits (v 4) 7 7 + bits (v 5) 7 7 * 2
  if major = 3 then
    ([(v 0 * 16 : Nat), (v 2 * 16 : Nat), (v 4 % 128 * 32 : Nat)], [(v 1 * 16 : Nat), (v 3 * 16 : Nat), (v 5 % 128 * 32 : Nat)])
  else
    let x := [bits (v 2) 6 6, bits (v 3) 6 6, bits (v 4) 6 6, bits (v 5) 6 6, bits (v 4) 5 5, bits (v 5) 5 5]
    let put := fun (l : List (Nat × Nat × Nat)) => l.foldl (fun n p => n + placeBit mode p.1 (x.getD p.2.1 0) p.2.2) 0
    let sh : Int := 2 ^ Nat.xor (mode / 2) 3
    let a : Int := (v 0 + bits (v 1) 6 6 * 256 + put [(0xA4, 0, 9), (0x08, 2, 9), (0x50, 4, 9), (0x50, 5, 10), (0xA0, 1, 10), (0xC0, 2, 11)] : Nat) * sh
    let c : Int := (v 1 % 64 + put [(0x04, 1, 6), (0xE8, 3, 6), (0x20, 2, 7)] : Nat) * sh
    let b0 : Int := (v 2 % 64 + put [(0x5B, 0, 6), (0x12, 2, 7)] : Nat) * sh
    let b1 : Int := (v 3 % 64 + put [(0x5B, 1, 6), (0x12, 3, 7)] : Nat) * sh
    let n := [7, 6, 7, 6, 5, 6, 5, 6].getD mode 0
    let d0 := lowSigned n (v 4) * sh
    let d1 := lowSigned n (v 5) * sh
    (swapMajor major ([a - c, a - b0 - c - d0, a - b1 - c - d1].map (clampTo 0xFFF)), swapMajor major ([a, a - b0, a - b1].map (clampTo 0xFFF)))

/-- HDR alpha of two values. -/
def hdrAlpha (a b : Nat) : Int × Int :=
  let mode := bits a 7 7 + bits b 7 7 * 2
  let a := a % 128
  let b := b % 128
  if mode = 3 then ((a * 32 : Nat), (b * 32 : Nat))
  else
    let base : Int := (Nat.lor a (Nat.land (b * 2 ^ (mode + 1)) 0x780) * 2 ^ (4 - mode) : Nat)
    let off : Int := (Nat.xor (b % 2 ^ (6 - mode)) (2 ^ (5 - mode)) : Int) - (2 ^ (5 - mode) : Nat)
    (base, clampTo 0xFFF (base + off * 2 ^ (4 - mode)))

/-- The endpoints of a colour endpoint mode. -/
def astcEnds (mode : Nat) (l : List Nat) : AstcEnds :=
  let v := fun i => l.getD i 0
  let n := fun i => ((v i : Nat) : Int)
  let ldr := fun (a b : List Int) => ({ lo := a, hi := b, hdr := false, hdrA := false } : AstcEnds)
  let hdr := fun (a b : List Int) => ({ lo := a, hi := b, hdr := true, hdrA := true } : AstcEnds)
  let t := fun i => transferSigned (v (i + 1)) (v i)
  let moved := fun (a : Int × Int) =>
    let p := [(t 0).1, (t 2).1, (t 4).1, a.1]
    let q := [(t 0).1 + (t 0).2, (t 2).1 + (t 2).2, (t 4).1 + (t 4).2, a.1 + a.2]
    orderEnds (decide ((t 0).2 + (t 2).2 + (t 4).2 < 0)) p q
  let direct := fun (a b : Int) => orderEnds (decide (n 1 + n 3 + n 5 < n 0 + n 2 + n 4)) [n 0, n 2, n 4, a] [n 1, n 3, n 5, b]
  let scaled := fun (a b : Int) => ldr ([n 0, n 1, n 2].map (fun c => c * n 3 / 256) ++ [a]) [n 0, n 1, n 2, b]
  match mode with
  | 0 => ldr [n 0, n 0, n 0, 255] [n 1, n 1, n 1, 255]
  | 1 =>
    let a : Int := (v 0 / 4 + v 1 / 64 * 64 : Nat)
    let b := min 255 (a + (v 1 % 64 : Nat))
    ldr [a, a, a, 255] [b, b, b, 255]
  | 2 =>
    let (a, b) := if v 0 ≤ v 1 then (n 0 * 16, n 1 * 16) else (n 1 * 16 + 8, n 0 * 16 - 8)
    hdr [a, a, a, 0x780] [b, b, b, 0x780]
  | 3 =>
    let (a, d) : Int × Int := if 128 ≤ v 0 then ((v 1 / 32 * 512 + v 0 % 128 * 4 : Nat), (v 1 % 32 * 4 : Nat)) else ((v 1 / 16 * 256 + v 0 % 128 * 2 : Nat), (v 1 % 16 * 2 : Nat))
    let b := min 0xFFF (a + d)
    hdr [a, a, a, 0x780] [b, b, b, 0x780]
  | 4 => ldr [n 0, n 0, n 0, n 2] [n 1, n 1, n 1, n 3]
  | 5 =>
    let c := clampTo 255
    ldr [(t 0).1, (t 0).1, (t 0).1, (t 2).1] [c ((t 0).1 + (t 0).2), c ((t 0).1 + (t 0).2), c ((t 0).1 + (t 0).2), c ((t 2).1 + (t 2).2)]
  | 6 => scaled 255 255
  | 7 => let r := hdrScaled v; hdr (r.1 ++ [0x780]) (r.2 ++ [0x780])
  | 8 => direct 255 255
  | 9 => moved (255, 0)
  | 10 => scaled (n 4) (n 5)
  | 11 => let r := hdrDirect v; hdr (r.1 ++ [0x780]) (r.2 ++ [0x780])
  | 12 => direct (n 6) (n 7)
  | 13 => moved (t 6)
  | 14 => let r := hdrDirect v; { lo := r.1 ++ [n 6], hi := r.2 ++ [n 7], hdr := true, hdrA := false }
  | _ => let r := hdrDirect v; let a := hdrAlpha (v 6) (v 7); hdr (r.1 ++ [a.1]) (r.2 ++ [a.2])

/-! ### Partitions -/

def u32 (v : Nat) : Nat := v % 2 ^ 32

/-- The hash of a partition seed. -/
def hash52 (p : Nat) : Nat :=
  let p := u32 p
  let p := Nat.xor p (p / 2 ^ 15)
  let p := u32 (p + 2 ^ 32 - u32 (p * 2 ^ 17))
  let p := u32 (p + p * 2 ^ 7)
  let p := u32 (p + p * 2 ^ 4)
  let p := Nat.xor p (p / 2 ^ 5)
  let p := u32 (p + p * 2 ^ 16)
  let p := Nat.xor p (p / 2 ^ 7)
  let p := Nat.xor p (p / 2 ^ 3)
  let p := Nat.xor p (u32 (p * 2 ^ 6))
  Nat.xor p (p / 2 ^ 17)

/-- The partition of a texel, of `n` partitions chosen by `seed`; `small` for a block of fewer than 31 texels. -/
def partitionOf (seed n x y : Nat) (small : Bool) : Nat :=
  let x := if small then 2 * x else x
  let y := if small then 2 * y else y
  let seed := seed + (n - 1) * 1024
  let r := hash52 seed
  let s := fun k => let v := r / 2 ^ k % 16; v * v
  let p := if seed.testBit 1 then 4 else 5
  let q := if n = 3 then 6 else 5
  let (s1, s2) := if seed.testBit 0 then (p, q) else (q, p)
  let sum := fun (i j k : Nat) => (s i / 2 ^ s1 * x + s j / 2 ^ s2 * y + r / 2 ^ k) % 64
  let a := sum 0 4 14
  let b := sum 8 12 10
  let c := if n < 3 then 0 else sum 16 20 6
  let d := if n < 4 then 0 else sum 24 28 2
  if b ≤ a ∧ c ≤ a ∧ d ≤ a then 0 else if c ≤ b ∧ d ≤ b then 1 else if d ≤ c then 2 else 3

/-! ### Blocks -/

/-- A block whose encoding has been read: partitions with their seed, endpoints of each, the weight grid, the component of the second plane. -/
structure AstcBlock where
  parts : Nat
  seed  : Nat
  ends  : List AstcEnds
  mode  : AstcMode
  plane : Option Nat
  weights : List Nat
deriving DecidableEq, Repr

/-- Colour ranges, the widest first. -/
def colourRanges : List AstcRange :=
  [.plain 8, .trits 6, .quints 5, .plain 7, .trits 5, .quints 4, .plain 6, .trits 4, .quints 3, .plain 5, .trits 3, .quints 2, .plain 4, .trits 2, .quints 1, .plain 3,
   .trits 1]

/-- The lowest 128 bits in reverse order: weights are stored from the top. -/
def reverse128 (v : Nat) : Nat := (List.range 128).foldl (fun a i => 2 * a + v / 2 ^ i % 2) 0

/-- Colour endpoint modes of `n` partitions, the bits of them that stand below the weights, and how many those are. -/
def endpointModes (v n below : Nat) : List Nat × Nat :=
  if n = 1 then ([bits v 16 13], 0)
  else
    let six := bits v 28 23
    if six % 4 = 0 then (List.replicate n (six / 4), 0)
    else
      let extra := 3 * n - 4
      let e := six + v / 2 ^ (below - extra) % 2 ^ extra * 64
      ((List.range n).map fun i => (e / 2 ^ (2 + i) % 2 + six % 4 - 1) * 4 + e / 2 ^ (2 + n + 2 * i) % 4, extra)

/-- Endpoint integers of a mode. -/
def endCount (mode : Nat) : Nat := 2 * (mode / 4) + 2

/-- A block that is no void extent; none where it is invalid. -/
def astcBlockOf (v bw bh : Nat) : Option AstcBlock :=
  match astcMode (v % 2 ^ 11) with
  | none => none
  | some m =>
    let n := bits v 12 11 + 1
    if 64 < m.count ∨ m.bits' < 24 ∨ 96 < m.bits' ∨ bw < m.w ∨ bh < m.h ∨ (m.dual = true ∧ n = 4) then none
    else
      let below := 128 - m.bits'
      let cem := endpointModes v n below
      let count := (cem.1.map endCount).foldl (· + ·) 0
      let start := if n = 1 then 17 else 29
      let room := below - cem.2 - (if m.dual then 2 else 0) - start
      if 18 < count then none
      else match colourRanges.find? fun r => decide (r.size count ≤ room) with
        | none => none
        | some r =>
          let vals := (r.decode (v / 2 ^ start) count).map r.colour
          let ends := (cem.1.foldl (fun (a : List AstcEnds × List Nat) k => (a.1 ++ [astcEnds k (a.2.take (endCount k))], a.2.drop (endCount k))) ([], vals)).1
          some { parts := n, seed := bits v 22 13, ends := ends, mode := m,
                 plane := if m.dual then some (v / 2 ^ (below - cem.2 - 2) % 4) else none,
                 weights := (m.range.decode (reverse128 v) m.count).map m.range.weight }

/-- The weight of plane `p` at a texel: the grid's four neighbours, interpolated. -/
def AstcBlock.weightAt (b : AstcBlock) (bw bh x y p : Nat) : Nat :=
  let place := fun (s n k : Nat) => ((1024 + s / 2) / (s - 1) * k * (n - 1) + 32) / 64
  let gs := place bw b.mode.w x
  let gt := place bh b.mode.h y
  let fs := gs % 16
  let ft := gt % 16
  let w11 := (fs * ft + 8) / 16
  let at' := fun k => b.weights.getD (if b.mode.dual then 2 * k + p else k) 0
  let k := gs / 16 + gt / 16 * b.mode.w
  (at' k * (16 + w11 - fs - ft) + at' (k + 1) * (fs - w11) + at' (k + b.mode.w) * (ft - w11) + at' (k + b.mode.w + 1) * w11 + 8) / 16

/-- An interpolated HDR component as an FP16 code. -/
def astcHalf (c : Nat) : Nat :=
  let m := c % 2048
  let t := if m < 512 then 3 * m else if 1536 ≤ m then 5 * m - 2048 else 4 * m - 512
  min 0x7BFF (c / 2048 * 1024 + t / 8)

/-- A texel of a block. -/
def AstcBlock.texel (b : AstcBlock) (srgb : Bool) (bw bh x y : Nat) : List AstcVal :=
  let k := if b.parts = 1 then 0 else partitionOf b.seed b.parts x y (decide (bw * bh < 31))
  match b.ends[k]? with
  | none => astcError srgb
  | some e =>
    if srgb && e.hdr then astcError srgb
    else (List.range 4).map fun i =>
      let w := b.weightAt bw bh x y (if b.plane = some i then 1 else 0)
      let hdr := if i = 3 then e.hdrA else e.hdr
      let wide := fun c : Int => if hdr then 16 * c.toNat else 256 * c.toNat + (if srgb && decide (i < 3) then 128 else c.toNat)
      let c := (wide (e.lo.getD i 0) * (64 - w) + wide (e.hi.getD i 0) * w + 32) / 64
      if hdr then .half (astcHalf c) else .norm c

/-- A void-extent block: one colour. -/
def astcVoid (v : Nat) (srgb : Bool) : List AstcVal :=
  let c := fun i => bits v (79 + 16 * i) (64 + 16 * i)
  let e := fun i => bits v (24 + 13 * i) (12 + 13 * i)
  let whole := (List.range 4).all fun i => e i == 8191
  if bits v 11 10 ≠ 3 ∨ (!whole && (decide (e 1 ≤ e 0) || decide (e 3 ≤ e 2))) ∨ (srgb && v.testBit 9) then astcError srgb
  else (List.range 4).map fun i => if v.testBit 9 then .half (c i) else .norm (c i)

/-- The texel at (x, y) of a block of `bw` by `bh` texels. -/
def astcTexel (srgb : Bool) (v bw bh x y : Nat) : List AstcVal :=
  if v % 512 = 0x1FC then astcVoid v srgb
  else match astcBlockOf v bw bh with
    | none => astcError srgb
    | some b => b.texel srgb bw bh x y

end Sys2Proof.Machine
end

