-- ==== Sys2Proof/Machine/Sync.lean ====
section
/-! DEFINITION. Group 0x8 (R372–R388): barrier words, try-waits, MSYNC, attach and detach, spawning into bins, pushing child launches. -/
namespace Sys2Proof.Machine

/-! ### Where a barrier or try-wait word lies (R374) -/

/-- The space a space code names (R97). -/
def spaceOf (n : Nat) : Space := match n with | 0 => .gen | 1 => .cspad | 2 => .sspad | 3 => .dspad | _ => .bad5

/-- Effective address of a word operand: the operand itself, base and offset zero (R224, R374). -/
def wordEa (sp : Space) (a : Nat) : Nat := match sp with | .gen => a % 2 ^ 64 | .sspad => a % 2 ^ 24 | _ => a % 2 ^ 32

/-- A load of a word follows its quire's earlier atomics on it (R352). -/
def Env.wordReady (e : Env) (s : State) (acc : Acc) (size : Nat) (p : Nat × Option Nat) : Res ((Nat × Option Nat) × State) :=
  if acc == .load && s.loadWaits e (runKeys p.1 size) then .error (.stall .order, s) else .ok (p, s)

/-- The key of a word of `size` bytes, after the checks 3 to 6 of R229; peers are not admitted (R416). -/
def State.wordAt (s : State) (e : Env) (sp : Space) (a size : Nat) (acc : Acc) : Res ((Nat × Option Nat) × State) :=
  let ea := wordEa sp a
  let trap := fun {α : Type} (s : State) (code : Nat) => (Except.error (.trap (e.trapInfo code 0xFFFF 0 ea 0), s) : Res α)
  if sp == .gen then
    if ea % size ≠ 0 then trap s 0x0A
    else if !canonical ea then trap s 0x0D
    else match s.xlLane e ea acc with
      | (.error x, s) => .error (x, s)
      | (.ok x, s) => if paKind x.pa = .peer then trap s 0x0D else e.wordReady s acc size (x.pa, none)
  else
    match s.place e sp ea size 0 (a % 2 ^ 32) 0 with
    | none => trap s 0x0B
    | some p => if ea % size ≠ 0 then trap s 0x0A else e.wordReady s acc size (p.1.headD 0, p.2)

/-- A poisoned word among the once-per-quire operands of an instruction that some lane other than padding takes (R375). -/
def Env.poisonOnce (e : Env) (h : Hdr) (l : List Val) : Bool := e.contrib h != 0 && l.any Val.bad

/-- The scope of a barrier operation on a space (R351). -/
def barScope (sp : Space) : Scope := match sp with | .cspad => .gath | .sspad => .span | _ => .dev

/-! ### Barriers (R376–R378) -/

/-- Add a word to a gathering's tracked list: no quire has arrived in it (R376, R381). -/
def State.track (s : State) (gid k : Nat) : State :=
  let s := s.modGath gid fun g => { g with tracked := if g.tracked.contains k then g.tracked else g.tracked ++ [k] }
  match FMap.find s.gaths gid with
  | none => s
  | some g => g.quires.foldl (fun s id => s.modQuire id fun q => { q with arrived := FMap.remove q.arrived k }) s

/-- A BARINIT of a word while quires wait on it releases none of them, now or later (R376). -/
def State.loseWaiters (s : State) (k : Nat) : State :=
  { s with quires := s.quires.map fun x => match x.2.wait with
      | .barwait k' _ _ => if k' = k then (x.1, { x.2 with wait := .barlost }) else x
      | _ => x }

def Env.barinit (e : Env) (s : State) (h : Hdr) (f : FmtE) : Res State :=
  e.onceUniform s h (
    let a := e.readOnce h f.a .n64
    let n := e.readOnce h f.b .n32
    let track := f.m.getLsbD 3
    let enrol := f.m.getLsbD 4
    if e.poisonOnce h [a, n] then e.trapRes s 0x0E 8
    else if 4095 < n.n ∨ (n.n = 0 ∧ !track ∧ !enrol) ∨ (enrol ∧ n.n ≠ 0) then e.trapRes s 0x03 0
    else match s.wordAt e (spaceOf (mSpace f.m)) a.n 8 .atomic with
      | .error r => .error r
      | .ok (p, s) =>
        let k := p.1
        if (track || enrol) && !e.g.tracked.contains k && decide (8 ≤ e.g.tracked.length) then e.trapRes s 0x03 0
        else
          let s := s.commit e.id
          if !enrol && s.cores.any (fun c => stuckIn c.2.quiet c.2.out k 8) then .error (.stall .order, s)
          else
          let s := if enrol then s
            else (((s.homeNum k 8).2.breakFor e.g.vol k).putHomeNum k 8 (Bar.word { expected := n.n, arrived := 0, gen := 0, low := if track then 2 ^ 16 else 0 })).markBarrier k
          let s := if enrol then s else (s.observed e.g.pcore k 8).loseWaiters k
          .ok ((if track || enrol then s.track e.q.gath k else s).accept e.id []))

def Env.bararv (e : Env) (s : State) (h : Hdr) (f : FmtE) : Res State :=
  e.onceUniform s h (
    let a := e.readOnce h f.a .n64
    if e.poisonOnce h [a] then e.trapRes s 0x0E 8
    else
      let sp := spaceOf (mSpace f.m)
      match s.wordAt e sp a.n 8 .atomic with
      | .error r => .error r
      | .ok (p, s) =>
        let plan : AtomPlan := { op := .arrive, dst := some f.d, words := 1, acq := none, rel := true }
        .ok (s.sendAtomics e plan (barScope sp) [{ lane := 0, key := p.1, v := 0, c := 0, bad := false, portion := p.2 }]))

/-- The generation of a barrier word as a quire of its core reads it (R354). -/
def State.generation (s : State) (e : Env) (k : Nat) : Nat := (Bar.of (s.coreNum e.g.pcore k 8)).gen

/-- A BARWAIT returns, or a BARTRY writes true: an acquire at the scope of the word's space (R351), and the quire's arrival in the word is none
again (R378, R381). -/
def State.barrierPassed (s : State) (e : Env) (k : Nat) (sc : Scope) : State :=
  ((s.observed e.g.pcore k 8).acquire e.g.pcore sc).upd e fun q => { q with arrived := FMap.remove q.arrived k }

def Env.barwait (e : Env) (s : State) (h : Hdr) (f : FmtE) : Res State :=
  e.onceUniform s h (
    let a := e.readOnce h f.a .n64
    let g := e.readOnce h f.b .i64
    if e.poisonOnce h [a, g] then e.trapRes s 0x0E 8
    else match s.wordAt e (spaceOf (mSpace f.m)) a.n 8 .load with
      | .error r => .error r
      | .ok (p, s) =>
        let sc := barScope (spaceOf (mSpace f.m))
        if s.generation e p.1 ≠ g.n then .ok (s.barrierPassed e p.1 sc)
        else .ok (s.upd e fun q => q.park (.barwait p.1 (BitVec.ofNat 16 g.n) sc)))

def Env.bartry (e : Env) (s : State) (h : Hdr) (f : FmtE) : Res State :=
  e.onceUniform s h (
    let a := e.readOnce h f.a .n64
    let g := e.readOnce h f.b .i64
    if e.poisonOnce h [a, g] then e.trapRes s 0x0E 8
    else match s.wordAt e (spaceOf (mSpace f.m)) a.n 8 .load with
      | .error r => .error r
      | .ok (p, s) =>
        let hit := s.generation e p.1 != g.n
        let s := if hit then s.barrierPassed e p.1 (barScope (spaceOf (mSpace f.m))) else s
        .ok (s.upd e fun q => { q with regs := q.regs.pput (bits f.m.toNat 7 5) (e.effect h) (if hit then e.effect h else 0) }))

/-! ### TRYWAIT (R379, R380) -/

/-- Compare codes of R20. -/
def compareCode (code v w : Nat) : Bool :=
  match code with
  | 0 => decide (w ≤ v)
  | 1 => v == w
  | 2 => v != w
  | _ => Nat.land v w != 0

def TryWait.size (t : TryWait) : Nat := if t.wide then 8 else 4
/-- What a TRYWAIT waits for holds now; no engine owns the word's line (R267), and the quire's own atomics on it have been performed (R352). -/
def State.tryHolds (s : State) (e : Env) (t : TryWait) : Bool :=
  match t.handle with
  | some n => (s.handle e.q.gath n).state.code == t.cond.toNat
  | none => !s.lineOwned t.key && !s.loadWaits e (runKeys t.key t.size)
    && compareCode t.cond.toNat (s.coreNum e.g.pcore t.key t.size) (t.value.toNat % 2 ^ (8 * t.size))

/-- The outcome goes to pd in every lane of F; a true one is an acquire. -/
def State.tryDone (s : State) (id core : Nat) (t : TryWait) (hit : Bool) : State :=
  let s := if !hit then s else if t.handle.isSome then s.acquire core .dev else (s.observed core t.key t.size).acquire core t.scope
  s.modQuire id fun q => { q with wait := .none, regs := q.regs.pput t.pd t.lanes (if hit then t.lanes else 0) }

def Env.scopeField (f : FmtE) : Scope :=
  match bits f.m.toNat 15 13 with
  | 0 => .quire | 1 => .gath | 2 => .span | 3 => .die | 4 => .dev | _ => .sys

/-- TRYWAIT once what it waits for is known: it ends at once on a true compare or a limit of 0, or parks. -/
def Env.tryPark (e : Env) (s : State) (t : TryWait) (limit : Nat) : State :=
  if s.tryHolds e t then s.tryDone e.id e.g.pcore t true
  else if limit = 0 then s.tryDone e.id e.g.pcore t false
  else s.upd e fun q => q.park (.tryw t)

def Env.trywait (e : Env) (s : State) (h : Hdr) (f : FmtE) : Res State :=
  e.onceUniform s h (
    let m := f.m.toNat
    let limit := e.readOnce h f.c .n32
    let base : TryWait := { handle := none, key := 0, cond := BitVec.ofNat 2 (bits m 19 18), wide := m.testBit 17, value := 0, ext := m.testBit 16,
                            scope := Env.scopeField f, limit := limit.n, pd := bits m 23 21, lanes := e.effect h }
    if m.testBit 20 then
      let n := e.readOnce h f.d .n64
      if e.poisonOnce h [n, limit] then e.trapRes s 0x0E 8
      else if !e.handleNamed n.n then e.trapRes s 0x03 0
      else .ok (e.tryPark s { base with handle := some n.n } limit.n)
    else
      let a := e.readOnce h f.a .n64
      let v := e.readOnce h f.b .i64
      if e.poisonOnce h [a, v, limit] then e.trapRes s 0x0E 8
      else match s.wordAt e (spaceOf (bits m 12 10)) a.n (if m.testBit 17 then 8 else 4) .load with
        | .error r => .error r
        | .ok (p, s) => .ok (e.tryPark s { base with key := p.1, value := BitVec.ofNat 64 v.n } limit.n))

/-! ### MSYNC (R385) -/

def Env.msync (e : Env) (s : State) (h : Hdr) (f : FmtE) : Res State :=
  e.onceUniform s h (
    let vals := (e.lanes (e.effect h)).map fun l => e.readTy f.a .n32 l
    let mask := (vals.head?.map Val.n).getD 0
    if e.contrib h != 0 && ((e.lanes (e.contrib h)).any fun l => (e.readTy f.a .n32 l).bad) then e.trapRes s 0x0E 8
    else if vals.any fun v => decide (2 ^ 16 ≤ v.n) then e.trapRes s 0x03 0
    else if !(vals.all fun v => v.n == mask) || !mask.testBit e.q.index then e.trapRes s 0x07 0
    else
      let w := BitVec.ofNat 16 mask
      let mine : W16 := BitVec.ofNat 16 (2 ^ e.q.index)
      let found := e.g.episodes.any fun ep => ep.mask == w
      if !found && e.g.episodes.any (fun ep => ep.mask &&& w != 0) then e.trapRes s 0x07 0
      else if !found && decide (4 ≤ e.g.episodes.length) then e.trapRes s 0x07 0
      else
        let eps := if found then e.g.episodes.map fun ep => if ep.mask = w then { ep with arrived := ep.arrived ||| mine } else ep
          else e.g.episodes ++ [{ mask := w, arrived := mine }]
        let s := (s.setGath e.q.gath { e.g with episodes := eps }).upd e fun q => q.park (.msync w)
        .ok ((s.modGath e.q.gath fun g => g.dropEpisodes (s.memberIndices g)).wakeMsync e.q.gath))

/-! ### ATTACH and DETACH (R382, R383) -/

/-- A result an instruction returns after its effect was accepted: to the quire, and to its group's record (R525). -/
def State.returned (s : State) (id : Nat) (ws : List RegWrite) : State :=
  s.modQuire id fun q =>
    let q := q.land ws
    { q with ckpt := { q.ckpt with record := recordGrow (pcSlot q.selfPc) ws q.ckpt.record } }

def Env.attach (e : Env) (s : State) (h : Hdr) (f : FmtE) : Res State :=
  e.onceUniform s h (
    let k := e.readOnce h f.a .n32
    let entry := e.readOnce h f.b .n64
    let arg := e.readOnce h f.c .i64
    if e.poisonOnce h [k, entry, arg] then e.trapRes s 0x0E 8
    else if k.n = 0 ∨ 15 < k.n then e.trapRes s 0x03 0
    else
      let g := min k.n (e.vol.pkt.maxQ - e.g.quires.length - e.g.wanted.length)
      let ask : PendingQuire := { entry := BitVec.ofNat 64 entry.n, arg := BitVec.ofNat 64 arg.n, from' := e.q.index }
      let s := ((s.commit e.id).accept e.id []).modGath e.q.gath fun x => { x with wanted := x.wanted ++ List.replicate g ask }
      .ok (s.returned e.id (oldWrites (some f.d) true 0 g false)))

/-- DETACH: the quire is left without lanes, and retires as R480 lays down, leaving its barriers then (R383). -/
def Env.detach (e : Env) (s : State) (h : Hdr) : Res State :=
  e.onceUniform s h (.ok ((s.commit e.id).upd e fun q => { q with regs := q.regs.dropLanes (BitVec.allOnes 256), queries := [] }))

/-! ### SPAWN (R386) -/

def Env.spawn (e : Env) (s : State) (h : Hdr) (f : FmtE) : Res State :=
  let lanes := e.lanes (e.contrib h)
  let bad := e.pick (e.contrib h) fun l => (e.spawnEntry f l).bad || (e.spawnKey f l).bad
  match lanes with
  | [] => .ok (if e.effect h = 0 then s else s.commit e.id)
  | l :: _ =>
    let entry := (e.spawnEntry f l).n
    if bad ≠ 0 then e.poison s 8 bad
    else if lanes.any fun k => (e.spawnEntry f k).n != entry then e.trapRes s 0x06 2
    else
      match e.enterLanes f (BitVec.ofNat 64 entry) lanes (s.commit e.id) with
      | none => .error (.stall .spawn, s)
      | some s =>
        let s := s.accept e.id []
        .ok (if f.m.getLsbD 0 then s.upd e fun q => { q with regs := q.regs.dropLanes (e.contrib h), queries := q.queries.filter fun r => !(e.contrib h).has r.1 }
          else s)

/-! ### QPUSH (R388) -/

def queueKey (cid q : Nat) : Nat := 4096 * cid + q

/-- `a − b` of two 32-bit sequence numbers. -/
def seqDiff (a b : Nat) : Nat := (a + 2 ^ 32 - b % 2 ^ 32) % 2 ^ 32

/-- A push whose release is complete, with room in the ring, takes its number, writes its slot and the tail line, and its launch's parent is known;
until then it waits (R388, R44). -/
def State.pushTry (s : State) (e : Env) (qk : Nat) (pkt : List W8) (sd : Opnd) : Except XFault (Option State) × State :=
  match FMap.find s.queues qk with
  | none => (.ok none, s)
  | some Q =>
    match s.translate 0 e.vol.ctx e.ctx.root Q.tailVa .store with
    | (.error x, s) => (.error x, s)
    | (.ok t, s) =>
      let tail := s.homeNum t.pa 4
      let s := tail.2
      let seq := (tail.1 + 1) % 2 ^ 32
      match s.translate 0 e.vol.ctx e.ctx.root (Q.ring + 128 * (seq % 2 ^ Q.n)) .store with
      | (.error x, s) => (.error x, s)
      | (.ok r, s) =>
        if !(s.core e.g.pcore).released e.id ∨ 2 ^ Q.n < seqDiff seq Q.accepted then (.ok none, s)
        else
          let s := ((s.accept e.id []).breakFor e.g.vol r.pa).breakFor e.g.vol t.pa
          let s := s.putHome r.pa (pkt.take 4 ++ leBytes 4 seq ++ pkt.drop 8)
          let s := ((s.putHome t.pa (leBytes 4 seq)).observed e.g.pcore t.pa 4).observed e.g.pcore r.pa 128
          let s : State := { s with queues := FMap.modify s.queues qk fun Q => { Q with parents := FMap.insert Q.parents seq e.g.vol } }
          let s := s.modVol e.g.vol fun v => { v with children := v.children + 1 }
          (.ok (some ((s.returned e.id (oldWrites (some sd) true 0 seq false)).upd e fun q => { q with wait := .none })), s)

def Env.qpush (e : Env) (s : State) (h : Hdr) (f : FmtE) : Res State :=
  e.onceUniform s h (
    let qn := e.readOnce h f.a .n64
    let pv := e.readOnce h f.b .n64
    let qk := queueKey e.vol.ctx qn.n
    let open' := decide (qn.n < 4096) && (match FMap.find s.queues qk with
      | some Q => Q.deviceSide && (Q.state == .running || Q.state == .waiting)
      | none => false)
    if e.poisonOnce h [qn, pv] then e.trapRes s 0x0E 8
    else if 10 ≤ e.vol.depth then e.trapRes s 0x16 0
    else if !open' then e.trapRes s 0x0B 0
    else if pv.n % 128 ≠ 0 then .error (.trap (e.trapInfo 0x0A 0xFFFF 0 pv.n 0), s)
    else match s.wordAt e .gen pv.n 128 .load with
      | .error r => .error r
      | .ok (p, s) =>
        let r := s.readKeys e (runKeys p.1 128) true
        if e.contrib h != 0 && r.1.any Prod.snd then e.trapRes r.2 0x0E 8
        else
        let s := (r.2.commit e.id).release e.g.pcore e.id .dev false
        match s.pushTry e qk (r.1.map Prod.fst) f.d with
        | (.error x, s) => .error (.fault x, s)
        | (.ok (some s), _) => .ok s
        | (.ok none, s) => .ok (s.upd e fun q => { q with wait := .stall (.qpush qk (r.1.map Prod.fst) f.d) }))

/-! ### Meanings -/

/-- BARINIT (R376). -/
def execBarinit (h : Hdr) (f : FmtE) (s : State) : Out := s.perform (.barinit h f) fun e s => e.barinit s h f
/-- BARARV (R377). -/
def execBararv (h : Hdr) (f : FmtE) (s : State) : Out := s.perform (.bararv h f) fun e s => e.bararv s h f
/-- BARWAIT (R378). -/
def execBarwait (h : Hdr) (f : FmtE) (s : State) : Out := s.perform (.barwait h f) fun e s => e.barwait s h f
/-- BARTRY (R378). -/
def execBartry (h : Hdr) (f : FmtE) (s : State) : Out := s.perform (.bartry h f) fun e s => e.bartry s h f
/-- TRYWAIT (R379, R380). -/
def execTrywait (h : Hdr) (f : FmtE) (s : State) : Out := s.perform (.trywait h f) fun e s => e.trywait s h f
/-- MSYNC (R385). -/
def execMsync (h : Hdr) (f : FmtE) (s : State) : Out := s.perform (.msync h f) fun e s => e.msync s h f
/-- ATTACH (R382). -/
def execAttach (h : Hdr) (f : FmtE) (s : State) : Out := s.perform (.attach h f) fun e s => e.attach s h f
/-- DETACH (R383). -/
def execDetach (h : Hdr) (f : FmtE) (s : State) : Out := s.perform (.detach h f) fun e s => e.detach s h
/-- SPAWN (R386). -/
def execSpawn (h : Hdr) (f : FmtE) (s : State) : Out := s.perform (.spawn h f) fun e s => e.spawn s h f
/-- QPUSH (R388). -/
def execQpush (h : Hdr) (f : FmtE) (s : State) : Out := s.perform (.qpush h f) fun e s => e.qpush s h f

end Sys2Proof.Machine
end

