-- ==== Sys2Proof/Machine/Streamer.lean ====
section
/-! DEFINITION. Group 0x9, the streamer and buffer handles (R259–R271, R511). -/
namespace Sys2Proof.Machine

/-- Ring slots h60–h63 of a task quire (R511). -/
def Env.ringSlot (e : Env) (n : Nat) : Bool := e.g.role == .task && decide (60 ≤ n ∧ n < 64)

/-- The frame of group 0x9 (R260, R262): uniform guard, some active lane, producer rights, poison, then the instruction's own checks and effect. -/
def Env.handleOp (e : Env) (s : State) (h : Hdr) (o : Opnd) (producer : Bool) (others : List (Val × Nat)) (k : Nat → Res State) : Res State :=
  let n := e.readOnce h o .n64
  e.onceUniform s h (
    if e.contrib h = 0 then .ok s
    else if producer && e.vol.pkt.producer != e.q.index then e.trapRes s 0x08 0
    else match ((n, 8) :: others).find? fun v => v.1.bad with
      | some v => e.trapRes s 0x0E v.2
      | none => k n.n)

/-- One check among operand values, with the address it names. -/
def Env.checkVal (e : Env) (s : State) (bad : Bool) (code addr : Nat) (k : Res State) : Res State :=
  if bad then .error (.trap (e.trapInfo code 0xFFFF 0 addr 0), s) else k

/-- A byte count that check 5 refuses (R262): zero, not a multiple of 16, or larger than the handle's buffer. -/
def Env.countBad (e : Env) (n bytes : Nat) : Bool :=
  bytes == 0 || bytes % 16 != 0 || (!e.ringSlot n && decide (16 * (e.g.handle n).size < bytes))

/-- A die-scratchpad run of `len` bytes from `a` that leaves the context's window of one die (R225). -/
def Env.dspadBad (e : Env) (a len : Nat) : Bool :=
  decide (a / 2 ^ 27 ≠ 0) || decide (e.ctx.windowLen < a % 2 ^ 25 + len)

/-- Address checks of a transfer (R262): bound, alignment, canonical form. -/
def Env.addrChecks (e : Env) (s : State) (dspad : Bool) (a len : Nat) (k : Res State) : Res State :=
  e.checkVal s (dspad && e.dspadBad (a % 2 ^ 32) len) 0x0B a <|
  e.checkVal s (decide (a % 16 ≠ 0)) 0x0A a <|
  e.checkVal s (!dspad && !canonical a) 0x0D a k

/-- Queue one transfer on a handle, behind earlier ones; it starts at once where the handle is FREE and nothing is held on it (R263). -/
def State.queueXfer (s : State) (e : Env) (gid n : Nat) (kind : XferKind) (bytes : Nat) : State :=
  let r := s.fresh
  let x : Transfer := { gath := gid, handle := n, kind := kind, bytes := bytes, started := false, pieces := [], fault := none, ctx := e.vol.ctx,
                        vol := e.g.vol, issuer := e.q.gath, tensor := none, got := [] }
  let first := (s.handle gid n).state == .free && !s.heldOn gid n
  let s : State := { r.2 with xfers := FMap.insert r.2.xfers r.1 x }
  if first then s.xferStart r.1 else s

/-- A transfer's issue after every check: the commit, the queueing, the acceptance (R260, R433). -/
def Env.issue (e : Env) (s : State) (n : Nat) (kind : XferKind) (bytes : Nat) : Res State :=
  if e.ringSlot n then e.trapRes s 0x09 0
  else .ok (((s.commit e.id).queueXfer e e.q.gath n kind bytes).accept e.id [])

def isDspad (f : FmtE) : Bool := mSpace f.m == 3

/-- CPY and CPYOUT. -/
def Env.copy (e : Env) (s : State) (h : Hdr) (f : FmtE) (out : Bool) : Res State :=
  let a := e.readOnce h f.a .n64
  let b := e.readOnce h f.b .i64
  e.handleOp s h f.d true [(a, 1), (b, 8)] fun n =>
    e.checkVal s (e.countBad n b.n) 0x03 0 <|
    e.addrChecks s (isDspad f) a.n b.n <|
    e.issue s n (if out then .cpyout (BitVec.ofNat 64 a.n) (isDspad f) else .cpy (BitVec.ofNat 64 a.n) (isDspad f)) b.n

/-- The rows of a CPY2D from a die scratchpad stay inside the window (R225). -/
def Env.rowsBad (e : Env) (a rows rb : Nat) (stride : Int) : Bool :=
  (List.range rows).any fun r =>
    let p := ((a % 2 ^ 32 : Nat) : Int) + r * stride
    decide (p < 0) || e.dspadBad p.toNat rb

def Env.copy2d (e : Env) (s : State) (h : Hdr) (f : FmtE) : Res State :=
  let a := e.readOnce h f.a .n64
  let b := e.readOnce h f.b .i64
  let c := e.readOnce h f.c .i64
  let rows := bits b.n 47 32
  let rb := bits b.n 23 0
  let stride := (BitVec.ofNat 64 c.n).toInt
  e.handleOp s h f.d true [(a, 1), (b, 8), (c, 8)] fun n =>
    e.checkVal s (rows == 0 || bits b.n 63 48 != 0 || bits b.n 31 24 != 0 || stride % 16 != 0 || e.countBad n (rows * rb)) 0x03 0 <|
    e.checkVal s (isDspad f && e.rowsBad a.n rows rb stride) 0x0B a.n <|
    e.addrChecks s (isDspad f) a.n 0 <|
    e.issue s n (.cpy2d (BitVec.ofNat 64 a.n) (isDspad f) rows rb (BitVec.ofNat 64 c.n)) (rows * rb)

def Env.copyTensor (e : Env) (s : State) (h : Hdr) (f : FmtE) : Res State :=
  let a := e.readOnce h f.a .n64
  let b := e.readOnce h f.b .i64
  e.handleOp s h f.d true [(a, 1), (b, 8)] fun n =>
    e.checkVal s (decide (a.n % 64 ≠ 0)) 0x0A a.n <|
    e.checkVal s (!canonical a.n) 0x0D a.n <|
    e.issue s n (.cpyt (BitVec.ofNat 64 a.n) (BitVec.ofNat 64 b.n)) 16

/-- Place offsets a CPYMC mask names (R266). -/
def maskOffsets (m : Nat) : List (Int × Int) :=
  ((List.range 49).filter m.testBit).map fun i => (((i % 7 : Nat) : Int) - 3, ((i / 7 : Nat) : Int) - 3)

/-- An offset leaves the span (R57). -/
def Env.offSpan (e : Env) (d : Int × Int) : Bool :=
  let px := ((e.g.x % e.vol.spanWidth : Nat) : Int) + d.1
  let py := ((e.g.y % e.vol.spanHeight : Nat) : Int) + d.2
  decide (px < 0) || decide ((e.vol.spanWidth : Int) ≤ px) || decide (py < 0) || decide ((e.vol.spanHeight : Int) ≤ py)

def Env.copyMulti (e : Env) (s : State) (h : Hdr) (f : FmtE) : Res State :=
  let a := e.readOnce h f.a .n64
  let b := e.readOnce h f.b .i64
  let c := e.readOnce h f.c .i64
  let offs := maskOffsets c.n
  e.handleOp s h f.d true [(a, 1), (b, 8), (c, 8)] fun n =>
    e.checkVal s (b.n == 0 || b.n % 16 != 0 || bits c.n 63 49 != 0) 0x03 0 <|
    e.checkVal s (offs.any e.offSpan || (isDspad f && e.dspadBad (a.n % 2 ^ 32) b.n)) 0x0B a.n <|
    e.addrChecks s (isDspad f) a.n b.n <|
    if e.ringSlot n then e.trapRes s 0x09 0
    else
      let cmd := (s.commit e.id).fresh
      let s := cmd.2
      let kind := XferKind.mc (BitVec.ofNat 64 a.n) (isDspad f) cmd.1
      .ok ((offs.foldl (fun s d => match s.spanMate e d.1 d.2 with
        | none => s
        | some t => s.queueXfer e t.1 n kind b.n) s).accept e.id [])

def Env.copyFill (e : Env) (s : State) (h : Hdr) (f : FmtE) : Res State :=
  let a := e.readOnce h f.a .i64
  let b := e.readOnce h f.b .i64
  e.handleOp s h f.d true [(a, 4), (b, 8)] fun n =>
    e.checkVal s (e.countBad n b.n) 0x03 0 <|
    e.issue s n (.fill (BitVec.ofNat 32 a.n) false) b.n

def Env.hset (e : Env) (s : State) (h : Hdr) (f : FmtE) : Res State :=
  let a := e.readOnce h f.a .i64
  let b := e.readOnce h f.b .i64
  e.handleOp s h f.d true [(a, 8), (b, 8)] fun n =>
    e.checkVal s (b.n == 0 || b.n % 16 != 0 || a.n % 16 != 0) 0x03 0 <|
    e.checkVal s (decide (e.vol.portion < a.n + b.n)) 0x0B 0 <|
    if e.ringSlot n || (e.g.handle n).state != .free || s.heldOn e.q.gath n then e.trapRes s 0x09 0
    else .ok (((s.commit e.id).modHandle e.q.gath n fun x => { x with offset := a.n / 16, size := b.n / 16, fill := 0, error := 0 }).accept e.id [])

/-- HWAIT finds its state: it returns, and on FULL it acquires, or takes the trap of a transfer that ended in error (R268, R271). -/
def Env.handleReached (e : Env) (s : State) (n : Nat) (full : Bool) : Res State :=
  let h := s.handle e.q.gath n
  if full && h.error != 0 then .error (.trap (e.trapInfo h.error 0xFFFF n 0 0), s)
  else .ok (if full then s.acquire e.g.pcore .dev else s)

def Env.hwait (e : Env) (s : State) (h : Hdr) (f : FmtE) : Res State :=
  let full := f.m.toNat % 4 == 2
  e.handleOp s h f.d false [] fun n =>
    if (s.handle e.q.gath n).state == (if full then .full else .free) then e.handleReached s n full
    else .ok (s.upd e fun q => q.park (.hwait n full))

def Env.hdrain (e : Env) (s : State) (h : Hdr) (f : FmtE) : Res State :=
  e.handleOp s h f.d false [] fun n =>
    if e.ringSlot n || (s.handle e.q.gath n).state != .full then e.trapRes s 0x09 0
    else .ok (((s.commit e.id).modHandle e.q.gath n fun x => { x with state := .draining, error := 0 }).accept e.id [])

/-- A handle becomes FREE (R258, R268): every HWAIT.free pending on it is released, and a held command starts at once. -/
def State.freeHandle (s : State) (gid n : Nat) : State :=
  let s := s.modHandle gid n fun x => { x with state := .free }
  let s : State := { s with quires := s.quires.map fun x =>
    if x.2.gath == gid && x.2.wait == .hwait n false then (x.1, { x.2 with wait := .none }) else x }
  s.startHeld gid n

def Env.hfree (e : Env) (s : State) (h : Hdr) (f : FmtE) : Res State :=
  e.handleOp s h f.d false [] fun n =>
    if e.ringSlot n || (s.handle e.q.gath n).state != .draining then e.trapRes s 0x09 0
    else .ok (((s.commit e.id).freeHandle e.q.gath n).accept e.id [])

/-- HSTAT (R257): the record, once or in every lane; one that reads FULL is an acquire (R271). -/
def Env.hstat (e : Env) (s : State) (h : Hdr) (f : FmtE) : Res State :=
  e.handleOp s h f.a false [] fun n =>
    let w := s.handleWord e.q.gath n
    let s := if (s.handle e.q.gath n).state == .full then s.acquire e.g.pcore .dev else s
    .ok (s.upd e (e.deliver h f.d 2 false ((e.lanes (e.effect h)).map fun l => { lane := l, n := w.toNat, badLo := false, badHi := false })))

/-! ### Meanings -/

/-- CPY (R263, R264). -/
def execCpy (h : Hdr) (f : FmtE) (s : State) : Out := s.perform (.cpy h f) fun e s => e.copy s h f false
/-- CPY2D (R264). -/
def execCpy2d (h : Hdr) (f : FmtE) (s : State) : Out := s.perform (.cpy2d h f) fun e s => e.copy2d s h f
/-- CPYT (R265). -/
def execCpyt (h : Hdr) (f : FmtE) (s : State) : Out := s.perform (.cpyt h f) fun e s => e.copyTensor s h f
/-- CPYMC (R266). -/
def execCpymc (h : Hdr) (f : FmtE) (s : State) : Out := s.perform (.cpymc h f) fun e s => e.copyMulti s h f
/-- CPYOUT (R267). -/
def execCpyout (h : Hdr) (f : FmtE) (s : State) : Out := s.perform (.cpyout h f) fun e s => e.copy s h f true
/-- CPYFILL (R264). -/
def execCpyfill (h : Hdr) (f : FmtE) (s : State) : Out := s.perform (.cpyfill h f) fun e s => e.copyFill s h f
/-- HSET (R268). -/
def execHset (h : Hdr) (f : FmtE) (s : State) : Out := s.perform (.hset h f) fun e s => e.hset s h f
/-- HWAIT (R268). -/
def execHwait (h : Hdr) (f : FmtE) (s : State) : Out := s.perform (.hwait h f) fun e s => e.hwait s h f
/-- HDRAIN (R268). -/
def execHdrain (h : Hdr) (f : FmtE) (s : State) : Out := s.perform (.hdrain h f) fun e s => e.hdrain s h f
/-- HFREE (R268). -/
def execHfree (h : Hdr) (f : FmtE) (s : State) : Out := s.perform (.hfree h f) fun e s => e.hfree s h f
/-- HSTAT (R257). -/
def execHstat (h : Hdr) (f : FmtE) (s : State) : Out := s.perform (.hstat h f) fun e s => e.hstat s h f

end Sys2Proof.Machine
end

