-- ==== Sys2Proof/Machine/Matrix.lean ====
section
/-! DEFINITION. Group 0xA, matrix operations (R274–R293): operands in memory and in registers, the sums of R168–R171, row progress after a
fault, keep, fragment moves and activation. A matrix instruction reads its operands when it issues, which R281 admits; its results
land when the unit is done. -/
namespace Sys2Proof.Machine

/-- An element of a matrix operand as read: its code, and whether a word of it is poisoned. -/
abbrev Mel := Nat × Bool

/-! ### Elements (R152, R155, R156, R159, R274) -/

/-- The value of an element code, INT8 elements with `scale` as R201 reads them. -/
def matNum (code : Nat) (scaled : Bool) (v : Nat) : Num :=
  let int := fun (signed : Bool) (w : Nat) =>
    let i := intOf signed w v
    Num.fin (decide (i < 0)) i.natAbs (if scaled then -6 else 0)
  match code with
  | 0 => Fmt.f64.decode v
  | 1 => Fmt.f32.decode v
  | 2 => Fmt.f16.decode v
  | 3 => Fmt.bf16.decode v
  | 4 => Fmt.e4m3.decode v
  | 5 => Fmt.e5m2.decode v
  | 6 => Fmt.e2m1.decode v
  | 7 => int true 8
  | 8 => int false 8
  | 9 => int true 4
  | 10 => int false 4
  | 11 => bpNum v
  | 12 => int true 4
  | 13 => int false 4
  | _ => int true 32

/-! ### Reading operands (R279–R281) -/

/-- Bytes of a peer that a matrix instruction reads (R415, R416): those it has been given, under its quire's own uncommitted stores (R233); it asks
for them, behind its core's earlier stores there, and waits in its place. -/
def State.operandPeer (s : State) (e : Env) (pa n : Nat) : Except Halt Mel × State :=
  match FMap.find s.quires e.id with
  | none => (.error (.stall .order), s)
  | some q =>
    let got := (List.range n).filterMap fun i => FMap.find q.peerGot (pa + i)
    if got.length = n then
      (.ok (leValue (got.mapIdx fun i b => (storeByte q.store (pa + i)).getD b.1), got.any Prod.snd), s)
    else if s.peerHeld e.g.pcore pa n || s.peerOut.any (fun o => o.use == .operand e.id pa) then (.error (.stall .order), s)
    else (.error (.stall .order), ((s.flushPeer e.g.pcore pa n).peerSend pa e.g.pcore [] [] n (.operand e.id pa)).2)

/-- `n` bytes of an operand at a virtual address, in one naturally aligned piece: as a load of the quire reads them; `far` says whether the
operand may lie at a peer (R416). -/
def State.operandBytes (s : State) (e : Env) (far : Bool) (va n : Nat) : Except Halt Mel × State :=
  let va := va % 2 ^ 64
  match s.xlLane e va .load with
  | (.error f, s) => (.error f, s)
  | (.ok x, s) =>
    if paKind x.pa = .peer then
      if far then s.operandPeer e x.pa n else (.error (.trap (e.trapInfo 0x0D 0xFFFF 0 va 0)), s)
    else
      let r := s.readKeys e (runKeys x.pa n) (!x.uncached)
      (.ok (leValue (r.1.map Prod.fst), r.1.any Prod.snd), r.2)

/-- Row `r` plus column `c` of an operand with a row stride, as a virtual address (R279). -/
def rowVa (base r : Nat) (stride : Int) (off : Nat) : Nat := (((base : Int) + r * stride + off) % 2 ^ 64).toNat

/-- Element `c` of a row that begins at `va` (R274): a 4-bit element is half a byte. -/
def State.rowElem (s : State) (e : Env) (far : Bool) (code va c : Nat) : Except Halt Mel × State :=
  let b := elemBits code
  match s.operandBytes e far (va + c * b / 8) (max 1 (b / 8)) with
  | (.error f, s) => (.error f, s)
  | (.ok m, s) => (.ok (if b = 4 then (m.1 / 2 ^ (4 * (c % 2)) % 16, m.2) else m), s)

/-- Element `c` of a bit-plane row: bit `c mod 64` of each plane word from `j0` to `b − 1` (R159, R280). A signed one is sign-extended to
four bits. -/
def State.planeElem (s : State) (e : Env) (far signed : Bool) (b j0 va c : Nat) : Except Halt Mel × State :=
  let step := fun (acc : Except Halt Mel × State) (j : Nat) =>
    match acc with
    | (.error f, s) => (.error f, s)
    | (.ok m, s) =>
      match s.operandBytes e far (va + c / 64 * (8 * b) + 8 * j) 8 with
      | (.error f, s) => (.error f, s)
      | (.ok w, s) => (.ok (m.1 + (if w.1.testBit (c % 64) then 2 ^ j else 0), m.2 || w.2), s)
  let r := ((List.range b).filter fun j => decide (j0 ≤ j)).foldl step (.ok (0, false), s)
  match r with
  | (.error f, s) => (.error f, s)
  | (.ok m, s) => (.ok (if signed then intBits 4 (intOf true b m.1) else m.1, m.2), s)

/-- A run of element reads: `old` are the elements to go by, in order: a held copy (R291), or, as the result lands, what was read at issue; `log` is
what has been read, the last first. -/
structure Reads where
  s   : State
  old : List Mel
  landing : Bool
  log : List Mel

/-- One element. As the result lands, an element that memory now holds otherwise is met old or new (R281). -/
def Reads.elem (r : Reads) (read : State → Except Halt Mel × State) : Except Halt Mel × Reads :=
  match r.old with
  | [] =>
    match read r.s with
    | (.error f, s) => (.error f, { r with s := s })
    | (.ok m, s) => (.ok m, { r with s := s, log := m :: r.log })
  | m :: rest =>
    let now := match (read r.s).1 with
      | .ok x => x
      | .error _ => m
    if !r.landing || now == m then (.ok m, { r with old := rest, log := m :: r.log })
    else
      let z := if Config.free .stale r.s.tick % 2 = 0 then m else now
      (.ok z, { r with s := r.s.bump, old := rest, log := z :: r.log })

/-- A list of elements read one after another. -/
def readList (read : Nat → Reads → Except Halt Mel × Reads) : List Nat → Reads → Except Halt (List Mel) × Reads
  | [], r => (.ok [], r)
  | i :: is, r =>
    match read i r with
    | (.error f, r) => (.error f, r)
    | (.ok m, r) =>
      match readList read is r with
      | (.error f, r) => (.error f, r)
      | (.ok ms, r) => (.ok (m :: ms), r)

/-- One vector of an operand: `vector` is the row of A or the column of B, `kk` runs along it. `along` says that the elements of a vector lie
along a row in memory. -/
def State.operandElem (s : State) (e : Env) (f : FmtE) (far : Bool) (code base : Nat) (stride : Int) (along : Bool) (vector kk : Nat) :
    Except Halt Mel × State :=
  if isPlane code then s.planeElem e far (code == 12) (mPlanes f) (mFirst f) (rowVa base vector stride 0) kk
  else if along then s.rowElem e far code (rowVa base vector stride 0) kk
  else s.rowElem e far code (rowVa base kk stride 0) vector

/-! ### Sums (R168–R171) -/

/-- The exponent of the leading bit of a non-zero term. -/
def leadExp : Num → Option Int
  | .fin _ m e => if m = 0 then none else some ((Nat.log2 m : Int) + e)
  | _ => none

/-- A term truncated toward zero to a multiple of 2^q. -/
def truncTerm (q : Int) : Num → Num
  | .fin s m e => if q ≤ e then .fin s m e else .fin s (m / 2 ^ (q - e).toNat) q
  | x => x

/-- One group of R169. -/
def groupSum (acc : Nat) (ps : List (Num × Num)) : Nat × Fl :=
  let terms := some (Fmt.f32.decode acc) :: ps.map fun p => Num.mul p.1 p.2
  let ts := terms.filterMap id
  if terms.any Option.isNone || ts.any Num.isNan then (Fmt.f32.nanCode, Fl.invalid)
  else
    let lead := (ts.filterMap leadExp).foldl (fun (a : Option Int) x => match a with
      | none => some x
      | some y => some (max x y)) none
    let ts := match lead with
      | none => ts
      | some m => ts.map (truncTerm (m - 48))
    match sumNum .rne ts with
    | none => (Fmt.f32.nanCode, Fl.invalid)
    | some v => Fmt.f32.ofNum .rne false false v

/-- Runs of `g` pairs, `n` of them. -/
def chunks {α : Type} (g : Nat) : Nat → List α → List (List α)
  | 0, _ => []
  | n + 1, l => l.take g :: chunks g n (l.drop g)

/-- FP64 and FP32 (R168): one fused operation a step. -/
def fmaSum (F : Fmt) (acc : Nat) (ps : List (Num × Num)) : Nat × Fl :=
  ps.foldl (fun a p => let r := F.fma .rne false false p.1 p.2 (F.decode a.1); (r.1, a.2 ||| r.2)) (acc, 0)

/-- Integers (R170): exact, modulo 2^32. -/
def intSum (acc : Nat) (ps : List (Num × Num)) : Nat :=
  intBits 32 (ps.foldl (fun a p => a + p.1.scaled 0 * p.2.scaled 0) (intOf true 32 acc))

/-- A finite value times 2^k; infinities and NaNs stay. -/
def scaleNum (k : Int) : Num → Num
  | .fin s m e => .fin s m (e + k)
  | x => x

/-- One block of R171: the exact dot product, scaled, then one rounding into the accumulator. A scale of 0xFF
makes its terms NaN, and a NaN term is invalid (R169). -/
def blockSum (acc : Nat) (ps : List (Num × Num)) (ea eb : Nat) : Nat × Fl :=
  let F := Fmt.f32
  let terms := ps.map fun p => Num.mul p.1 p.2
  let ts := terms.filterMap id
  if terms.any Option.isNone || ts.any Num.isNan || ea == 255 || eb == 255 then (F.nanCode, Fl.invalid)
  else match sumNum .rne ts with
    | none => (F.nanCode, Fl.invalid)
    | some p => F.sumOf .rne false false [F.decode acc] [some (F.decode acc), some (scaleNum ((ea : Int) - 127 + ((eb : Int) - 127)) p)]

/-- The sum of one element (R290): a row of A, a column of B, the accumulator as it stands. -/
def matSum (p : MatPair) (acc : Nat) (ps : List (Num × Num)) (steps : Nat) : Nat × Fl :=
  match p.cls with
  | 0 => fmaSum Fmt.f64 acc ps
  | 1 => fmaSum Fmt.f32 acc ps
  | 3 => (intSum acc ps, 0)
  | _ => (chunks p.k steps ps).foldl (fun a l => let r := groupSum a.1 l; (r.1, a.2 ||| r.2)) (acc, 0)

/-- The sum of one element of MMAS (R171): blocks of 32, then the tensor scales `ta` and `tb`. -/
def scaledSum (ps : List (Num × Num)) (ea eb : List Nat) (ta tb : Nat) : Nat × Fl :=
  let F := Fmt.f32
  let blocks := chunks 32 ea.length ps
  let r := (blocks.zip (ea.zip eb)).foldl (fun a x => let r := blockSum a.1 x.1 x.2.1 x.2.2; (r.1, a.2 ||| r.2)) (0, (0 : Fl))
  let t := F.mulr .rne false false (F.decode ta) (F.decode tb)
  let d := F.mulr .rne false false (F.decode t.1) (F.decode r.1)
  (d.1, r.2 ||| t.2 ||| d.2)

/-! ### Fragments (R277, R278) -/

/-- Rows of a word's tile by class. -/
def tileRows (cls : Nat) : Nat := if cls < 2 then 16 else 32
def tileCols (cls : Nat) : Nat := if cls < 2 then 16 else 32

/-- The lane of the quire, and the column within it, that hold element (r, j) of the quire tile. -/
def fragPlace (cls r j : Nat) : Nat × Nat :=
  if cls < 2 then (r / 16 * 32 + 2 * (r % 16) + j / 8, j % 8) else (r / 32 * 32 + r % 32, j)

/-- An element of an accumulator fragment. -/
def Env.fragElem (e : Env) (cls base r j : Nat) : Mel :=
  let p := fragPlace cls r j
  let v := if cls = 0 then e.view.vecVal (base + 2 * p.2) 2 p.1 else e.view.vecVal (base + p.2) 1 p.1
  (v.n, v.bad)

/-- The writes that put an element into an accumulator fragment. -/
def fragWrites (cls base r j : Nat) (m : Mel) : List RegWrite :=
  let p := fragPlace cls r j
  let out : LaneOut := { lane := p.1, n := m.1, badLo := m.2, badHi := m.2 }
  if cls = 0 then vecWrites (base + 2 * p.2) 2 out else vecWrites (base + p.2) 1 out

/-- Element kk of row r of an A fragment (R278). -/
def Env.aFragElem (e : Env) (p : MatPair) (code base r kk : Nat) : Mel :=
  if p.cls < 2 then
    let lane := r / 16 * 32 + 2 * (r % 16) + kk % 2
    let v := if p.cls = 0 then e.view.vecVal (base + 2 * (kk / 2)) 2 lane else e.view.vecVal (base + kk / 2) 1 lane
    (v.n, v.bad)
  else
    let b := elemBits code
    let v := e.view.vecVal (base + kk * b / 32) 1 r
    (v.n / 2 ^ (kk * b % 32) % 2 ^ b, v.bad)

/-! ### Checks (R284) -/

/-- Checks 2 and 3 of R284, then the instruction. -/
def Env.matrixOp (e : Env) (s : State) (h : Hdr) (k : Res State) : Res State :=
  let g := e.guard h
  if g = 0 then .ok s
  else if g ≠ e.allLanes then e.trapRes s 0x06 2
  else if e.path ≠ e.allLanes then e.trapRes s 0x06 6
  else k

/-- A signed 32-bit stride (R279). -/
def strideOf (v : Nat) : Int := (BitVec.ofNat 32 v).toInt

/-- Checks 4 to 6 of R284: poison (R468: addresses, other operands), alignment of bases and strides, canonical form of every VA; scale VAs have no
alignment rule (R290). -/
def Env.matrixChecks (e : Env) (s : State) (addrs others : List Val) (bases scales : List Nat) (strides : List Int) (k : Res State) : Res State :=
  let detail := (if addrs.any Val.bad then 1 else 0) + (if others.any Val.bad then 8 else 0)
  if detail ≠ 0 then e.trapRes s 0x0E detail
  else match bases.find? (fun b => b % 16 != 0), strides.any (fun t => t % 16 != 0), (bases ++ scales).find? (fun b => !canonical b) with
    | some b, _, _ => .error (.trap (e.trapInfo 0x0A 0xFFFF 0 b 0), s)
    | none, true, _ => e.trapRes s 0x0A 0
    | none, false, some b => .error (.trap (e.trapInfo 0x0D 0xFFFF 0 b 0), s)
    | none, false, none => k

/-! ### Results -/

/-- Names of a fragment of `n` registers from a base, in every word the group sweeps. -/
def Env.fragNames (e : Env) (o : Opnd) (n : Nat) : List Nat := e.useNames { o := o, n := n, wr := true } []

/-- What a matrix instruction writes, and the flags it raises. -/
abbrev Tile := List RegWrite × Fl

/-- The unit takes the instruction (R286); its job is not done before those issued earlier on its partition. -/
def State.takeJob (s : State) (e : Env) (i : Instr) (req : Nat) (fl : Fl) (log : List Mel) (stores : List (Nat × List W8)) : State :=
  { s with mjobs := s.mjobs ++ [{ quire := e.id, core := e.g.pcore, part := e.q.part, flags := fl.setWidth 64, req := req, ins := i, view := e.view,
                                  pc := e.q.selfPc, old := log.reverse, vol := e.g.vol, stores := stores }] }

/-- The unit takes an instruction whose results are outstanding from now on (R285). -/
def State.queueMatrix (s : State) (e : Env) (i : Instr) (o : Opnd) (n : Nat) (t : Tile) (log : List Mel) : State :=
  let r := s.fresh
  let p : Pending := { kind := .matrix, writes := t.1, names := e.fragNames o n, ready := false, req := r.1, acq := none,
                       slot := if e.q.grp.isSome then some e.slot else none, old := false }
  (r.2.takeJob e i r.1 t.2 log []).upd e fun q => { q with pend := q.pend ++ [p], peerGot := [] }

/-- Any matrix instruction of the partition drops the held copy, one that stops on a fault too, unless it uses it or leaves one itself (R291). -/
def State.dropHeld (s : State) (e : Env) : State := { s with held := s.held.filter fun x => !(x.core == e.g.pcore && x.part == e.q.part) }

/-- A matrix instruction that holds no copy: its elements are read, and its tile is outstanding. -/
def Env.matrixRun (e : Env) (s : State) (i : Instr) (o : Opnd) (n : Nat) (tile : Reads → Except Halt Tile × Reads) : Res State :=
  match tile { s := s.dropHeld e, old := [], landing := false, log := [] } with
  | (.error z, r) => .error (z, r.s)
  | (.ok t, r) => .ok (r.s.queueMatrix e i o n t r.log)

/-- The held copy a matrix instruction may use: of its own quire, of the same B, for MMAS of the same scales (R291). -/
def State.heldFor (s : State) (e : Env) (key : List Nat) (scaled : Bool) : Option HeldB :=
  if !e.q.keepB then none
  else s.held.find? fun x => x.core == e.g.pcore && x.part == e.q.part && x.quire == e.id && x.key.take 7 == key.take 7 && (!scaled || x.key == key)

/-! ### MMA, MMAS, MMAR (R288–R291) -/

/-- The operands of an arithmetic matrix instruction, as its fields name them. -/
structure MmaPlan where
  p      : MatPair
  scaled : Bool
  fromRegs : Bool
  aBase  : Nat
  aStride : Int
  bBase  : Nat
  bStride : Int
  aScale : Nat
  bScale : Nat
  ta     : Nat
  tb     : Nat
deriving DecidableEq, Repr

/-- Elements along k, columns, and blocks of 32. -/
def MmaPlan.K (x : MmaPlan) (f : FmtE) : Nat := mSteps f * x.p.k
def MmaPlan.blocks (x : MmaPlan) (f : FmtE) : Nat := if x.scaled then x.K f / 32 else 0

/-- The operands may lie at a peer (R416): those of MMA and MMAS. -/
def MmaPlan.far (x : MmaPlan) : Bool := !x.fromRegs

/-- The B operand: its columns and their scales. -/
def readB (e : Env) (f : FmtE) (x : MmaPlan) (r : Reads) : Except Halt (List (List Mel) × List (List Mel)) × Reads :=
  (List.range (tileCols x.p.cls)).foldl (fun (acc : Except Halt (List (List Mel) × List (List Mel)) × Reads) j =>
    match acc with
    | (.error f, r) => (.error f, r)
    | (.ok b, r) =>
      match readList (fun kk r => r.elem fun s => s.operandElem e f x.far (mB f) x.bBase x.bStride (mTb f) j kk) (List.range (x.K f)) r with
      | (.error f, r) => (.error f, r)
      | (.ok col, r) =>
        match readList (fun k r => r.elem fun s => s.operandBytes e x.far (x.bScale + j * x.blocks f + k) 1) (List.range (x.blocks f)) r with
        | (.error f, r) => (.error f, r)
        | (.ok sc, r) => (.ok (b.1 ++ [col], b.2 ++ [sc]), r)) (.ok ([], []), r)

/-- The elements of a held copy in the order in which an instruction reads them: an MMA does without the scales. -/
def HeldB.elems (h : HeldB) (scaled : Bool) : List Mel := ((h.vals.zip h.scales).map fun c => if scaled then c.1 ++ c.2 else c.1).flatten

/-- Row r of A and its scales. -/
def readA (e : Env) (f : FmtE) (x : MmaPlan) (i : Nat) (r : Reads) : Except Halt (List Mel × List Mel) × Reads :=
  let row := if x.fromRegs then (Except.ok ((List.range (x.K f)).map fun kk => e.aFragElem x.p (mA f) (Opnd.num f.a) i kk), r)
    else readList (fun kk r => r.elem fun s => s.operandElem e f x.far (mA f) x.aBase x.aStride (!mTa f) i kk) (List.range (x.K f)) r
  match row with
  | (.error f, r) => (.error f, r)
  | (.ok a, r) =>
    match readList (fun k r => r.elem fun s => s.operandBytes e x.far (x.aScale + i * x.blocks f + k) 1) (List.range (x.blocks f)) r with
    | (.error f, r) => (.error f, r)
    | (.ok sc, r) => (.ok (a, sc), r)

/-- What the rows done so far come to, and what stopped the unit, at which row. -/
structure RowsDone where
  writes : List RegWrite
  fl     : Fl
  fault  : Option (Halt × Nat)
deriving DecidableEq, Repr

/-- One row of the tile: its results, with the flags of lanes that are not padding (R166, R287). -/
def Env.mmaRow (e : Env) (f : FmtE) (x : MmaPlan) (b : List (List Mel) × List (List Mel)) (a : List Mel × List Mel) (r : Nat) : List RegWrite × Fl :=
  let base := Opnd.num f.d
  let an := a.1.map fun m => matNum (mA f) x.scaled m.1
  let aBad := a.1.any Prod.snd || a.2.any Prod.snd
  (List.range (tileCols x.p.cls)).foldl (fun acc j =>
    let col := b.1.getD j []
    let sc := b.2.getD j []
    let ps := an.zip (col.map fun m => matNum (mB f) x.scaled m.1)
    let c := e.fragElem x.p.cls base r j
    let z := if x.scaled then scaledSum ps (a.2.map Prod.fst) (sc.map Prod.fst) x.ta x.tb else matSum x.p c.1 ps (mSteps f)
    let bad := aBad || col.any Prod.snd || sc.any Prod.snd || (!x.scaled && c.2)
    let fl := if e.view.padding.has (fragPlace x.p.cls r j).1 then 0 else z.2
    (acc.1 ++ fragWrites x.p.cls base r j (z.1, bad), acc.2 ||| fl)) ([], 0)

/-- Rows in ascending order, until an operand faults (R288). -/
def mmaRows (e : Env) (f : FmtE) (x : MmaPlan) (b : List (List Mel) × List (List Mel)) : List Nat → Reads → RowsDone × Reads
  | [], r => ({ writes := [], fl := 0, fault := none }, r)
  | i :: is, r =>
    match readA e f x i r with
    | (.error z, r) => ({ writes := [], fl := 0, fault := some (z, i) }, r)
    | (.ok a, r) =>
      let z := e.mmaRow f x b a i
      let rest := mmaRows e f x b is r
      ({ rest.1 with writes := z.1 ++ rest.1.writes, fl := z.2 ||| rest.1.fl }, rest.2)

/-- sr.rowprog for a row of the instruction at hand. -/
def Env.rowprog (e : Env) (r : Nat) : W64 := BitVec.ofNat 64 (e.q.selfPc.toNat % 2 ^ 48 * 2 ^ 16 + r)

/-- The first row a matrix instruction does (R289): sr.rowprog's when it names this PC. -/
def Env.firstRow (e : Env) : Option Nat :=
  let v := e.view.rowprog.toNat
  if v ≠ 0 ∧ v / 2 ^ 16 = e.q.selfPc.toNat % 2 ^ 48 then some (v % 2 ^ 16) else none

/-- A fault at row r (R288): the rows before it stand, in what the group goes back to as well, and sr.rowprog says where to go on; one of
MMAR leaves nothing (R289). -/
def State.keepRows (s : State) (e : Env) (fromRegs : Bool) (ws : List RegWrite) (fl : Fl) (r : Nat) : State :=
  if fromRegs || e.handlerMode then s
  else s.upd e fun q =>
    let put := fun (x : Regs) => { x.applyAll ws with rowprog := e.rowprog r, fpflags := x.fpflags ||| fl.setWidth 64 }
    { q with regs := put q.regs, snap := q.snap.map put }

/-- What names a B operand (R291); the scale VA of MMAS, which no copy of an MMA or MMAR has. -/
def MmaPlan.key (x : MmaPlan) (f : FmtE) : List Nat :=
  [x.bBase, (BitVec.ofInt 64 x.bStride).toNat, mB f, if mTb f then 1 else 0, mPlanes f, mFirst f, mSteps f, if x.scaled then x.bScale + 1 else 0]

/-- The row an MMA, MMAS or MMAR begins at; none where sr.rowprog does not name it. -/
def Env.startRow (e : Env) (x : MmaPlan) : Option Nat := if x.fromRegs then none else e.firstRow

/-- B, then the rows. -/
def mmaCalc (e : Env) (f : FmtE) (x : MmaPlan) (r : Reads) : (List (List Mel) × List (List Mel)) × RowsDone × Reads :=
  let first := (e.startRow x).getD 0
  match readB e f x r with
  | (.error z, r) => (([], []), { writes := [], fl := 0, fault := some (z, first) }, r)
  | (.ok b, r) => (b, mmaRows e f x b ((List.range (e.words * tileRows x.p.cls)).filter fun i => decide (first ≤ i)) r)

def Env.mmaRun (e : Env) (s : State) (i : Instr) (h : Hdr) (f : FmtE) (x : MmaPlan) : Res State :=
  let key := x.key f
  let copy := s.heldFor e key x.scaled
  let old := match copy with
    | some b => b.elems x.scaled
    | none => []
  let c := mmaCalc e f x { s := s.dropHeld e, old := old, landing := false, log := [] }
  let s := c.2.2.s
  match c.2.1.fault with
  | some (.fault z, r) => .error (if x.fromRegs || e.handlerMode then .fault z else .rows z, s.keepRows e x.fromRegs c.2.1.writes c.2.1.fl r)
  | some (.stall k, _) => .error (.stall k, { s with held := s.held ++ copy.toList })
  | some (z, _) => .error (z, s)
  | none =>
    let s := s.queueMatrix e i f.d (fragRegs x.p.cls) (c.2.1.writes, c.2.1.fl) c.2.2.log
    let held : HeldB := { core := e.g.pcore, part := e.q.part, quire := e.id, key := key, vals := c.1.1, scales := c.1.2 }
    let s : State := if h.keep then { s with held := s.held ++ [held] } else s
    .ok (s.upd e fun q => { q with keepB := h.keep, regs := if (e.startRow x).isSome then { q.regs with rowprog := 0 } else q.regs })

def Env.mmaPlan (e : Env) (h : Hdr) (f : FmtE) : Option MmaPlan :=
  (matPair (mA f) (mB f)).map fun p =>
    let c := (e.readOnce h f.c .i64).n
    { p := p, scaled := false, fromRegs := false, aBase := (e.readOnce h f.a .n64).n, aStride := strideOf (c % 2 ^ 32),
      bBase := (e.readOnce h f.b .n64).n, bStride := strideOf (c / 2 ^ 32), aScale := 0, bScale := 0, ta := 0, tb := 0 }

def Env.mma (e : Env) (s : State) (h : Hdr) (f : FmtE) : Res State :=
  match e.mmaPlan h f with
  | none => e.trapRes s 0x03 0
  | some x => e.matrixOp s h (e.matrixChecks s [e.readOnce h f.a .n64, e.readOnce h f.b .n64] [e.readOnce h f.c .i64] [x.aBase, x.bBase] []
      [x.aStride, x.bStride] (e.mmaRun s (.mma h f) h f x))

/-- Scalar s(n + i) of an MMAS. -/
def Env.scaleScal (e : Env) (h : Hdr) (f : FmtE) (i : Nat) : Val := e.readOnce h (.s 0 (BitVec.ofNat 7 (Opnd.num f.c + i))) .n64

def Env.mmasPlan (e : Env) (h : Hdr) (f : FmtE) : Option MmaPlan :=
  (scaledPair (mA f) (mB f)).map fun p =>
    let sc := fun i => (e.scaleScal h f i).n
    { p := p, scaled := true, fromRegs := false, aBase := (e.readOnce h f.a .n64).n, aStride := strideOf (sc 0 % 2 ^ 32),
      bBase := (e.readOnce h f.b .n64).n, bStride := strideOf (sc 0 / 2 ^ 32), aScale := sc 1, bScale := sc 2, ta := sc 3 % 2 ^ 32, tb := sc 3 / 2 ^ 32 }

def Env.mmas (e : Env) (s : State) (h : Hdr) (f : FmtE) : Res State :=
  match e.mmasPlan h f with
  | none => e.trapRes s 0x03 0
  | some x =>
    let sc := e.scaleScal h f
    e.matrixOp s h (e.matrixChecks s [e.readOnce h f.a .n64, e.readOnce h f.b .n64, sc 1, sc 2] [sc 0, sc 3] [x.aBase, x.bBase]
      [x.aScale, x.bScale] [x.aStride, x.bStride] (e.mmaRun s (.mmas h f) h f x))

def Env.mmarPlan (e : Env) (h : Hdr) (f : FmtE) : Option MmaPlan :=
  (matPair (mA f) (mB f)).map fun p =>
    { p := p, scaled := false, fromRegs := true, aBase := 0, aStride := 0, bBase := (e.readOnce h f.b .n64).n,
      bStride := strideOf ((e.readOnce h f.c .i64).n % 2 ^ 32), aScale := 0, bScale := 0, ta := 0, tb := 0 }

def Env.mmar (e : Env) (s : State) (h : Hdr) (f : FmtE) : Res State :=
  match e.mmarPlan h f with
  | none => e.trapRes s 0x03 0
  | some x => e.matrixOp s h (e.matrixChecks s [e.readOnce h f.b .n64] [e.readOnce h f.c .i64] [x.bBase] [] [x.bStride] (e.mmaRun s (.mmar h f) h f x))

/-! ### MLDC, MSTC, MZERO, MACT (R292, R293) -/

/-- Every element of the quire tile of a class, rows first. -/
def Env.tile (e : Env) (cls : Nat) : List (Nat × Nat) :=
  (List.range (e.words * tileRows cls)).flatMap fun r => (List.range (tileCols cls)).map fun j => (r, j)

/-- A memory element widened to its class (R292). -/
def widenMem (cls code v : Nat) : Nat × Fl :=
  if cls = 2 ∧ (code = 2 ∨ code = 3) then
    let x := matNum code false v
    let r := Fmt.f32.ofNum .rne false false x
    (r.1, r.2 ||| readFlags [x])
  else (v, 0)

/-- Check 5 of R229 on the elements of a tile in memory: the lanes, padding apart, that hold one whose address is not canonical, and the lowest
lane's first such address. -/
def Env.tileTrap (e : Env) (tile : List (Nat × Nat)) (cls : Nat) (va : Nat × Nat → Nat) : Option TrapInfo :=
  let bad := tile.filter fun x => !e.view.padding.has (fragPlace cls x.1 x.2).1 && !canonical (va x)
  let lanes := setOf (bad.map fun x => (fragPlace cls x.1 x.2).1)
  match bad.find? fun x => LaneSet.lowest e.width lanes == some (fragPlace cls x.1 x.2).1 with
  | none => none
  | some x => some (e.trapLanes 0x0D 0 (va x) lanes)

/-- The elements of MLDC as a load gives them (R221): one of a padding lane whose address fails reads zero. -/
def mldcCalc (e : Env) (h : Hdr) (f : FmtE) (r : Reads) : Except Halt Tile × Reads :=
  let cls := mA f
  let a := e.readOnce h f.a .n64
  let st := strideOf ((e.readOnce h f.b .i64).n % 2 ^ 32)
  let tile := e.tile cls
  let pad := fun (x : Nat × Nat) => e.view.padding.has (fragPlace cls x.1 x.2).1
  let one := fun (i : Nat) (r : Reads) => r.elem fun s =>
    match s.rowElem e true (mB f) (rowVa a.n (i / tileCols cls) st 0) (i % tileCols cls) with
    | (.error (.fault z), s) => (if pad (i / tileCols cls, i % tileCols cls) then .ok (0, false) else .error (.fault z), s)
    | z => z
  match readList one (List.range tile.length) r with
  | (.error z, r) => (.error z, r)
  | (.ok ms, r) =>
    (.ok ((tile.zip ms).foldl (fun (acc : Tile) x =>
      let w := widenMem cls (mB f) x.2.1
      (acc.1 ++ fragWrites cls (Opnd.num f.d) x.1.1 x.1.2 (w.1, x.2.2), if pad x.1 then acc.2 else acc.2 ||| w.2)) ([], 0)), r)

def Env.mldc (e : Env) (s : State) (h : Hdr) (f : FmtE) : Res State :=
  let a := e.readOnce h f.a .n64
  let t := e.readOnce h f.b .i64
  let st := strideOf (t.n % 2 ^ 32)
  e.matrixOp s h (e.matrixChecks s [a] [t] [a.n] [] [st] (
    match e.tileTrap (e.tile (mA f)) (mA f) (fun x => rowVa a.n x.1 st (x.2 * (elemBits (mB f) / 8))) with
    | some z => .error (.trap z, s)
    | none => e.matrixRun s (.mldc h f) f.d (fragRegs (mA f)) (mldcCalc e h f)))

/-- A fragment element as MSTC stores it; ftz16 flushes a tiny 16-bit one (R163). -/
def narrowMem (ftz16 : Bool) (cls code v : Nat) : Nat × Fl :=
  let F : Fmt := if code = 2 then .f16 else .bf16
  if cls = 2 ∧ (code = 2 ∨ code = 3) then
    let x := Fmt.f32.decode v
    let r := F.ofNum .rne false ftz16 x
    (r.1, r.2 ||| readFlags [x])
  else (v, 0)

/-- The addresses of a tile's elements, translated for the engine's write; the first that fails. -/
def State.tilePlaces (s : State) (e : Env) : List Nat → Except Halt (List Nat) × State
  | [] => (.ok [], s)
  | va :: vas =>
    match s.xlLane e va .store with
    | (.error f, s) => (.error f, s)
    | (.ok x, s) =>
      match s.tilePlaces e vas with
      | (.error f, s) => (.error f, s)
      | (.ok l, s) => (.ok (x.pa :: l), s)

/-- One element written by the matrix unit of core `c` for a launch: to its home, of which the core then keeps no older word, or to a peer, counted
toward its home die (R357). A seal on its page breaks (R48). -/
def State.tileWrite (s : State) (c vid : Nat) (x : Nat × List W8) : State :=
  let s := s.breakFor vid x.1
  if paKind x.1 = .peer then
    let d := keyHomeDie x.1
    ((s.flushPeer c x.1 x.2.length).peerSend x.1 c x.2 [] x.2.length (.write (some d))).2.modCore c fun v =>
      { v with cnt := FMap.put 0 v.cnt d (FMap.val 0 v.cnt d + 1) }
  else (s.engineWrite x.1 (x.2.map fun b => (b, false))).observed c x.1 x.2.length

/-- What goes before the tile an MSTC writes has still to reach its home (R292, R360). -/
def State.tileHeld (s : State) (j : MatrixJob) : Bool :=
  j.stores.any fun x => if paKind x.1 = .peer then s.peerHeld j.core x.1 x.2.length else stuckAt s x.1 x.2.length

def Env.mstc (e : Env) (s : State) (h : Hdr) (f : FmtE) : Res State :=
  let cls := mA f
  let a := e.readOnce h f.a .n64
  let t := e.readOnce h f.b .i64
  let st := strideOf (t.n % 2 ^ 32)
  let n := elemBits (mB f) / 8
  let va := fun x : Nat × Nat => rowVa a.n x.1 st (x.2 * n)
  e.matrixOp s h (e.matrixChecks s [a] [t] [a.n] [] [st] (
    let s := s.dropHeld e
    let tile := (e.tile cls).filter fun x => !e.view.padding.has (fragPlace cls x.1 x.2).1
    match e.tileTrap tile cls va, s.tilePlaces e (tile.map va) with
    | some z, _ => .error (.trap z, s)
    | none, (.error z, s) => .error (z, s)
    | none, (.ok pas, s) =>
      let vals := tile.map fun x => e.fragElem cls (Opnd.num f.c) x.1 x.2
      let bad := (tile.zip vals).foldl (fun (m : LaneSet) x => if x.2.2 then m ||| LaneSet.one (fragPlace cls x.1.1 x.1.2).1 else m) 0
      if bad ≠ 0 then e.poison s 4 bad
      else
        let out := vals.map fun m => narrowMem e.ftz16 cls (mB f) m.1
        let r := ((s.commit e.id).accept e.id []).fresh
        .ok ((r.2.takeJob e (.mstc h f) r.1 0 [] ((pas.zip out).map fun x => (x.1, leBytes n x.2.1))).upd e fun q => q.raise (out.foldl (fun a r => a ||| r.2) 0))))

def Env.mzero (e : Env) (s : State) (h : Hdr) (f : FmtE) : Res State :=
  let n := fragRegs (mA f)
  e.matrixOp s h (e.matrixRun s (.mzero h f) f.d n fun r =>
    (.ok ((e.lanes e.allLanes).flatMap fun l => (List.range n).map fun i => RegWrite.vec (vKey (Opnd.num f.d + i) l) 0 false, 0), r))

/-- MACT's output format (R292). -/
def actFmt (code : Nat) : Fmt := match code with | 2 => .f16 | 3 => .bf16 | 4 => .e4m3 | _ => .e5m2

/-- One element of MACT (R293): the exact sum with the bias, ReLU, one rounding. -/
def actElem (code : Nat) (relu sat ftz : Bool) (a b : Nat) : Nat × Fl :=
  let F := actFmt code
  let x := Fmt.f32.decode a
  let y := Fmt.f32.decode b
  let rf := readFlags [x, y]
  match sumNum .rne [x, y], x.isNan || y.isNan with
  | _, true => (F.ofNan.1, rf ||| F.ofNan.2)
  | none, _ => (F.ofNan.1, rf ||| F.ofNan.2 ||| Fl.invalid)
  | some v, _ =>
    let v := if relu && (v.sign || v.isZero) then Num.fin false 0 0 else v
    let r := F.ofNum .rne sat (ftz && (code == 2 || code == 3)) v
    (r.1, rf ||| r.2)

/-- MACT over its fragment, with the bias read as a load, which may not lie at a peer (R416). -/
def mactCalc (e : Env) (h : Hdr) (f : FmtE) (r : Reads) : Except Halt Tile × Reads :=
  let code := mB f
  let b := e.readOnce h f.b .n64
  let bias := if f.b == Opnd.s127 then ((Except.ok (List.replicate 32 (0, false)) : Except Halt (List Mel)), r)
    else readList (fun j r => r.elem fun s => s.operandBytes e false (b.n + 4 * j) 4) (List.range 32) r
  match bias with
  | (.error z, r) => (.error z, r)
  | (.ok bs, r) =>
    let w := elemBits code
    let per := 32 / w
    let lane := fun l : Nat => (List.range (32 / per)).foldl (fun (acc : Tile) i =>
      let es := (List.range per).map fun k =>
        let j := i * per + k
        let c := e.view.vecVal (Opnd.num f.a + j) 1 l
        let d := bs.getD j (0, false)
        let r := actElem code (f.m.getLsbD 14) (f.m.getLsbD 13) e.ftz16 c.n d.1
        (r.1, r.2, c.bad || d.2)
      (acc.1 ++ [RegWrite.vec (vKey (Opnd.num f.d + i) l) (BitVec.ofNat 32 (packElems w (es.map Prod.fst))) (es.any fun x => x.2.2)],
       acc.2 ||| es.foldl (fun a x => a ||| x.2.1) 0)) ([], 0)
    (.ok ((e.lanes e.allLanes).foldl (fun (acc : Tile) l =>
      let r := lane l
      (acc.1 ++ r.1, if e.view.padding.has l then acc.2 else acc.2 ||| r.2)) ([], 0)), r)

def Env.mact (e : Env) (s : State) (h : Hdr) (f : FmtE) : Res State :=
  let b := e.readOnce h f.b .n64
  let none' := f.b == Opnd.s127
  e.matrixOp s h (e.matrixChecks s [b] [] (if none' then [] else [b.n]) [] [] (
    match ((List.range 32).map fun j => b.n + 4 * j).find? fun va => !none' && !canonical va with
    | some va => .error (.trap (e.trapInfo 0x0D 0xFFFF 0 va 0), s)
    | none => e.matrixRun s (.mact h f) f.d (elemBits (mB f)) (mactCalc e h f)))

/-! ### Landing (R281, R286) -/

/-- The tile of a job as its result lands: every memory element that has changed since issue is met old or new. -/
def State.landTile (s : State) (j : MatrixJob) : Tile × State :=
  match s.envOf j.quire with
  | none => (([], j.flags.setWidth 5), s)
  | some e =>
    let e : Env := { e with q := { e.q with snap := some j.view, selfPc := j.pc } }
    let r : Reads := { s := s, old := j.old, landing := true, log := [] }
    let issued := ((e.q.pend.find? fun p => p.kind == .matrix && p.req == j.req).map Pending.writes).getD []
    let same : Tile × State := ((issued, j.flags.setWidth 5), s)
    let done := fun (z : Except Halt Tile × Reads) => match z with
      | (.ok t, r) => (t, { s with tick := r.s.tick })
      | _ => same
    let mma := fun (f : FmtE) (x : Option MmaPlan) => match x with
      | none => same
      | some x =>
        let c := mmaCalc e f x r
        if c.2.1.fault.isSome then same else ((c.2.1.writes, c.2.1.fl), { s with tick := c.2.2.s.tick })
    match j.ins with
    | .mma h f => mma f (e.mmaPlan h f)
    | .mmas h f => mma f (e.mmasPlan h f)
    | .mmar h f => mma f (e.mmarPlan h f)
    | .mldc h f => done (mldcCalc e h f r)
    | .mact h f => done (mactCalc e h f r)
    | _ => same

/-! ### Meanings -/

/-- MMA (R290). -/
def execMma (h : Hdr) (f : FmtE) (s : State) : Out := s.perform (.mma h f) fun e s => e.mma s h f
/-- MMAS (R290, R171). -/
def execMmas (h : Hdr) (f : FmtE) (s : State) : Out := s.perform (.mmas h f) fun e s => e.mmas s h f
/-- MMAR (R290). -/
def execMmar (h : Hdr) (f : FmtE) (s : State) : Out := s.perform (.mmar h f) fun e s => e.mmar s h f
/-- MLDC (R292). -/
def execMldc (h : Hdr) (f : FmtE) (s : State) : Out := s.perform (.mldc h f) fun e s => e.mldc s h f
/-- MSTC (R292). -/
def execMstc (h : Hdr) (f : FmtE) (s : State) : Out := s.perform (.mstc h f) fun e s => e.mstc s h f
/-- MZERO (R292). -/
def execMzero (h : Hdr) (f : FmtE) (s : State) : Out := s.perform (.mzero h f) fun e s => e.mzero s h f
/-- MACT (R293). -/
def execMact (h : Hdr) (f : FmtE) (s : State) : Out := s.perform (.mact h f) fun e s => e.mact s h f

end Sys2Proof.Machine
end

