-- ==== Sys2Proof/Machine/Sampling.lean ====
section
/-! DEFINITION. Group 0xB (R294–R309): records read through the read-only path, textures, hash grids, the neural sampler. The sums are formed
when the instruction issues; the results land when the unit returns them. -/
namespace Sys2Proof.Machine

/-! ### Steps that may end in a trap or a fault -/

/-- Go on after a step that went well. -/
def andThen {α β : Type} (r : Except Halt α × State) (k : α → State → Except Halt β × State) : Except Halt β × State :=
  match r with
  | (.error x, s) => (.error x, s)
  | (.ok a, s) => k a s

/-- One step for each entry of a list, in order. -/
def eachOf {α β : Type} (f : α → State → Except Halt β × State) : List α → State → Except Halt (List β) × State
  | [], s => (.ok [], s)
  | a :: l, s => andThen (f a s) fun b s => andThen (eachOf f l s) fun bs s => (.ok (b :: bs), s)

/-- What stops an instruction, of what stopped its lanes: a trap, else a fault, else a wait; the lowest such lane names it. -/
def firstHalt (l : List (Nat × Halt)) : Option Halt :=
  let least := fun (p : Halt → Bool) => (l.filter fun x => p x.2).foldl (fun (m : Option (Nat × Halt)) x => match m with
    | some y => if x.1 < y.1 then some x else m
    | none => some x) none
  let isTrap := fun k : Halt => match k with
    | .trap _ => true
    | _ => false
  let isFault := fun k : Halt => match k with
    | .fault _ => true
    | _ => false
  match least isTrap, least isFault with
  | some (n, .trap t), _ => some (.trap { t with lanes := wordOf (setOf ((l.filter fun x => isTrap x.2).map Prod.fst)) n })
  | _, some (_, .fault x) => some (.fault { x with lanes := setOf ((l.filter fun x => isFault x.2).map Prod.fst) })
  | _, _ => (l.map Prod.snd).head?

/-- One step for each of a list, every lane tried; `laneOf` names the lane a step is made for. -/
def eachLane {α β : Type} (laneOf : α → Nat) (f : α → State → Except Halt β × State) (l : List α) (s : State) : Except Halt (List β) × State :=
  let r := l.foldl (fun (acc : List β × List (Nat × Halt) × State) a => match f a acc.2.2 with
    | (.ok b, s) => (acc.1 ++ [b], acc.2.1, s)
    | (.error k, s) => (acc.1, acc.2.1 ++ [(laneOf a, k)], s)) ([], [], s)
  match firstHalt r.2.1 with
  | none => (.ok r.1, r.2.2)
  | some k => (.error k, r.2.2)

def stepRes (r : Except Halt State × State) : Res State :=
  match r with
  | (.error x, s) => .error (x, s)
  | (.ok s, _) => .ok s

/-! ### Reading (R295, R298) -/

/-- One read of a lane at a generic address: `k` is given the translation, peers shut out (R416). -/
def State.laneAt {α : Type} (s : State) (e : Env) (lane va : Nat) (acc : Acc) (k : Xlated → State → Except Halt α × State) : Except Halt α × State :=
  let va := va % 2 ^ 64
  let no := fun (s : State) => ((.error (.trap (e.trapLanes 0x0D 0 va (LaneSet.one lane))) : Except Halt α), s)
  if !canonical va then no s
  else match s.xlLane e va acc with
    | (.error (.fault x), s) => (.error (.fault { x with lanes := LaneSet.one lane }), s)
    | (.error x, s) => (.error x, s)
    | (.ok x, s) => if paKind x.pa = .peer then no s else k x s

/-- `n` bytes of one line through the read-only path, old or new as a whole. -/
def State.roAt (s : State) (e : Env) (lane va n : Nat) : Except Halt (List (W8 × Bool)) × State :=
  s.laneAt e lane va .load fun x s => let r := s.roRead e.g.pcore x.pa n; (.ok r.1, r.2)

/-- `n` bytes as a load of the quire reads them. -/
def State.loadAt (s : State) (e : Env) (lane va n : Nat) : Except Halt (List (W8 × Bool)) × State :=
  s.laneAt e lane va .load fun x s =>
    if s.loadWaits e (runKeys x.pa n) then (.error (.stall .order), s)
    else let r := s.readKeys e (runKeys x.pa n) (!x.uncached); (.ok r.1, r.2)

/-- One number of `n` bytes as the quire loads it, with its poison; one that its address splits is read byte by byte. -/
def State.numAt (s : State) (e : Env) (lane va n : Nat) : Except Halt (Nat × Bool) × State :=
  let val := fun (bs : List (W8 × Bool)) (s : State) => ((.ok (leValue (bs.map Prod.fst), bs.any Prod.snd) : Except Halt (Nat × Bool)), s)
  if va % n = 0 then andThen (s.loadAt e lane va n) val
  else andThen (eachOf (fun i s => s.loadAt e lane (va + i) 1) (List.range n) s) fun bs s => val bs.flatten s

/-- A lane with a record VA. -/
structure RecAt where
  lane : Nat
  va   : Nat
deriving DecidableEq, Repr

def Env.vaIn (e : Env) (o : Opnd) (lane : Nat) : Val := e.readTy o .n64 lane

/-- A trap named by the lanes a test picks. -/
def Env.laneTrap (e : Env) (code detail : Nat) (addr : Nat → Nat) (bad : List Nat) : Option TrapInfo :=
  match bad with
  | [] => none
  | l :: ls => some (e.trapLanes code detail (addr l) (setOf (l :: ls)))

/-- The records of the lanes at their VAs: alignment, canonical form, then the bytes, each distinct record read once (R295). A
poisoned word of a record is one that forms an address (R468). -/
def Env.records (e : Env) (s : State) (align : Nat) (l : List RecAt) : Except Halt (List (Nat × List W8)) × State :=
  let at' := fun lane => ((l.find? fun x => x.lane == lane).map RecAt.va).getD 0
  let pick := fun p : Nat → Bool => (l.filter fun x => p x.va).map RecAt.lane
  match (e.laneTrap 0x0A 0 at' (pick fun v => v % align != 0)).or (e.laneTrap 0x0D 0 at' (pick fun v => !canonical v)) with
  | some t => (.error (.trap t), s)
  | none =>
    let first := fun va => ((l.find? fun x => x.va == va).map RecAt.lane).getD 0
    andThen (eachLane first (fun va s => andThen (s.roAt e (first va) va align) fun bs s => (.ok (va, bs), s)) (l.map RecAt.va).eraseDups s) fun rs s =>
      let of := fun va => ((rs.find? fun x => x.1 == va).map Prod.snd).getD []
      match e.laneTrap 0x0E 1 (fun _ => 0) ((l.filter fun x => (of x.va).any Prod.snd).map RecAt.lane) with
      | some t => (.error (.trap t), s)
      | none => (.ok (l.map fun x => (x.lane, (of x.va).map Prod.fst)), s)

/-- The records of padding lanes: one whose read would trap or fault is not read (R221). -/
def Env.padRecords (e : Env) (s : State) (align : Nat) (l : List RecAt) : List (Nat × List W8) × State :=
  l.foldl (fun (r : List (Nat × List W8) × State) x => match e.records r.2 align [x] with
    | (.ok p, s) => (r.1 ++ p, s)
    | (.error _, _) => r) ([], s)

/-- Every lane's record in the sense of its table, or trap 0x03 with the offset of the first faulty byte (R295). -/
def Env.parsed {α : Type} (e : Env) (rs : List (Nat × List W8)) (parse : List W8 → Except Nat α) : Except Halt (List (Nat × α)) :=
  let bad := rs.filterMap fun r => match parse r.2 with | .error o => some (r.1, o) | .ok _ => none
  match bad with
  | [] => .ok (rs.filterMap fun r => match parse r.2 with | .ok a => some (r.1, a) | .error _ => none)
  | b :: bs => .error (.trap (e.trapLanes 0x03 b.2 0 (setOf ((b :: bs).map Prod.fst))))

/-- What stands for a lane in a list. -/
def ofLane {α : Type} (l : List (Nat × α)) (lane : Nat) : Option α := (l.find? fun x => x.1 == lane).map Prod.snd

/-- Records read and understood, lane by lane in the order of `l`; a padding lane's record is checked where it can be read (R221, R295). -/
def Env.readRecords {α : Type} (e : Env) (s : State) (align : Nat) (l : List RecAt) (parse : List W8 → Except Nat α) :
    Except Halt (List (Nat × α)) × State :=
  let pad := fun x : RecAt => e.view.padding.has x.lane
  andThen (e.records s align (l.filter fun x => !pad x)) fun rs s =>
    let ps := e.padRecords s align (l.filter pad)
    let all := rs ++ ps.1
    (e.parsed (l.filterMap fun x => (ofLane all x.lane).map fun bs => (x.lane, bs)) parse, ps.2)

/-- The entries of lanes that are not padding, which read and work (R296). -/
def Env.working {α : Type} (e : Env) (l : List (Nat × α)) : List (Nat × α) := l.filter fun x => !e.view.padding.has x.1

/-- The first byte of a range that is not zero. -/
def recNonzero (bs : List W8) (lo hi : Nat) : Option Nat := ((List.range (hi + 1 - lo)).map (lo + ·)).find? fun o => bs.getD o 0 != 0
/-- The first of a list of faults, given in the order of their offsets. -/
def firstFault (l : List (Bool × Nat)) : Option Nat := (l.find? Prod.fst).map Prod.snd
def faultOr (a : List (Bool × Nat)) (b : Option Nat) (c : List (Bool × Nat)) : Option Nat := (firstFault a).or (b.or (firstFault c))

/-- Register bounds of a record-sized range, lane by lane (R295). -/
def Env.boundsBy (e : Env) (uses : Nat → List Use) (lanes : List Nat) : Option TrapInfo :=
  let beyond := fun l => firstSome (fun u => e.outOfBounds u l) (uses l)
  match lanes.filter fun l => (beyond l).isSome with
  | [] => none
  | l :: ls => some (e.trapLanes 0x04 (((beyond l).getD 0) % 2 ^ 32).toNat 0 (setOf (l :: ls)))

/-- Registers an instruction writes beyond those its word names (R92, R124). -/
def State.alsoMaps (s : State) (e : Env) (names : List Nat) : Option State :=
  let words := (names.filter fun n => decide (n < 2 ^ 20)).flatMap fun n => e.swept.map fun w => 256 * n + w
  State.mapNames e.g.pcore e.q.part e.id words (s.upd e fun q => { q with grp := q.grp.map fun g => { g with
    wrote := (g.wrote ++ names).eraseDups, mapped := g.mapped ++ words.filter fun n => !q.fresh.contains n } })
def State.alsoWrites (s : State) (e : Env) (names : List Nat) : State := (s.alsoMaps e names).getD s
/-- Rows for up to `n` result registers from `d` are to be had without a stall (R126). -/
def State.resultRows (s : State) (e : Env) (h : Hdr) (d : Opnd) (n : Nat) : Bool :=
  (s.alsoMaps e (e.vecNames { o := d, n := n, wr := true } (e.lanes (e.effect h)))).isSome

/-- Engine results on their way to registers (R122, R296): up to `n` registers from `d`; a padding lane's `padN` registers are zero. -/
def State.engineReturn (s : State) (e : Env) (h : Hdr) (d : Opnd) (n : Nat) (padN : Nat → Nat) (rs : List (Nat × List (W32 × Bool))) : State :=
  let pad := e.lanes (e.effect h &&& e.view.padding)
  let zero := pad.map fun l => (l, List.replicate (padN l) ((0 : W32), false))
  let ws := (rs ++ zero).flatMap fun r => e.laneWrites h d r.1 r.2
  let names := (e.vecNames { o := d, n := n, wr := true } (e.lanes (e.effect h)))
  (s.alsoWrites e names).upd e (e.outstanding h d n (e.lanes (e.effect h))
    [{ kind := .engine, writes := ws, names := [], ready := true, req := 0, acq := none, slot := none, old := false }])

/-- Registers from an operand's base on, in a lane; a base that is no vector supplies the same element, read per R172, for each (DEDUCED, log
entry 103). -/
def Env.regAt (e : Env) (o : Opnd) (i lane : Nat) : Val :=
  match o with
  | .v n => e.view.vecVal (n.toNat + i) 1 lane
  | .x k off => let b := e.view.indexed k off lane; if b < 0 then Val.zero else e.view.vecVal (b.toNat + i) 1 lane
  | _ => e.readTy o .f32 lane

/-- An FP32 coordinate; a NaN reads as 0 (R296). -/
def coordOf (v : Nat) : Num := let x := Fmt.f32.decode v; if x.isNan then .fin false 0 0 else x

def f32One : Nat := 0x3F800000
/-- FP32 in one rounding. -/
def f32Of (neg : Bool) (n d : Nat) (e : Int) : Nat := (Fmt.f32.round .rne false false neg n d e).1
def f32Mul (a b : Num) : Nat := (Fmt.f32.mulr .rne false false a b).1
def f32Fma (a b c : Num) : Nat := (Fmt.f32.fma .rne false false a b c).1
def f32Num (v : Nat) : Num := Fmt.f32.decode v
def toF16 (v : Nat) : Nat := (Fmt.f16.ofNum .rne false false (f32Num v)).1

/-! ### Texture descriptors and samplers (R299–R301) -/

structure Tex where
  base : Nat
  fmt  : Nat
  kind : Nat
  levels : Nat
  srgb : Bool
  w : Nat
  h : Nat
  d : Nat
deriving DecidableEq, Repr

def isAstc (f : Nat) : Bool := decide (0x10 ≤ f ∧ f ≤ 0x1D)
def texFmtOk (f : Nat) : Bool := decide (f ≤ 0x0A) || isAstc f
/-- ASTC footprints, code 0x10 first. -/
def astcBlock (f : Nat) : Nat × Nat :=
  [(4, 4), (5, 4), (5, 5), (6, 5), (6, 6), (8, 5), (8, 6), (8, 8), (10, 5), (10, 6), (10, 8), (10, 10), (12, 10), (12, 12)].getD (f - 0x10) (4, 4)
/-- Bytes of a texel, or of a block. -/
def texSize (f : Nat) : Nat := if isAstc f then 16 else [1, 2, 4, 4, 2, 4, 8, 4, 8, 16, 4].getD f 4

def texOf (bs : List W8) : Except Nat Tex :=
  let t : Tex := { base := recNum bs 0 8, fmt := recNum bs 8 1, kind := recNum bs 9 1, levels := recNum bs 10 1, srgb := (recNum bs 11 1).testBit 0,
                   w := recNum bs 12 2, h := recNum bs 14 2, d := recNum bs 16 2 }
  let flags := recNum bs 11 1
  let big := max (max t.w t.h) (if t.kind = 3 then t.d else 1)
  let dim := fun n => n == 0 || decide (32768 < n)
  match faultOr
    [(t.base % 128 != 0, 0), (!texFmtOk t.fmt, 8), (t.kind == 0 || decide (4 < t.kind) || (isAstc t.fmt && t.kind != 2 && t.kind != 4), 9),
     (t.levels == 0 || decide (16 < t.levels) || decide (Nat.log2 big + 1 < t.levels), 10),
     (decide (2 ≤ flags) || (t.srgb && !(decide (t.fmt ≤ 2) || isAstc t.fmt)), 11),
     (dim t.w, 12), (dim t.h || (t.kind == 1 && t.h % 256 != 1), 14), (t.kind == 1 && t.h != 1, 15),
     (dim t.d || (decide (t.kind ≤ 2) && t.d % 256 != 1), 16), (decide (t.kind ≤ 2) && t.d != 1, 17)]
    (recNonzero bs 18 63) [] with
  | some o => .error o
  | none => .ok t

structure Sampler where
  magLin : Bool
  minLin : Bool
  mipLin : Bool
  addr : List Nat
  bias : Nat
  lo : Nat
  hi : Nat
  border : List Nat
deriving DecidableEq, Repr

def samplerOf (bs : List W8) : Except Nat Sampler :=
  let f := recNum bs 0 1
  let a := recNum bs 1 1
  let x : Sampler := { magLin := f.testBit 0, minLin := f.testBit 1, mipLin := f.testBit 2, addr := [bits a 1 0, bits a 3 2, bits a 5 4],
                       bias := recNum bs 4 4, lo := recNum bs 8 4, hi := recNum bs 12 4, border := (List.range 4).map fun i => recNum bs (16 + 4 * i) 4 }
  match faultOr [(decide (8 ≤ f), 0), (decide (64 ≤ a), 1)] (recNonzero bs 2 3)
    [((f32Num x.bias).isNan, 4), ((f32Num x.lo).isNan, 8), ((f32Num x.hi).isNan || Num.cmp (f32Num x.hi) (f32Num x.lo) == .lt, 12)] with
  | some o => .error o
  | none => .ok x

def roundUp (n k : Nat) : Nat := (n + k - 1) / k * k

/-- Width, height, and depth or layers of a level (R299). -/
def Tex.dims (t : Tex) (j : Nat) : List Nat := [max 1 (t.w / 2 ^ j), max 1 (t.h / 2 ^ j), if t.kind = 4 then t.d else max 1 (t.d / 2 ^ j)]
/-- Columns and rows of a level as stored: texels, or blocks. -/
def Tex.grid (t : Tex) (j : Nat) : Nat × Nat :=
  let w := (t.dims j).getD 0 1
  let h := (t.dims j).getD 1 1
  if isAstc t.fmt then let b := astcBlock t.fmt; ((w + b.1 - 1) / b.1, (h + b.2 - 1) / b.2) else (w, h)
def Tex.pitch (t : Tex) (j : Nat) : Nat := roundUp ((t.grid j).1 * texSize t.fmt) 16
def Tex.slice (t : Tex) (j : Nat) : Nat := t.pitch j * (t.grid j).2
/-- Offset of a level from the base. -/
def Tex.level (t : Tex) : Nat → Nat
  | 0 => 0
  | j + 1 => roundUp (t.level j + t.slice j * (t.dims j).getD 2 1) 128
/-- The address of the texel, or of its block. -/
def Tex.va (t : Tex) (j x y z : Nat) : Nat :=
  let b := if isAstc t.fmt then astcBlock t.fmt else (1, 1)
  t.base + t.level j + z * t.slice j + y / b.2 * t.pitch j + x / b.1 * texSize t.fmt

/-! ### Texel formats (R300) -/

/-- The sRGB transfer function of an 8-bit code: whether y / 2^k lies within 2^−12 of it, in whole numbers. -/
def srgbNear (c y k : Nat) : Bool :=
  if c ≤ 10 then decide ((((y * 329460 : Nat) : Int) - (100 * c * 2 ^ k : Nat)).natAbs * 4096 ≤ 329460 * 2 ^ k)
  else
    let lo := y * 4096 - 2 ^ k
    let hi := y * 4096 + 2 ^ k
    let x := (1000 * c + 14025) ^ 12 * (4096 * 2 ^ k) ^ 5
    decide (lo ^ 5 * 269025 ^ 12 ≤ x) && decide (x ≤ hi ^ 5 * 269025 ^ 12)

/-- The largest n-bit fraction whose value the function reaches, bit by bit. -/
def srgbFloor (c : Nat) : Nat → Nat → Nat
  | 0, y => y
  | n + 1, y =>
    let z := y + 2 ^ n
    let ok := if c ≤ 10 then decide (z * 329460 ≤ 100 * c * 2 ^ 20) else decide (z ^ 5 * 269025 ^ 12 ≤ (1000 * c + 14025) ^ 12 * (2 ^ 20) ^ 5)
    srgbFloor c n (if ok then z else y)

/-- The linear FP32 value of an sRGB code: the candidate of Config.srgb where it lies inside the bound, else one that does (log entry 6). -/
def srgbValue (c : Nat) : Nat :=
  let r := (Config.srgb c).toNat
  let near := f32Of false (srgbFloor c 21 0) 1 (-20)
  match f32Num r with
  | .fin false m e => if e ≤ 0 ∧ -200 ≤ e ∧ srgbNear c m (-e).toNat then r else near
  | _ => near

/-- UNORM of `n` bits. -/
def unorm (n v : Nat) : Nat := f32Of false v (2 ^ n - 1) 0

/-- The four FP32 channels of a texel's bytes. -/
def texelOf (t : Tex) (bs : List W8) (x y : Nat) : List Nat :=
  let n := fun i k => recNum bs (i * k) k
  let un := fun (i : Nat) => if t.srgb && decide (i < 3) then srgbValue (n i 1) else unorm 8 (n i 1)
  let sn := fun (v : Nat) => let i := max (-127) (intOf true 8 v); f32Of (decide (i < 0)) i.natAbs 127 0
  let half := fun v => (Fmt.f32.ofNum .rne false false (Fmt.f16.decode v)).1
  let h := fun i => half (n i 2)
  let w := recNum bs 0 4
  match t.fmt with
  | 0x00 => [un 0, 0, 0, f32One]
  | 0x01 => [un 0, un 1, 0, f32One]
  | 0x02 => [un 0, un 1, un 2, un 3]
  | 0x03 => (List.range 4).map fun i => sn (n i 1)
  | 0x04 => [h 0, 0, 0, f32One]
  | 0x05 => [h 0, h 1, 0, f32One]
  | 0x06 => [h 0, h 1, h 2, h 3]
  | 0x07 => [n 0 4, 0, 0, f32One]
  | 0x08 => [n 0 4, n 1 4, 0, f32One]
  | 0x09 => [n 0 4, n 1 4, n 2 4, n 3 4]
  | 0x0A => [unorm 10 (bits w 9 0), unorm 10 (bits w 19 10), unorm 10 (bits w 29 20), unorm 2 (bits w 31 30)]
  | f => let b := astcBlock f
    (astcTexel t.srgb (leValue bs) b.1 b.2 (x % b.1) (y % b.2)).mapIdx fun i c => match c with
      | .half v => half v
      | .norm v => if t.srgb && decide (i < 3) then srgbValue (v / 256) else unorm 16 v

/-- Four channels, and whether a word read for them is poisoned. -/
structure Texel where
  ch  : List Nat
  bad : Bool
deriving DecidableEq, Repr

def State.texel (s : State) (e : Env) (lane : Nat) (t : Tex) (j x y z : Nat) : Except Halt Texel × State :=
  andThen (s.roAt e lane (t.va j x y z) (texSize t.fmt)) fun bs s =>
    (.ok { ch := texelOf t (bs.map Prod.fst) x y, bad := bs.any Prod.snd }, s)

/-! ### Filtering (R302) -/

/-- A texel position in one dimension: the lower index, and the fraction in 256ths. -/
structure Axis where
  i : Int
  f : Nat
deriving DecidableEq, Repr

/-- The position of a coordinate in a dimension of `n` texels. For an infinite one the manual states no index where the mode wraps or
mirrors: a free value (log entry 6). -/
def axisOf (linear : Bool) (mode n : Nat) (u : Num) : Axis :=
  match u with
  | .fin sg m ex =>
    let q := min ex (-1)
    let a := (Num.fin sg m ex).scaled q * (n : Int) - (if linear then 2 ^ (-1 - q).toNat else 0)
    let d : Int := 2 ^ (-q).toNat
    { i := a / d, f := if linear then (rint .rne false (a % d).toNat 1 q (-8)).1 else 0 }
  | _ =>
    if mode = 1 ∨ mode = 3 then { i := if u.sign then -(2 ^ 64) else 2 ^ 64, f := 0 }
    else { i := (Config.interp 1 [BitVec.ofNat 32 n, if u.sign then 1 else 0]).toNat,
           f := if linear then (Config.interp 2 [BitVec.ofNat 32 n, if u.sign then 1 else 0]).toNat % 257 else 0 }

/-- An index mapped by its address mode; none for the border. -/
def mapIndex (mode n : Nat) (i : Int) : Option Nat :=
  match mode with
  | 0 => some (i % n).toNat
  | 1 => some (min (n - 1) i.toNat)
  | 2 => let m := (i % (2 * n)).toNat; some (if m < n then m else 2 * n - 1 - m)
  | _ => if 0 ≤ i ∧ i < n then some i.toNat else none

/-- Spatial dimensions of a kind. -/
def Tex.rank (t : Tex) : Nat := match t.kind with | 1 => 1 | 3 => 3 | _ => 2

/-- The layer a coordinate selects (R302). -/
def layerOf (layers : Nat) (c : Num) : Nat :=
  match c with
  | .fin sg m e => if sg then 0 else min (layers - 1) (rint .rne false m 1 e 0).1
  | _ => if c.sign then 0 else layers - 1

/-- One corner of a footprint: its texel, and its weight in units of 256^−rank. -/
def State.corner (s : State) (e : Env) (lane : Nat) (t : Tex) (sm : Sampler) (j layer : Nat) (axes : List Axis) (c : Nat) :
    Except Halt (Texel × Nat) × State :=
  let dims := t.dims j
  let ix := axes.mapIdx fun k a => mapIndex (sm.addr.getD k 0) (dims.getD k 1) (a.i + if c.testBit k then 1 else 0)
  let w := (axes.mapIdx fun k a => if c.testBit k then a.f else 256 - a.f).foldl (· * ·) 1
  if ix.any Option.isNone then (.ok ({ ch := sm.border, bad := false }, w), s)
  else
    let at' := fun k => (ix.getD k none).getD 0
    andThen (s.texel e lane t j (at' 0) (if 2 ≤ t.rank then at' 1 else 0) (if t.kind = 3 then at' 2 else if t.kind = 4 then layer else 0)) fun x s =>
      (.ok (x, w), s)

/-- The corners of a footprint at a level, in ascending order. -/
def State.footprint (s : State) (e : Env) (lane : Nat) (t : Tex) (sm : Sampler) (linear : Bool) (j layer : Nat) (u : List Num) :
    Except Halt (List (Texel × Nat)) × State :=
  let axes := (List.range t.rank).map fun k => axisOf linear (sm.addr.getD k 0) ((t.dims j).getD k 1) (u.getD k (.fin false 0 0))
  eachOf (fun c s => s.corner e lane t sm j layer axes c) (List.range (2 ^ t.rank)) s

/-- Σ of weight × texel in FP32, one rounding a step. -/
def weighted (rank : Nat) (l : List (Texel × Nat)) : Texel :=
  let w := fun k : Nat => Num.fin false k (-(8 * rank : Int))
  let sum := fun ch : Nat => match l with
    | [] => 0
    | x :: xs => xs.foldl (fun acc y => f32Fma (w y.2) (f32Num (y.1.ch.getD ch 0)) (f32Num acc)) (f32Mul (w x.2) (f32Num (x.1.ch.getD ch 0)))
  { ch := (List.range 4).map sum, bad := l.any fun x => x.1.bad }

/-- λ of R302. A NaN level, or a sum of opposite infinities, is a value the manual states nothing of (log entry 6). -/
def lambdaOf (sm : Sampler) (lod : Num) : Num :=
  let r := (Fmt.f32.add .rne false false lod (f32Num sm.bias)).1
  let x := f32Num r
  let x := if x.isNan then f32Num (Config.interp 3 [BitVec.ofNat 32 sm.bias]).toNat else x
  let x := if x.isNan then f32Num sm.lo else x
  if Num.cmp x (f32Num sm.lo) == .lt then f32Num sm.lo else if Num.cmp (f32Num sm.hi) x == .lt then f32Num sm.hi else x

/-- floor(λ + add / 2), clamped to the levels. -/
def levelIndex (levels add : Nat) (x : Num) : Nat :=
  match x with
  | .fin sg m e =>
    let q := min e (-1)
    let v := ((Num.fin sg m e).scaled q + (add : Int) * 2 ^ (-1 - q).toNat) / (2 ^ (-q).toNat : Int)
    if v < 0 then 0 else min (levels - 1) v.toNat
  | _ => if x.sign then 0 else levels - 1

/-- The fraction of max(λ, 0) in 256ths. -/
def levelFrac (x : Num) : Nat :=
  match x with
  | .fin false m e => let q := min e 0; (rint .rne false ((m * 2 ^ (e - q).toNat) % 2 ^ (-q).toNat) 1 q (-8)).1
  | _ => 0

structure LevelPick where
  j0 : Nat
  j1 : Nat
  a  : Nat
  linear : Bool
deriving DecidableEq, Repr

def levelsOf (t : Tex) (sm : Sampler) (lod : Num) : LevelPick :=
  let x := lambdaOf sm lod
  let up := Num.cmp x (.fin false 0 0) == .gt
  let lin := if up then sm.minLin else sm.magLin
  if sm.mipLin then let j := levelIndex t.levels 0 x; { j0 := j, j1 := min (j + 1) (t.levels - 1), a := levelFrac x, linear := lin }
  else let j := levelIndex t.levels 1 x; { j0 := j, j1 := j, a := 0, linear := lin }

/-- Two levels blended (R302). -/
def blend (a : Nat) (x y : Texel) : Texel :=
  if a = 0 then x
  else
    let term := fun k (v : Nat) => Num.mul (.fin false k (-8)) (f32Num v)
    { ch := (List.range 4).map fun i =>
        let p := x.ch.getD i 0
        let r := y.ch.getD i 0
        (Fmt.f32.sumOf .rne false false [f32Num p, f32Num r] [term (256 - a) p, term a r]).1, bad := x.bad || y.bad }

/-- What a lane of TEX or TGATH samples with. -/
structure Sampled where
  tex : Tex
  smp : Sampler
  u   : List Num
  layer : Nat
  lod : Num
deriving DecidableEq, Repr

def Env.sampledAt (e : Env) (f : FmtE) (lane : Nat) (t : Tex) (sm : Sampler) : Sampled :=
  let c := fun i => coordOf (e.regAt f.a i lane).n
  let n := t.rank + if t.kind = 4 then 1 else 0
  { tex := t, smp := sm, u := (List.range t.rank).map c, layer := if t.kind = 4 then layerOf t.d (c t.rank) else 0,
    lod := if f.m.getLsbD 0 then c n else .fin false 0 0 }

def State.texLane (s : State) (e : Env) (lane : Nat) (x : Sampled) : Except Halt Texel × State :=
  let p := levelsOf x.tex x.smp x.lod
  let one := fun (j : Nat) (s : State) => andThen (s.footprint e lane x.tex x.smp p.linear j x.layer x.u) fun l s => (.ok (weighted x.tex.rank l), s)
  andThen (one p.j0 s) fun a s =>
    if p.a = 0 then (.ok a, s) else andThen (one p.j1 s) fun b s => (.ok (blend p.a a b), s)

/-- Registers of the four channels (R294). -/
def channelWords (half : Bool) (x : Texel) : List (W32 × Bool) :=
  if half then
    let h := fun i => toF16 (x.ch.getD i 0)
    [(BitVec.ofNat 32 (h 0 + 2 ^ 16 * h 1), x.bad), (BitVec.ofNat 32 (h 2 + 2 ^ 16 * h 3), x.bad)]
  else x.ch.map fun c => (BitVec.ofNat 32 c, x.bad)

/-- Poisoned words among the operands used as addresses (R296), in lanes that are not padding. -/
def Env.coordPoison (e : Env) (lanes : List Nat) (bad : Nat → Bool) : Option TrapInfo :=
  e.laneTrap 0x0E 1 (fun _ => 0) (lanes.filter fun l => !e.view.padding.has l && bad l)

/-- The record VAs of lanes; a padding lane's poisoned one names nothing (R221). -/
def Env.recAt (e : Env) (o : Opnd) (lanes : List Nat) : List RecAt :=
  (lanes.filter fun l => !(e.view.padding.has l && (e.vaIn o l).bad)).map fun l => { lane := l, va := (e.vaIn o l).n }

/-- Coordinates a lane of TEX or TGATH reads. -/
def texCoords (f : FmtE) (t : Tex) : Nat := t.rank + (if t.kind = 4 then 1 else 0) + if f.m.getLsbD 0 then 1 else 0

/-- TEX and TGATH up to their samples: the records, then bounds and poison of the coordinates they bound; TGATH takes two kinds only. -/
def Env.texPlan (e : Env) (s : State) (f : FmtE) (gath : Bool) (lanes : List Nat) : Except Halt (List (Nat × Sampled)) × State :=
  match e.coordPoison lanes fun l => (e.vaIn f.b l).bad || (e.vaIn f.c l).bad || (e.regAt f.a 0 l).bad with
  | some t => (.error (.trap t), s)
  | none =>
    andThen (e.readRecords s 64 (e.recAt f.b lanes) texOf) fun ts s =>
    andThen (e.readRecords s 32 (e.recAt f.c lanes) samplerOf) fun ss s =>
      let n := fun l => ((ofLane ts l).map (texCoords f)).getD 1
      match (e.boundsBy (fun l => [useN f.a (n l) 1 false]) lanes).or
          ((e.laneTrap 0x03 0 (fun _ => 0) ((ts.filter fun x => gath && x.2.kind != 2 && x.2.kind != 4).map Prod.fst)).or
          (e.coordPoison lanes fun l => (List.range (n l)).any fun i => (e.regAt f.a i l).bad)) with
      | some t => (.error (.trap t), s)
      | none => (.ok ((e.working ts).filterMap fun t => (ofLane ss t.1).map fun sm => (t.1, e.sampledAt f t.1 t.2 sm)), s)

def Env.tex (e : Env) (s : State) (h : Hdr) (f : FmtE) : Res State :=
  let half := f.m.getLsbD 3
  let n := if half then 2 else 4
  stepRes (andThen (e.texPlan s f false (e.lanes (e.effect h))) fun xs s =>
    andThen (eachLane Prod.fst (fun (x : Nat × Sampled) s => andThen (s.texLane e x.1 x.2) fun t s => (.ok (x.1, channelWords half t), s)) xs s) fun rs s =>
      (.ok (s.engineReturn e h f.d n (fun _ => n) rs), s))

/-- TGATH (R303): one channel of the four corners of the linear footprint at j0. -/
def Env.tgath (e : Env) (s : State) (h : Hdr) (f : FmtE) : Res State :=
  let ch := bits f.m.toNat 5 4
  stepRes (andThen (e.texPlan s f true (e.lanes (e.effect h))) fun xs s =>
      andThen (eachLane Prod.fst (fun (x : Nat × Sampled) s =>
        andThen (s.footprint e x.1 x.2.tex x.2.smp true (levelsOf x.2.tex x.2.smp x.2.lod).j0 x.2.layer x.2.u) fun l s =>
          (.ok (x.1, l.map fun c => (BitVec.ofNat 32 (c.1.ch.getD ch 0), c.1.bad)), s)) xs s) fun rs s =>
        (.ok (s.engineReturn e h f.d 4 (fun _ => 4) rs), s))

/-- TLD (R303). -/
def Env.tld (e : Env) (s : State) (h : Hdr) (f : FmtE) : Res State :=
  let half := f.m.getLsbD 3
  let n := if half then 2 else 4
  let lanes := e.lanes (e.effect h)
  match e.coordPoison lanes fun l => (e.vaIn f.b l).bad || (List.range 4).any fun i => (e.regAt f.a i l).bad with
  | some t => .error (.trap t, s)
  | none =>
    stepRes (andThen (e.readRecords s 64 (e.recAt f.b lanes) texOf) fun ts s =>
      andThen (eachLane Prod.fst (fun (x : Nat × Tex) s =>
        let c := fun i => signedLow 32 (e.regAt f.a i x.1).n
        let j := (c 3).toNat
        let inside := decide (0 ≤ c 3 ∧ c 3 < x.2.levels) && (List.range 3).all fun i => decide (0 ≤ c i ∧ c i < ((x.2.dims j).getD i 1 : Int))
        if inside then andThen (s.texel e x.1 x.2 j (c 0).toNat (c 1).toNat (c 2).toNat) fun t s => (.ok (x.1, channelWords half t), s)
        else (.ok (x.1, channelWords half { ch := [0, 0, 0, 0], bad := false }), s)) (e.working ts) s) fun rs s =>
        (.ok (s.engineReturn e h f.d n (fun _ => n) rs), s))

/-- TQRY (R303). -/
def Env.tqry (e : Env) (s : State) (h : Hdr) (f : FmtE) : Res State :=
  let lanes := e.lanes (e.effect h)
  match e.coordPoison lanes fun l => (e.vaIn f.b l).bad with
  | some t => .error (.trap t, s)
  | none =>
    stepRes (andThen (e.readRecords s 64 (e.recAt f.b lanes) texOf) fun ts s =>
      let rs := (e.working ts).map fun x =>
        let j := e.readTy f.a .n32 x.1
        let vals := if j.n < x.2.levels then x.2.dims j.n ++ [x.2.levels] else [0, 0, 0, 0]
        (x.1, vals.map fun v => (BitVec.ofNat 32 v, j.bad))
      (.ok (s.engineReturn e h f.d 4 (fun _ => 4) rs), s))

/-! ### Hash grids (R304–R306) -/

structure Grid where
  param : Nat
  grad : Nat
  d : Nat
  levels : Nat
  feats : Nat
  t : Nat
  res : List Nat
deriving DecidableEq, Repr

def gridOf (scatter : Bool) (bs : List W8) : Except Nat Grid :=
  let g : Grid := { param := recNum bs 0 8, grad := recNum bs 8 8, d := recNum bs 16 1, levels := recNum bs 17 1, feats := 2 ^ (recNum bs 18 1 % 4),
                    t := recNum bs 19 1, res := (List.range 16).map fun i => recNum bs (32 + 2 * i) 2 }
  match faultOr
    [(g.param % 16 != 0, 0), (g.grad % 16 != 0 || (scatter && g.grad == 0), 8), (g.d != 2 && g.d != 3, 16),
     (g.levels == 0 || decide (16 < g.levels), 17), (decide (3 < recNum bs 18 1), 18), (decide (g.t < 10 ∨ 24 < g.t), 19)]
    (recNonzero bs 20 31)
    ((List.range 16).flatMap fun i =>
      let v := g.res.getD i 0
      [(if i < g.levels then v == 0 else v % 256 != 0, 32 + 2 * i), (decide (g.levels ≤ i) && v != 0, 33 + 2 * i)]) with
  | some o => .error o
  | none => .ok g

/-- One corner of a level: its entry within the level, and its weight in FP32. -/
structure GridCorner where
  entry : Nat
  w : Nat
deriving DecidableEq, Repr

/-- x clamped to [0, 1]. -/
def unitOf (x : Num) : Num :=
  match x with
  | .fin true _ _ => .fin false 0 0
  | .fin false m e => if Num.cmp (.fin false m e) (.fin false 1 0) == .gt then .fin false 1 0 else .fin false m e
  | _ => if x.sign then .fin false 0 0 else .fin false 1 0

/-- Cell index and fraction of a coordinate on a level of resolution N; the fraction is an FP32 code (R306). -/
def cellOf (N : Nat) (x : Num) : Nat × Nat :=
  let p := f32Num (f32Mul (unitOf x) (.fin false N 0))
  match p with
  | .fin _ m e =>
    let fl := if 0 ≤ e then m * 2 ^ e.toNat else m / 2 ^ (-e).toNat
    let i := min fl (N - 1)
    let q := min e 0
    (i, f32Of false (m * 2 ^ (e - q).toNat - i * 2 ^ (-q).toNat) 1 q)
  | _ => (0, 0)

/-- The corners of a level for a lane's coordinates, ascending (R306). -/
def Grid.corners (g : Grid) (lv : Nat) (xs : List Num) : List GridCorner :=
  let N := g.res.getD lv 1
  let cells := xs.map (cellOf N)
  let dense := decide ((N + 1) ^ g.d ≤ 2 ^ g.t)
  (List.range (2 ^ g.d)).map fun c =>
    let at' := cells.mapIdx fun k p => p.1 + if c.testBit k then 1 else 0
    let entry := if dense then (at'.mapIdx fun k v => v * (N + 1) ^ k).foldl (· + ·) 0
      else ((at'.mapIdx fun k v => v * [1, 0x9E3779B1, 0x85EBCA77].getD k 0 % 2 ^ 32).foldl Nat.xor 0) % 2 ^ g.t
    let fac := cells.mapIdx fun k p => if c.testBit k then p.2 else (Fmt.f32.add .rne false false (.fin false 1 0) (f32Num p.2).negate).1
    { entry := entry, w := fac.foldl (fun w v => f32Mul (f32Num w) (f32Num v)) f32One }

/-- Coordinates of a lane on a grid. -/
def Env.gridCoords (e : Env) (o : Opnd) (g : Grid) (lane : Nat) : List Num := (List.range g.d).map fun i => coordOf (e.regAt o i lane).n

/-- The features of a lane (R306), value l × F + f in its place, each FP16 with the poison of the parameters read for it. -/
def State.gridFeatures (s : State) (e : Env) (lane : Nat) (g : Grid) (xs : List Num) : Except Halt (List (Nat × Bool)) × State :=
  andThen (eachOf (fun lv s =>
    let cs := g.corners lv xs
    eachOf (fun f s =>
      andThen (eachOf (fun (c : GridCorner) s => andThen (s.numAt e lane (g.param + ((lv * 2 ^ g.t + c.entry) * g.feats + f) * 2) 2) fun v s =>
        (.ok (c.w, v), s)) cs s) fun ps s =>
        let acc := ps.foldl (fun a p => f32Fma (f32Num p.1) (Fmt.f16.decode p.2.1) (f32Num a)) 0
        (.ok (toF16 acc, ps.any fun p => p.2.2), s)) (List.range g.feats) s) (List.range g.levels) s) fun l s => (.ok l.flatten, s)

/-- FP16 values two to a register, the last one filled up with +0. -/
def pairWords : List (Nat × Bool) → List (W32 × Bool)
  | [] => []
  | [a] => [(BitVec.ofNat 32 a.1, a.2)]
  | a :: b :: l => (BitVec.ofNat 32 (a.1 + 2 ^ 16 * b.1), a.2 || b.2) :: pairWords l

/-- The highest count of registers a grid's values fill. -/
def Grid.regs (g : Grid) : Nat := (g.levels * g.feats - 1) / 2 + 1

/-- Bounds and poison of a grid instruction's coordinates, once its record is known. -/
def Env.gridChecks (e : Env) (o : Opnd) (more : Grid → List Use) (gs : List (Nat × Grid)) (lanes : List Nat) : Option TrapInfo :=
  let dims := fun l => ((ofLane gs l).map Grid.d).getD 1
  (e.boundsBy (fun l => useN o (dims l) 1 false :: ((ofLane gs l).map more).getD []) lanes).or
    (e.coordPoison lanes fun l => (List.range (dims l)).any fun i => (e.regAt o i l).bad)

/-- HGFETCH (R306). -/
def Env.hgfetch (e : Env) (s : State) (h : Hdr) (f : FmtE) : Res State :=
  let lanes := e.lanes (e.effect h)
  match e.coordPoison lanes fun l => (e.vaIn f.b l).bad || (e.regAt f.a 0 l).bad with
  | some t => .error (.trap t, s)
  | none =>
    stepRes (andThen (e.readRecords s 64 (e.recAt f.b lanes) (gridOf false)) fun gs s =>
      match e.gridChecks f.a (fun g => [useN f.d g.regs 1 true]) gs lanes with
      | some t => (.error (.trap t), s)
      | none =>
        andThen (eachLane Prod.fst (fun (x : Nat × Grid) s => andThen (s.gridFeatures e x.1 x.2 (e.gridCoords f.a x.2 x.1)) fun l s =>
          (.ok (x.1, pairWords l), s)) (e.working gs) s) fun rs s =>
          let n := gs.foldl (fun n g => max n g.2.regs) 1
          if s.resultRows e h f.d n then (.ok (s.engineReturn e h f.d n (fun l => ((ofLane gs l).map Grid.regs).getD 1) rs), s)
          else (.error (.stall .spill), s))

/-! ### Gradient scatter (R307) -/

/-- The sums of R307, by location, over the lanes in ascending order, each beside the first lane that adds to it. -/
def Env.gradSums (e : Env) (f : FmtE) (gs : List (Nat × Grid)) : FMap (Nat × Nat) :=
  let add := fun (m : FMap (Nat × Nat)) (lane k x : Nat) => match FMap.find m k with
    | none => FMap.insert m k (lane, x)
    | some y => FMap.insert m k (y.1, (Fmt.f32.add .rne false false (f32Num y.2) (f32Num x)).1)
  gs.foldl (fun m x =>
    let g := x.2
    (List.range g.levels).foldl (fun m lv =>
      (g.corners lv (e.gridCoords f.a g x.1)).foldl (fun m c =>
        (List.range g.feats).foldl (fun m ft =>
          let i := lv * g.feats + ft
          let grad := elemOf 16 (e.regAt f.c (i / 2) x.1).n (i % 2)
          add m x.1 (g.grad + ((lv * 2 ^ g.t + c.entry) * g.feats + ft) * 4) (f32Mul (Fmt.f16.decode grad) (f32Num c.w))) m) m) m) []

/-- A fault of what HGSCAT reads carries access 2 (R298). -/
def asAtomic {α : Type} (r : Except Halt α × State) : Except Halt α × State :=
  match r with
  | (.error (.fault x), s) => (.error (.fault { x with access := Acc.code .atomic }), s)
  | r => r

def Env.hgscat (e : Env) (s : State) (h : Hdr) (f : FmtE) : Res State :=
  let lanes := e.lanes (e.effect h)
  if e.effect h = 0 then .ok s
  else match e.coordPoison lanes fun l => (e.vaIn f.b l).bad || (e.regAt f.a 0 l).bad with
  | some t => .error (.trap t, s)
  | none =>
    stepRes (andThen (asAtomic (e.readRecords s 64 (e.recAt f.b lanes) (gridOf true))) fun gs s =>
      let n := fun l => ((ofLane gs l).map Grid.regs).getD 1
      match (e.gridChecks f.a (fun g => [useN f.c g.regs 1 false]) gs lanes).or
          (e.laneTrap 0x0E 4 (fun _ => 0) (lanes.filter fun l => !e.view.padding.has l && (List.range (n l)).any fun i => (e.regAt f.c i l).bad)) with
      | some t => (.error (.trap t), s)
      | none =>
        andThen (eachLane (fun (p : Nat × Nat × Nat) => p.2.1) (fun p s => s.laneAt e p.2.1 p.1 .atomic fun x s =>
            (.ok { lane := 0, key := x.pa, v := BitVec.ofNat 64 p.2.2, c := 0, bad := false, portion := none : AsqLane }, s))
            (e.gradSums f (e.working gs)) s) fun l s =>
          (.ok (s.sendAtomics e { op := .atom 0xD false, dst := none, words := 1, acq := none, rel := false } .quire l), s))

/-! ### Neural sampler (R308, R309) -/

structure Neural where
  grid : Nat
  w1 : Nat
  b1 : Nat
  w2 : Nat
  b2 : Nat
  layers : Nat
  act : Nat
deriving DecidableEq, Repr

def neuralOf (bs : List W8) : Except Nat Neural :=
  let n : Neural := { grid := recNum bs 0 8, w1 := recNum bs 8 8, b1 := recNum bs 16 8, w2 := recNum bs 24 8, b2 := recNum bs 32 8,
                      layers := recNum bs 40 1, act := recNum bs 41 1 }
  match faultOr [(n.w1 % 16 != 0, 8), (n.b1 % 16 != 0, 16)] (if n.layers = 1 then recNonzero bs 24 39 else none)
    [(n.layers != 1 && n.layers != 2, 40), (decide (4 ≤ n.act), 41), ((recNonzero bs 42 63).isSome, (recNonzero bs 42 63).getD 0)] with
  | some o => .error o
  | none => .ok n

/-- ReLU (R309). -/
def relu (v : Nat) : Nat :=
  match f32Num v with
  | .nan _ => Fmt.f32.nanCode
  | x => if x.sign then 0 else v

/-- One layer: 32 outputs over its inputs, each FP16 with the poison of what was read for it. -/
def State.layer (s : State) (e : Env) (lane w b : Nat) (act : Bool) (xs : List (Nat × Bool)) : Except Halt (List (Nat × Bool)) × State :=
  eachOf (fun j s =>
    andThen (s.numAt e lane (b + 4 * j) 4) fun bias s =>
    andThen (eachOf (fun i s => s.numAt e lane (w + (j * xs.length + i) * 2) 2) (List.range xs.length) s) fun ws s =>
      let acc := (ws.zip xs).foldl (fun a p => f32Fma (Fmt.f16.decode p.1.1) (Fmt.f16.decode p.2.1) (f32Num a)) bias.1
      (.ok (toF16 (if act then relu acc else acc), bias.2 || ws.any Prod.snd || xs.any Prod.snd), s)) (List.range 32) s

def State.ntexLane (s : State) (e : Env) (f : FmtE) (lane : Nat) (n : Neural) (g : Grid) : Except Halt (List (W32 × Bool)) × State :=
  andThen (s.gridFeatures e lane g (e.gridCoords f.a g lane)) fun xs s =>
  andThen (s.layer e lane n.w1 n.b1 (n.act.testBit 0) xs) fun ys s =>
    if n.layers = 1 then (.ok (pairWords ys), s)
    else andThen (s.layer e lane n.w2 n.b2 (n.act.testBit 1) ys) fun zs s => (.ok (pairWords zs), s)

/-- NTEX (R309). -/
def Env.ntex (e : Env) (s : State) (h : Hdr) (f : FmtE) : Res State :=
  let lanes := e.lanes (e.effect h)
  match e.coordPoison lanes fun l => (e.vaIn f.b l).bad || (e.regAt f.a 0 l).bad with
  | some t => .error (.trap t, s)
  | none =>
    stepRes (andThen (e.readRecords s 64 (e.recAt f.b lanes) neuralOf) fun ns s =>
      andThen (e.readRecords s 64 (ns.map fun n => { lane := n.1, va := n.2.grid }) (gridOf false)) fun gs s =>
      match e.gridChecks f.a (fun _ => []) gs lanes with
      | some t => (.error (.trap t), s)
      | none =>
        andThen (eachLane Prod.fst (fun (x : Nat × Neural) s => match ofLane gs x.1 with
          | none => (.ok (x.1, []), s)
          | some g => andThen (s.ntexLane e f x.1 x.2 g) fun r s => (.ok (x.1, r), s)) (e.working ns) s) fun rs s =>
          (.ok (s.engineReturn e h f.d 16 (fun _ => 16) rs), s))

/-! ### Meanings -/

/-- An instruction that takes effect in no lane does nothing. -/
def Env.anyLane (e : Env) (s : State) (h : Hdr) (k : Res State) : Res State := if e.effect h = 0 then .ok s else k

/-- TEX (R302). -/
def execTex (h : Hdr) (f : FmtE) (s : State) : Out := s.perform (.tex h f) fun e s => e.anyLane s h (e.tex s h f)
/-- TLD (R303). -/
def execTld (h : Hdr) (f : FmtE) (s : State) : Out := s.perform (.tld h f) fun e s => e.anyLane s h (e.tld s h f)
/-- TGATH (R303). -/
def execTgath (h : Hdr) (f : FmtE) (s : State) : Out := s.perform (.tgath h f) fun e s => e.anyLane s h (e.tgath s h f)
/-- TQRY (R303). -/
def execTqry (h : Hdr) (f : FmtE) (s : State) : Out := s.perform (.tqry h f) fun e s => e.anyLane s h (e.tqry s h f)
/-- HGFETCH (R306). -/
def execHgfetch (h : Hdr) (f : FmtE) (s : State) : Out := s.perform (.hgfetch h f) fun e s => e.anyLane s h (e.hgfetch s h f)
/-- HGSCAT (R307). -/
def execHgscat (h : Hdr) (f : FmtE) (s : State) : Out := s.perform (.hgscat h f) fun e s => e.hgscat s h f
/-- NTEX (R309). -/
def execNtex (h : Hdr) (f : FmtE) (s : State) : Out := s.perform (.ntex h f) fun e s => e.anyLane s h (e.ntex s h f)

end Sys2Proof.Machine
end

