-- ==== Sys2Proof/Machine/Raster.lean ====
section
/-! DEFINITION. Group 0xC (R310–R328): the payload ring, meshlets, culling and snapping, geometry records, tile memory, and the pixel
instructions. -/
namespace Sys2Proof.Machine

/-! ### Tiles and targets (R310, R311, R325) -/

def Target.texBytes (t : Target) : Nat := match t.format with | 0x02 => 4 | 0x06 => 8 | _ => 16
def Target.pitch (t : Target) : Nat := roundUp (t.width * t.texBytes) 16
def Target.tilesX (t : Target) : Nat := (t.width + 31) / 32
def Target.tilesY (t : Target) : Nat := (t.height + 31) / 32
def Target.pixelVa (t : Target) (x y : Nat) : Nat := t.va + y * t.pitch + x * t.texBytes
/-- Bytes of one primitive record. -/
def Target.recordSize (t : Target) : Nat := roundUp (64 + 12 * t.attrs) 16
def Target.recordVa (t : Target) (serial : Nat) : Nat := t.geom + serial * t.recordSize

/-- Memory key of the visibility word of a pixel. -/
def pixelKey (c : Context) (t : Target) (x y : Nat) : Nat :=
  let n := y / 32 * t.tilesX + x / 32
  dspadKey (n % 4) (c.windowBase + t.tileOff + 8192 * (n / 4) + 8 * (32 * (y % 32) + x % 32))

def noPixel : Nat := 2 ^ 64 - 1

/-! ### The frame of the group (R314) -/

/-- The kernel the member belongs to, in a render launch, or trap 0x0B. -/
def Env.inKernel (e : Env) (s : State) (role : Role) (k : Render → Res State) : Res State :=
  match e.vol.render with
  | some r => if e.g.role == role then k r else e.trapRes s 0x0B 0
  | none => e.trapRes s 0x0B 0

/-- The first of several traps, or the rest. -/
def Env.orTrap (s : State) (t : Option TrapInfo) (k : Res State) : Res State := match t with | some t => .error (.trap t, s) | none => k

/-! ### TPAY (R316) -/

/-- The lowest FREE ring slot of a task gathering. -/
def Gathering.freeSlot (g : Gathering) : Option Nat := (List.range 4).find? fun i => (g.handle (60 + i)).state == .free

/-- TPAY takes a slot: the payload is copied and zero-filled, the slot is FULL and owes its mesh gatherings. -/
def State.takeSlot (s : State) (id slot off bytes n payload : Nat) : State :=
  match FMap.find s.quires id with
  | none => s
  | some q =>
    match FMap.find s.gaths q.gath with
    | none => s
    | some g =>
      let src := spadKey g.pcore (g.base + off)
      let bs := (List.range bytes).map fun i => (s.engineByte g.pcore (src + i), s.engineBad g.pcore (src + i))
      let s := s.engineWrite (spadKey g.pcore (g.base + g.size + slot * payload)) (bs ++ List.replicate (payload - bytes) (0, false))
      (s.modGath q.gath fun g =>
        { g.setHandle (60 + slot) { g.handle (60 + slot) with state := .full } with
          owed := FMap.insert g.owed slot (n, n), ringOrder := g.ringOrder ++ [slot] }).accept id []

def Env.tpay (e : Env) (s : State) (h : Hdr) (f : FmtE) : Res State :=
  e.inKernel s .task fun r =>
  e.onceUniform s h (
    if e.contrib h = 0 then .ok s
    else
      let off := e.readOnce h f.a .n32
      let bytes := e.readOnce h f.b .n32
      let n := e.readOnce h f.c .n32
      if off.bad then e.trapRes s 0x0E 1
      else if bytes.bad || n.bad then e.trapRes s 0x0E 8
      else if off.n % 16 ≠ 0 ∨ bytes.n % 16 ≠ 0 ∨ bytes.n = 0 ∨ r.target.payload < bytes.n ∨ n.n = 0 ∨ 64 < n.n then e.trapRes s 0x03 0
      else if e.g.size < off.n + bytes.n then e.trapRes s 0x0B 0
      else
        let s := s.commit e.id
        match e.g.freeSlot with
        | some k => .ok (s.takeSlot e.id k off.n bytes.n n.n r.target.payload)
        | none => .ok (s.upd e fun q => { q with wait := .stall (.tpay off.n bytes.n n.n) }))

/-! ### Meshlets (R318–R320) -/

def Env.mvtx (e : Env) (s : State) (h : Hdr) (f : FmtE) : Res State :=
  e.inKernel s .mesh fun r =>
    let A := r.target.attrs
    let lanes := e.lanes (e.contrib h)
    let words := fun l => ((List.range 4).map fun i => e.regAt f.b i l) ++ (List.range A).map fun i => e.regAt f.c i l
    if e.effect h = 0 then .ok s
    else
      Env.orTrap s
        ((e.laneTrap 0x0E 1 (fun _ => 0) (lanes.filter fun l => (e.readTy f.a .n32 l).bad)).or <|
         (e.laneTrap 0x0E 4 (fun _ => 0) (lanes.filter fun l => (words l).any Val.bad)).or <|
         (if e.g.meshlet.closed then some (e.trapAll 0x03 0) else none).or <|
         (e.laneTrap 0x03 0 (fun _ => 0) (lanes.filter fun l => decide (256 ≤ (e.readTy f.a .n32 l).n)))) <|
      .ok (((s.commit e.id).modGath e.q.gath fun g =>
        lanes.foldl (fun g l =>
          let ws := (words l).map fun v => BitVec.ofNat 32 v.n
          { g with meshlet := { g.meshlet with
              verts := FMap.insert g.meshlet.verts (e.readTy f.a .n32 l).n { pos := ws.take 4, attr := ws.drop 4 } } }) g).accept e.id [])

def Env.mprim (e : Env) (s : State) (h : Hdr) (f : FmtE) : Res State :=
  e.inKernel s .mesh fun _ =>
    let lanes := e.lanes (e.contrib h)
    let p := fun l => (e.readTy f.a .n32 l)
    let ix := fun l => (e.readTy f.b .n32 l)
    let key := fun l => (e.readTy f.c .n32 l)
    if e.effect h = 0 then .ok s
    else
      Env.orTrap s
        ((e.laneTrap 0x0E 1 (fun _ => 0) (lanes.filter fun l => (p l).bad)).or <|
         (e.laneTrap 0x0E 4 (fun _ => 0) (lanes.filter fun l => (ix l).bad || (key l).bad)).or <|
         (if e.g.meshlet.closed then some (e.trapAll 0x03 0) else none).or <|
         (e.laneTrap 0x03 0 (fun _ => 0) (lanes.filter fun l => decide (256 ≤ (p l).n) || decide (2 ^ 24 ≤ (ix l).n) || decide (2 ^ 16 ≤ (key l).n)))) <|
      .ok (((s.commit e.id).modGath e.q.gath fun g =>
        lanes.foldl (fun g l =>
          let v := (ix l).n
          { g with meshlet := { g.meshlet with
              prims := FMap.insert g.meshlet.prims (p l).n
                { i0 := bits v 7 0, i1 := bits v 15 8, i2 := bits v 23 16, key := BitVec.ofNat 16 (key l).n } } }) g).accept e.id [])

/-! ### Culling and snapping (R321, R322) -/

/-- A vertex after snapping. -/
structure Snap where
  x : Int
  y : Int
  w : Nat
  d : Nat
  attr : List W32
deriving DecidableEq, Repr

/-- num / den, den positive, rounded to the nearest integer, ties to even. -/
def rneInt (num den : Int) : Int :=
  let r := (rint .rne (decide (num < 0)) num.natAbs den.natAbs 0 0).1
  if num < 0 then -(r : Int) else r

/-- RNE((v + one) × scale) for a finite v. -/
def snapCoord (v : Num) (scale : Nat) : Int :=
  match v with
  | .fin _ _ e =>
    let q := min e 0
    rneInt ((v.scaled q + ((2 ^ (-q).toNat : Nat) : Int)) * (scale : Int)) ((2 ^ (-q).toNat : Nat) : Int)
  | _ => 0

/-- A vertex snapped, or none where a rule culls its primitive. -/
def snapVertex (t : Target) (v : Vertex) : Option Snap :=
  let c := fun i => f32Num (v.pos.getD i 0).toNat
  let w := c 3
  if (List.range 4).any fun i => (c i).isNan || (c i).isInf then none
  else if w.sign || w.isZero then none
  else
    let q := fun i => (Fmt.f32.div .rne false false (c i) w).1
    let num := fun i => f32Num (q i)
    if (List.range 3).any fun i => (num i).isInf then none
    else
      let x := snapCoord (num 0) (t.width * 128)
      let y := snapCoord (num 1).negate (t.height * 128)
      if x < -(2 ^ 23) ∨ 2 ^ 23 < x ∨ y < -(2 ^ 23) ∨ 2 ^ 23 < y then none
      else some { x := x, y := y, w := (v.pos.getD 3 0).toNat, d := q 2, attr := v.attr }

/-- E_ij at a point. -/
def edgeFn (xi yi xj yj px py : Int) : Int := (xj - xi) * (py - yi) - (yj - yi) * (px - xi)

/-- A written primitive kept by R321: its three snapped vertices. -/
def keepPrim (t : Target) (m : Meshlet) (p : Prim) : Option (List Snap) :=
  let vs := ([p.i0, p.i1, p.i2].map fun i => (FMap.find m.verts i).bind (snapVertex t)).filterMap id
  match vs with
  | [a, b, c] =>
    let area := edgeFn a.x a.y b.x b.y c.x c.y
    let cull := area == 0 || (t.flags.testBit 0 && decide (area < 0)) || (t.flags.testBit 1 && decide (0 < area))
    let outside := max (max a.x b.x) c.x < 0 ∨ (256 * t.width : Int) < min (min a.x b.x) c.x
      ∨ max (max a.y b.y) c.y < 0 ∨ (256 * t.height : Int) < min (min a.y b.y) c.y
    if cull ∨ outside then none else some vs
  | _ => none

/-- The bytes of a primitive record (R325); what rounds its size up to 16 is not written. -/
def recordBytesOf (key : W16) (inst : Nat) (vs : List Snap) : List W8 :=
  let head := leBytes 2 key.toNat ++ leBytes 2 0 ++ leBytes 4 inst
  let verts := vs.flatMap fun v => leBytes 4 (BitVec.ofInt 32 v.x).toNat ++ leBytes 4 (BitVec.ofInt 32 v.y).toNat ++ leBytes 4 v.w ++ leBytes 4 v.d
  let attrs := vs.flatMap fun v => v.attr.flatMap fun a => leBytes 4 a.toNat
  head ++ verts ++ leBytes 8 0 ++ attrs

/-- Physical addresses of the 16-byte pieces an engine of a launch writes from `va` on; peers are shut out (R416). -/
def State.engineSpots (die vid cid root : Nat) : List Nat → State → Except XFault (List Nat) × State
  | [], s => (.ok [], s)
  | va :: vas, s =>
    match s.xl die vid cid root va .ewrite with
    | (.error f, s) => (.error f, s)
    | (.ok x, s) =>
      if paKind x.pa = .peer then (.error { code := 0x0D, level := 0, access := 5, va := va % 2 ^ 64 }, s)
      else match State.engineSpots die vid cid root vas s with
        | (.error f, s) => (.error f, s)
        | (.ok l, s) => (.ok (x.pa :: l), s)

/-- Try to write one record; a fault leaves it unwritten with an entry that names the launch (R321). -/
def State.writeRecord (s : State) (vid serial : Nat) : State :=
  match FMap.find s.vols vid with
  | none => s
  | some v =>
    match v.render, FMap.find s.ctxs v.ctx with
    | some r, some c =>
      match r.work.find? fun w => w.serial == serial && !w.written with
      | none => s
      | some w =>
        let va := r.target.recordVa serial
        match State.engineSpots (dieOfCore w.core) vid v.ctx c.root ((List.range ((w.record.length + 15) / 16)).map fun i => va + 16 * i) s with
        | (.error f, s) => (s.addFault v.ctx f v.pkt.seq w.place (.records vid)).2
        | (.ok pas, s) =>
          let s := (List.range pas.length).foldl (fun s i =>
            s.engineWrite (pas.getD i 0) (((w.record.drop (16 * i)).take 16).map fun b => (b, false))) s
          s.modVol vid fun v => { v with render := v.render.map fun r =>
            { r with work := r.work.map fun x => if x.serial = serial then { x with written := true } else x } }
    | _, _ => s

def Env.mdone (e : Env) (s : State) (h : Hdr) (f : FmtE) : Res State :=
  e.inKernel s .mesh fun r =>
  e.onceUniform s h (
    if e.contrib h = 0 then .ok s
    else
      let inst := e.readOnce h f.a .n32
      if inst.bad then e.trapRes s 0x0E 4
      else if 0xFFFFE < inst.n ∨ e.g.meshlet.closed then e.trapRes s 0x03 0
      else
        let m := e.g.meshlet
        let kept := m.prims.filterMap fun p => (keepPrim r.target m p.2).map fun vs => recordBytesOf p.2.key inst.n vs
        let top := r.nextSerial + kept.length
        let drop := !kept.isEmpty && (decide (1048574 < top - 1) || decide (r.target.capacity < top))
        let s := (((s.commit e.id).modGath e.q.gath fun g => { g with meshlet := { g.meshlet with closed := true } }).accept e.id [])
        let new : List PrimWork := if drop then [] else kept.mapIdx fun i b =>
          { serial := r.nextSerial + i, gath := e.q.gath, core := e.g.pcore, place := e.g.core, record := b, written := false, cursor := 0 }
        let s := s.modVol e.g.vol fun v => { v with render := v.render.map fun r =>
          { r with nextSerial := r.nextSerial + new.length, work := r.work ++ new } }
        let s := new.foldl (fun s w => s.writeRecord e.g.vol w.serial) s
        .ok (s.returned e.id (oldWrites (some f.d) true 0 (if drop then 2 ^ 16 else kept.length) false)))

/-! ### Coverage and the visibility word (R322, R323) -/

/-- Snapped positions, w and d of a record's vertices. -/
structure RecVertex where
  x : Int
  y : Int
  w : Nat
  d : Nat
deriving DecidableEq, Repr

def recVertices (bs : List W8) : List RecVertex :=
  (List.range 3).map fun i =>
    let n := fun o => recNum bs (8 + 16 * i + o) 4
    { x := signedLow 32 (n 0), y := signedLow 32 (n 4), w := n 8, d := n 12 }

/-- e_0, e_1, e_2 at pixel (x, y). -/
def edgesAt (vs : List RecVertex) (x y : Nat) : List Int :=
  let z : RecVertex := { x := 0, y := 0, w := 0, d := 0 }
  let px : Int := (256 * x + 128 : Nat)
  let py : Int := (256 * y + 128 : Nat)
  [(1, 2), (2, 0), (0, 1)].map fun p =>
    let a := vs.getD p.1 z
    let b := vs.getD p.2 z
    edgeFn a.x a.y b.x b.y px py

/-- A sample on the edge opposite vertex `k` is covered: the triangle lies below a horizontal edge, to the right of any other (R322). -/
def edgeTie (vs : List RecVertex) (k : Nat) : Bool :=
  let z : RecVertex := { x := 0, y := 0, w := 0, d := 0 }
  let a := vs.getD ((k + 1) % 3) z
  let b := vs.getD ((k + 2) % 3) z
  let c := vs.getD k z
  if a.y = b.y then decide (a.y < c.y)
  else
    let sg : Int := if a.y < b.y then 1 else -1
    decide ((b.x - a.x) * (c.y - a.y) * sg < (c.x - a.x) * (b.y - a.y) * sg)

/-- The depth code at a pixel, where the primitive covers it. -/
def depthAt (vs : List RecVertex) (x y : Nat) : Option Nat :=
  let z : RecVertex := { x := 0, y := 0, w := 0, d := 0 }
  let es := edgesAt vs x y
  let a := vs.getD 0 z
  let b := vs.getD 1 z
  let c := vs.getD 2 z
  let area := edgeFn a.x a.y b.x b.y c.x c.y
  let sg : Int := if area < 0 then -1 else 1
  let inside := (List.range 3).all fun k => let v := es.getD k 0 * sg; decide (0 < v) || (v == 0 && edgeTie vs k)
  if area = 0 ∨ !inside then none
  else
    let d := fun i => f32Num (vs.getD i z).d
    let q := min (min (d 0).expo (d 1).expo) (min (d 2).expo 0)
    let num := (List.range 3).foldl (fun (n : Int) i => n + es.getD i 0 * sg * (d i).scaled q) 0
    let den := area * sg * ((2 ^ (-q).toNat : Nat) : Int)
    if num < 0 ∨ den < num then none else some (rneInt (num * (2 ^ 24 - 1)) den).toNat

/-- The word of R323. -/
def visWord (depth inst serial : Nat) : Nat := depth * 2 ^ 40 + inst * 2 ^ 20 + serial

/-- The next pixel from a cursor on that a primitive covers, with its depth. -/
def nextCovered (t : Target) (vs : List RecVertex) : Nat → Nat → Option (Nat × Nat)
  | 0, _ => none
  | n + 1, c =>
    match depthAt vs (c % t.width) (c / t.width) with
    | some d => some (c, d)
    | none => nextCovered t vs n (c + 1)

/-! ### Pixels (R326–R328) -/

/-- Coordinates of a pixel operand. -/
def pixelOf (v : Nat) : Nat × Nat := (v % 2 ^ 16, v / 2 ^ 16 % 2 ^ 16)
def Target.holds (t : Target) (p : Nat × Nat) : Bool := decide (p.1 < t.width) && decide (p.2 < t.height)

/-- A pixel outside the target, after the poison of its coordinate. -/
def Env.pixelTrap (e : Env) (t : Target) (o : Opnd) (lanes : List Nat) : Option TrapInfo :=
  e.laneTrap 0x0B 0 (fun _ => 0) (lanes.filter fun l => !t.holds (pixelOf (e.readTy o .n32 l).n))

/-- VISRD (R326). -/
def Env.visrd (e : Env) (s : State) (h : Hdr) (f : FmtE) : Res State :=
  e.inKernel s .pixel fun r =>
    let lanes := e.lanes (e.contrib h)
    if e.effect h = 0 then .ok s
    else
      Env.orTrap s ((e.laneTrap 0x0E 1 (fun _ => 0) (lanes.filter fun l => (e.readTy f.a .n32 l).bad)).or (e.pixelTrap r.target f.a lanes)) <|
      .ok (s.engineReturn e h f.d 2 (fun _ => 2) (lanes.map fun l =>
        let p := pixelOf (e.readTy f.a .n32 l).n
        let k := pixelKey e.ctx r.target p.1 p.2
        let bs := s.engineBytes e.g.pcore k 8
        (l, [(BitVec.ofNat 32 (leValue bs), s.engineBad e.g.pcore k), (BitVec.ofNat 32 (leValue (bs.drop 4)), s.engineBad e.g.pcore (k + 4))])))

/-- An FP32 operation of R327, its flags collected. -/
def flagOp (a : Nat × Fl) (fl : Fl) : Nat × Fl := (a.1, a.2 ||| fl)

/-- The barycentrics of R327, with their flags. -/
def baryAt (vs : List RecVertex) (x y : Nat) : List Nat × Fl :=
  let F := Fmt.f32
  let q := (edgesAt vs x y).mapIdx fun i ev =>
    let a := F.round .rne false false (decide (ev < 0)) ev.natAbs 1 0
    flagOp (F.div .rne false false (f32Num a.1) (f32Num ((vs.map RecVertex.w).getD i 0))) a.2
  let n := fun i => f32Num ((q.map Prod.fst).getD i 0)
  let s1 := F.add .rne false false (n 0) (n 1)
  let s2 := F.add .rne false false (f32Num s1.1) (n 2)
  let b := q.map fun v => F.div .rne false false (f32Num v.1) (f32Num s2.1)
  (b.map Prod.fst, (q ++ b).foldl (fun a v => a ||| v.2) (s1.2 ||| s2.2))

/-- One interpolated attribute. -/
def attrAt (b a : List Nat) : Nat × Fl :=
  let F := Fmt.f32
  let n := fun (l : List Nat) i => f32Num (l.getD i 0)
  let t := F.mulr .rne false false (n b 0) (n a 0)
  let t2 := F.fma .rne false false (n b 1) (n a 1) (f32Num t.1)
  let t3 := F.fma .rne false false (n b 2) (n a 2) (f32Num t2.1)
  (t3.1, t.2 ||| t2.2 ||| t3.2)

/-- A lane of ATTR over its record: the result words and the flags. -/
def attrLane (A : Nat) (bs : List (W8 × Bool)) (xy : Val) (bary : Bool) (first count : Nat) : List (W32 × Bool) × Fl :=
  let raw := bs.map Prod.fst
  let bad := fun o => ((bs.drop o).take 4).any Prod.snd
  let p := pixelOf xy.n
  let b := baryAt (recVertices raw) p.1 p.2
  let base := xy.bad || (List.range 3).any fun i => bad (8 + 16 * i) || bad (12 + 16 * i) || bad (16 + 16 * i)
  if bary then (b.1.map fun v => (BitVec.ofNat 32 v, base), b.2)
  else
    let off := fun i a => 64 + 4 * (i * A + a)
    let rs := (List.range count).map fun k =>
      let a := first + k
      let r := attrAt b.1 ((List.range 3).map fun i => recNum raw (off i a) 4)
      ((BitVec.ofNat 32 r.1, base || (List.range 3).any fun i => bad (off i a)), r.2)
    (rs.map Prod.fst, rs.foldl (fun a r => a ||| r.2) b.2)

/-- ATTR (R327). -/
def Env.attr (e : Env) (s : State) (h : Hdr) (f : FmtE) : Res State :=
  e.inKernel s .pixel fun r =>
    let t := r.target
    let bary := f.m.getLsbD 0
    let lanes := e.lanes (e.contrib h)
    let vis := fun l => e.readTy f.a .n64 l
    let first := if bary then Val.zero else e.readOnce h f.b .n32
    let count := if bary then { n := 3, bad := false } else e.readOnce h f.c .n32
    if e.effect h = 0 then .ok s
    else
      Env.orTrap s
        ((if bary || count.bad then none else e.boundsBy (fun _ => [useN f.d count.n 1 true]) (e.lanes (e.effect h))).or <|
         (e.laneTrap 0x0E 1 (fun _ => 0) (lanes.filter fun l => (vis l).bad || first.bad || count.bad)).or <|
         (if !bary && (count.n == 0 || decide (16 < count.n) || decide (t.attrs < first.n + count.n)) then some (e.trapAll 0x03 0) else none).or <|
         (e.laneTrap 0x03 0 (fun _ => 0) (lanes.filter fun l => (vis l).n != noPixel && decide (t.capacity ≤ (vis l).n % 2 ^ 20)))) <|
      stepRes (andThen (eachLane (fun l : Nat => l) (fun l s =>
        if (vis l).n = noPixel then (.ok (l, List.replicate count.n ((0 : W32), false), (0 : Fl)), s)
        else
          let va := t.recordVa ((vis l).n % 2 ^ 20)
          andThen (eachOf (fun i s => s.loadAt e l (va + 16 * i) 16) (List.range (t.recordSize / 16)) s) fun bs s =>
            let r := attrLane t.attrs bs.flatten (e.view.vecVal 0 1 l) bary first.n count.n
            (.ok (l, r.1, r.2), s)) lanes s) fun rs s =>
        let fl := rs.foldl (fun (a : Fl) x => a ||| x.2.2) 0
        if s.resultRows e h f.d count.n then
          (.ok ((if fl = 0 then s else s.upd e fun q => q.raise fl).engineReturn e h f.d count.n (fun _ => count.n) (rs.map fun x => (x.1, x.2.1))), s)
        else (.error (.stall .spill), s))

/-- A colour component as UN8 (R328). -/
def un8Of (v : Nat) : Nat :=
  match f32Num v with
  | .nan _ => 0
  | x => match unitOf x with
    | .fin _ m e => (rint .rne false (m * 255) 1 e 0).1
    | _ => 255

/-- The bytes of a texel of the target (R328). -/
def Target.texel (t : Target) (ch : List Nat) : List W8 :=
  match t.format with
  | 0x02 => ch.map fun v => BitVec.ofNat 8 (un8Of v)
  | 0x06 => ch.flatMap fun v => leBytes 2 (toF16 v)
  | _ => ch.flatMap fun v => leBytes 4 v

/-- The marker colour as a texel (R328). -/
def Target.marker (t : Target) (m : W32) : List W8 :=
  match t.format with
  | 0x02 => leBytes 4 m.toNat
  | _ => t.texel ((leBytes 4 m.toNat).map fun b => unorm 8 b.toNat)

/-- One lane's pixel: where it goes, and where its error bit stands when its colour is poisoned. -/
structure PixPlan where
  lane : Nat
  pa   : Nat
  bit  : Option (Nat × Nat)
deriving DecidableEq, Repr

/-- PIXOUT (R328). -/
def Env.pixout (e : Env) (s : State) (h : Hdr) (f : FmtE) : Res State :=
  e.inKernel s .pixel fun r =>
    let t := r.target
    let lanes := e.lanes (e.contrib h)
    let col := fun l => (List.range 4).map fun i => e.regAt f.b i l
    let poisoned := fun l => (col l).any Val.bad
    if e.effect h = 0 then .ok s
    else
      Env.orTrap s
        ((e.laneTrap 0x0E 1 (fun _ => 0) (lanes.filter fun l => (e.readTy f.a .n32 l).bad)).or <|
         (if r.accept then none else e.laneTrap 0x0E 4 (fun _ => 0) (lanes.filter poisoned)).or (e.pixelTrap t f.a lanes)) <|
      stepRes (andThen (eachLane (fun l : Nat => l) (fun l s =>
        let p := pixelOf (e.readTy f.a .n32 l).n
        s.laneAt e l (t.pixelVa p.1 p.2) .store fun x s =>
          if poisoned l then
            let b := p.2 * t.width + p.1
            s.laneAt e l (t.errMap + b / 64 * 8) .atomic fun y s => (.ok ({ lane := l, pa := x.pa, bit := some (y.pa, b % 64) } : PixPlan), s)
          else (.ok { lane := l, pa := x.pa, bit := none }, s)) lanes s) fun ps s =>
        (.ok ((ps.foldl (fun s p =>
          let s := s.breakFor e.g.vol p.pa
          match p.bit with
          | none => s.engineWrite p.pa ((t.texel ((col p.lane).map Val.n)).map fun b => (b, false))
          | some b =>
            let s := s.engineWrite p.pa ((t.marker e.ctx.marker).map fun b => (b, false))
            let w := (s.breakFor e.g.vol b.1).homeNum b.1 8
            w.2.putMarked b.1 8 (w.1 ||| 2 ^ b.2) (w.2.mem.anyBad b.1 8)) (s.commit e.id)).accept e.id []), s))

/-! ### Meanings -/

/-- TPAY (R316). -/
def execTpay (h : Hdr) (f : FmtE) (s : State) : Out := s.perform (.tpay h f) fun e s => e.tpay s h f
/-- MVTX (R319). -/
def execMvtx (h : Hdr) (f : FmtE) (s : State) : Out := s.perform (.mvtx h f) fun e s => e.mvtx s h f
/-- MPRIM (R320). -/
def execMprim (h : Hdr) (f : FmtE) (s : State) : Out := s.perform (.mprim h f) fun e s => e.mprim s h f
/-- MDONE (R321–R323). -/
def execMdone (h : Hdr) (f : FmtE) (s : State) : Out := s.perform (.mdone h f) fun e s => e.mdone s h f
/-- VISRD (R326). -/
def execVisrd (h : Hdr) (f : FmtE) (s : State) : Out := s.perform (.visrd h f) fun e s => e.visrd s h f
/-- ATTR (R327). -/
def execAttr (h : Hdr) (f : FmtE) (s : State) : Out := s.perform (.attr h f) fun e s => e.attr s h f
/-- PIXOUT (R328). -/
def execPixout (h : Hdr) (f : FmtE) (s : State) : Out := s.perform (.pixout h f) fun e s => e.pixout s h f

end Sys2Proof.Machine
end

