-- ==== Sys2Proof/Machine/Rays.lean ====
section
/-! DEFINITION. Group 0xD (R329–R341): ray queries over acceleration structures, and the builds of structures. The layout of a structure in
memory is the J384's own, so the model keeps what a build took in, and the bytes it writes are free (log entry 6). -/
namespace Sys2Proof.Machine

/-! ### Exact geometry (R334) -/

structure V3 where
  x : Int
  y : Int
  z : Int
deriving DecidableEq, Repr

def V3.sub (a b : V3) : V3 := { x := a.x - b.x, y := a.y - b.y, z := a.z - b.z }
def V3.dot (a b : V3) : Int := a.x * b.x + a.y * b.y + a.z * b.z
def V3.cross (a b : V3) : V3 := { x := a.y * b.z - a.z * b.y, y := a.z * b.x - a.x * b.z, z := a.x * b.y - a.y * b.x }

def Num.finite (v : Num) : Bool := !v.isNan && !v.isInf
def leastExp (l : List Num) : Int := (l.map Num.expo).foldl min 0
/-- Entries `i` to `i + 2` of a list, in units of 2^q. -/
def v3Of (q : Int) (l : List Num) (i : Nat) : V3 :=
  let c := fun k => (l.getD (i + k) (.fin false 0 0)).scaled q
  { x := c 0, y := c 1, z := c 2 }

/-- n / d × 2^e, d positive. -/
structure Rat2 where
  n : Int
  d : Int
  e : Int
deriving DecidableEq, Repr

def Rat2.cmp (r : Rat2) (x : Num) : Ordering :=
  match x with
  | .fin _ _ ex =>
    let q := min r.e ex
    compare (r.n * ((2 ^ (r.e - q).toNat : Nat) : Int)) (x.scaled q * r.d)
  | .inf s => if s then .gt else .lt
  | .nan _ => .eq

/-- The FP32 nearest to an exact value, and whether it is that value. -/
def Rat2.near (r : Rat2) : Nat × Bool :=
  let x := Fmt.f32.round .rne false false (decide (r.n < 0)) r.n.natAbs r.d.natAbs r.e
  (x.1, x.2 == 0)
/-- The value, to far beyond any bound. -/
def Rat2.encl (r : Rat2) : Encl :=
  let k := 100 + Nat.log2 r.d.natAbs
  { n := r.n * ((2 ^ k : Nat) : Int) / r.d, q := r.e - (k : Int), err := 1 }

/-- A reported value: a fixed function of the inputs inside its bound (log entry 6). -/
def Rat2.report (r : Rat2) (what : Nat) (args : List W32) (ok : Encl → Num → Bool) : Nat :=
  let c := (Config.interp what args).toNat
  if ok r.encl (f32Num c) then c else r.near.1

def withinUlps (E : Encl) (v : Num) : Bool := E.admits Fmt.f32 (.ulp 2) v
def withinBary (E : Encl) (v : Num) : Bool := E.within v 1 (-20)

/-- What a primitive answers a ray with. -/
structure PrimHit where
  t : Nat
  u : Nat
  v : Nat
  front : Bool
deriving DecidableEq, Repr

/-- Where the manual states no outcome (a component that is not finite): a free one. -/
def freeHit (args : List W32) : Option PrimHit :=
  if (Config.interp 20 args).toNat % 2 = 0 then none
  else some { t := (Config.interp 21 args).toNat, u := (Config.interp 22 args).toNat, v := (Config.interp 23 args).toNat,
              front := (Config.interp 24 args).toNat % 2 == 1 }

/-- The triangle test: edges count as inside. -/
def triangleHit (org dir tri : List Num) (args : List W32) : Option PrimHit :=
  if !(org ++ dir ++ tri).all Num.finite then freeHit args
  else
    let qo := min (leastExp org) (leastExp tri)
    let qd := leastExp dir
    let d := v3Of qd dir 0
    let v0 := v3Of qo tri 0
    let e1 := (v3Of qo tri 3).sub v0
    let e2 := (v3Of qo tri 6).sub v0
    let p := d.cross e2
    let det := e1.dot p
    if det = 0 then none
    else
      let sg : Int := if det < 0 then -1 else 1
      let tv := (v3Of qo org 0).sub v0
      let q := tv.cross e1
      let D := det * sg
      let un := tv.dot p * sg
      let vn := d.dot q * sg
      let tn := e2.dot q * sg
      if un < 0 ∨ vn < 0 ∨ D < un + vn then none
      else
        let t : Rat2 := { n := tn, d := D, e := qo - qd }
        let u : Rat2 := { n := un, d := D, e := 0 }
        let v : Rat2 := { n := vn, d := D, e := 0 }
        let exact := t.near.2 && u.near.2 && v.near.2
        some { t := if exact then t.near.1 else t.report 10 args withinUlps,
               u := if exact then u.near.1 else u.report 11 args withinBary,
               v := if exact then v.near.1 else v.report 12 args withinBary, front := decide (0 < det) }

/-- Infinite bounds of a box as numbers beyond every finite one. -/
def bigNum (v : Num) : Num := match v with | .inf s => .fin s 1 400 | x => x

/-- Entry and exit of the ray in a box, none where it misses every point of it; an axis along which it does not move gives no bound. -/
def boxSpan (org dir box : List Num) : Option (Option Rat2 × Option Rat2) :=
  let qo := min (leastExp org) (leastExp box)
  let qd := leastExp dir
  let c := fun (l : List Num) (q : Int) i => (l.getD i (.fin false 0 0)).scaled q
  let lt := fun (a b : Rat2) => decide (a.n * b.d < b.n * a.d)
  (List.range 3).foldl (fun acc i =>
    match acc with
    | none => none
    | some (near, far) =>
      let o := c org qo i
      let dd := c dir qd i
      let lo := c box qo i
      let hi := c box qo (i + 3)
      if dd = 0 then (if lo ≤ o ∧ o ≤ hi then some (near, far) else none)
      else
        let r := fun (x : Int) => ({ n := if dd < 0 then o - x else x - o, d := if dd < 0 then -dd else dd, e := qo - qd } : Rat2)
        let a := r (if dd < 0 then hi else lo)
        let b := r (if dd < 0 then lo else hi)
        let near := match near with
          | none => a
          | some x => if lt x a then a else x
        let far := match far with
          | none => b
          | some x => if lt b x then b else x
        if lt far near then none else some (some near, some far)) (some (none, none))

/-- The procedural candidate of a box for a ray and its current span. -/
def boxHit (org dir box : List Num) (tmin tmax : Nat) (args : List W32) : Option PrimHit :=
  if !(org ++ dir).all Num.finite || box.any Num.isNan then freeHit args
  else
    match boxSpan org dir (box.map bigNum) with
    | none => none
    | some (near, far) =>
      let early := match far with | some r => r.cmp (f32Num tmin) == .lt | none => false
      let late := match near with | some r => r.cmp (f32Num tmax) == .gt | none => false
      if early || late then none
      else
        let t := match near with
          | none => tmin
          | some r => if r.cmp (f32Num tmin) == .gt then (if r.near.2 then r.near.1 else r.report 13 args withinUlps) else tmin
        some { t := t, u := 0, v := 0, front := false }

/-- One row of a world-to-object transform (R334): fused steps in ascending column. -/
def xformRow (m v : List Num) (pt : Bool) : Num :=
  let g := fun (l : List Num) i => l.getD i (.fin false 0 0)
  let a := f32Mul (g m 0) (g v 0)
  let a := f32Fma (g m 1) (g v 1) (f32Num a)
  let a := f32Fma (g m 2) (g v 2) (f32Num a)
  f32Num (if pt then (Fmt.f32.add .rne false false (f32Num a) (g m 3)).1 else a)

def xform (m v : List Num) (pt : Bool) : List Num := (List.range 3).map fun i => xformRow ((m.drop (4 * i)).take 4) v pt

/-! ### Structures (R332, R335, R338) -/

def State.accelAt (s : State) (cid : Nat) (va : W64) : Option Accel := s.accels.find? fun a => a.ctx == cid && a.va == va && a.valid
def words32 (l : List W32) : List Num := l.map fun w => f32Num w.toNat
def instMask (w : List W32) : Nat := (w.getD 12 0).toNat % 256
def instVa (w : List W32) : W64 := W64.ofWords (w.getD 14 0) (w.getD 15 0)
def instFlags (w : List W32) : Nat := (w.getD 13 0).toNat

/-- Where a primitive of a query stands: the bottom structure, its instance's words where there is one, its words. -/
structure Leafing where
  acc  : Accel
  inst : Option (List W32)
  prim : List W32
deriving DecidableEq, Repr

/-- A structure as a traversal begun at `since` meets it: one built since then is met as it is, as it was, or not at all (R341). -/
def Accel.seen (a : Accel) (since c : Nat) : Option Accel :=
  if a.built < since then some a
  else match c % 3 with
    | 0 => some a
    | 1 => a.was.map fun w => { a with kind := w.kind, opaque' := w.opaque', prims := w.prims }
    | _ => none

def State.leafOf (s : State) (cid : Nat) (root : W64) (since : Nat) (k : Nat × Nat) : Option Leafing :=
  let seen := fun va => (s.accelAt cid va).bind fun a => a.seen since (Config.free .stale s.tick)
  match seen root with
  | none => none
  | some a =>
    if a.kind = 2 then
      match (a.prims.getD k.1 none) with
      | none => none
      | some w =>
        match seen (instVa w) with
        | none => none
        | some b => if b.kind = 2 then none else (b.prims.getD k.2 none).map fun p => { acc := b, inst := some w, prim := p }
    else (a.prims.getD k.2 none).map fun p => { acc := a, inst := none, prim := p }

/-- What a query has to meet, and whether it names a structure no completed build wrote (R335). -/
def State.openTodo (s : State) (cid : Nat) (root : W64) (flags : Nat) : List (Nat × Nat) × Bool :=
  match s.accelAt cid root with
  | none => ([], true)
  | some a =>
    if a.kind = 2 then
      let per := a.prims.mapIdx fun i p =>
        match p with
        | none => (([] : List (Nat × Nat)), false)
        | some w =>
          if Nat.land (bits flags 15 8) (instMask w) = 0 then ([], false)
          else match s.accelAt cid (instVa w) with
            | none => ([], true)
            | some b => if b.kind = 2 then ([], true) else ((List.range b.prims.length).map fun p => (i, p), false)
      (per.flatMap Prod.fst, per.any Prod.snd)
    else ((List.range a.prims.length).map fun p => (0, p), false)

/-! ### Meeting a primitive (R333, R335) -/

def RayHit.key (x : RayHit) : Nat × Nat := (x.inst.toNat, x.prim.toNat)
def keyBelow (a b : Nat × Nat) : Bool := decide (a.1 < b.1) || (a.1 == b.1 && decide (a.2 < b.2))
def numLe (a b : Nat) : Bool := let c := Num.cmp (f32Num a) (f32Num b); !(f32Num a).isNan && !(f32Num b).isNan && c != .gt
def numLt (a b : Nat) : Bool := !(f32Num a).isNan && !(f32Num b).isNan && Num.cmp (f32Num a) (f32Num b) == .lt

/-- Eligibility at a t (R333). -/
def RayQuery.eligible (r : RayQuery) (t : Nat) (key : Nat × Nat) : Bool :=
  numLe r.tmin.toNat t && numLe t r.tmax.toNat && (match r.hit with
    | none => true
    | some c => numLt t c.t.toNat || (numLe t c.t.toNat && numLe c.t.toNat t && keyBelow key c.key))

/-- Acceptance: the candidate is committed and tmax becomes its t; with flag [2] the query is done. -/
def RayQuery.accept (r : RayQuery) (c : RayHit) : RayQuery :=
  { r with hit := some c, tmax := c.t, cand := none, done := r.done || r.flags.getLsbD 2 }

/-- A primitive as a candidate, and whether the unit accepts it itself. -/
def RayQuery.meet (r : RayQuery) (k : Nat × Nat) (l : Leafing) : Option (RayHit × Bool) :=
  let f := r.flags.toNat
  let m := l.inst.map words32
  let org := match m with | some m => xform m (words32 r.org) true | none => words32 r.org
  let dir := match m with | some m => xform m (words32 r.dir) false | none => words32 r.dir
  let args := r.org ++ r.dir ++ l.prim ++ (l.inst.getD []).take 12
  let user := match l.inst with | some w => BitVec.ofNat 32 (instFlags w % 2 ^ 24) | none => 0
  let inst := if l.inst.isSome then k.1 else 0
  let mk := fun (h : PrimHit) (proc : Bool) =>
    ({ t := BitVec.ofNat 32 h.t, u := BitVec.ofNat 32 h.u, v := BitVec.ofNat 32 h.v, inst := BitVec.ofNat 32 inst, prim := BitVec.ofNat 32 k.2,
       user := user, front := h.front, procedural := proc, bad := false } : RayHit)
  if l.acc.kind = 1 then
    if f.testBit 6 then none
    else (boxHit org dir (words32 l.prim) r.tmin.toNat r.tmax.toNat args).map fun h => (mk h true, false)
  else if f.testBit 5 then none
  else
    match triangleHit org dir (words32 l.prim) args with
    | none => none
    | some h =>
      if (h.front && f.testBit 4) || (!h.front && f.testBit 3) || !r.eligible h.t (inst, k.2) then none
      else
        let force := match l.inst with
          | none => none
          | some w =>
            let b := instFlags w
            if b.testBit 24 && b.testBit 25 then some ((Config.interp 25 w).toNat % 2 == 1)
            else if b.testBit 24 then some true else if b.testBit 25 then some false else none
        some (mk h false, f.testBit 0 || (!f.testBit 1 && force.getD l.acc.opaque'))

/-- Advance a traversal: what it meets next is free (R335); `n` bounds what is left to meet. The kind RAYNEXT reports comes back. -/
def State.advance (s : State) (cid : Nat) : Nat → RayQuery → (Nat × RayQuery) × State
  | 0, r => ((0, { r with done := true }), s)
  | n + 1, r =>
    match r.todo.getD [] with
    | [] => ((0, { r with done := true }), s)
    | l =>
      let i := Config.free .traversal s.tick % l.length
      let s := s.bump
      let k := l.getD i (0, 0)
      let r : RayQuery := { r with todo := some (l.eraseIdx i) }
      match (s.leafOf cid r.root r.since k).bind (r.meet k) with
      | none => State.advance s cid n r
      | some (c, true) =>
        let r := r.accept c
        if r.done then ((0, r), s) else State.advance s cid n r
      | some (c, false) => ((if c.procedural then 2 else 1, { r with cand := some c }), s)

/-! ### Builds (R338–R340) -/

structure BuildDesc where
  kind : Nat
  flags : Nat
  ix : Nat
  count : Nat
  input : Nat
  stride : Nat
  verts : Nat
  index : Nat
deriving DecidableEq, Repr

/-- A build descriptor as read, or none where it breaks its table. -/
def buildOf (va : Nat) (bs : List W8) : Option BuildDesc :=
  let d : BuildDesc := { kind := recNum bs 0 1, flags := recNum bs 1 1, ix := recNum bs 2 1, count := recNum bs 4 4, input := recNum bs 8 8,
                         stride := recNum bs 16 4, verts := recNum bs 20 4, index := recNum bs 24 8 }
  let tri := d.kind == 0
  let al := match d.kind with | 0 => 4 | 1 => 8 | _ => 64
  let ok := va % 64 == 0 && decide (d.kind ≤ 2) && decide (d.flags < 4) && (if tri then decide (d.ix ≤ 2) else d.ix == 0) && recNum bs 3 1 == 0
    && decide (1 ≤ d.count ∧ d.count ≤ 16777216) && d.input % al == 0
    && (if tri then d.stride % 4 == 0 && decide (12 ≤ d.stride) && d.verts != 0 else d.stride == 0 && d.verts == 0)
    && (match d.ix with | 0 => d.index == 0 | 1 => d.index % 2 == 0 | _ => d.index % 4 == 0) && (recNonzero bs 32 63).isNone
  if ok then some d else none

/-- How a build ends short: on a fault, or with an error code. -/
inductive BuildStop where
  | fault (f : XFault)
  | error (code : Nat)
deriving DecidableEq, Repr

/-- Bytes a build reads (R340); a peer's are an error 0x0D (R416). -/
def State.buildBytes (s : State) (x : Transfer) (pc root va n : Nat) : Except BuildStop (List W8) × State :=
  match State.engineVaBytes pc x.vol x.ctx root n va s with
  | (.error f, s) => (.error (.fault f), s)
  | (.ok bs, s) => match foundBytes bs with
    | none => (.error (.error 0x0D), s)
    | some bs => (.ok (bs.map Prod.fst), s)

def buildThen {α β : Type} (r : Except BuildStop α × State) (k : α → State → Except BuildStop β × State) : Except BuildStop β × State :=
  match r with
  | (.error x, s) => (.error x, s)
  | (.ok a, s) => k a s

def buildEach {α β : Type} (f : α → State → Except BuildStop β × State) : List α → State → Except BuildStop (List β) × State
  | [], s => (.ok [], s)
  | a :: l, s => buildThen (f a s) fun b s => buildThen (buildEach f l s) fun bs s => (.ok (b :: bs), s)

def wordsOfBytes (bs : List W8) : List W32 := (List.range (bs.length / 4)).map fun i => BitVec.ofNat 32 (recNum bs (4 * i) 4)

/-- A triangle is never hit (R338): a coordinate that is not finite, or no area. -/
def flatTriangle (l : List Num) : Bool :=
  let q := leastExp l
  let v0 := v3Of q l 0
  let n := ((v3Of q l 3).sub v0).cross ((v3Of q l 6).sub v0)
  !l.all Num.finite || (n.x == 0 && n.y == 0 && n.z == 0)

/-- One primitive or instance of a build. -/
def State.buildPrim (s : State) (x : Transfer) (pc root : Nat) (d : BuildDesc) (p : Nat) : Except BuildStop (Option (List W32)) × State :=
  match d.kind with
  | 0 =>
    let index := fun i (s : State) =>
      match d.ix with
      | 0 => ((Except.ok (3 * p + i) : Except BuildStop Nat), s)
      | _ => let n := if d.ix = 1 then 2 else 4
             buildThen (s.buildBytes x pc root (d.index + n * (3 * p + i)) n) fun bs s => (.ok (leValue bs), s)
    buildThen (buildEach index [0, 1, 2] s) fun ix s =>
      if ix.any fun i => decide (d.verts ≤ i) then (.ok none, s)
      else buildThen (buildEach (fun i s => s.buildBytes x pc root (d.input + d.stride * i) 12) ix s) fun vs s =>
        let ws := wordsOfBytes vs.flatten
        (.ok (if flatTriangle (words32 ws) then none else some ws), s)
  | 1 =>
    buildThen (s.buildBytes x pc root (d.input + 24 * p) 24) fun bs s =>
      let ws := wordsOfBytes bs
      let c := words32 ws
      let above := (List.range 3).any fun i => Num.cmp (c.getD i (.fin false 0 0)) (c.getD (i + 3) (.fin false 0 0)) == .gt
        && !(c.getD i (.fin false 0 0)).isNan && !(c.getD (i + 3) (.fin false 0 0)).isNan
      (.ok (if above then none else some ws), s)
  | _ =>
    buildThen (s.buildBytes x pc root (d.input + 64 * p) 64) fun bs s =>
      let ws := wordsOfBytes bs
      if 256 ≤ (ws.getD 12 0).toNat ∨ 2 ^ 26 ≤ (ws.getD 13 0).toNat then (.error (.error 3), s) else (.ok (some ws), s)

/-- Bytes a build leaves in memory: the J384's own, free here. -/
def State.buildWrite (s : State) (x : Transfer) (pc root va n : Nat) : Except BuildStop Unit × State :=
  buildThen (buildEach (fun i s =>
    match s.xl (dieOfCore pc) x.vol x.ctx root ((va + i) % 2 ^ 64) .ewrite with
    | (.error f, s) => (.error (.fault f), s)
    | (.ok t, s) =>
      if paKind t.pa = .peer then (.error (.error 0x0D), s)
      else (.ok (), s.bump.engineWrite t.pa [(BitVec.ofNat 8 (Config.free .device s.tick), false)])) (List.range n) s) fun _ s => (.ok (), s)

/-- Descriptor bytes 0–7 and 20–23, on which a refit must agree (R340). -/
def buildSig (bs : List W8) : List W8 := bs.take 8 ++ (bs.drop 20).take 4

/-- A build begins to write its structure: what stood there is valid no longer, whatever becomes of the build (R339). -/
def State.beginStructure (s : State) (id : Nat) (x : Transfer) (dst : W64) : State :=
  { s with accels := s.accels.map fun a => if a.ctx == x.ctx && a.va == dst then { a with valid := false } else a,
           xfers := FMap.insert s.xfers id { x with pieces := [0] } }

/-- A store or an atomic on its way to what a build is about to write has still to reach its home: the build waits for it (R360). -/
def State.buildHeld (s : State) (x : Transfer) (root va n : Nat) : Bool :=
  (List.range n).any fun i => match s.peekPa x.vol root ((va + i) % 2 ^ 64) with
    | some pa => stuckAt s pa 1
    | none => false

/-- A started build runs to its end or to a fault (R340). -/
def State.buildRun (s : State) (id : Nat) : State :=
  match FMap.find s.xfers id with
  | none => s
  | some x =>
    match x.kind, FMap.find s.ctxs x.ctx, FMap.find s.gaths x.issuer with
    | .build desc dst scr refit, some c, some g =>
      let size := sizeOfBuild (s.peek x.vol c.root desc.toNat 64)
      if !x.started || x.fault.isSome || s.buildHeld x c.root scr.toNat (size (if refit then 2 else 1)) || s.buildHeld x c.root dst.toNat (size 0) then s
      else
        let pc := g.pcore
        let r : Except BuildStop Accel × State :=
          buildThen (s.buildBytes x pc c.root desc.toNat 64) fun bs s =>
          match buildOf desc.toNat bs with
          | none => (.error (.error 3), s)
          | some d =>
            let old := s.accels.find? fun a => a.ctx == x.ctx && a.va == dst && (a.valid || !x.pieces.isEmpty)
            if refit && !(old.any fun a => a.refit && a.sig == buildSig bs) then (.error (.error 3), s)
            else
              buildThen (buildEach (fun p s => s.buildPrim x pc c.root d p) (List.range d.count) s) fun ps s =>
              buildThen (s.buildWrite x pc c.root scr.toNat (size (if refit then 2 else 1))) fun _ s =>
              buildThen ((s.beginStructure id x dst).buildWrite x pc c.root dst.toNat (size 0)) fun _ s =>
                (.ok { ctx := x.ctx, va := dst, valid := true, kind := d.kind, opaque' := d.flags.testBit 0, refit := d.flags.testBit 1,
                       sig := buildSig bs, prims := ps, size := size 0, built := s.nextId,
                       was := old.map fun a => { kind := a.kind, opaque' := a.opaque', prims := a.prims } }, s.fresh.2)
        let x := (FMap.find r.2.xfers id).getD x
        match r with
        | (.error (.fault f), s) => s.xferFault id x f
        | (.error (.error k), s) => s.xferEnd id x k
        | (.ok a, s) => ({ s with accels := a :: s.accels.filter fun b => !(b.ctx == a.ctx && b.va == a.va) } : State).xferEnd id x 0
    | _, _, _ => s

/-- The structures a query may read, the root first: where they stand, and their bytes. -/
def State.structures (s : State) (cid : Nat) (root : W64) (flags : Nat) : List (W64 × Nat) :=
  let below := match s.accelAt cid root with
    | some a => if a.kind = 2 then a.prims.filterMap fun (p : Option (List W32)) => p.bind fun w =>
        if Nat.land (bits flags 15 8) (instMask w) = 0 then none else some (instVa w) else []
    | none => []
  (root :: below).eraseDups.map fun va => (va, ((s.accelAt cid va).map Accel.size).getD 1)

/-- Traversal reads a structure through translation as an engine does, page by page (R341); it waits while an engine owns a part of it. What an
instance names that no build has completed is skipped, wherever it lies: structure contents never fault. -/
def State.readStructure (s : State) (e : Env) (lane : Nat) (root : W64) (x : W64 × Nat) : Except Halt Unit × State :=
  let va := x.1.toNat
  let valid := x.1 == root || (s.accelAt e.vol.ctx x.1).isSome
  let stop := va + max 1 x.2
  if s.owned.any fun o => o.root == e.ctx.root && decide (o.va < stop) && decide (va < o.va + o.len) then (.error (.stall .build), s)
  else
    let pages := if !valid then [] else va :: (((List.range ((stop - 1) / 4096 - va / 4096)).map fun i => 4096 * (va / 4096 + 1 + i)))
    andThen (eachOf (fun a s => s.laneAt e lane a .eread fun _ s => (.ok (), s)) pages s) fun _ s => (.ok (), s)

/-! ### The instructions -/

def Env.openQuery (e : Env) (f : FmtE) (lane : Nat) : RayQuery :=
  let w := fun i => BitVec.ofNat 32 (e.regAt f.a i lane).n
  let org := [w 0, w 1, w 2]
  let dir := [w 4, w 5, w 6]
  let nan := (org ++ dir).any fun c => (f32Num c.toNat).isNan
  { org := org, dir := dir, tmin := w 3, tmax0 := w 7, tmax := w 7, flags := BitVec.ofNat 32 (e.readTy f.c .n32 lane).n,
    root := BitVec.ofNat 64 (e.vaIn f.b lane).n, bad := ((List.range 8).any fun i => (e.regAt f.a i lane).bad), todo := none, since := 0, cand := none, hit := none,
    invalid := false, done := nan || !numLe (w 3).toNat (w 7).toNat }

/-- Reserved bits of the ray flags are zero, and not both force bits are set (R332). -/
def rayFlagsBad (v : Nat) : Bool := decide (2 ^ 16 ≤ v) || v.testBit 7 || (v.testBit 0 && v.testBit 1)

/-- RAYQ (R331). -/
def Env.rayq (e : Env) (s : State) (h : Hdr) (f : FmtE) : Res State :=
  let lanes := e.lanes (e.contrib h)
  Env.orTrap s
    ((e.laneTrap 0x0E 1 (fun _ => 0) (lanes.filter fun l => (e.vaIn f.b l).bad)).or <|
     (e.laneTrap 0x0E 8 (fun _ => 0) (lanes.filter fun l => (e.readTy f.c .n32 l).bad)).or <|
     (e.laneTrap 0x03 0 (fun _ => 0) (lanes.filter fun l => rayFlagsBad (e.readTy f.c .n32 l).n))) <|
  .ok (s.upd e fun q => { q with queries := lanes.foldl (fun m l => FMap.insert m l (e.openQuery f l)) q.queries })

/-- One lane of RAYNEXT: the reported word, the query as it then stands. -/
def State.rayNextLane (s : State) (e : Env) (lane : Nat) : Except Halt (Nat × List (W32 × Bool)) × State :=
  match FMap.find e.q.queries lane with
  | none => (.ok (lane, [(0, false)]), s)
  | some r =>
    let word := fun (k : Nat) (r : RayQuery) => (lane, [(BitVec.ofNat 32 (k + if r.invalid then 4 else 0), r.bad)])
    let go := fun (r : RayQuery) (s : State) =>
      let a := s.advance e.vol.ctx (r.todo.getD []).length { r with cand := none }
      ((.ok (word a.1.1 a.1.2) : Except Halt (Nat × List (W32 × Bool))), a.2.upd e fun q => { q with queries := FMap.insert q.queries lane a.1.2 })
    if r.done then (.ok (word 0 r), s.upd e fun q => { q with queries := FMap.insert q.queries lane { r with cand := none } })
    else
      andThen (eachOf (fun x s => s.readStructure e lane r.root x) (s.structures e.vol.ctx r.root r.flags.toNat) s) fun _ s =>
      match r.todo with
      | some _ => go r s
      | none =>
        let t := s.openTodo e.vol.ctx r.root r.flags.toNat
        go { r with todo := some t.1, since := s.nextId, invalid := r.invalid || t.2 } s

/-- RAYNEXT (R335). One that does not complete moves no query. -/
def Env.raynext (e : Env) (s : State) (h : Hdr) (f : FmtE) : Res State :=
  match eachLane (fun l : Nat => l) (fun l s => s.rayNextLane e l) (e.lanes (e.contrib h)) s with
  | (.error k, s) => .error (k, s.upd e fun q => { q with queries := e.q.queries })
  | (.ok rs, s) => .ok (s.engineReturn e h f.d 1 (fun _ => 1) rs)

/-- One lane of RAYACC: accept the lane's candidate where its kind is the one asked for and it is eligible at that distance. -/
def Env.tryAccept (e : Env) (f : FmtE) (proc : Bool) (m : FMap RayQuery) (l : Nat) : FMap RayQuery :=
  match FMap.find m l with
  | none => m
  | some r =>
    match r.cand with
    | none => m
    | some c =>
      let t : Val := if proc then e.readTy f.a .f32 l else { n := c.t.toNat, bad := false }
      if c.procedural == proc && r.eligible t.n c.key then
        FMap.insert m l (r.accept { c with t := BitVec.ofNat 32 t.n, bad := c.bad || t.bad })
      else m

/-- RAYACC (R336). -/
def Env.rayacc (e : Env) (s : State) (h : Hdr) (f : FmtE) : Res State :=
  .ok (s.upd e fun q => { q with queries := (e.lanes (e.contrib h)).foldl (e.tryAccept f (f.m.getLsbD 0)) q.queries })

/-- An item of a hit (R337). -/
def RayHit.item (c : RayHit) (i : Nat) (invalid : Bool) : W32 :=
  match i with
  | 0 => c.t
  | 1 => c.u
  | 2 => c.v
  | 3 => c.inst
  | 4 => c.prim
  | 5 => c.user
  | _ => BitVec.ofNat 32 (1 + (if c.front then 2 else 0) + (if c.procedural then 4 else 0) + if invalid then 8 else 0)

/-- The values of an item where there is no hit (R337). -/
def missItem (i : Nat) (tmax : W32) (invalid : Bool) : W32 :=
  match i with
  | 0 => tmax
  | 3 => 0xFFFFFFFF
  | 4 => 0xFFFFFFFF
  | 6 => if invalid then 8 else 0
  | _ => 0

/-- The committed item of a lane's query. A lane that has none was given no tmax: a free value (log entry 6). -/
def committedItem (r : Option RayQuery) (lane i : Nat) : W32 × Bool :=
  match r with
  | none => (missItem i (Config.interp 26 [BitVec.ofNat 32 lane]) false, false)
  | some r => match r.hit with
    | none => (missItem i r.tmax0 r.invalid, r.bad)
    | some c => (c.item i r.invalid, r.bad || c.bad)

/-- RAYEND (R337, R331). -/
def Env.rayend (e : Env) (s : State) (h : Hdr) (f : FmtE) : Res State :=
  let lanes := e.lanes (e.contrib h)
  let rs := lanes.map fun l => (l, (List.range 7).map fun i => committedItem (FMap.find e.q.queries l) l i)
  let closed := (lanes.filter fun l => (FMap.find e.q.queries l).isSome).length
  .ok ((s.upd e fun q => { q with queries := lanes.foldl (fun m l => FMap.remove m l) q.queries, heldSlots := q.heldSlots + closed }).engineReturn
    e h f.d 7 (fun _ => 7) rs)

/-- RAYGET (R337). -/
def Env.rayget (e : Env) (s : State) (h : Hdr) (f : FmtE) : Res State :=
  let i := f.m.toNat % 8
  let one := fun l =>
    let r := FMap.find e.q.queries l
    if f.m.getLsbD 3 then committedItem r l i
    else match r with
      | none => (0, false)
      | some r => match r.cand with
        | none => (0, r.bad)
        | some c => (c.item i r.invalid, r.bad || c.bad)
  .ok (s.engineReturn e h f.d 1 (fun _ => 1) ((e.lanes (e.contrib h)).map fun l => (l, [one l])))

/-- ASBUILD (R339, R340): any quire may issue it. -/
def Env.asbuild (e : Env) (s : State) (h : Hdr) (f : FmtE) : Res State :=
  let a := e.readOnce h f.a .n64
  let b := e.readOnce h f.b .n64
  let c := e.readOnce h f.c .n64
  e.handleOp s h f.d false [(a, 1), (b, 1), (c, 1)] fun n =>
    e.checkVal s (b.n % 256 != 0) 0x0A b.n <|
    e.checkVal s (c.n % 256 != 0) 0x0A c.n <|
    e.issue s n (.build (BitVec.ofNat 64 a.n) (BitVec.ofNat 64 b.n) (BitVec.ofNat 64 c.n) (f.m.getLsbD 0)) 0

/-- ASINFO (R339): three byte counts, from descriptor bytes 0–7 and 20–23. -/
def Env.asinfo (e : Env) (s : State) (h : Hdr) (f : FmtE) : Res State :=
  e.onceUniform s h (
    if e.contrib h = 0 then .ok s
    else
      let a := e.readOnce h f.a .n64
      let l := (LaneSet.lowest e.width (e.effect h)).getD 0
      if a.bad then e.trapRes s 0x0E 1
      else stepRes (
        if a.n % 64 ≠ 0 then (.error (.trap (e.trapInfo 0x0A 0xFFFF 0 a.n 0)), s)
        else if !canonical a.n then (.error (.trap (e.trapInfo 0x0D 0xFFFF 0 a.n 0)), s)
        else andThen (s.roAt e l a.n 64) fun bs s =>
          let r := bs.map Prod.fst
          let size := sizeOfBuild r
          let bad := bs.any Prod.snd
          (.ok (s.upd e fun q => { q with regs := q.regs.applyAll ((List.range 3).map fun k =>
            RegWrite.scal (Opnd.num f.d + k) (BitVec.ofNat 64 (size k)) bad) }), s)))

/-! ### Meanings -/

/-- RAYQ (R331). -/
def execRayq (h : Hdr) (f : FmtE) (s : State) : Out := s.perform (.rayq h f) fun e s => e.rayq s h f
/-- RAYNEXT (R335). -/
def execRaynext (h : Hdr) (f : FmtE) (s : State) : Out := s.perform (.raynext h f) fun e s => e.anyLane s h (e.raynext s h f)
/-- RAYACC (R336). -/
def execRayacc (h : Hdr) (f : FmtE) (s : State) : Out := s.perform (.rayacc h f) fun e s => e.rayacc s h f
/-- RAYEND (R337). -/
def execRayend (h : Hdr) (f : FmtE) (s : State) : Out := s.perform (.rayend h f) fun e s => e.anyLane s h (e.rayend s h f)
/-- RAYGET (R337). -/
def execRayget (h : Hdr) (f : FmtE) (s : State) : Out := s.perform (.rayget h f) fun e s => e.anyLane s h (e.rayget s h f)
/-- ASBUILD (R339, R340). -/
def execAsbuild (h : Hdr) (f : FmtE) (s : State) : Out := s.perform (.asbuild h f) fun e s => e.asbuild s h f
/-- ASINFO (R339). -/
def execAsinfo (h : Hdr) (f : FmtE) (s : State) : Out := s.perform (.asinfo h f) fun e s => e.asinfo s h f

end Sys2Proof.Machine
end

