-- ==== Sys2Proof/Machine/Search.lean ====
section
/-! DEFINITION. Group 0xE, search trees (R398–R411): the checks of each instruction and the requests its lanes send to the tree's engine. A tree
instruction holds its quire until its results have landed, so that a fault of one of its lanes finds the group in place (log entry 14). -/
namespace Sys2Proof.Machine

/-- The first trap of a list of checks, each by the lanes it finds at fault. -/
def Env.firstLaneTrap (e : Env) (once : Bool) (lanes : List Nat) (l : List (Nat × Nat × (Nat → Nat) × (Nat → Bool))) : Option TrapInfo :=
  firstSome' (l.map fun c =>
    match lanes.filter c.2.2.2 with
    | [] => none
    | x :: xs => some (if once then e.trapInfo c.1 0xFFFF c.2.1 (c.2.2.1 x) 0 else e.trapLanes c.1 c.2.1 (c.2.2.1 x) (setOf (x :: xs))))
where
  firstSome' : List (Option TrapInfo) → Option TrapInfo
    | [] => none
    | some t :: _ => some t
    | none :: l => firstSome' l

/-- The descriptor VA in a lane. -/
def Env.treeDesc (e : Env) (f : FmtE) (lane : Nat) : Val := e.readTy f.a .n64 lane

/-- The checks of R399 behind the decode and the guard: poison, alignment, canonical form. -/
def Env.treeTrap (e : Env) (f : FmtE) (once : Bool) (lanes : List Nat) (poison : List (Nat × (Nat → Bool))) (list : Nat → Option Nat) : Option TrapInfo :=
  let zero := fun _ : Nat => 0
  let d := fun l => (e.treeDesc f l).n
  let c := fun l => (list l).getD 0
  e.firstLaneTrap once lanes
    ((0x0E, 1, zero, fun l => (e.treeDesc f l).bad) :: (poison.map fun p => (0x0E, p.1, zero, p.2))
      ++ [(0x0A, 0, d, fun l => (d l) % 128 != 0), (0x0A, 0, c, fun l => (c l) % 16 != 0), (0x0D, 0, d, fun l => !canonical (d l)),
          (0x0D, 0, c, fun l => !canonical (c l))])

/-- The register a lane's results begin at. -/
def Env.treeDst (e : Env) (d : Opnd) (lane : Nat) : Opnd :=
  match d with
  | .x k off => .v (BitVec.ofNat 11 (e.view.indexed k off lane).toNat)
  | o => o

/-- The requests of an instruction, ascending; its results are outstanding and the quire waits for them. Padding lanes are to read zero. -/
def State.sendTree (s : State) (e : Env) (h : Hdr) (f : FmtE) (words : Nat) (lanes : List Nat) (op : Nat → TreeOp) : State :=
  let ins := s.nextId
  let reqs := lanes.mapIdx fun i l =>
    ({ id := ins + 1 + i, ins := ins, quire := e.id, gath := e.q.gath, vol := e.g.vol, ctx := e.vol.ctx, index := e.q.index, lane := l, pc := e.q.selfPc,
       desc := BitVec.ofNat 64 (e.treeDesc f l).n, home := none, op := op l, dst := e.treeDst f.d l, prog := .fresh, faulted := none, faultVa := 0 } : TreeReq)
  let zero := if f.d.isVec then (e.lanes (e.effect h &&& e.view.padding)).flatMap fun l => e.laneWrites h f.d l (List.replicate words (0, false)) else []
  let p : Pending := { kind := .tree, writes := zero, names := [], ready := lanes.isEmpty, req := ins, acq := some .dev, slot := none, old := false }
  ({ s with treqs := s.treqs ++ reqs, nextId := ins + 1 + lanes.length } : State).upd e fun q =>
    { e.outstanding h f.d words (e.lanes (e.effect h)) [p] q with wait := .reply false }

/-- A tree instruction that acts lane by lane. -/
def Env.treeOp (e : Env) (s : State) (h : Hdr) (f : FmtE) (words : Nat) (commits : Bool) (poison : List (Nat × (Nat → Bool))) (list : Nat → Option Nat)
    (op : Nat → TreeOp) : Res State :=
  if e.effect h = 0 then .ok s
  else
    let lanes := e.lanes (e.contrib h)
    match e.treeTrap f false lanes poison list with
    | some t => .error (.trap t, s)
    | none => .ok ((if commits then (s.commit e.id).accept e.id [] else s).sendTree e h f words lanes op)

/-- TINIT and TREUSE, once per quire under the guard rule of R260. -/
def Env.treeOnce (e : Env) (s : State) (h : Hdr) (f : FmtE) (poison : List (Nat × (Nat → Bool))) (op : Nat → TreeOp) : Res State :=
  e.onceUniform s h (
    if e.contrib h = 0 then .ok s
    else
      let lanes := (LaneSet.lowest e.width (e.effect h)).toList
      match e.treeTrap f true lanes poison (fun _ => none) with
      | some t => .error (.trap t, s)
      | none => .ok (((s.commit e.id).accept e.id []).sendTree e h f 1 lanes op))

/-- Words of the path record and of a value in a lane. -/
def Env.pathWord (e : Env) (f : FmtE) (i lane : Nat) : Val := e.regAt f.b i lane
def Val.w32 (v : Val) : W32 := BitVec.ofNat 32 v.n
def Val.w64 (v : Val) : W64 := BitVec.ofNat 64 v.n
def Env.pathBad (e : Env) (f : FmtE) (lane : Nat) : Bool := (e.pathWord f 0 lane).bad || (e.pathWord f 1 lane).bad

/-- TINIT (R399, R403). -/
def execTinit (h : Hdr) (f : FmtE) (s : State) : Out := s.perform (.tinit h f) fun e s => e.treeOnce s h f [] fun _ => .init
/-- TSEL (R404). -/
def execTsel (h : Hdr) (f : FmtE) (s : State) : Out := s.perform (.tsel h f) fun e s => e.treeOp s h f 4 true [] (fun _ => none) fun _ => .sel
/-- TEXP (R406). -/
def execTexp (h : Hdr) (f : FmtE) (s : State) : Out :=
  s.perform (.texp h f) fun e s =>
    let va := fun l => e.readTy f.c .n64 l
    let k := fun l => e.regAt f.c 2 l
    e.treeOp s h f 1 true [(8, e.pathBad f), (1, fun l => (va l).bad), (8, fun l => (k l).bad)] (fun l => some (va l).n) fun l =>
      .exp (e.pathWord f 0 l).w32 (e.pathWord f 1 l).w32 (va l).w64 (k l).w32
/-- TBACK (R409). -/
def execTback (h : Hdr) (f : FmtE) (s : State) : Out :=
  s.perform (.tback h f) fun e s =>
    let v := fun l => e.readTy f.c .f64 l
    e.treeOp s h f 1 true [(8, e.pathBad f), (8, fun l => (v l).bad)] (fun _ => none) fun l =>
      .back (e.pathWord f 0 l).w32 (e.pathWord f 1 l).w32 (v l).w64
/-- TLEAF (R408). -/
def execTleaf (h : Hdr) (f : FmtE) (s : State) : Out :=
  s.perform (.tleaf h f) fun e s =>
    let tag := fun l => e.readTy f.c .n32 l
    e.treeOp s h f 1 true [(8, e.pathBad f), (8, fun l => (tag l).bad)] (fun _ => none) fun l =>
      .leaf (e.pathWord f 0 l).w32 (e.pathWord f 1 l).w32 (tag l).w32 e.desc.handles
/-- TREUSE (R410). -/
def execTreuse (h : Hdr) (f : FmtE) (s : State) : Out :=
  s.perform (.treuse h f) fun e s =>
    let n := fun l => e.readTy f.b .n32 l
    e.treeOnce s h f [(8, fun l => (n l).bad)] fun l => .reuse (n l).w32
/-- TREAD (R411). -/
def execTread (h : Hdr) (f : FmtE) (s : State) : Out :=
  s.perform (.tread h f) fun e s =>
    let n := fun l => e.readTy f.b .n32 l
    e.treeOp s h f 16 false [(8, fun l => (n l).bad)] (fun _ => none) fun l => .read (n l).w32

end Sys2Proof.Machine
end

