-- ==== Sys2Proof/Machine/Collective.lean ====
section
/-! DEFINITION. The collective engine (R422–R431): what COLL queues, how its descriptor is read, the views and masks of its members, the
reduction, and how a collective ends. -/
namespace Sys2Proof.Machine

/-! ### Access to memory -/

/-- A run of bytes cut at 16-byte boundaries: addresses and lengths; `n` bounds the pieces. -/
def cuts : Nat → Nat → Nat → List (Nat × Nat)
  | 0, _, _ => []
  | n + 1, va, len => if len = 0 then [] else let k := min len (16 - va % 16); (va, k) :: cuts n (va + k) (len - k)

/-- Who a collective acts for: context, launch, issuing core. -/
structure CollEnv where
  ctx  : Nat
  vol  : Nat
  root : Nat
  core : Nat
deriving DecidableEq, Repr

/-- The physical address of an engine access; a peer's is error 0x0D (R416). -/
def CollEnv.pa (a : CollEnv) (s : State) (va : Nat) (acc : Acc) : Except TErr Nat × State :=
  match s.xl (dieOfCore a.core) a.vol a.ctx a.root va acc with
  | (.error f, s) => (.error (.fault f), s)
  | (.ok x, s) => if paKind x.pa == .peer then tStop s 0x0D else (.ok x.pa, s)

def CollEnv.read (a : CollEnv) (s : State) (va n : Nat) : Except TErr (List (W8 × Bool)) × State :=
  tThen (tEach (fun p s => tThen (a.pa s p.1 .eread) fun k s =>
      (.ok ((List.range p.2).map fun i => (s.engineByte a.core (k + i), s.engineBad a.core (k + i))), s)) (cuts (n + 1) va n) s)
    fun l s => (.ok l.flatten, s)

/-- Bytes the engine writes: every address is translated before the first is written. They follow whatever reached the lines before the
engine owned them, and precede what waits for their release (R360). -/
def CollEnv.write (a : CollEnv) (s : State) (va : Nat) (bs : List (W8 × Bool)) : Except TErr Unit × State :=
  let ps := cuts (bs.length + 1) va bs.length
  tThen (tEach (fun p s => tThen (a.pa s p.1 .ewrite) fun k s => (.ok (k, (bs.drop (p.1 - va)).take p.2), s)) ps s) fun ws s =>
    (.ok (), ws.foldl (fun s w =>
      let marks := (w.2.mapIdx fun i b => if b.2 then [(w.1 + i) / 4] else []).flatten
      { s with mem := s.mem.writeMarked w.1 (w.2.map Prod.fst) marks }) s)

/-- Stores and atomics on their way to a run that the engine is about to write have reached their homes, as far as they are free to; false
while one has not: the engine's bytes follow what came before it owned the lines (R360). -/
def CollEnv.clear (a : CollEnv) (s : State) (va n : Nat) : Bool × State :=
  (cuts (n + 1) va n).foldl (fun r p =>
    match r.2.peekPa a.vol a.root p.1 with
    | none => r
    | some pa =>
      let s := r.2.recallRange pa p.2
      (r.1 && !s.heldBytes pa p.2, s)) (true, s)

/-! ### Masks -/

def maskOf (l : List Nat) : Nat := l.foldl (fun m i => if m.testBit i then m else m + 2 ^ i) 0
def ranksOf (n m : Nat) : List Nat := (List.range n).filter fun i => m.testBit i
/-- A member's view (R428): the ranks it has not declared lost. -/
def Coll.view (c : Coll) : Nat := maskOf ((List.range c.n).filter fun i => !c.lost.contains i)
def Coll.all (c : Coll) : Nat := 2 ^ c.n - 1
/-- More than n / 2 ranks. -/
def Coll.majority (c : Coll) (m : Nat) : Bool := decide (c.n < 2 * (ranksOf c.n m).length)

def State.setColl (s : State) (id : Nat) (c : Coll) : State := { s with colls := FMap.insert s.colls id c }
def State.modColl (s : State) (id : Nat) (f : Coll → Coll) : State := { s with colls := FMap.modify s.colls id f }

/-- How it ends is settled with an error (R423, R425, R428, R429). -/
def Coll.fail (c : Coll) (cls error : Nat) : Coll := if c.settled then c else { c with settled := true, status := 1, cls := cls, error := error }

/-! ### Messages (R427) -/

/-- Stations on a member's path (R427): those of the valid entries that name it, else every station up; one that has gone down was on it. -/
def State.pathOf (s : State) (id : Nat) : Nat :=
  let named := s.peers.filterMap fun e => if e.2.getLsbD 0 && bits e.2.toNat 25 16 == id then some (bits e.2.toNat 41 26) else none
  if named.isEmpty then Nat.lor s.stations s.fallen else named.foldl Nat.lor 0

/-- A message to a rank leaves on one of the stations of its path that are up; with none it goes nowhere (R413, R427). -/
def State.tell (s : State) (c : Coll) (rank : Nat) (m : CollMsg) : State :=
  let path := s.pathOf (c.ids.getD rank 0)
  if Nat.land path s.stations = 0 then s else { s.flit path with outbox := s.outbox ++ [m] }
/-- The same kind of message to every other rank of a list. -/
def State.tellAll (s : State) (c : Coll) (l : List Nat) (m : Nat → CollMsg) : State :=
  (l.filter (· != c.rank)).foldl (fun s r => s.tell c r (m r)) s

/-! ### Reading the descriptor (R423) -/

/-- What a descriptor and a group table say; none where they break R423. -/
def collOf (c : Coll) (d head tab : List W8) : Option Coll :=
  let f := fun (bs : List W8) (o k : Nat) => leValue ((bs.drop o).take k)
  let n := f head 0 2
  let rank := f head 2 2
  let ids := (List.range n).map fun i => f tab (2 * i) 2
  let count := f d 24 8
  let root := f d 52 2
  let ok := f d 0 8 % 8 == 0 && f d 8 8 % 16 == 0 && f d 16 8 % 16 == 0 && (f d 16 8 != f d 8 8 || c.kind == 0)
    && decide (1 ≤ count ∧ count < 2 ^ 32) && f d 32 8 % 32 == 0 && f d 40 8 % 8 == 0 && (f d 40 8 != 0 || decide (n ≤ 64))
    && decide (1 ≤ n ∧ n ≤ 1024) && decide (rank < n) && (if c.kind = 3 then decide (root < n) else root == 0) && f d 54 10 == 0
    && ids.all (fun x => decide (x < 1024)) && ids.getD rank 0 == Config.accelId && ids.eraseDups.length == n
  if ok then
    some { c with n := n, rank := rank, group := f head 4 4, ids := ids, src := BitVec.ofNat 64 (f d 8 8), dst := BitVec.ofNat 64 (f d 16 8),
                  count := count, record := BitVec.ofNat 64 (f d 32 8), maskVa := BitVec.ofNat 64 (f d 40 8), seq := f d 48 4, root := root }
  else none

/-- The collective of a transfer with what its engine needs. -/
def State.collEnv (s : State) (x : Transfer) : Option CollEnv :=
  match FMap.find s.ctxs x.ctx, FMap.find s.gaths x.issuer with
  | some c, some g => some { ctx := x.ctx, vol := x.vol, root := c.root, core := g.pcore }
  | _, _ => none

/-- The destination lines pass to the engine: what the L1s hold of them reaches its home first (R360). -/
def CollEnv.own (a : CollEnv) (s : State) (c : Coll) : State :=
  (cuts (c.destBytes + 1) c.dst.toNat c.destBytes).foldl (fun s p =>
    match s.translate (dieOfCore a.core) a.ctx a.root p.1 .eread with
    | (.ok x, s) => s.recall (s.shadowed a.vol x.pa / 128)
    | (.error _, s) => s) s

/-- Bytes of the source this member reads (R425). -/
def Coll.srcBytes (c : Coll) : Nat := if c.kind = 1 then c.n * c.chunk else if c.kind = 3 ∧ c.rank ≠ c.root then 0 else c.chunk
/-- What of its source a member sends to rank `r` (R425). -/
def Coll.share (c : Coll) (own : List W8) (r : Nat) : List W8 := if c.kind = 1 then (own.drop (r * c.chunk)).take c.chunk else own
/-- What this member gives alike with the others (R425). -/
def Coll.params (c : Coll) : CollParams := { kind := c.kind, op := c.op, ty := c.ty, count := c.count, root := c.root, n := c.n, ids := c.ids }

/-- The engine reads a started collective's descriptor and group table; the member's own parameters and contribution go to the others (R425). A record VA that is aligned is kept of a bad descriptor too, for
its record. -/
def State.collOpen (s : State) (xid id : Nat) : State :=
  match FMap.find s.xfers xid, FMap.find s.colls id with
  | some x, some c =>
    match s.collEnv x with
    | none => s
    | some a =>
      if !x.started || x.fault.isSome || c.opened || c.settled then s
      else
        let r := tThen (a.read s c.desc.toNat 64) fun d s =>
          let d := d.map Prod.fst
          let t := leValue (d.take 8)
          if t % 8 ≠ 0 then (.ok (d, [], []), s)
          else tThen (a.read s t 8) fun h s =>
            let n := leValue ((h.map Prod.fst).take 2)
            if 1024 < n then (.ok (d, h.map Prod.fst, []), s)
            else tThen (a.read s (t + 8) (2 * n)) fun b s => (.ok (d, h.map Prod.fst, b.map Prod.fst), s)
        match r with
        | (.error (.fault f), s) => s.xferFault xid x f
        | (.error (.status n), s) => s.setColl id (c.fail n n)
        | (.ok (d, h, b), s) =>
          match collOf c d h b with
          | none =>
            let rv := leValue ((d.drop 32).take 8)
            s.setColl id ({ c with record := if rv % 32 = 0 then BitVec.ofNat 64 rv else 0, seq := leValue ((d.drop 48).take 4) }.fail 3 3)
          | some c =>
            if s.ended.contains (c.group, c.seq) then s.setColl id ({ c with opened := true, noMask := true }.fail 0x25 0)
            else
              match a.read s c.src.toNat c.srcBytes with
              | (.error (.fault f), s) => s.xferFault xid x f
              | (.error (.status n), s) => s.setColl id ({ c with opened := true }.fail n n)
              | (.ok own, s) =>
                let now := (List.range c.n).foldl (fun (m : FMap Nat) i => FMap.insert m i s.ns) []
                let s := (a.own s c).setColl id { c with opened := true, heard := now, sentAt := s.ns, phase := if c.n = 1 then .exchanging else .waiting }
                s.tellAll c (List.range c.n) fun r => .part id r c.params (c.share (own.map Prod.fst) r)
  | _, _ => s

/-! ### The reduction (R426) -/

/-- The element type of a collective. -/
def collTy (ty : Nat) : Ty := match ty with | 0 => .f64 | 1 => .f32 | 2 => .bf16x2 | 3 => .i32 | _ => .i64

/-- One step of the fold on element codes. -/
def collStep (ty op a b : Nat) : Nat :=
  let w := 8 * elemBytes ty
  match (collTy ty).elem with
  | .flt F => if op = 0 then (F.add .rne false false (F.decode a) (F.decode b)).1 else (F.minmax (op == 2) a b).1
  | _ =>
    if op = 0 then (a + b) % 2 ^ w
    else if op = 1 then (if intOf true w a ≤ intOf true w b then a else b)
    else if intOf true w b ≤ intOf true w a then a else b

/-- A left fold from the first. -/
def foldFirst (f : Nat → Nat → Nat) : List Nat → Nat
  | [] => 0
  | a :: l => l.foldl f a

/-- The contribution of a rank to this member: its own source, or what was received. -/
def Coll.part (c : Coll) (own : List (W8 × Bool)) (r : Nat) : List (W8 × Bool) :=
  if r = c.rank then (if c.kind = 1 then (own.drop (c.rank * c.chunk)).take c.chunk else own)
  else (FMap.val [] c.data r).map fun b => (b, false)

/-- Element `i` of the reduction, with a mark where this member's own element is poisoned. -/
def Coll.element (c : Coll) (parts : List (List (W8 × Bool))) (i : Nat) : List (W8 × Bool) :=
  let e := elemBytes c.ty
  let at' := fun p : List (W8 × Bool) => (p.drop (e * i)).take e
  let bad := parts.any fun p => (at' p).any Prod.snd
  (leBytes e (foldFirst (collStep c.ty c.op) (parts.map fun p => leValue ((at' p).map Prod.fst)))).map fun b => (b, bad)

/-- What is written where: addresses and bytes (R425). -/
def Coll.results (c : Coll) (own : List (W8 × Bool)) (m : Nat) : List (Nat × List (W8 × Bool)) :=
  let ranks := ranksOf c.n m
  match c.kind with
  | 2 => ranks.map fun r => (c.dst.toNat + r * c.chunk, c.part own r)
  | 3 => [(c.dst.toNat, c.part own c.root)]
  | _ => [(c.dst.toNat, (List.range c.count).flatMap (c.element (ranks.map (c.part own))))]

/-! ### Agreement (R427, R428) -/

/-- A final mask is taken unless one of a lower coordinator, or of the same, has been (R428). -/
def Coll.takeMask (c : Coll) (m from' : Nat) : Coll :=
  if (c.mask.any fun x => decide (x.2 ≤ from')) then c else { c with mask := some (m, from') }

/-- How a collective with its mask ends, unless a lower coordinator's arrives before it does (R428). -/
def Coll.verdict (c : Coll) : Coll :=
  match c.mask with
  | none => c
  | some (m, _) =>
    if !c.majority m then c.fail 0x23 0
    else if !m.testBit c.rank then c.fail 0x22 0
    else if c.kind = 3 ∧ !m.testBit c.root then c.fail 0x24 0
    else c

/-- The first round begins, or a later declaration changes the view: the member's view goes to every rank in it. -/
def State.collRound (s : State) (id : Nat) (c : Coll) : State :=
  (s.setColl id { c with phase := if c.phase == .ended then .ended else .agreeing, round := some (c.round.getD s.ns) }).tellAll c (ranksOf c.n c.view)
    fun r => .view id r c.view

/-- A member has no final mask 4 ms after the first round (R428). -/
def State.maskDue (s : State) (c : Coll) : Bool := c.mask.isNone && c.round.any fun t => decide (t + 4000000 ≤ s.ns)

/-- The member coordinates: the lowest rank of its own view, which holds a majority. What it has heard of others does not stop it. -/
def Coll.coordinates (c : Coll) : Bool := (ranksOf c.n c.view).head? == some c.rank && c.majority c.view && c.round.isSome && !c.decided && !c.settled

/-- The coordinator closes the second round: the AND of the views it received, the ranks that did not answer removed. -/
def State.collDecide (s : State) (id : Nat) (c : Coll) : State :=
  let here := (ranksOf c.n c.view).filter fun r => r == c.rank || (FMap.find c.views r).isSome
  let m := here.foldl (fun m r => if r = c.rank then m else Nat.land m (FMap.val 0 c.views r)) (Nat.land (maskOf here) c.view)
  (s.setColl id { c.takeMask m c.rank with decided := true }).tellAll c (ranksOf c.n c.view) fun r => .final id r m

/-- Every rank of the coordinator's view has sent its own. -/
def Coll.allViews (c : Coll) : Bool := (ranksOf c.n c.view).all fun r => r == c.rank || (FMap.find c.views r).isSome

/-- The final mask, where nobody has been declared lost every rank. -/
def Coll.final (c : Coll) : Option Nat :=
  match c.mask with
  | some m => some m.1
  | none => if c.round.isNone && (List.range c.n).all (fun r => r == c.rank || (FMap.find c.data r).isSome) then some c.all else none

/-- The collective can end now: by an error, or with every contribution of its final mask at hand. -/
def Coll.due (c : Coll) : Bool :=
  c.verdict.settled || (c.opened && (match c.final with
    | some m => (ranksOf c.n m).all fun r => r == c.rank || (FMap.find c.data r).isSome
    | none => false))

/-! ### The end (R430, R431) -/

/-- The mask that is recorded: the final one; without one its value is open. -/
def State.collMask (s : State) (c : Coll) : Nat :=
  match c.mask with
  | some m => m.1
  | none => if c.status = 0 then c.all else Config.free .mask s.tick % 2 ^ c.n

/-- The 32 bytes of the record. -/
def Coll.recordBytes (c : Coll) (ns mask : Nat) : List W8 :=
  leBytes 4 c.seq ++ leBytes 2 c.status ++ leBytes 2 c.cls ++ leBytes 8 ns ++ leBytes 8 mask ++ leBytes 8 0

def plainBytes (bs : List W8) : List (W8 × Bool) := bs.map fun b => (b, false)

/-- Step 1: the destination. The status is settled with it. -/
def CollEnv.stepData (a : CollEnv) (s : State) (c : Coll) : Except TErr Coll × State :=
  if c.settled then (.ok c, s)
  else
    let m := c.final.getD 0
    tThen (a.read s c.src.toNat c.srcBytes) fun own s =>
      tThen (tEach (fun r s => tThen (tEach (fun p s => a.pa s p.1 .ewrite) (cuts (r.2.length + 1) r.1 r.2.length) s) fun _ s => (.ok (), s)) (c.results own m) s) fun _ s =>
        tThen (tEach (fun r s => a.write s r.1 r.2) (c.results own m) s) fun _ s =>
          (.ok { c with mask := some (m, (c.mask.map Prod.snd).getD c.rank), settled := true, written := true, status := if m = c.all then 0 else 3, cls := 0, error := 0 }, s)

/-- A collective that fails leaves each destination word as it was or as some value written in flight (R430); which is open. -/
def CollEnv.inFlight (a : CollEnv) (s : State) (c : Coll) : State :=
  if c.status ≠ 1 ∨ c.opened = false ∨ c.cls = 0x25 ∨ c.written = true then s
  else
    (cuts (c.destBytes + 1) c.dst.toNat c.destBytes).foldl (fun s p =>
      match a.pa s p.1 .ewrite with
      | (.error _, s) => s
      | (.ok k, s) => (List.range ((p.2 + 3) / 4)).foldl (fun s i =>
          let x := Config.free .flight s.tick
          let n := min 4 (p.2 - 4 * i)
          if x % 2 = 0 then s.bump else ({ s with mem := s.mem.writeMarked (k + 4 * i) (leBytes n (x / 2)) [] } : State).bump) s) s

/-- Step 2: the mask buffer. What the collective leaves behind is settled, and nothing is left to write there. -/
def CollEnv.stepMask (a : CollEnv) (s : State) (c : Coll) : Except TErr Coll × State :=
  let m := s.collMask c
  let c' := { c with written := true, noMask := true, mask := some (m, (c.mask.map Prod.snd).getD c.rank) }
  let words := plainBytes ((List.range ((c.n + 63) / 64)).flatMap fun i => leBytes 8 (m / 2 ^ (64 * i) % 2 ^ 64))
  tThen (if c.maskVa = 0 ∨ c.noMask = true then (.ok (), s) else a.write s c.maskVa.toNat words) fun _ s => (.ok c', s)

/-- Steps 3 and 4: handle and record; the record's address is translated before the handle moves, so that a fault there finds it still FILLING
(R430). -/
def CollEnv.stepRecord (a : CollEnv) (s : State) (xid id : Nat) (x : Transfer) (c : Coll) : Except TErr Unit × State :=
  let m := s.collMask c
  let rec' := plainBytes (c.recordBytes s.ns (m % 2 ^ 64))
  let skip := c.record = 0 ∨ c.noRecord = true
  tThen (if skip then (.ok 0, s) else a.pa s c.record.toNat .ewrite) fun _ s =>
    let s := (s.setColl id { c with phase := .ended }).xferEnd xid x c.error
    let s : State := if c.opened && c.cls != 0x25 then { s with ended := s.ended ++ [(c.group, c.seq)] } else s
    let s := if c.status = 3 then s.modVol c.vol fun v => { v with collMask := some (BitVec.ofNat 64 m), collSeen := true } else s
    if skip then (.ok (), s) else a.write s c.record.toNat rec'

/-- Everything the engine writes at a collective's end can be written now. -/
def CollEnv.clearAll (a : CollEnv) (s : State) (c : Coll) : Bool × State :=
  let step := fun (r : Bool × State) (x : Nat × Nat) => let z := a.clear r.2 x.1 x.2; (r.1 && z.1, z.2)
  [(c.dst.toNat, if c.settled && !c.opened then 0 else c.destBytes), (c.maskVa.toNat, if c.maskVa = 0 ∨ c.noMask = true then 0 else (c.n + 63) / 64 * 8),
   (c.record.toNat, if c.record = 0 ∨ c.noRecord = true then 0 else 32)].foldl step (true, s)

/-- A collective that can end does (R430). -/
def State.collEnd (s : State) (xid id : Nat) : State :=
  match FMap.find s.xfers xid, FMap.find s.colls id with
  | some x, some c =>
    match s.collEnv x with
    | none => s
    | some a =>
      if x.fault.isSome || !c.due || c.phase == .ended then s
      else
        let c := c.verdict
        let go := a.clearAll s c
        let s := go.2
        if !go.1 then s
        else match a.stepData s c with
        | (.error (.fault f), s) => s.xferFault xid x f
        | (.error (.status n), s) => s.setColl id (c.fail n n)
        | (.ok c, s) =>
          let c' := { c with written := true }
          match a.stepMask ((a.inFlight s.bump c).setColl id c') c' with
          | (.error (.fault f), s) => s.xferFault xid x f
          | (.error (.status n), s) => s.setColl id { c' with status := 1, cls := n, error := n, noMask := true }
          | (.ok c, s) =>
            match a.stepRecord (s.setColl id c) xid id x c with
            | (.error (.fault f), s) => s.xferFault xid x f
            | (.error (.status n), s) => s.setColl id { c with error := n, noRecord := true }
            | (.ok (), s) => s
  | _, _ => s

/-- Resolution 2 of a collective's fault (R425, R430): a fault before the end is settled ends it with class `code`; then the mask buffer comes, which
is given up with a record of that class, and last the record, which is given up itself. -/
def Coll.abandon (c : Coll) (code : Nat) : Coll :=
  let c' := { c with status := 1, cls := code, error := code, settled := true }
  if !c.settled then c'
  else if c.maskVa ≠ 0 ∧ c.noMask = false then { c' with noMask := true }
  else { c with error := code, noRecord := true }

/-- The transfer of a collective. -/
def State.collXfer (s : State) (id : Nat) : Option Nat :=
  (s.xfers.find? fun e => e.2.kind == .coll id).map Prod.fst

/-! ### COLL and COLLINFO (R424, R432) -/

def Coll.fresh (e : Env) (desc : Nat) (m : Nat) : Coll :=
  { ctx := e.vol.ctx, vol := e.g.vol, desc := BitVec.ofNat 64 desc, kind := m % 4, op := bits m 3 2, ty := bits m 6 4, opened := false, n := 0, rank := 0,
    group := 0, ids := [], src := 0, dst := 0, count := 0, record := 0, maskVa := 0, seq := 0, root := 0, phase := .waiting, lost := [], learnt := [],
    data := [], heard := [], sentAt := 0, round := none, views := [], mask := none, decided := false, status := 0, cls := 0, error := 0, written := false,
    settled := false, noMask := false, noRecord := false }

def Env.coll (e : Env) (s : State) (h : Hdr) (f : FmtE) : Res State :=
  let a := e.readOnce h f.a .n64
  e.handleOp s h f.d false [(a, 1)] fun n =>
    e.checkVal s (a.n % 64 != 0) 0x0A a.n <|
    e.checkVal s (!canonical a.n) 0x0D a.n <|
    if e.ringSlot n then e.trapRes s 0x09 0
    else
      let r := (s.commit e.id).fresh
      let s := r.2.setColl r.1 (Coll.fresh e a.n f.m.toNat)
      .ok ((s.queueXfer e e.q.gath n (.coll r.1) 0).accept e.id [])

/-- The last collective a descriptor of a context named. -/
def findColl : FMap Coll → Nat → Nat → Option Coll
  | [], _, _ => none
  | (_, c) :: l, ctx, desc => (findColl l ctx desc).or (if c.ctx = ctx ∧ c.desc.toNat = desc then some c else none)

/-- The pair COLLINFO writes. -/
def State.collinfo (s : State) (cid : Nat) (peer : Bool) (v : Nat) : Nat × Nat :=
  if peer then
    let t := (s.peerEntry v).toNat
    (t % 2 + bits t 1 1 * 2 + Nat.land (bits t 41 26) s.stations * 4, (FMap.val 0 s.losses v).toNat)
  else match findColl s.colls cid v with
    | none => (0, 0)
    | some c =>
      let k := match c.phase with | .waiting => 1 | .exchanging => 2 | .agreeing => 3 | .ended => 4
      (k + (if c.phase == .ended then c.status * 2 ^ 16 else 0), c.view % 2 ^ 64)

def Env.collinfo (e : Env) (s : State) (h : Hdr) (f : FmtE) : Res State :=
  let peer := f.m.getLsbD 0
  e.onceUniform s h (
    if e.contrib h = 0 then .ok s
    else
      let a := e.readOnce h f.a .n64
      if a.bad then e.trapRes s 0x0E (if peer then 8 else 1)
      else if peer && decide (255 < a.n) then e.trapRes s 0x03 0
      else
        let w := s.collinfo e.vol.ctx peer a.n
        let d := Opnd.num f.d
        let ws := if h.nowb then [] else [RegWrite.scal d (BitVec.ofNat 64 w.1) false, .scal (d + 1) (BitVec.ofNat 64 w.2) false]
        .ok (s.upd e fun q => { q with regs := q.regs.applyAll ws }))

/-- COLL (R422–R424). -/
def execColl (h : Hdr) (f : FmtE) (s : State) : Out := s.perform (.coll h f) fun e s => e.coll s h f
/-- COLLINFO (R432). -/
def execCollinfo (h : Hdr) (f : FmtE) (s : State) : Out := s.perform (.collinfo h f) fun e s => e.collinfo s h f

end Sys2Proof.Machine
end

