-- ==== Sys2Proof/Machine/System.lean ====
section
/-! DEFINITION. Group 0xF (R447–R452): deliberate traps and the return from one, calls to the host, ending work, counters, decode tables. -/
namespace Sys2Proof.Machine

/-- Nothing happens without an active lane whose guard is true (R447). -/
def Env.whenActive (e : Env) (s : State) (h : Hdr) (k : Res State) : Res State := if e.contrib h = 0 then .ok s else k

/-- Under a uniform guard (R447). -/
def Env.uniformActive (e : Env) (s : State) (h : Hdr) (k : Res State) : Res State := e.onceUniform s h (e.whenActive s h k)

/-! ### TRAP, TRET, TKILL (R448) -/

def Env.trapNow (e : Env) (s : State) (h : Hdr) (f : FmtE) : Res State :=
  e.whenActive s h (.error (.trap (e.trapLanes 0x12 (f.m.toNat % 2 ^ 16) 0 (e.contrib h)), s))

/-- The state TRET leaves (R448): the marker and the bank are gone, sr.fpmode is back, and what the interrupted group had done stands (R525). -/
def Quire.leaveHandler (q : Quire) (b : HandlerBank) (rest : List StackEntry) (pc : W64) : Quire :=
  ({ q with regs := { q.regs with handler := none, stack := rest, fpmode := b.fpmode }, held := b.held, returning := true,
            resumed := some (b.latches, b.line, b.groups) } : Quire).goto pc false

def Env.tret (e : Env) (s : State) (h : Hdr) : Res State :=
  e.uniformActive s h (
    match e.q.regs.handler, e.q.regs.stack with
    | none, _ => e.trapRes s 0x0D 0
    | some b, .handler :: rest =>
      let l := (LaneSet.lowest e.width (e.contrib h)).getD 0
      stepRes (andThen (s.numAt e l (b.record.toNat + 8) 8) fun v s =>
        if v.2 then (.error (.trap (e.trapAll 0x0E 2)), s)
        else (.ok (s.upd e fun q => q.leaveHandler b rest (BitVec.ofNat 64 v.1)), s))
    | some _, _ => e.trapRes s 0x06 3)

def Env.tkill (e : Env) (s : State) (h : Hdr) (f : FmtE) : Res State :=
  e.uniformActive s h (.ok (if f.m.getLsbD 8 then s.endLaunch e.g.vol (.killed (f.m.toNat % 256)) else s.killQuire e.id))

/-! ### TRAPCALL (R449, R450) -/

/-- The 256 bytes of a call record. -/
def Env.callBytes (e : Env) (c : CallWait) (vals : List W32) (more : Bool) : List W8 :=
  leBytes 4 0 ++ leBytes 4 e.vol.pkt.seq ++ leBytes 4 c.call.toNat ++ [BitVec.ofNat 8 vals.length, if more then 1 else 0] ++ leBytes 2 e.g.core
    ++ [BitVec.ofNat 8 e.g.slot, BitVec.ofNat 8 e.q.index] ++ leBytes 2 c.part ++ [1] ++ leBytes 3 0 ++ leBytes 8 c.arg.toNat
    ++ leBytes 32 (setOf (c.reqs.map Prod.fst)).toNat ++ ((vals ++ List.replicate (48 - vals.length) 0).flatMap fun w : W32 => leBytes 4 w.toNat)

/-- Another quire of the context is between the records of one call, which stand side by side in the ring. -/
def State.callAhead (s : State) (e : Env) : Bool :=
  s.quires.any fun x => x.1 != e.id && (match x.2.call, s.envOf x.1 with
    | some c, some y => y.vol.ctx == e.vol.ctx && !c.todo.isEmpty
    | _, _ => false)

/-- The slot at the ring's write index is free for the quire's next record, as the context's tables place it. -/
def State.callSlot (s : State) (e : Env) : Except XFault (Option Nat) × State :=
  match s.translate (dieOfCore e.g.pcore) e.vol.ctx e.ctx.root (e.ctx.callRing + 256 * e.ctx.callIx) .store with
  | (.error f, s) => (.error f, s)
  | (.ok x, s) =>
    let b := s.homeNum (x.pa + 20) 1
    (.ok (if b.1 = 1 ∨ b.2.callAhead e then none else some x.pa), b.2)

/-- The next record of a call is written, or waits for room in the ring; either way the quire is parked. -/
def State.callSend (s : State) (e : Env) (c : CallWait) : Except XFault State × State :=
  match s.callSlot e with
  | (.error f, s) => (.error f, s)
  | (.ok none, s) => (.ok (s.upd e fun q => { q.park .call with call := some c }), s)
  | (.ok (some pa), s) =>
    let vals := c.todo.take 48
    let todo := c.todo.drop 48
    let s := (s.breakFor e.g.vol pa).putHome pa (e.callBytes c vals (!todo.isEmpty))
    let s := s.modCtx e.vol.ctx fun x => { x with callIx := (x.callIx + 1) % max 1 x.callSize }
    let s := (s.hostEvent (Config.free .eventKind s.tick % 2 ^ 16) e.vol.ctx e.vol.pkt.seq).bump
    (.ok (s.upd e fun q => { q.park .call with call := some { c with todo := todo, sent := vals, slotPa := some pa, part := c.part + 1 } }), s)

/-- Every record has been answered: the replies go to the lanes, padding lanes read zero, and the call is accepted whole (R433). -/
def State.callDone (s : State) (e : Env) (c : CallWait) : State :=
  let reply := fun v : W32 => ((c.replies.find? fun r => r.1 == v).map Prod.snd).getD 0
  let out := c.reqs.map (fun r => ({ lane := r.1, n := (reply r.2).toNat, badLo := false, badHi := false } : LaneOut))
    ++ c.pad.map fun l => { lane := l, n := 0, badLo := false, badHi := false }
  ((s.accept e.id []).returned e.id (e.destWrites c.vd 1 false out)).upd e fun q => { q with wait := .none, call := none }

/-- Distinct values in ascending order. -/
def ascending (l : List W32) : List W32 := (l.foldl (fun (m : FMap Unit) v => FMap.insert m v.toNat ()) []).map fun e => BitVec.ofNat 32 e.1

def Env.callOf (e : Env) (h : Hdr) (f : FmtE) : CallWait :=
  let reqs := (e.lanes (e.contrib h)).map fun l => (l, BitVec.ofNat 32 (e.readTy f.a .n32 l).n)
  { vd := f.d, pad := e.lanes (e.effect h &&& e.view.padding), reqs := reqs, todo := ascending (reqs.map Prod.snd), sent := [], part := 0,
    call := BitVec.ofNat 32 (e.readOnce h f.b .n32).n, arg := if f.b.isScal then e.view.sget (Opnd.num f.b + 1) else 0, replies := [], slotPa := none }

def Env.trapcall (e : Env) (s : State) (h : Hdr) (f : FmtE) : Res State :=
  e.whenActive s h (
    let s := s.commit e.id
    if !e.handlerMode then
      .error (.trap (e.trapLanes 0x13 ((e.readOnce h f.b .n32).n % 2 ^ 32) (f.d.code.toNat + f.a.code.toNat * 2 ^ 13 + f.b.code.toNat * 2 ^ 26) (e.contrib h)), s)
    else match e.q.call with
      | some c => .ok (s.upd e fun q => { q.park .call with call := some c })
      | none => match s.callSend e (e.callOf h f) with
        | (.error x, s) => .error (.fault x, s)
        | (.ok s, _) => .ok s)

/-! ### PERF and DECSEL (R451, R452) -/

/-- The counter a selector names. -/
def Env.counter (e : Env) (s : State) (k : Nat) : Option W64 :=
  if k ≤ 5 then some (FMap.val 0 e.q.perf k)
  else if 8 ≤ k ∧ k ≤ 10 then some (FMap.val 0 (s.core e.g.pcore).perf k)
  else if k = 11 then some (FMap.val 0 s.dieTlbMiss (dieOfCore e.g.pcore))
  else none

def Env.perf (e : Env) (s : State) (h : Hdr) (f : FmtE) : Res State :=
  e.uniformActive s h (
    let k := e.readOnce h f.a .n32
    match e.counter s k.n with
    | none => e.trapRes s 0x03 0
    | some v => .ok (s.upd e fun q => { q with regs := q.regs.sput (Opnd.num f.d) v k.bad }))

/-- A decode-table image (R104): none where an entry breaks it. -/
def imageOf (bs : List W8) : Option (List W16) :=
  let es := (List.range 1024).map fun i => leValue ((bs.drop (2 * i)).take 2)
  if es.all fun v => bits v 14 10 == 0 && (build (v % 1024) (hdrOf 0) 0).isSome then some (es.map (BitVec.ofNat 16)) else none

/-- A resident quire decodes under a table (R105). -/
def State.tableBusy (s : State) (n : Nat) : Bool :=
  s.quires.any fun x => x.2.save != .saved && (match s.envOf x.1 with
    | some y => y.vol.table == n
    | none => false)

def Env.decsel (e : Env) (s : State) (h : Hdr) (f : FmtE) : Res State :=
  e.uniformActive s h (
    let n := (e.readOnce h f.a .n32).n
    let a := e.readOnce h f.b .n64
    let l := (LaneSet.lowest e.width (e.contrib h)).getD 0
    let status := fun (s : State) (v : Nat) => s.upd e fun q => { q with regs := q.regs.sput (Opnd.num f.d) (BitVec.ofNat 64 v) false }
    let select := fun s : State => status (s.modCtx e.vol.ctx fun c => { c with table := n }) 0
    if 3 < n then e.trapRes s 0x03 0
    else if a.bad then e.trapRes s 0x0E 1
    else if a.n = 0 then .ok (select s)
    else if n = 0 ∨ s.tableBusy n = true then .ok (status s 1)
    else stepRes (andThen (eachOf (fun p s => s.loadAt e l p.1 p.2) (cuts 2049 a.n 2048) s) fun bs s =>
      match imageOf (bs.flatten.map Prod.fst) with
      | none => (.ok (status s 2), s)
      | some t => (.ok (select { s with tables := FMap.insert s.tables n t }), s)))

/-! ### Meanings -/

/-- TRAP (R448). -/
def execTrap (h : Hdr) (f : FmtE) (s : State) : Out := s.perform (.trap h f) fun e s => e.trapNow s h f
/-- TRAPCALL (R449). -/
def execTrapcall (h : Hdr) (f : FmtE) (s : State) : Out := s.perform (.trapcall h f) fun e s => e.trapcall s h f
/-- TRET (R448). -/
def execTret (h : Hdr) (f : FmtE) (s : State) : Out := s.perform (.tret h f) fun e s => e.tret s h
/-- TKILL (R448). -/
def execTkill (h : Hdr) (f : FmtE) (s : State) : Out := s.perform (.tkill h f) fun e s => e.tkill s h f
/-- PERF (R451). -/
def execPerf (h : Hdr) (f : FmtE) (s : State) : Out := s.perform (.perf h f) fun e s => e.perf s h f
/-- DECSEL (R452). -/
def execDecsel (h : Hdr) (f : FmtE) (s : State) : Out := s.perform (.decsel h f) fun e s => e.decsel s h f

end Sys2Proof.Machine
end

