-- ==== Sys2Proof/Machine/Packet.lean ====
section
/-! DEFINITION. Launch packets (R12, R13, R20–R26), kernel descriptors (R15–R16) and render-target descriptors (R310–R312): their layout, and
the checks that find the first fault. -/
namespace Sys2Proof.Machine

/-! ### Faults in order of offset (R22) -/

/-- A fault of a packet: the offset it stands at, the status, the error class. -/
structure Flaw where
  off    : Nat
  status : Nat
  cls    : Nat
deriving DecidableEq, Repr

def flaw (bad : Bool) (off status cls : Nat) : List Flaw := if bad then [{ off := off, status := status, cls := cls }] else []

/-- The fault at the least offset, the first listed of those at one offset. -/
def firstFlaw : List Flaw → Option Flaw
  | [] => none
  | x :: l => match firstFlaw l with
    | none => some x
    | some y => if x.off ≤ y.off then some x else some y

/-- A little-endian field. -/
def field (bs : List W8) (o n : Nat) : Nat := leValue ((bs.drop o).take n)
/-- The first byte other than zero among some offsets. -/
def firstNonzero (bs : List W8) (l : List Nat) : Option Nat := l.find? fun o => bs.getD o 0 != 0

/-! ### Kernel descriptors (R15) -/

/-- The tests of R15 by offset; `table` is what the context has selected. -/
def descTests (bs : List W8) (table : Nat) : List (Nat × Bool) :=
  let f := field bs
  [(0, f 0 4 != 0x45434D31), (4, f 4 1 != 1), (5, f 5 1 != table), (6, f 6 1 != 0), (7, f 7 1 != 0), (8, f 8 8 % 64 != 0),
   (16, f 16 4 == 0 || decide (2 ^ 24 < f 16 4)), (20, decide (65536 < f 20 4)), (24, f 24 8 % 32 != 0 || (f 24 8 == 0 && f 32 2 != 0)),
   (32, decide (4095 < f 32 2)), (34, decide (3 < f 34 1)), (35, f 35 1 == 0 || decide (96 < f 35 1)), (36, decide (512 < f 36 2)),
   (38, decide (64 < f 38 1)), (39, decide (1 < f 39 1))] ++ (List.range 24).map fun i => (40 + i, f (40 + i) 1 != 0)

/-- Offset of the first byte at fault of a kernel descriptor. -/
def descFault (bs : List W8) (table : Nat) : Option Nat := ((descTests bs table).find? fun t => t.2).map Prod.fst

def descriptorOf (bs : List W8) : Descriptor :=
  let f := field bs
  { table := f 5 1, code := f 8 8, lines := f 16 4, paramSize := f 20 4, liveVa := f 24 8, liveN := f 32 2, width := f 34 1, minAlloc := f 35 1,
    minSpad := f 36 2, handles := f 38 1, producer := f 39 1 }

/-! ### Render targets (R310, R311) -/

def targetBad (bs : List W8) (window : Nat) : Bool :=
  let f := field bs
  let w := f 12 2
  let h := f 14 2
  let tiles := (w + 31) / 32 * ((h + 31) / 32)
  f 0 8 % 128 != 0 || !([0x02, 0x06, 0x09].contains (f 8 1)) || decide (16 < f 9 1) || decide (8 ≤ f 10 1) || f 11 1 != 0
    || w == 0 || decide (16384 < w) || h == 0 || decide (16384 < h) || f 16 8 % 64 != 0 || f 24 4 == 0 || decide (1048575 < f 24 4)
    || f 28 4 % 8192 != 0 || f 32 8 % 8 != 0 || decide (f 40 2 < 16) || decide (4096 < f 40 2) || f 40 2 % 16 != 0 || f 42 6 != 0
    || decide (window < f 28 4 + 8192 * ((tiles + 3) / 4))

def targetOf (bs : List W8) : Target :=
  let f := field bs
  { va := f 0 8, format := f 8 1, attrs := f 9 1, flags := f 10 1, width := f 12 2, height := f 14 2, geom := f 16 8, capacity := f 24 4,
    tileOff := f 28 4, errMap := f 32 8, payload := f 40 2, clear := (List.range 4).map fun i => BitVec.ofNat 32 (f (48 + 4 * i) 4) }

/-! ### Packets (R20) -/

def packetOf (bs : List W8) : Packet :=
  let f := field bs
  { type := f 0 1, flags := f 1 1, seq := f 4 4, desc := f 8 8, param := f 16 8, vx := f 24 2, vy := f 26 2, vz := f 28 2, width := f 32 1,
    minQ := f 33 1, maxQ := f 34 1, producer := f 35 1, alloc := f 36 1, reserve := f 37 1, spad := f 38 2, prio := f 40 1, contain := f 41 1,
    spanW := f 42 1 % 16, spanH := f 42 1 / 16, binTimer := f 43 1, budget := f 44 4, record := f 48 8, depWord := f 56 8, depVal := f 64 7,
    depCmp := f 71 1, inline := (List.range 7).map fun i => BitVec.ofNat 64 (f (72 + 8 * i) 8) }

/-- R24: dependency and signal packets. -/
def simpleFlaws (bs : List W8) : List Flaw :=
  let p := packetOf bs
  let zero := ((List.range 128).filter fun o => o != 0 && !(decide (4 ≤ o ∧ o < 8)) && !(decide (48 ≤ o ∧ o < 72)))
  (match firstNonzero bs zero with | some o => flaw true o 0x10 o | none => [])
    ++ flaw (p.record % 32 != 0) 48 0x13 48 ++ flaw (p.depWord % 8 != 0) 56 0x13 56 ++ flaw (p.type == 3 && decide (3 < p.depCmp)) 71 0x11 71

/-- The tests of R12, R13, R20, R21 and R26 on a compute or render packet alone. -/
def launchFlaws (bs : List W8) : List Flaw :=
  let p := packetOf bs
  let render := p.type == 2
  let span := p.span
  let range := fun (bad : Bool) (o : Nat) => flaw bad o 0x11 o
  let zero := fun l : List Nat => match firstNonzero bs l with | some o => flaw true o 0x10 o | none => []
  flaw (decide (16 ≤ p.flags) || (render && p.flags % 4 != 0)) 1 0x10 1 ++ zero [2, 3]
    ++ flaw (p.desc % 64 != 0) 8 0x13 8 ++ flaw (p.param % 16 != 0) 16 0x13 16
    ++ range (p.vx == 0 || (span && p.spanW != 0 && p.vx % p.spanW != 0)) 24 ++ range (p.vy == 0 || (span && p.spanH != 0 && p.vy % p.spanH != 0)) 26
    ++ range (p.vz == 0) 28 ++ zero [30, 31] ++ range (decide (3 < p.width)) 32 ++ range (p.minQ == 0 || decide (16 < p.minQ)) 33
    ++ range (decide (p.maxQ < p.minQ) || decide (16 < p.maxQ)) 34 ++ range (decide (p.maxQ ≤ p.producer) && p.producer != 255) 35
    ++ range (p.alloc == 0 || decide (96 < p.alloc)) 36 ++ range (p.reserve == 0 || decide (p.alloc < p.reserve) || decide (128 < p.reserve * 2 ^ p.width)) 37
    ++ range (decide (512 < p.spad)) 38 ++ range (decide (3 < p.prio) || (render && decide (p.prio < 2))) 40
    ++ range (decide (2 < p.contain) || (p.isSealed != (p.contain == 2))) 41
    ++ range (if span then p.spanW == 0 || decide (4 < p.spanW) || p.spanH == 0 || decide (4 < p.spanH) else p.spanW != 0 || p.spanH != 0) 42
    ++ range (decide (48 < p.budget)) 44 ++ flaw (p.record % 32 != 0) 48 0x13 48 ++ flaw (p.depWord % 8 != 0) 56 0x13 56
    ++ range (decide (3 < p.depCmp)) 71

/-- R16 against one descriptor; `base` tells the mesh and pixel descriptors' classes apart, whose width is their own (R26). -/
def meetFlaws (p : Packet) (d : Descriptor) (base : Nat) : List Flaw :=
  let bad := fun (b : Bool) (o : Nat) => flaw b o 0x12 (base + o)
  bad (base == 0 && p.width != d.width) 32 ++ bad (d.producer == 1 && p.producer == 255) 35 ++ bad (decide (p.alloc < d.minAlloc)) 36
    ++ flaw (base != 0 && decide (128 < p.reserve * 2 ^ d.width)) 37 0x11 37 ++ bad (decide (p.spad < d.minSpad)) 38

/-! ### Reading what a packet names (R15, R26) -/

/-- The physical address of what a packet names; a peer's page counts as not mapped (R416). -/
def State.namedPa (s : State) (cid : Nat) (c : Context) (vid va : Nat) : Option Nat × State :=
  match s.xl 0 vid cid c.root va .eread with
  | (.ok x, s) => (if paKind x.pa == .peer then none else some x.pa, s)
  | (.error _, s) => (none, s)

/-- 64 bytes that a packet names at an offset: none where the VA is misaligned or not mapped; zero is no VA of a render descriptor. -/
def State.named (s : State) (cid : Nat) (c : Context) (vid va : Nat) (nonzero : Bool) : Option (List W8) × State :=
  if va % 64 ≠ 0 ∨ (nonzero = true ∧ va = 0) then (none, s)
  else match s.namedPa cid c vid va with
    | (some pa, s) => (some (s.mem.bytes pa 64), s)
    | (none, s) => (none, s)

/-- A launch packet as checked: the descriptors it was checked against. -/
structure Parsed where
  pkt    : Packet
  desc   : Descriptor
  render : Option (Descriptor × Descriptor × Target)
deriving DecidableEq, Repr

def noDescriptor : Descriptor := descriptorOf []

/-- Faults of a descriptor that was read, and its contents. -/
def readDesc (bs : Option (List W8)) (table off base : Nat) : List Flaw × Option Descriptor :=
  match bs with
  | none => (flaw true off 0x13 off, none)
  | some b => match descFault b table with
    | some o => (flaw true off 0x12 (base + o), none)
    | none => ([], some (descriptorOf b))

def optFlaws (d : Option Descriptor) (f : Descriptor → List Flaw) : List Flaw := match d with | some d => f d | none => []

/-- Every fault of a compute or render packet (R20–R26, R312), with what it names as read. The payload size that R312 goes by is the one that
stands in the target descriptor, whatever else is wrong with that: bytes 38–39 come before bytes 88–95 (R22; DEDUCED, log entry 109). -/
def State.launchCheck (s : State) (cid : Nat) (c : Context) (vid : Nat) (bs : List W8) : (List Flaw × Parsed) × State :=
  let p := packetOf bs
  let r := s.named cid c vid p.desc false
  let k := readDesc r.1 c.table 8 0x100
  let own := launchFlaws bs ++ k.1 ++ optFlaws k.2 (fun d => meetFlaws p d 0 ++ flaw (d.paramSize == 0 && p.param != 0) 16 0x13 16)
  if p.type ≠ 2 then ((own, { pkt := p, desc := k.2.getD noDescriptor, render := none }), r.2)
  else
    let va := fun i => (p.inline.getD i 0).toNat
    let rm := r.2.named cid c vid (va 0) true
    let rp := rm.2.named cid c vid (va 1) true
    let rt := rp.2.named cid c vid (va 2) true
    let m := readDesc rm.1 c.table 72 0x200
    let x := readDesc rp.1 c.table 80 0x300
    let t : List Flaw × Option Target := match rt.1 with
      | none => (flaw true 88 0x13 88, none)
      | some b => if targetBad b c.windowLen then (flaw true 88 0x11 88, none) else ([], some (targetOf b))
    let ring : List Flaw := match rt.1.map targetOf with
      | none => []
      | some t => flaw (decide (1024 * p.spad < t.payload)) 38 0x12 38
          ++ optFlaws k.2 fun d => flaw (decide (1024 * p.spad < 4 * t.payload + 1024 * d.minSpad)) 38 0x12 38
    let all := own ++ optFlaws k.2 (fun d => flaw (decide (60 < d.handles)) 8 0x12 0x126) ++ ring ++ m.1 ++ optFlaws m.2 (fun d => meetFlaws p d 0x200)
      ++ x.1 ++ optFlaws x.2 (fun d => meetFlaws p d 0x300) ++ t.1
    ((all, { pkt := p, desc := k.2.getD noDescriptor, render := some (m.2.getD noDescriptor, x.2.getD noDescriptor, t.2.getD (targetOf [])) }), rt.2)

/-- A packet's first fault, or what was read for it. -/
def State.packetCheck (s : State) (cid : Nat) (c : Context) (vid : Nat) (bs : List W8) : Except Flaw Parsed × State :=
  let p := packetOf bs
  let plain : Parsed := { pkt := p, desc := noDescriptor, render := none }
  let judge := fun (l : List Flaw) (r : Parsed) (s : State) => ((match firstFlaw l with | some f => Except.error f | none => .ok r), s)
  if p.type = 0 ∨ 4 < p.type then judge [{ off := 0, status := 0xF, cls := 0 }] plain s
  else if 3 ≤ p.type then judge (simpleFlaws bs) plain s
  else
    let r := s.launchCheck cid c vid bs
    judge r.1.1 r.1.2 r.2

end Sys2Proof.Machine
end

