-- ==== Sys2Proof/Machine/Launch.lean ====
section
/-! DEFINITION. The queue engine (R31–R45): wakes, acceptance, records and progress lines, dependency and signal packets, and how a launch
completes (R482–R485). -/
namespace Sys2Proof.Machine

/-- A queue halts (R34, R36). -/
def State.haltQueue (s : State) (qk fault : Nat) : State := (s.modQueue qk fun Q => { Q with state := .halted, fault := fault }).progress qk

/-! ### A launch begins -/

/-- The bytes of a parameter block that are mapped, to memory of the package or the host (log entry 107), when a sealed launch is accepted (R25, R46). -/
def State.readParams (s : State) (cid vid root va : Nat) : Nat → List W8 × State
  | 0 => ([], s)
  | n + 1 =>
    let r := State.readParams s cid vid root va n
    if r.1.length ≠ n then r
    else match r.2.xl 0 vid cid root (va + n) .eread with
      | (.ok x, s) => if paKind x.pa = .peer then (r.1, s) else (r.1 ++ [s.mem.byte x.pa], s)
      | (.error _, s) => (r.1, s)

/-- The render side of an accepted packet; `accept` is its queue's poison policy (R4). -/
def renderOf (accept : Bool) (r : Descriptor × Descriptor × Target) : Render :=
  { mesh := r.1, pixel := r.2.1, target := r.2.2, accept := accept, nextSerial := 0, work := [], final := false, spawnCursor := 0, cores := [], clears := [],
    abandoned := none }

/-- The volume of an accepted packet (R40, R43, R46). -/
def volumeOf (cid qn : Nat) (Q : Queue) (c : Context) (x : Parsed) (parent : Option (Nat × Volume)) (order : Nat) : Volume :=
  let contain := x.pkt.modeUnder c.cap
  { ctx := cid, queue := qn, pkt := x.pkt, desc := x.desc,
    prio := max (max x.pkt.prio Q.ceiling) ((parent.map fun p => p.2.prio).getD 0), contain := contain,
    depth := (parent.map fun p => p.2.depth + 1).getD 0, parent := parent.map Prod.fst, children := 0, table := c.table, next := 0, live := 0,
    params := [], used := none, shadow := [], sealedOn := contain == 2, broken := false, replays := 0,
    render := x.render.map (renderOf Q.poisonAccept),
    ending := .running, collMask := none, collSeen := false, order := order, done := false }

/-- How a child packet of a parent that has ended ends at once (R482); none where it may go on. -/
def State.orphaned (s : State) (parent : Option Nat) : Option Ending :=
  match parent with
  | none => none
  | some p => match FMap.find s.vols p with
    | none => some .silent
    | some v => if v.ending == .running then none else some v.ending.ofChild

/-- A checked compute or render packet becomes a launch (R35, R46), or is rejected where a co-resident volume fits nowhere (R65). -/
def State.beginLaunch (s : State) (qk : Nat) (c : Context) (x : Parsed) (parent : Option Nat) : State :=
  match FMap.find s.queues qk with
  | none => s
  | some Q =>
    let pv := parent.bind fun p => (FMap.find s.vols p).map fun v => (p, v)
    let id := s.fresh
    let v := volumeOf (qk / 4096) (qk % 4096) Q { c with cap := s.policyCap (qk / 4096) } x pv id.1
    let s := id.2.takeCap (qk / 4096)
    if x.pkt.coResident && !s.fitsEmpty v then s.closePacket qk x.pkt parent false 0x11 24
    else
      let s := (s.setVol id.1 v).roNone
      if v.contain = 2 then
        let r := s.readParams (qk / 4096) id.1 c.root x.pkt.param x.desc.paramSize
        r.2.modVol id.1 fun v => { v with params := r.1 }
      else s

/-! ### Dependencies (R37, R38) -/

/-- The dependency word of a packet satisfies its compare; one that is not mapped does not. -/
def State.depHolds (s : State) (cid vid root : Nat) (p : Packet) : Bool × State :=
  if p.depWord = 0 then (true, s)
  else match s.xl 0 vid cid root p.depWord .eread with
    | (.ok x, s) => (paKind x.pa != .peer && compareCode p.depCmp (s.mem.num x.pa 8 % 2 ^ 56) (p.depVal % 2 ^ 56), s)
    | (.error _, s) => (false, s)

/-- The launch a queue's blocked packet belongs to. -/
def State.volumeOfPacket (s : State) (qk seq : Nat) : Option Nat :=
  (s.vols.find? fun e => queueKey e.2.ctx e.2.queue == qk && e.2.pkt.seq == seq && !e.2.done).map Prod.fst

/-- The dependency word of a queue's blocked packet, as its launch or its parent sees it (R46), satisfies the compare. -/
def State.blockedHolds (s : State) (qk root : Nat) (p : Packet) : Bool × State :=
  s.depHolds (qk / 4096) (((s.volumeOfPacket qk p.seq).or (s.parentOf qk p.seq)).getD 0) root p

/-- A queue blocked on a word whose compare now holds goes on: a dependency packet is done (R37), a launch may be placed (R38). A context that is not
resident becomes a candidate, as at any wake (R33). -/
def State.tryUnblock (s : State) (qk : Nat) : State :=
  match FMap.find s.queues qk, FMap.find s.ctxs (qk / 4096) with
  | some Q, some c =>
    match Q.blocked with
    | none => s
    | some p =>
      let r := s.blockedHolds qk c.root p
      if !r.1 then r.2
      else if !c.resident then r.2.modCtx (qk / 4096) fun c => { c with candidate := c.candidate.or (some s.ns) }
      else
        let s := r.2.modQueue qk Queue.unblock
        (if p.type = 3 then s.closePacket qk p (s.parentOf qk p.seq) false 0 0 else s).progress qk
  | _, _ => s

/-! ### Acceptance (R34, R35) -/

/-- Packets a queue has been told of and not yet accepted. -/
def Queue.pending (Q : Queue) : Nat := seqDiff (Q.submitted + 1) Q.expected
def Queue.mayAccept (Q : Queue) : Bool := Q.state == .running && Q.blocked.isNone && Q.pending != 0 && decide (Q.pending ≤ 2 ^ Q.n)

/-- Rounds of a class (R41): when every queue of it that holds an acceptable packet has used its weight, a new round begins. -/
def State.newRound (s : State) (ceiling : Nat) : State :=
  let mine := fun (e : Nat × Queue) => e.2.ceiling == ceiling
  let live := fun (e : Nat × Queue) => match FMap.find s.ctxs (e.1 / 4096) with | some c => c.resident | none => false
  if s.queues.all fun e => !(mine e && live e && e.2.mayAccept) || decide (e.2.weight ≤ e.2.round) then
    { s with queues := s.queues.map fun e => if mine e then (e.1, { e.2 with round := 0 }) else e }
  else s

/-- A packet as read from its slot is taken (R35): rejected with its record, or handed on. -/
def State.takePacket (s : State) (qk : Nat) (c : Context) (bs : List W8) : State :=
  match FMap.find s.queues qk with
  | none => s
  | some Q =>
    let seq := Q.expected
    let parent := s.parentOf qk seq
    let s := s.modQueue qk fun Q => { Q with expected := (seq + 1) % 2 ^ 32, accepted := seq, open' := Q.open' ++ [(seq, false)] }
    let r := s.packetCheck (qk / 4096) c (parent.getD 0) bs
    let p := packetOf bs
    let s := r.2
    let s := match r.1, s.orphaned parent with
      | .error f, e => s.closePacket qk p parent (e == some Ending.silent) f.status f.cls
      | .ok _, some e => s.closePacket qk p parent (e == Ending.silent) 2 0
      | .ok x, none =>
        if p.type = 4 then s.modQueue qk fun Q => { Q with signals := Q.signals ++ [p] }
        else
          let s := if p.type = 3 then s
            else (s.beginLaunch qk c x parent).modQueue qk fun Q => { Q with round := Q.round + 1, parents := FMap.remove Q.parents seq }
          let open' := match FMap.find s.queues qk with | some Q => Q.open'.any (fun y => y.1 == seq && !y.2) | none => false
          if open' && (p.type == 3 || p.depWord != 0) then
            (s.modQueue qk fun Q => { Q with blocked := some p, state := .waiting }).tryUnblock qk
          else s
    s.progress qk

/-- The next pending packet is read from the ring and accepted, or the queue halts. -/
def State.acceptNext (s : State) (qk : Nat) : State :=
  match FMap.find s.queues qk, FMap.find s.ctxs (qk / 4096) with
  | some Q, some c =>
    let s := s.newRound Q.ceiling
    let round := match FMap.find s.queues qk with | some Q => Q.round | none => 0
    if !Q.mayAccept || decide (Q.weight ≤ round) then s
    else
      match s.translate 0 (qk / 4096) c.root (Q.ring + 128 * (Q.expected % 2 ^ Q.n)) .eread with
      | (.error _, s) => s.haltQueue qk 3
      | (.ok x, s) =>
        if paKind x.pa == .peer then s.haltQueue qk 3
        else
          let bs := s.mem.bytes x.pa 128
          if field bs 4 4 ≠ Q.expected then s.haltQueue qk 1 else s.takePacket qk c bs
  | _, _ => s

/-- Accept what is pending, as far as the queue's weight, a dependency or a halt allows; `n` bounds the packets. -/
def State.acceptAll (qk : Nat) : Nat → State → State
  | 0, s => s
  | n + 1, s => match FMap.find s.queues qk with
    | some Q => if Q.mayAccept then State.acceptAll qk n (s.acceptNext qk) else s
    | none => s

/-- A wake (R33, R34): a context that is not resident becomes a candidate (R464); else the tail is read and what is pending is accepted. -/
def State.wakeQueue (s : State) (qk : Nat) : State :=
  match FMap.find s.queues qk, FMap.find s.ctxs (qk / 4096) with
  | some Q, some c =>
    if !c.resident then s.setCtx (qk / 4096) { c with candidate := c.candidate.or (some s.ns) }
    else if Q.state == .halted || Q.state == .disabled then s
    else
      match s.translate 0 (qk / 4096) c.root Q.tailVa .eread with
      | (.error _, s) => s.haltQueue qk 3
      | (.ok x, s) =>
        if paKind x.pa == .peer then s.haltQueue qk 3
        else
          let t := s.mem.num x.pa 4
          let s := s.modQueue qk fun Q => { Q with submitted := t }
          let s := if t = Q.submitted then s else s.progress qk
          if 2 ^ Q.n < seqDiff (t + 1) Q.expected then s.haltQueue qk 2 else State.acceptAll qk (seqDiff (t + 1) Q.expected) s
  | _, _ => s

/-! ### The end of a launch (R44, R482–R485) -/

/-- Bins that hold lanes of a launch. -/
def State.binsOf (s : State) (vid : Nat) : Bool := s.cores.any fun e => e.2.bins.any fun b => b.2.vol == vid

/-- Render work that stands in the way of completion (R321, R324). -/
def Volume.renderDone (v : Volume) : Bool :=
  match v.render with
  | none => true
  | some r => r.final && r.clears.isEmpty && decide (1024 * r.target.tilesX * r.target.tilesY ≤ r.spawnCursor)

/-- Every gathering has been placed and has retired, no transfer or tile of the launch is still to be written to memory, no child is owed, no bin holds a lane (R30, R44, R482); a
launch told to end waits for its children. -/
def State.volumeDue (s : State) (vid : Nat) (v : Volume) : Bool :=
  !v.done && v.live == 0 && v.children == 0 && !(s.xfers.any fun x => x.2.vol == vid && !x.2.kind.spadOnly) && !(s.mjobs.any fun j => j.vol == vid && !j.stores.isEmpty) && !(s.gaths.any fun e => e.2.vol == vid && (!e.2.retired || e.2.owes)) &&
    (v.ending != .running || (decide (v.spans ≤ v.next) && !s.binsOf vid && v.renderDone
      && !(match FMap.find s.queues (queueKey v.ctx v.queue) with
        | some Q => (match Q.blocked with | some p => p.seq == v.pkt.seq | none => false)
        | none => false)))

/-- Status and error class (R29, R483). -/
def Volume.outcome (v : Volume) : Nat × Nat :=
  match v.ending with
  | .killed c => (2, c)
  | .error c => (1, c)
  | .silent => (2, 0)
  | .running =>
    match v.render.bind Render.abandoned with
    | some c => (1, c)
    | none => if v.collSeen then (3, 0) else (0, 0)

/-- A quire that is no longer there. -/
def State.goneQuire (s : State) (id : Nat) : Bool := (FMap.find s.quires id).isNone
/-- A request of a quire that has gone. -/
def State.goneReq (s : State) (r : AsqReq) : Bool := match r.quire with
  | some q => s.goneQuire q
  | none => true

/-- What quires that have gone left under way goes on to its homes as far as it can: committed stores, atomics (R30, R364). -/
def State.flushAll (s : State) : State :=
  let drain := fun s : State => s.cores.foldl (fun s e => s.drainCore e.1) s
  drain ((drain s).asq.foldl (fun s r => if s.goneReq r && s.asqReady r then s.serveAsq r else s) (drain s))

/-- Stores or atomics of quires that have gone have not reached their homes, or a peer has not completed a write (R30, R420). -/
def State.writesDue (s : State) : Bool :=
  s.asq.any s.goneReq || s.peerOut.any (fun o => match o.use with | .write _ => true | _ => false)
    || s.cores.any fun e => e.2.out.any fun it => match it with
      | .store o _ => s.goneQuire o
      | .token o _ _ => s.goneQuire o
      | .atom o _ _ _ => s.goneQuire o

/-- The shadow set at the end (R485): copied back, or discarded. -/
def State.sealEnd (s : State) (vid : Nat) (v : Volume) : State :=
  if !v.sealedOn then (if v.shadow.isEmpty then s else (s.dropCopies v.shadow).modVol vid fun v => { v with shadow := [] })
  else
    let keep := v.outcome.1 == 0 || v.outcome.1 == 3
    (if keep then (s.copyBack vid v.shadow).dropCopies v.shadow else s.discardShadow vid).modVol vid fun v => { v with sealedOn := false, shadow := [] }

/-- A launch completes: its shadow pages, its record, its parent's count, its queue (R482–R485). -/
def State.completeVolume (s : State) (vid : Nat) : State :=
  match FMap.find s.vols vid with
  | none => s
  | some v =>
    if !s.volumeDue vid v then s
    else
      let s := s.flushAll
      if s.writesDue then s
      else
        let s := s.sealEnd vid v
        let o := v.outcome
        let mask : W64 := if o.1 = 3 then (v.collMask.getD 0) else 0
        let s := if v.ending == .silent then s else s.writeRecordOf v.ctx vid v.pkt o.1 o.2 (v.usedMode (s.policyCap v.ctx)) mask
        let s := (s.childGone v.parent).finishPacket (queueKey v.ctx v.queue) v.pkt.seq
        let s : State := { s with vols := FMap.remove s.vols vid }
        let qk := queueKey v.ctx v.queue
        match (FMap.find s.queues qk).bind Queue.blocked with
        | some p => if p.seq = v.pkt.seq then (s.modQueue qk Queue.unblock).progress qk else s
        | none => s

/-- The signal at the head of a queue acts once every packet before it is done (R39). Only a resident context has its queues served; another
becomes a candidate (R464). -/
def State.actSignal (s : State) (qk : Nat) : State :=
  match FMap.find s.queues qk, FMap.find s.ctxs (qk / 4096) with
  | some Q, some c =>
    match Q.signals, Q.open' with
    | p :: rest, (seq, _) :: _ =>
      if p.seq ≠ seq then s
      else if !c.resident then s.modCtx (qk / 4096) fun c => { c with candidate := c.candidate.or (some s.ns) }
      else
        let s := s.flushAll
        if s.writesDue then s
        else
          let s := if p.depWord = 0 then s else s.engineStore (qk / 4096) ((s.parentOf qk p.seq).getD 0) p.depWord (leBytes 7 p.depVal ++ [BitVec.ofNat 8 p.depCmp])
          (s.modQueue qk fun Q => { Q with signals := rest }).closePacket qk p (s.parentOf qk p.seq) false 0 0
    | _, _ => s
  | _, _ => s

/-! ### Events -/

/-- QUEUE_WAKE (R33, R34). -/
def execQueueWake (ctx q : Nat) (s : State) : Out := .next (s.wakeQueue (queueKey ctx q))
/-- DEPENDENCY_WORD_WRITE (R37, R38). -/
def execDependencyWordWrite (ctx q : Nat) (s : State) : Out := .next (s.tryUnblock (queueKey ctx q))
/-- SIGNAL_PACKET_EFFECT (R39). -/
def execSignalPacketEffect (ctx q : Nat) (s : State) : Out := .next (s.actSignal (queueKey ctx q))
/-- VOLUME_COMPLETION (R44, R482). -/
def execVolumeCompletion (vol : Nat) (s : State) : Out := .next (s.completeVolume vol)

end Sys2Proof.Machine
end

