-- ==== Sys2Proof/Machine/Waits.lean ====
section
/-! DEFINITION. How the waits of quires end (R219, R249, R268, R316, R372–R392, R449): each event looks whether what the quire waits for has
come, and then lets it go on. -/
namespace Sys2Proof.Machine

/-- A quire's wait is over. -/
def State.wake (s : State) (id : Nat) : State := s.modQuire id fun q => { q with wait := .none }

/-- What an event does for a quire and its environment. -/
def State.forQuire (s : State) (id : Nat) (k : Env → State) : State :=
  match s.envOf id with
  | none => s
  | some e => k e

/-! ### Stalls that an event ends -/

/-- A stalled CLAIM of the quire's partition that issued before (R219). -/
def State.claimBefore (s : State) (e : Env) (seq : Nat) : Bool :=
  (s.onPart e.g.pcore e.q.part).any fun x => x.1 != e.id && (match x.2.wait with
    | .stall (.claim _ k) => decide (k < seq)
    | _ => false)

/-- A stalled CLAIM whose turn has come is granted once the pool can supply its rows (R219). -/
def State.grantClaim (s : State) (id : Nat) : State :=
  s.forQuire id fun e =>
    match e.q.wait with
    | .stall (.claim n seq) =>
      if s.claimBefore e seq ∨ s.poolRows e.g.pcore e.q.part < (n - e.q.claimed) * e.words * 16 then s
      else s.upd e fun q => { q with wait := .none, claimed := n }
    | _ => s

/-- A stalled TPAY takes the lowest FREE slot (R316). -/
def State.slotForTpay (s : State) (id : Nat) : State :=
  s.forQuire id fun e =>
    match e.q.wait, e.vol.render, e.g.freeSlot with
    | .stall (.tpay off bytes n), some r, some k => (s.takeSlot id k off bytes n r.target.payload).wake id
    | _, _, _ => s

/-- A stalled QPUSH finds room in its ring (R388). -/
def State.roomForPush (s : State) (id : Nat) : State :=
  s.forQuire id fun e =>
    match e.q.wait with
    | .stall (.qpush qk pkt sd) =>
      match s.pushTry e qk pkt sd with
      | (.error f, s) => s.parkFault e f false
      | (.ok (some s), _) => s
      | (.ok none, s) => s
    | _ => s

/-! ### Parked quires -/

/-- The generation of the word has changed (R378). -/
def State.wakeBarrier (s : State) (id : Nat) : State :=
  s.forQuire id fun e =>
    match e.q.wait with
    | .barwait k gen sc => if s.generation e k = gen.toNat then s else (s.barrierPassed e k sc).wake id
    | _ => s

/-- A TRYWAIT is looked at again (R380). -/
def State.lookAgain (s : State) (id : Nat) : State :=
  s.forQuire id fun e =>
    match e.q.wait with
    | .tryw t => if s.tryHolds e t then s.tryDone id e.g.pcore t true else s
    | _ => s

/-- A TRYWAIT's limit has passed (R379, R380). -/
def State.tryExpired (s : State) (id : Nat) : State :=
  s.forQuire id fun e =>
    match e.q.wait with
    | .tryw t => if t.limit ≠ 2 ^ 32 - 1 ∧ t.limit ≤ e.q.waited then s.tryDone id e.g.pcore t false else s
    | _ => s

/-- An HWAIT finds its handle in the state it waits for (R268). -/
def State.wakeHandle (s : State) (id : Nat) : State :=
  s.forQuire id fun e =>
    match e.q.wait with
    | .hwait n full =>
      if (s.handle e.q.gath n).state == (if full then .full else .free) then
        match e.handleReached s n full with
        | .ok s => s.wake id
        | .error (h, s) => s.halt e h
      else s
    | _ => s

/-! ### Rows and lines -/

/-- A spilled row comes back (R126). -/
def State.refillRow (s : State) (id : Nat) : State :=
  s.forQuire id fun e =>
    match e.rowWanted s with
    | none => s
    | some n => (s.refill e.g.pcore e.q.part id n).getD s

/-- The line of a quire's PC arrives and is checked (R73, R76). -/
def State.lineArrives (s : State) (id : Nat) : State :=
  s.forQuire id fun e => match e.q.wantsLine, e.q.settled with
    | true, some q => (s.setQuire id q).fetchLine id
    | _, _ => s

/-! ### Watchdogs (R389–R392) -/

/-- A device-internal wait (R389). -/
def Wait.inside : Wait → Bool
  | .barwait _ _ _ => true
  | .barlost => true
  | .msync _ => true
  | .hwait _ _ => true
  | .tryw t => !t.ext
  | .stall .build => false
  | .stall .order => false
  | .stall .fence => false
  | .stall _ => true
  | _ => false

/-- An external wait (R389). -/
def Wait.outside : Wait → Bool
  | .tryw t => t.ext
  | .fault _ _ _ => true
  | .deliver _ _ => true
  | .treeFault _ => true
  | .call => true
  | _ => false

/-- Resident quires of a context. -/
def State.quiresIn (s : State) (cid : Nat) : List (Nat × Quire) :=
  s.quires.filter fun x => x.2.save != .saved && (match s.envOf x.1 with
    | some e => e.vol.ctx == cid
    | none => false)

/-- Activity for a context that the deadlock watchdog waits for (R390). -/
def State.busyFor (s : State) (cid : Nat) : Bool :=
  let mine := fun id => match s.envOf id with
    | some e => e.vol.ctx == cid
    | none => false
  let ours := fun vid => match FMap.find s.vols vid with
    | some v => v.ctx == cid
    | none => false
  s.xfers.any (fun x => x.2.ctx == cid && x.2.started) || s.mjobs.any (fun j => ours j.vol)
    || s.asq.any (fun r => match r.quire with | some q => mine q | none => false)
    || s.treqs.any (fun r => r.ctx == cid) || s.colls.any (fun c => c.2.ctx == cid && c.2.phase != .ended)
    || s.cores.any fun c => c.2.bins.any fun b => !b.2.full && ours b.2.vol

/-- What a quire waits for has come, though the quire has not gone on yet. -/
def State.waitOver (s : State) (id : Nat) : Bool :=
  match s.envOf id with
  | none => false
  | some e => match e.q.wait with
    | .barwait k gen _ => s.generation e k != gen.toNat
    | .tryw t => s.tryHolds e t || (t.limit != 2 ^ 32 - 1 && decide (t.limit ≤ e.q.waited))
    | .hwait h full => (s.handle e.q.gath h).state == (if full then .full else .free)
    | .stall (.claim n seq) => !s.claimBefore e seq && decide ((n - e.q.claimed) * e.words * 16 ≤ s.poolRows e.g.pcore e.q.part)
    | .stall (.tpay _ _ _) => e.g.freeSlot.isSome
    | .stall (.qpush qk pkt sd) => match (s.pushTry e qk pkt sd).1 with
      | .ok none => false
      | _ => true
    | .stall _ => s.ready id || ((e.rowWanted s).bind (s.refill e.g.pcore e.q.part id)).isSome
    | _ => false

/-- Nothing but device-internal waits stands in a context (R390), none of them over, and it holds a quire. -/
def State.deadlocked (s : State) (cid : Nat) : Bool :=
  let l := s.quiresIn cid
  !l.isEmpty && l.all (fun x => x.2.wait.inside && !x.2.stopped && !s.waitOver x.1) && !s.busyFor cid

/-- The sequence number of the first of some launches: the host event of a watchdog carries it (R496). -/
def State.firstSeq (s : State) (l : List Nat) : Nat :=
  match l.head?.bind (FMap.find s.vols) with
  | some v => v.pkt.seq
  | none => 0

/-- The deadlock watchdog fires (R390): every launch with work on a core ends with class 0x1A, and the host is told. -/
def State.deadlockFires (s : State) (cid : Nat) : State :=
  match FMap.find s.ctxs cid with
  | none => s
  | some c =>
    if !c.watchdog ∨ c.stuck < 50000000 ∨ !s.deadlocked cid then s
    else
      let l := (s.vols.filter fun v => v.2.ctx == cid && v.2.ending == .running && s.gaths.any fun g => g.2.vol == v.1 && !g.2.retired && g.2.saved.isNone).map Prod.fst
      (l.foldl (fun s v => s.endLaunch v (.error 0x1A)) s|>.hostEvent 1 cid (s.firstSeq l)) |>.modCtx cid fun c => { c with stuck := 0 }

/-- The instruction an external wait stands at. -/
def Env.waitPc (e : Env) : W64 :=
  match e.q.wait with
  | .fault _ t _ => t.pc
  | .deliver t _ => t.pc
  | _ => e.q.selfPc

/-- A quire of a context is stopped (R453): no watchdog runs for it. -/
def State.ctxStopped (s : State) (cid : Nat) : Bool :=
  s.quires.any fun x => x.2.stopped && (match s.envOf x.1 with | some y => y.vol.ctx == cid | none => false)

/-- The external-wait timeout (R391): trap 0x1A at the waiting instruction, behind a pre-emption that stands (R443); a TRYWAIT with a shorter limit of its own returns first. -/
def State.externalTimeout (s : State) (id : Nat) : State :=
  s.forQuire id fun e =>
    let own := match e.q.wait with
      | .tryw t => decide (t.limit < 1000000 * e.ctx.extTimeout ∧ t.limit ≠ 2 ^ 32 - 1)
      | _ => false
    if e.ctx.extTimeout ≠ 0 ∧ e.q.wait.outside ∧ 1000000 * e.ctx.extTimeout < e.q.watched ∧ !s.ctxStopped e.vol.ctx ∧ e.g.asked.isNone ∧ !own then
      s.takeTrap id { e.trapInfo 0x1A 0xFFFF 2 0 0 with pc := e.waitPc } false
    else s

/-- The group the quire stands before would take its count above the budget (R392). -/
def Env.overBudget (e : Env) : Bool :=
  !e.handlerMode && e.vol.pkt.budget != 0 && decide (2 ^ e.vol.pkt.budget < e.q.budget + 1)

/-- The budget watchdog (R392). -/
def State.budgetTrap (s : State) (id : Nat) : State :=
  s.forQuire id fun e =>
    match e.nextGroup s with
    | none => s
    | some l =>
      if e.q.mayIssue && e.q.grp.isNone && e.overBudget && (e.groupTrap l).isNone && e.scoreboardOk l then
        (s.modQuire id fun q => { q with budget := 0 }).takeTrap id (e.trapAll 0x11 0) false
      else s

/-! ### TRAPCALL (R449) -/

/-- The replies of a record, in the order of its values. -/
def State.callReplies (s : State) (pa : Nat) (sent : List W32) : List (W32 × W32) :=
  sent.mapIdx fun i v => (v, BitVec.ofNat 32 (s.mem.num (pa + 64 + 4 * i) 4))

/-- A call goes on with its next record, or is done. -/
def State.callOn (s : State) (e : Env) (c : CallWait) : State :=
  if c.todo.isEmpty then s.callDone e c
  else match s.callSend e c with
    | (.error f, s) => (s.upd e fun q => { q with call := some c }).parkFault e f false
    | (.ok s, _) => s

/-- The call record's status word is read, or room in the ring is looked for. -/
def State.callReply (s : State) (id : Nat) : State :=
  s.forQuire id fun e =>
    match e.q.wait, e.q.call with
    | .call, some c =>
      match c.slotPa with
      | none => if c.todo.isEmpty then s else s.callOn e c
      | some pa =>
        let r := s.homeNum pa 4
        let s := r.2
        if r.1 = 0 then s
        else if r.1 ≠ 1 then s.endLaunch e.g.vol (.killed 0)
        else
          let s := s.recallRange pa 256
          let c := { c with replies := c.replies ++ s.callReplies pa c.sent, sent := [], slotPa := none }
          (s.putHome (pa + 20) [0]).callOn e c
    | _, _ => s

/-! ### Events -/

/-- CLAIM_GRANT (R219). -/
def execClaimGrant (quire : Nat) (s : State) : Out := .next (s.grantClaim quire)
/-- TPAY_SLOT_TAKEN (R316). -/
def execTpaySlotTaken (quire : Nat) (s : State) : Out := .next (s.slotForTpay quire)
/-- QPUSH_RING_ROOM (R388). -/
def execQpushRingRoom (quire : Nat) (s : State) : Out := .next (s.roomForPush quire)
/-- BARRIER_WAKE (R378). -/
def execBarrierWake (quire : Nat) (s : State) : Out := .next (s.wakeBarrier quire)
/-- TRYWAIT_REEVALUATION (R380). -/
def execTrywaitReevaluation (quire : Nat) (s : State) : Out := .next (s.lookAgain quire)
/-- TRYWAIT_TIMEOUT (R380). -/
def execTrywaitTimeout (quire : Nat) (s : State) : Out := .next (s.tryExpired quire)
/-- HWAIT_WAKE (R268). -/
def execHwaitWake (quire : Nat) (s : State) : Out := .next (s.wakeHandle quire)
/-- ROW_REFILL (R126). -/
def execRowRefill (quire : Nat) (s : State) : Out := .next (s.refillRow quire)
/-- LINE_FETCH (R73). -/
def execLineFetch (quire : Nat) (s : State) : Out := .next (s.lineArrives quire)
/-- DEADLOCK_WATCHDOG (R390). -/
def execDeadlockWatchdog (ctx : Nat) (s : State) : Out := .next (s.deadlockFires ctx)
/-- EXTERNAL_WAIT_TIMEOUT (R391). -/
def execExternalWaitTimeout (quire : Nat) (s : State) : Out := .next (s.externalTimeout quire)
/-- BUDGET_EXHAUSTED (R392). -/
def execBudgetExhausted (quire : Nat) (s : State) : Out := .next (s.budgetTrap quire)
/-- TRAPCALL_REPLY (R449). -/
def execTrapcallReply (quire : Nat) (s : State) : Out := .next (s.callReply quire)

end Sys2Proof.Machine
end

