-- ==== Sys2Proof/Machine/Landing.lean ====
section
/-! DEFINITION. What arrives (R122, R263, R286, R354, R357, R363, R364, R401, R408, R412, R415–R420): results in registers, stores and atomics
at their homes, pieces of transfers, acts of the tree engines, and the completions of requests to peers. -/
namespace Sys2Proof.Machine

/-! ### Results of loads, engines and the matrix unit -/

/-- The first ready result of a kind that a quire is owed lands (R122). -/
def Quire.landFirst (q : Quire) (k : PendKind) : Quire :=
  match q.pend.findIdx? fun p => p.kind == k && p.ready with
  | none => q
  | some i => match q.pend[i]? with
    | some p => ({ q with pend := q.pend.eraseIdx i } : Quire).arrive p
    | none => q

/-- A load whose data has come (R122); an acquiring one acquires as it lands, and the quire goes on when none of its member's is left (R350). -/
def State.landLoad (s : State) (id : Nat) : State :=
  s.forQuire id fun e =>
    let p := e.q.pend.find? fun p => p.kind == .load && p.ready
    let s := s.upd e fun q => q.landFirst .load
    match p.bind Pending.acq with
    | none => s
    | some sc =>
      let s := s.acquire e.g.pcore sc
      let more : Bool := match FMap.find s.quires id with
        | some q => q.pend.any fun p => p.kind == .load && p.acq.isSome
        | none => false
      match e.q.wait with
      | .reply _ => if more then s else s.wake id
      | _ => s

/-- The oldest instruction of a partition's matrix unit is done (R286): the tile of an MSTC is in memory (R292); any other's fragment lands, which is
an acquire (R360), and its flags are raised. What it reads in memory may be met as it stood at issue or as it stands now (R281). -/
def State.landMatrix (s : State) (core part : Nat) : State :=
  match s.mjobs.find? fun j => j.core == core && j.part == part with
  | none => s
  | some j =>
    if !j.stores.isEmpty then
      (if s.tileHeld j then s else j.stores.foldl (fun s x => s.tileWrite j.core j.vol x) { s with mjobs := s.mjobs.filter fun x => x.req != j.req })
    else
    let t := s.landTile j
    let s : State := { t.2 with mjobs := t.2.mjobs.filter fun x => x.req != j.req }
    (s.acquire core .dev).modQuire j.quire fun q =>
      match q.pend.find? fun p => p.kind == .matrix && p.req == j.req with
      | none => q
      | some p =>
        let or' := fun r : Regs => { r with fpflags := r.fpflags ||| t.1.2.setWidth 64 }
        let q := ({ q with pend := q.pend.filter fun x => !(x.kind == .matrix && x.req == j.req) } : Quire).arrive { p with writes := t.1.1 }
        { q with regs := or' q.regs, snap := q.snap.map or', ckpt := if p.old then { q.ckpt with regs := or' q.ckpt.regs } else q.ckpt }

/-- The oldest instruction of a partition's matrix unit can be done now. -/
def State.jobReady (s : State) (core part : Nat) : Bool := (s.mjobs.find? fun j => j.core == core && j.part == part).any fun j => !s.tileHeld j

/-- An engine's results land, which is an acquire (R360). -/
def State.engineLands (s : State) (id : Nat) : State :=
  s.forQuire id fun e => if e.q.pend.any fun p => p.kind == .engine && p.ready then (s.acquire e.g.pcore .dev).upd e fun q => q.landFirst .engine else s

/-! ### Stores and atomics at their homes -/

/-- A quire that a FENCE.sc of core `c` holds may go on: its own releases are complete (R350, R356). -/
def State.fenceOver (s : State) (c : Nat) (x : Nat × Quire) : Bool :=
  x.2.wait == .stall .fence && (s.core c).released x.1 && (match FMap.find s.gaths x.2.gath with
    | some g => g.pcore == c
    | none => false)
/-- Those quires go on. -/
def State.wakeFences (s : State) (c : Nat) : State :=
  { s with quires := s.quires.map fun x => if s.fenceOver c x then (x.1, { x.2 with wait := .none }) else x }

/-- Item `k` of a core's stream reaches its home (R354). One for a peer leaves as a UALink write, and is counted until it completes (R415). -/
def State.storeHome (s : State) (c k : Nat) : State :=
  match (s.core c).out[k]? with
  | some (.store _ r) =>
    if !outReady (s.core c).out k then s
    else if r.far then
      let d := keyHomeDie r.key
      (s.peerSend r.key c r.bytes (if r.bad then r.words else []) r.bytes.length (.write (some d))).2.modCore c fun v =>
        { v with out := v.out.eraseIdx k, cnt := FMap.put 0 v.cnt d (FMap.val 0 v.cnt d + 1) }
    else s.acceptOut c k
  | _ => s

/-- An atomic or an arrival is performed at its home, in its turn (R363, R377). -/
def State.serveNext (s : State) (id : Nat) : State :=
  match s.asq.find? fun r => r.id == id with
  | none => s
  | some r => if s.asqReady r then (s.serveAsq r).wakeFences r.core else s

/-- A reply of the member at a slot is still owed: of an atomic or an arrival, of a tree engine (R364, R401), or the data of an acquiring load
(R350). -/
def Quire.owesReply (q : Quire) (slot : Nat) : Bool :=
  q.pend.any fun p => (p.kind == .asq || p.kind == .tree || (p.kind == .load && p.acq.isSome)) && p.slot == some slot

/-- Replies land in the quire's rows (R364). An acquiring atomic acquires with its reply (R350); one that waits goes on when none of the
member's replies is owed, and a quire that has rolled back when none of its own is; a refused arrival takes trap 0x07 (R377). -/
def State.replyLands (s : State) (id : Nat) : State :=
  s.forQuire id fun e =>
    let acqs := (e.q.pend.filter fun p => p.kind == .asq && p.ready).filterMap Pending.acq
    let s := acqs.foldl (fun s sc => s.acquire e.g.pcore sc) (s.upd e Quire.landReplies)
    let owed : Bool := match FMap.find s.quires id with
      | some q => q.owesReply e.slot
      | none => false
    let due : Bool := match FMap.find s.quires id with
      | some q => q.repliesDue
      | none => false
    match e.q.wait with
    | .drain => if due then s else s.wake id
    | .reply refused =>
      if owed then s
      else if refused then (s.wake id).takeTrap id (e.trapAll 0x07 0) false
      else s.wake id
    | _ => s

/-! ### Transfers -/

/-- A command held on a FREE handle starts, the first of its handle (R258, R263). -/
def State.transferStarts (s : State) (id : Nat) : State :=
  match FMap.find s.xfers id with
  | none => s
  | some x =>
    let first := (s.xfers.find? fun e => e.2.gath == x.gath && e.2.handle == x.handle && !e.2.started).map Prod.fst
    let saved := match FMap.find s.gaths x.gath with
      | some g => g.saved.isSome
      | none => false
    if first = some id ∧ (s.handle x.gath x.handle).state = .free ∧ !saved then s.xferStart id else s

/-- A piece of a transfer lands (R263); a build, or the opening of a collective, counts as one (R340, R422). -/
def State.transferMoves (s : State) (id p : Nat) : State :=
  match FMap.find s.xfers id with
  | none => s
  | some x =>
    let s := match x.kind with
      | .build _ _ _ _ => s.buildRun id
      | .coll c => s.collOpen id c
      | _ => s.xferPiece id p
    s.reapFor x

/-! ### Trees -/

/-- The tree engine's next act for a request (R412). -/
def State.treeTurn (s : State) (id : Nat) : State :=
  match s.treqs.find? fun r => r.id == id with
  | none => s
  | some r => if s.treeReady r then s.treeStep r else s

/-- Tree results land, which is an acquire (R401); lanes that faulted keep the quire parked on their entry (R402). -/
def State.treeLands (s : State) (id : Nat) : State :=
  s.forQuire id fun e =>
    if !(e.q.pend.any fun p => p.kind == .tree && p.ready) then s
    else
      let s := s.landTrees id
      let left := s.treqs.any fun r => r.quire == id && r.faulted.isNone
      let stuck := s.treqs.find? fun r => r.quire == id && r.faulted.isSome
      match e.q.wait, stuck with
      | .reply _, some r => if left then s else s.upd e fun q => q.park (.treeFault (r.faulted.getD 0))
      | .treeFault _, some r => if left then s else s.upd e fun q => q.park (.treeFault (r.faulted.getD 0))
      | .reply _, none => if left then s else s.wake id
      | .treeFault _, none => if left then s else s.wake id
      | _, _ => s

/-- An append waiting for a handle lands (R408), after those before it of its gathering and handle. -/
def State.appendLands (s : State) (k : Nat) : State :=
  match s.apps[k]? with
  | none => s
  | some a =>
    match FMap.find s.gaths a.gath with
    | none => { s with apps := s.apps.eraseIdx k }
    | some g =>
      let before := (s.apps.take k).any fun b => b.gath == a.gath && b.handle == a.handle
      let h := g.handle a.handle
      let open' := h.state == .free || (h.state == .filling && (FMap.find g.batches a.handle).isSome)
      if before ∨ !open' ∨ g.retired ∨ g.saved.isSome then s
      else
        let fill := if h.state == .free then 0 else h.fill
        let s := s.engineWrite (g.bufKey h (16 * fill)) (a.bytes.map fun b => (b, false))
        let full := decide (a.batch ≤ fill + 1)
        let s := s.modGath a.gath fun g =>
          { g.setHandle a.handle { h with state := if full then .full else .filling, fill := fill + 1, error := 0, multicast := false } with
            batches := if full then FMap.remove g.batches a.handle
              else if h.state == .free then FMap.insert g.batches a.handle (a.batch, a.timer, s.ns) else g.batches }
        { s with apps := s.apps.eraseIdx k }

/-- The batch timer of a handle forces it to FULL (R408); a timer of zero never runs out. -/
def State.batchExpires (s : State) (gid n : Nat) : State :=
  match FMap.find s.gaths gid with
  | none => s
  | some g =>
    match FMap.find g.batches n with
    | none => s
    | some (_, timer, start) =>
      if timer = 0 ∨ s.ns < start + 250 * timer then s
      else s.setGath gid { g.setHandle n { g.handle n with state := .full } with batches := FMap.remove g.batches n }

/-! ### Peers (R413–R420) -/

/-- The loads of a lane's bytes fill the writes that wait for them. -/
def fillWrites (sx : Bool) (bs : List (W8 × Bool)) (ws : List RegWrite) : List RegWrite :=
  let words := datumWords sx bs
  let bad := bs.any Prod.snd
  let scalar := ws.any (fun w => match w with | .scal _ _ _ => true | _ => false)
    || 1 < (ws.filter fun w => match w with | .lat _ _ _ _ => true | _ => false).length
  let lat := if scalar then datumScalar sx bs else match words with
    | [a] => a.1.setWidth 64
    | a :: b :: _ => W64.ofWords a.1 b.1
    | [] => 0
  ws.mapIdx fun i w => match w with
    | .vec k _ _ => .vec k (words.getD i (0, false)).1 (words.getD i (0, false)).2
    | .scal n _ _ => .scal n (datumScalar sx bs) bad
    | .lat n l _ _ => .lat n l lat bad
    | w => w

/-- A valid entry no station of whose mask is up (R419). -/
def State.unreachable (s : State) (v : W64) : Bool := v.getLsbD 0 && Nat.land (bits v.toNat 41 26) s.stations == 0

/-- Each valid entry no station of whose mask is up is marked lost, and the requests outstanding to its peer are lost with it, whatever the driver
writes later (R419). -/
def State.markLost (s : State) : State :=
  { s with peers := s.peers.map (fun e => if s.unreachable e.2 then (e.1, e.2 ||| 2) else e),
           peerOut := s.peerOut.map fun o => if s.unreachable (s.peerEntry o.entry) then { o with lost := true } else o }

/-- Loss counts by peer-table entry (R417), and the host's event. -/
def State.countLoss (s : State) (o : PeerOut) : State :=
  ({ s with losses := FMap.put 0 s.losses o.entry (BitVec.ofNat 64 (min (2 ^ 64 - 1) ((FMap.val 0 s.losses o.entry).toNat + 1))) } : State).hostEvent 4 0xFF 0

/-- Bytes a completion brings, with their marks; the words of one that failed arrive poisoned, whatever they hold. -/
def State.peerBytes (s : State) (o : PeerOut) (ok : Bool) (data : List W8) (marks : List Nat) : List (W8 × Bool) :=
  (List.range o.len).map fun i =>
    if ok then (data.getD i 0, marks.contains (i / 4)) else (BitVec.ofNat 8 (Config.free .damaged s.tick / 256 ^ i), true)

/-- The completion of a request, with success or without (R417). -/
def State.peerDone (s : State) (o : PeerOut) (ok : Bool) (data : List W8) (marks : List Nat) : State :=
  let s : State := { s with peerOut := s.peerOut.filter fun x => x.id != o.id }
  let s := if ok then s else s.countLoss o
  let bs := s.peerBytes o ok data marks
  let s := s.bump
  match o.use with
  | .load quire sx own =>
    let bs := bs.mapIdx fun i b => match own.find? fun x => x.1 == i with | some x => (x.2, b.2) | none => b
    s.modQuire quire fun q => { q with pend := q.pend.map fun p =>
      if p.kind == .load && p.req == o.id then { p with ready := true, writes := fillWrites sx bs p.writes } else p }
  | .piece cmd _ off => s.gotBytes cmd (bs.mapIdx fun i b => (off + i, b))
  | .wrote x p =>
    match FMap.find s.xfers x with
    | none => s
    | some t => (s.pieceDone x t p).reapFor t
  | .operand quire pa => s.modQuire quire fun q => { q with peerGot := (bs.mapIdx fun i b => (pa + i, b)).foldl (fun m b => FMap.insert m b.1 b.2) q.peerGot }
  | .write (some d) => ((s.modCore o.core fun v => { v with cnt := FMap.put 0 v.cnt d (FMap.val 0 v.cnt d - 1) }).settle o.core).wakeFences o.core
  | .write none => s
  | .atomic a lane =>
    match s.asq.find? fun r => r.id == a with
    | none => s
    | some r =>
      let more := s.peerOut.any fun x => match x.use with | .atomic b _ => b == a | _ => false
      let wide := match r.op with | .atom _ w => w | .arrive => true
      let s := s.answer r (oldWrites r.dst wide lane (leValue (bs.map Prod.fst)) (bs.any Prod.snd)) (!more)
      if more then s else (s.dropAsq r).wakeFences r.core

/-- A request is lost: with its peer, or for want of a completion for 2 ms (R417, R419). -/
def State.requestLost (s : State) (o : PeerOut) : Bool := o.lost || decide (o.sentAt + 2000000 ≤ s.ns)

/-- A peer answers a request; one that is lost by then takes that outcome (R417, R419). -/
def State.peerAnswers (s : State) (req : Nat) (ok : Bool) (data : List W8) (marks : List Nat) : State :=
  match s.peerOut.find? fun o => o.id == req with
  | none => s
  | some o => s.peerDone o (ok && !s.requestLost o) data marks

/-- A lost request takes its outcome (R417). -/
def State.peerExpires (s : State) (req : Nat) : State :=
  match s.peerOut.find? fun o => o.id == req with
  | none => s
  | some o => if s.requestLost o then s.peerDone o false [] [] else s

/-- A station that carries traffic goes down (R413, R419). -/
def State.stationDown (s : State) (k : Nat) : State :=
  if k < 16 ∧ s.stations.testBit k then
    let fallen := if s.fallen.testBit k then s.fallen else s.fallen + 2 ^ k
    State.markLost { s with stations := s.stations - 2 ^ k, fallen := fallen, flits := FMap.remove s.flits k }
  else s

/-- A flit stays unacknowledged for 1 ms (R413). -/
def State.ackLate (s : State) (k : Nat) : Bool := match FMap.val [] s.flits k with
  | [] => false
  | t :: _ => decide (t + 1000000 ≤ s.ns)

/-- The link partner acknowledges a station's oldest flits (R413): one or more of them. -/
def State.linkAck (s : State) (k : Nat) : State :=
  let l := FMap.val [] s.flits k
  { s.bump with flits := FMap.put [] s.flits k (l.drop (1 + Config.free .serial s.tick % max 1 l.length)) }

/-! ### Events -/

/-- LOAD_DATA_RETURN (R122). -/
def execLoadDataReturn (quire : Nat) (s : State) : Out := .next (s.landLoad quire)
/-- ENGINE_RESULT_RETURN (R122). -/
def execEngineResultReturn (quire : Nat) (s : State) : Out := .next (s.engineLands quire)
/-- MATRIX_RESULT_LANDING (R286). -/
def execMatrixResultLanding (core part : Nat) (s : State) : Out := .next (s.landMatrix core part)
/-- HOME_ACCEPT (R354). -/
def execHomeAccept (core k : Nat) (s : State) : Out := .next (s.storeHome core k)
/-- STORE_ACKNOWLEDGE (R357). -/
def execStoreAcknowledge (core die : Nat) (s : State) : Out := .next ((s.ackOut core die).wakeFences core)
/-- ASQ_REQUEST (R363). -/
def execAsqRequest (k : Nat) (s : State) : Out := .next (s.serveNext k)
/-- ASQ_REPLY (R364). -/
def execAsqReply (quire : Nat) (s : State) : Out := .next (s.replyLands quire)
/-- TRANSFER_START (R263). -/
def execTransferStart (xfer : Nat) (s : State) : Out := .next (s.transferStarts xfer)
/-- TRANSFER_PIECE (R263). -/
def execTransferPiece (xfer piece : Nat) (s : State) : Out := .next (s.transferMoves xfer piece)
/-- TREE_OPERATION (R412). -/
def execTreeOperation (k : Nat) (s : State) : Out := .next (s.treeTurn k)
/-- TREE_RESULT_LANDING (R401). -/
def execTreeResultLanding (quire : Nat) (s : State) : Out := .next (s.treeLands quire)
/-- TLEAF_APPEND (R408). -/
def execTleafAppend (k : Nat) (s : State) : Out := .next (s.appendLands k)
/-- BATCH_TIMER_EXPIRY (R408). -/
def execBatchTimerExpiry (gath handle : Nat) (s : State) : Out := .next (s.batchExpires gath handle)
/-- PEER_COMPLETION (R417). -/
def execPeerCompletion (req : Nat) (ok : Bool) (data : List W8) (marks : List Nat) (s : State) : Out := .next (s.peerAnswers req ok data marks)
/-- PEER_REQUEST_TIMEOUT (R417). -/
def execPeerRequestTimeout (req : Nat) (s : State) : Out := .next (s.peerExpires req)
/-- STATION_REPLAY_FAILURE (R413). -/
def execStationReplayFailure (station : Nat) (s : State) : Out := .next (s.stationDown station)
/-- STATION_ACK_TIMEOUT (R413). -/
def execStationAckTimeout (station : Nat) (s : State) : Out := .next (if s.ackLate station then s.stationDown station else s)
/-- LINK_LEVEL_ACKNOWLEDGEMENT (R413). -/
def execLinkLevelAcknowledgement (station : Nat) (s : State) : Out := .next (s.linkAck station)

end Sys2Proof.Machine
end

