-- ==== Sys2Proof/Machine/Network.lean ====
section
/-! DEFINITION. What reaches the package from outside: the messages of collectives and their clocks (R425–R430), requests of UALink peers
(R418), accesses of the host (R362). -/
namespace Sys2Proof.Machine

/-! ### Collectives -/

/-- An event for a collective that is under way: opened, and its end not settled. -/
def State.inFlight (s : State) (id : Nat) (k : Coll → State) : State :=
  match FMap.find s.colls id with
  | none => s
  | some c => if c.opened && !c.settled && c.phase != .ended then k c else s

def Coll.other (c : Coll) (rank : Nat) : Bool := decide (rank < c.n) && rank != c.rank

/-- The bytes a member's contribution has here (R425). -/
def Coll.fit (c : Coll) (rank : Nat) (data : List W8) : List W8 :=
  if c.kind = 3 ∧ rank ≠ c.root then [] else (data ++ List.replicate (c.chunk - data.length) 0).take c.chunk

/-- A member's COLL and contribution are matched (R425): one that differs ends this member with class 0x21. -/
def State.exchange (s : State) (id rank : Nat) (params : CollParams) (data : List W8) : State :=
  s.inFlight id fun c =>
    if !c.other rank then s
    else if params ≠ c.params then s.setColl id (c.fail 0x21 3)
    else s.setColl id { c with data := FMap.insert c.data rank (c.fit rank data), phase := if c.phase == .waiting then .exchanging else c.phase }

/-- A heartbeat to every member of the view, every 250 µs (R427). -/
def State.sendHeartbeats (s : State) (id : Nat) : State :=
  s.inFlight id fun c =>
    if s.ns < c.sentAt + 250000 then s
    else
      (s.setColl id { c with sentAt := s.ns }).tellAll c (ranksOf c.n c.view) fun r => .heartbeat id r

def State.heartbeat (s : State) (id rank : Nat) : State := s.inFlight id fun c => if c.other rank then s.setColl id { c with heard := FMap.insert c.heard rank s.ns } else s

/-- Rank `rank` can be declared lost (R427): silent for 2 ms, with its path fallen or another's declaration learnt. -/
def State.mayDeclare (s : State) (c : Coll) (rank : Nat) : Bool :=
  c.other rank && !c.lost.contains rank && decide (FMap.val 0 c.heard rank + 2000000 ≤ s.ns)
    && (Nat.land (s.pathOf (c.ids.getD rank 0)) s.fallen != 0 || c.learnt.contains rank)

/-- The coordinator with every view at hand decides (R428). -/
def State.decideIfReady (s : State) (id : Nat) : State :=
  s.inFlight id fun c => if c.coordinates && c.allViews && !s.maskDue c then s.collDecide id c else s

def State.declareLost (s : State) (id rank : Nat) : State :=
  s.inFlight id fun c => if s.mayDeclare c rank then (s.collRound id { c with lost := setIns c.lost rank }).decideIfReady id else s

/-- A view reaches this member (R428): it tells which ranks its sender has declared lost, and begins the rounds here. -/
def State.takeView (s : State) (id rank view : Nat) : State :=
  s.inFlight id fun c =>
    if !c.other rank then s
    else
      let gone := (List.range c.n).filter fun r => !view.testBit r
      let c := { c with views := FMap.insert c.views rank view, learnt := gone.foldl setIns c.learnt }
      (if c.round.isNone then s.collRound id c else s.setColl id c).decideIfReady id

/-- The coordinator has waited 2 ms (R428). -/
def State.coordinatorWaited (s : State) (id : Nat) : State :=
  s.inFlight id fun c => match c.round with
    | some t => if c.coordinates && decide (t + 2000000 ≤ s.ns) && !s.maskDue c then s.collDecide id c else s
    | none => s

/-- The final mask of a coordinator (R428): the lowest coordinator's is taken; a first one that comes more than 4 ms after the first round comes
too late. -/
def State.receiveMask (s : State) (id rank mask : Nat) : State :=
  s.inFlight id fun c =>
    if !c.other rank then s else s.setColl id (if s.maskDue c then c.fail 0x22 0 else c.takeMask (mask % 2 ^ c.n) rank)

/-- 4 ms without a final mask (R428). -/
def State.maskLate (s : State) (id : Nat) : State :=
  s.inFlight id fun c => if s.maskDue c then s.setColl id (c.fail 0x22 0) else s

/-- A collective that can end ends (R430). -/
def State.endColl (s : State) (id : Nat) : State :=
  match s.collXfer id with
  | none => s
  | some x => match FMap.find s.xfers x with
    | none => s
    | some t => (s.collEnd x id).reapFor t

/-! ### Peers' requests (R418) -/

/-- Physical addresses of `n` bytes of an inbound window; none where a rule refuses them. -/
def State.windowPas (s : State) (w : Window) (root : Nat) (acc : Acc) : Nat → Nat → Option (List Nat) × State
  | 0, _ => (some [], s)
  | n + 1, off =>
    match s.translate 0 w.ctx root (w.va.toNat + off) acc with
    | (.error _, s) => (none, s)
    | (.ok x, s) =>
      if paKind x.pa == .peer then (none, s)
      else match State.windowPas s w root acc n (off + 1) with
        | (none, s) => (none, s)
        | (some l, s) => (some (x.pa :: l), s)

/-- What a request reads or writes: address, length, access. -/
def reqShape : PeerReq → Nat × Nat × Acc
  | .read a n => (a, n, .load)
  | .write a d => (a, d.length, .store)
  | .atomic a _ wide _ _ => (a, if wide then 8 else 4, .atomic)

/-- Bytes at keys as runs of keys that follow each other. -/
def keyRuns (l : List (Nat × W8)) : List (Nat × List W8) :=
  l.foldr (fun x acc => match acc with
    | y :: rest => if x.1 + 1 = y.1 then (x.1, x.2 :: y.2) :: rest else (x.1, [x.2]) :: y :: rest
    | [] => [(x.1, [x.2])]) []

/-- An outside agent's bytes at their homes (R362, R418): the L1s give up what they hold of the lines, and seals the bytes fall on break (R48). -/
def State.outsideWrite (s : State) (l : List (Nat × W8)) : State :=
  (keyRuns l).foldl (fun s r => ((List.range r.2.length).foldl (fun s i => s.breakSeals none (r.1 + i)) s).putHome r.1 r.2) s

/-- What an outside agent reads at the homes of some bytes (R234, R362). -/
def State.outsideRead (s : State) (l : List Nat) : State :=
  let s := l.foldl (fun s k => s.recallRange k 1) s
  { s with lastReply := some (l.map s.mem.byte) }

def State.performReq (s : State) (r : PeerReq) (pas : List Nat) : State :=
  match r with
  | .read _ _ => s.outsideRead pas
  | .write _ d => { s.outsideWrite (pas.zip d) with lastReply := some [] }
  | .atomic _ op wide v c =>
    let k := pas.headD 0
    let n := if wide then 8 else 4
    let a := (s.breakSeals none k).atomAt op.toNat n { lane := 0, key := k, v := v, c := c, bad := false, portion := none }
    { a.2 with lastReply := some (leBytes n a.1.1) }

/-- A peer's request is performed at its home, or refused with an error completion. -/
def State.peerServe (s : State) (r : PeerReq) : State :=
  let (addr, n, acc) := reqShape r
  let off := addr % 2 ^ 34
  let op := match r with | .atomic _ op _ _ _ => peerOp op.toNat && decide (addr % n = 0) | _ => true
  let refused : State := { s with lastReply := none }
  match FMap.find s.windows (addr / 2 ^ 34 % 256) with
  | none => refused
  | some w =>
    match FMap.find s.ctxs w.ctx with
    | none => refused
    | some c =>
      if w.len < off + n ∨ (acc.writes = true ∧ w.writable = false) ∨ !op then refused
      else match s.windowPas w c.root acc n off with
        | (none, s) => { s with lastReply := none }
        | (some pas, s) => s.performReq r pas

/-- A peer's request, and the completion that goes back on a station that is up (R413, R418). -/
def State.peerAsks (s : State) (r : PeerReq) : State := let t := s.peerServe r; t.flit t.stations

/-! ### The host (R362, R497) -/

/-- Memory that the host reaches: its own, and the module's tiers once Twison carries coherent traffic. -/
def State.hostMay (s : State) (pa : Nat) : Bool :=
  match paKind pa with
  | .host => true
  | .first => s.linkUp
  | .second => s.linkUp
  | _ => false

def State.hostAct (s : State) (a : HostAcc) : State :=
  match a with
  | .read pa n =>
    if (List.range n).all fun i => s.hostMay (pa + i) then s.outsideRead ((List.range n).map (pa + ·)) else { s with lastReply := none }
  | .write pa d =>
    if (List.range d.length).all fun i => s.hostMay (pa + i) then { s.outsideWrite (d.mapIdx fun i b => (pa + i, b)) with lastReply := some [] }
    else { s with lastReply := none }

/-! ### Events -/

/-- COLLECTIVE_EXCHANGE (R425). -/
def execCollectiveExchange (coll rank : Nat) (params : CollParams) (data : List W8) (s : State) : Out := .next (s.exchange coll rank params data)
/-- HEARTBEAT_SEND (R427). -/
def execHeartbeatSend (coll : Nat) (s : State) : Out := .next (s.sendHeartbeats coll)
/-- HEARTBEAT_RECEIVE (R427). -/
def execHeartbeatReceive (coll rank : Nat) (s : State) : Out := .next (s.heartbeat coll rank)
/-- MEMBER_LOST (R427). -/
def execMemberLost (coll rank : Nat) (s : State) : Out := .next (s.declareLost coll rank)
/-- VIEW_MESSAGE (R428). -/
def execViewMessage (coll rank view : Nat) (s : State) : Out := .next (s.takeView coll rank view)
/-- COORDINATOR_TIMEOUT (R428). -/
def execCoordinatorTimeout (coll : Nat) (s : State) : Out := .next (s.coordinatorWaited coll)
/-- FINAL_MASK_RECEIVE (R428). -/
def execFinalMaskReceive (coll rank mask : Nat) (s : State) : Out := .next (s.receiveMask coll rank mask)
/-- FINAL_MASK_TIMEOUT (R428). -/
def execFinalMaskTimeout (coll : Nat) (s : State) : Out := .next (s.maskLate coll)
/-- COLLECTIVE_COMPLETION (R430). -/
def execCollectiveCompletion (coll : Nat) (s : State) : Out := .next (s.endColl coll)
/-- PEER_INBOUND_REQUEST (R418). -/
def execPeerInboundRequest (r : PeerReq) (s : State) : Out := .next (s.peerAsks r)
/-- HOST_ACCESS (R362). -/
def execHostAccess (a : HostAcc) (s : State) : Out := .next (s.hostAct a)

end Sys2Proof.Machine
end

