-- ==== Sys2Proof/Machine/Placing.lean ====
section
/-! DEFINITION. Placement (R41, R42, R54, R63–R67): quires of bins, mesh gatherings and pending quires first, then saved units, then the next
gathering or span of a waiting launch; pre-emption asked for a launch that waits; sr.shrink (R384). -/
namespace Sys2Proof.Machine

/-! ### Creations on a core -/

/-- A bin's timer (R386): 250 ns times packet byte 43, where 0 means 8 (R20). -/
def Packet.timerNs (p : Packet) : Nat := 250 * (if p.binTimer = 0 then 8 else p.binTimer)

def State.binExpired (s : State) (b : Bin) : Bool :=
  !b.full && (match FMap.find s.vols b.vol with
    | some v => decide (b.opened + v.pkt.timerNs ≤ s.ns)
    | none => false)
def State.expireBin (s : State) (p n : Nat) : State :=
  match FMap.find (s.core p).bins n with
  | none => s
  | some b => if s.binExpired b then (s.modCore p fun c => { c with bins := FMap.insert c.bins n { b with full := true } }).placeBin p n else s

/-- The mesh gathering a task gathering's ring owes next (R317): its slot, how many are owed of how many, and the partitions it is admitted to. -/
def State.meshPlan (s : State) (g : Gathering) : Option (Nat × Nat × Nat × List Nat) :=
  match g.ringOrder, FMap.find s.vols g.vol with
  | slot :: _, some v =>
    if g.saved.isSome ∨ !s.live v.ctx ∨ s.retired.contains g.pcore then none
    else (s.placeOn g.pcore (s.loadOf g.pcore keepAll) (v.need .mesh v.pkt.minQ)).map fun r =>
      (slot, (FMap.val (0, 0) g.owed slot).1, (FMap.val (0, 0) g.owed slot).2, r.1)
  | _, _ => none

/-- A mesh gathering is placed (R317): the slot drains, and its payload goes to offset 0. -/
def State.placeMesh (s : State) (gid : Nat) : State :=
  match FMap.find s.gaths gid with
  | none => s
  | some g =>
    match s.meshPlan g, FMap.find s.vols g.vol with
    | some (slot, owed, n, parts), some v =>
      let r := s.addGathering g.vol v .mesh (n - owed) 0 0 g.core g.pcore (some (gid, slot)) false
      let s := r.2.addQuires r.1 v .mesh parts
      let s := match FMap.find s.gaths r.1 with
        | some m => s.copyBytes (spadKey g.pcore (g.base + g.size + slot * v.payload)) (spadKey m.pcore m.base) v.payload
        | none => s
      (s.modGath gid fun g =>
        { g.setHandle (60 + slot) { g.handle (60 + slot) with state := .draining } with
          owed := FMap.put (0, 0) g.owed slot (if owed ≤ 1 then (0, 0) else (owed - 1, n)),
          running := FMap.put 0 g.running slot (FMap.val 0 g.running slot + 1),
          ringOrder := if owed ≤ 1 then g.ringOrder.drop 1 else g.ringOrder }).reap gid
    | _, _ => s

/-- The partition a gathering's next pending quire is created on (R382). -/
def State.pendingPlan (s : State) (gid : Nat) (g : Gathering) : Option (PendingQuire × Nat) :=
  match g.wanted, FMap.find s.vols g.vol with
  | w :: _, some v =>
    if g.retired ∨ g.saved.isSome ∨ !s.live v.ctx ∨ s.retired.contains g.pcore ∨ (s.join gid).isNone then none
    else (s.partFor g.pcore (s.loadOf g.pcore keepAll) (v.rowsPerQuire g.role)).map fun k => (w, k)
  | _, _ => none

/-- A pending quire is created (R382, R381). -/
def State.createPending (s : State) (gid : Nat) : State :=
  match FMap.find s.gaths gid with
  | none => s
  | some g =>
    match s.pendingPlan gid g, FMap.find s.vols g.vol, s.join gid with
    | some (w, k), some v, some s' =>
      let r := (v.startRegs g.role (LaneSet.below (v.laneCount g.role)) 0).sput 2 w.arg false
      (s'.modGath gid fun g => { g with wanted := g.wanted.drop 1 }).addQuire gid (s.freeIndex g) k w.entry (r.sput 3 (BitVec.ofNat 64 w.from') false)
    | _, _, _ => s

/-- A creation can be made on a physical core now: it comes ahead of new placement there. -/
def State.creationDue (s : State) (p : Nat) : Bool :=
  (s.core p).bins.any (fun b => (s.binPlan p b.2).isSome)
    || (s.onCore p).any fun e => (s.pendingPlan e.1 e.2).isSome || (s.meshPlan e.2).isSome

/-! ### Who waits (R41, R64, R65) -/

/-- A launch waits for a core: accepted, not held by its dependency word (R38), with a gathering still to place. -/
def State.launchWaits (s : State) (v : Volume) : Bool :=
  v.ending == .running && !v.done && decide (v.next < v.spans) && s.live v.ctx
    && !(match FMap.find s.queues (queueKey v.ctx v.queue) with
      | some Q => (match Q.blocked with | some p => p.seq == v.pkt.seq | none => false)
      | none => false)

/-- Waiting launches of a class, in order of acceptance. -/
def State.waiting (s : State) (c : Nat) : List (Nat × Volume) := s.vols.filter fun e => e.2.prio == c && s.launchWaits e.2

def anyCore : Nat → Bool := fun _ => true

/-- The candidate at a place admits the launch's next gathering or span under some part of the work there. -/
def State.fitsAt (s : State) (v : Volume) (keep : Nat → Gathering → Bool) (t : Nat × Nat × Nat) : Bool :=
  (s.tryRect anyCore v.firstNeed (rectangle v.spanWidth v.spanHeight t) { keep := keep, loads := [] }).isSome

/-- Logical cores a waiting launch could use (R41). -/
def State.usable (s : State) (v : Volume) : List Nat :=
  let keep := s.keepClass v.prio
  if v.pkt.coResident then
    match s.planStep anyCore v keep with
    | some r => r.1.flatMap fun x => x.2.map Spot'.core
    | none => []
  else ((candidates v.spanWidth v.spanHeight).filter (s.fitsAt v keep)).flatMap fun t => (rectangle v.spanWidth v.spanHeight t).map fun x => x.2.2

/-- Cores open to class `c`: none that a waiting launch of a lower-numbered class could use, and none where a creation comes first. -/
def State.openTo (s : State) (c : Nat) : Nat → Bool :=
  let taken := (List.range c).flatMap fun b => (s.waiting b).flatMap fun e => s.usable e.2
  fun l => !taken.contains l && !s.creationDue (s.physOf l)

/-! ### Saved units (R463) -/

/-- Rows of each quire of a gathering, in order of index (R60). -/
def State.quireRows (s : State) (g : Gathering) : List Nat :=
  (List.range 16).filterMap fun k => (g.quires.find? fun id => (FMap.find s.quires id).any fun q => q.index == k).bind fun id =>
    (FMap.find s.quires id).map fun q => q.regs.reserve * 16 * s.wordsOf g

def State.assignRows (s : State) (p : Nat) : List Nat → Load → Option (List Nat × Load)
  | [], L => some ([], L)
  | r :: rs, L =>
    match s.partFor p L r with
    | none => none
    | some k => (State.assignRows s p rs (L.addQuire k r)).map fun x => (k :: x.1, x.2)

/-- A saved gathering admitted to a core with the quires it holds. -/
def State.readmit (s : State) (p : Nat) (L : Load) (g : Gathering) : Option (List Nat × Load) :=
  match FMap.find s.vols g.vol with
  | none => none
  | some v =>
    let n := v.need g.role 0
    let slots := L.slots + (if g.retired then 0 else 1)
    if 16 < slots ∨ 512 * 1024 < L.spad + n.spad ∨ 256 < L.handles + n.handles then none
    else s.assignRows p (s.quireRows g) { L with slots := slots, spad := L.spad + n.spad, handles := L.handles + n.handles }

/-- Where a gathering of a saved unit goes: itself, logical and physical core, the partitions of its quires. -/
structure Return' where
  gath  : Nat
  core  : Nat
  pcore : Nat
  parts : List Nat
deriving DecidableEq, Repr

/-- A group of saved gatherings at their span positions, tried on a rectangle. -/
def State.returnRect (s : State) (open' : Nat → Bool) (group : List (Nat × Nat × Nat)) : List (Nat × Nat × Nat) → FMap Load → Option (List Return' × FMap Load)
  | [], a => some ([], a)
  | (i, j, l) :: rest, a =>
    if !s.available l || !open' l then none
    else
      match group.find? fun x => x.1 == i && x.2.1 == j with
      | none => State.returnRect s open' group rest a
      | some (_, _, gid) =>
        match FMap.find s.gaths gid with
        | none => none
        | some g =>
          let p := s.physOf l
          if g.avoid == some (clusterOf p) then none
          else match s.readmit p ((FMap.find a p).getD (s.loadOf p keepAll)) g with
            | none => none
            | some r => (State.returnRect s open' group rest (FMap.insert a p r.2)).map fun x =>
                ({ gath := gid, core := l, pcore := p, parts := r.1 } :: x.1, x.2)

def State.returnGroups (s : State) (open' : Nat → Bool) : List (Nat × Nat × List (Nat × Nat × Nat)) → FMap Load → Option (List Return')
  | [], _ => some []
  | (w, h, group) :: rest, a =>
    match (candidates w h).findSome? fun t => s.returnRect open' group (rectangle w h t) a with
    | none => none
    | some r => (State.returnGroups s open' rest r.2).map fun x => r.1 ++ x

/-- The groups of a unit: its spans, and each gathering that a bin formed, or that stands alone. -/
def State.unitGroups (s : State) (v : Volume) (unit : List Nat) : List (Nat × Nat × List (Nat × Nat × Nat)) :=
  let gs := unit.filterMap fun id => (FMap.find s.gaths id).map fun g => (id, g)
  let alone := fun (e : Nat × Gathering) => !v.pkt.span || e.2.fromBin || e.2.role == .mesh || e.2.role == .pixel
  let w := v.spanWidth
  let h := v.spanHeight
  let keyOf := fun (g : Gathering) => (g.x / w, g.y / h, g.z)
  let spans := ((gs.filter fun e => !alone e).map fun e => keyOf e.2).eraseDups
  (spans.map fun k => (w, h, (gs.filter fun e => !alone e && keyOf e.2 == k).map fun e => (e.2.x % w, e.2.y % h, e.1)))
    ++ (gs.filter alone).map fun e => (1, 1, [(0, 0, e.1)])

/-- The oldest waiting launch of a class before `c` is co-resident: what is freed is held for it (R65). -/
def State.holdsBefore (s : State) (c : Nat) : Bool := (List.range c).any fun b => (s.waiting b).head?.any fun e => e.2.pkt.coResident

/-- The unit of a saved gathering, its class, and where it can be placed again now. -/
def State.returnPlan (s : State) (gid : Nat) : Option (List Return') :=
  match FMap.find s.gaths gid with
  | none => none
  | some g =>
    match FMap.find s.vols g.vol with
    | none => none
    | some v =>
      let unit := s.unitOf gid
      let all := unit.all fun k => match FMap.find s.gaths k with
        | some x => x.saved.isSome
        | none => false
      if !all ∨ !s.live v.ctx ∨ s.holdsBefore v.prio then none else s.returnGroups (s.openTo v.prio) (s.unitGroups v unit) []

/-- A saved unit of class `c` or of one before it can be placed again. -/
def State.returnDue (s : State) (c : Nat) : Bool :=
  s.gaths.any fun e => e.2.saved.isSome && (match FMap.find s.vols e.2.vol with
    | some v => decide (v.prio ≤ c)
    | none => false) && (s.returnPlan e.1).isSome

/-! ### Placing a launch's next gathering (R41, R63–R65) -/

/-- What a class comes to: a launch is placed, everything behind is held back (R65), or nothing of the class can be placed. -/
inductive Placed where
  | done (s : State)
  | held
  | nothing

/-- Every entry of a render launch's tile memory is all ones (R311, R323). -/
def State.clearTiles (s : State) (c : Context) (t : Target) : State :=
  { s with mem := (List.range (t.tilesX * t.tilesY)).foldl (fun m n =>
      m.writeClean (dspadKey (n % 4) (c.windowBase + t.tileOff + 8192 * (n / 4))) (List.replicate 8192 0xFF)) s.mem }

/-- Tile memory is made ready before the first gathering of a render launch is placed. -/
def State.prepareTiles (s : State) (v : Volume) : State :=
  match v.render, FMap.find s.ctxs v.ctx with
  | some r, some c => if v.next = 0 then s.clearTiles c r.target else s
  | _, _ => s

/-- The launches of a class in order; the oldest holds what is freed when it is co-resident. -/
def State.placeFirst (s : State) (open' : Nat → Bool) : Bool → List (Nat × Volume) → Placed
  | _, [] => .nothing
  | oldest, (vid, v) :: rest =>
    match s.planStep open' v keepAll with
    | some r => .done ((r.1.foldl (fun s x => s.putSpan vid v x.1 x.2) (s.prepareTiles v)).modVol vid fun w => { w with next := v.next + v.stepSpans })
    | none => if oldest && v.pkt.coResident then .held else State.placeFirst s open' false rest

/-- Classes from `c` on, `n` of them. -/
def State.placeClasses (s : State) : Nat → Nat → Option State
  | 0, _ => none
  | n + 1, c =>
    if (s.waiting c).isEmpty then State.placeClasses s n (c + 1)
    else if s.returnDue c then none
    else match s.placeFirst (s.openTo c) true (s.waiting c) with
      | .done s => some s
      | .held => none
      | .nothing => State.placeClasses s n (c + 1)

/-! ### Asking for pre-emption (R42) -/

/-- A hold-off stands for a gathering (R462). -/
def State.heldOff (s : State) (g : Gathering) : Bool := match g.holdoff with
  | some t => decide (s.ns < t + 1000000)
  | none => false

/-- Work of class 2 or 3 on some cores: class 3 first, the most recently placed first. -/
def State.victims (s : State) (cores : List Nat) : List Nat :=
  let on := fun c => s.gaths.filter fun e => cores.contains e.2.pcore && e.2.saved.isNone && !e.2.retired && (match FMap.find s.vols e.2.vol with
    | some v => v.prio == c
    | none => false)
  let late := fun (l : List (Nat × Gathering)) => l.foldl (fun (acc : List (Nat × Gathering)) e =>
    (acc.takeWhile fun x => decide (e.2.placed < x.2.placed)) ++ e :: acc.dropWhile fun x => decide (e.2.placed < x.2.placed)) []
  (late (on 3) ++ late (on 2)).map Prod.fst

/-- Units are asked one after another until what has been asked would free enough. -/
def State.askUnits (fits : State → Bool) : List Nat → State → State
  | [], s => s
  | g :: rest, s =>
    if fits s then s
    else
      let skip := match FMap.find s.gaths g with
        | some x => x.asked.isSome || s.heldOff x
        | none => true
      State.askUnits fits rest (if skip then s else s.requestPreemption g none)

/-- The candidate a waiting launch of class 0 or 1 could use, where work of class 2 or 3 stands in the way: its physical cores, and whether
it would be admitted without the units asked so far. -/
def State.askTarget (s : State) (v : Volume) : Option (List Nat × (State → Bool)) :=
  let spared := fun (_ : Nat) (g : Gathering) => g.asked.isNone
  if v.pkt.coResident then
    if (s.planStep anyCore v (s.keepClass v.prio)).isNone ∨ (s.planStep anyCore v keepAll).isSome then none
    else (s.planStep anyCore v (s.keepClass 1)).map fun r =>
      ((r.1.flatMap fun x => x.2.map Spot'.pcore), fun s => (s.planStep anyCore v spared).isSome)
  else
    ((candidates v.spanWidth v.spanHeight).find? fun t => s.fitsAt v (s.keepClass v.prio) t && !s.fitsAt v keepAll t && s.fitsAt v (s.keepClass 1) t).map fun t =>
      ((rectangle v.spanWidth v.spanHeight t).map fun x => s.physOf x.2.2, fun s => s.fitsAt v spared t)

def State.askFor (s : State) (v : Volume) : State :=
  match s.askTarget v with
  | none => s
  | some (cores, fits) => State.askUnits fits (s.victims cores) s

/-- The scheduler asks for every waiting launch of class 0 and 1. -/
def State.askAll (s : State) : State := (s.waiting 0 ++ s.waiting 1).foldl (fun s e => s.askFor e.2) s

/-- A placement decision (R63): the next gathering or span that can be placed is; where none can, pre-emption is asked (R42). -/
def State.placeNext (s : State) : State :=
  match s.placeClasses 4 0 with
  | some s => s
  | none => s.askAll

/-! ### sr.shrink (R384) -/

def Load.without (L : Load) (k rows : Nat) : Load :=
  { L with quires := L.quires.set k (L.quires.getD k 0 - 1), rows := L.rows.set k (L.rows.getD k 0 - rows) }

/-- The retirement of quire `q` of a gathering would let something on its core proceed that waits now. -/
def State.wouldFree (s : State) (g : Gathering) (prio : Nat) (q : Quire) : Bool :=
  let p := g.pcore
  let L := s.loadOf p keepAll
  let rows := (q.regs.reserve + q.regs.surrendered) * 16 * s.wordsOf g
  let L' := L.without q.part rows
  let launch := (List.range (prio + 1)).any fun c => (s.waiting c).any fun e => (s.placeOn p L e.2.firstNeed).isNone && (s.placeOn p L' e.2.firstNeed).isSome
  let bin := (s.core p).bins.any fun b => b.2.full && (match FMap.find s.vols b.2.vol with
    | some v =>
      let r := v.rowsPerQuire b.2.role
      (s.partFor p L r).isNone && decide (r ≤ s.freeRows p L' q.part) && s.freeSlots p L' q.part != 0
    | none => false)
  let claim := (s.onPart p q.part).any fun x => match x.2.wait, FMap.find s.gaths x.2.gath with
    | .stall (.claim n _), some h => decide (s.poolRows p q.part < n * 16 * s.wordsOf h ∧ n * 16 * s.wordsOf h ≤ s.poolRows p q.part + rows)
    | _, _ => false
  launch || bin || claim

def State.shrinks (s : State) (g : Gathering) : Bool :=
  !g.retired && g.saved.isNone && decide (g.minQuires < g.quires.length) && (match FMap.find s.vols g.vol with
    | some v => g.quires.any fun id => match FMap.find s.quires id with
      | some q => s.wouldFree g v.prio q
      | none => false
    | none => false)

/-- Every gathering's sr.shrink as the waits on its core stand (R384). -/
def State.reshrink (s : State) : State := { s with gaths := s.gaths.map fun e => (e.1, { e.2 with shrink := s.shrinks e.2 }) }

/-! ### Events -/

/-- GATHERING_PLACEMENT (R63). -/
def execGatheringPlacement (s : State) : Out := .next s.placeNext
/-- BIN_QUIRE_PLACEMENT (R67). -/
def execBinQuirePlacement (core bin : Nat) (s : State) : Out := .next (s.placeBin core bin)
/-- BIN_TIMER_EXPIRY (R386). -/
def execBinTimerExpiry (core bin : Nat) (s : State) : Out := .next (s.expireBin core bin)
/-- MESH_GATHERING_PLACEMENT (R317). -/
def execMeshGatheringPlacement (gath : Nat) (s : State) : Out := .next (s.placeMesh gath)
/-- PENDING_QUIRE_CREATION (R382). -/
def execPendingQuireCreation (gath : Nat) (s : State) : Out := .next (s.createPending gath)

end Sys2Proof.Machine
end

