-- ==== Sys2Proof/Machine/Pixels.lean ====
section
/-! DEFINITION. The raster units between MDONE and the pixel kernel (R311, R321–R324): resolving primitives to tile memory, finality, the
clear writes, and the pixels' lanes entering bins. -/
namespace Sys2Proof.Machine

/-- The spawn core of tile `n` (R311), as a logical core: on its home die from the tile's own index on, else on the next die that has one. -/
def State.spawnCore (s : State) (t : Target) (n : Nat) : Nat :=
  let at' := fun (d i : Nat) => logicalAt d (i % 8) (i / 8)
  let first := (n % t.tilesX + 5 * (n / t.tilesX)) % 96
  let home := (List.range 96).map fun k => at' (n % 4) ((first + k) % 96)
  let rest := [1, 2, 3].flatMap fun k => (List.range 96).map fun i => at' ((n + k) % 4) i
  ((home ++ rest).find? s.available).getD (at' (n % 4) first)

/-- The pixel at a place in tile order (R324): tile, then row, then column. -/
def Target.pixelAt (t : Target) (c : Nat) : Nat × Nat :=
  let n := c / 1024
  (32 * (n % t.tilesX) + c % 32, 32 * (n / t.tilesX) + c / 32 % 32)

/-- Places of a target's tiles. -/
def Target.places (t : Target) : Nat := 1024 * t.tilesX * t.tilesY

/-- The visibility word of a pixel as it stands. -/
def State.visAt (s : State) (c : Context) (t : Target) (p : Nat × Nat) : Nat := (s.homeNum (pixelKey c t p.1 p.2) 8).1

/-- One covered pixel of a kept primitive is resolved: the least word stays (R323). A primitive with none left is done with. -/
def State.resolvePixel (s : State) (vid serial : Nat) : State :=
  match FMap.find s.vols vid with
  | none => s
  | some v =>
    match v.render, FMap.find s.ctxs v.ctx with
    | some r, some c =>
      match r.work.find? fun w => w.serial == serial && c.resident with
      | none => s
      | some w =>
        let t := r.target
        let all := t.width * t.height
        let move := fun (n : Nat) (s : State) => s.modVol vid fun v => { v with render := v.render.map fun r =>
          { r with work := r.work.map fun x => if x.serial = serial then { x with cursor := n } else x } }
        match nextCovered t (recVertices w.record) (all - w.cursor) w.cursor with
        | none => move all s
        | some (p, d) =>
          let k := pixelKey c t (p % t.width) (p / t.width)
          let old := s.homeNum k 8
          let new := visWord d (recNum w.record 4 4) serial
          move (p + 1) (old.2.putMarked k 8 (min old.1 new) (old.2.mem.anyBad k 8))
    | _, _ => s

/-- The raster units hold no work of the launch, and its task and mesh gatherings have retired (R324). -/
def State.tilesDone (s : State) (vid : Nat) (v : Volume) (r : Render) : Bool :=
  v.ending == .running && decide (v.spans ≤ v.next) && !(s.gaths.any fun e => e.2.vol == vid && (!e.2.retired || e.2.owes)) && !s.binsOf vid
    && r.work.all fun w => w.written && decide (r.target.width * r.target.height ≤ w.cursor)

/-- Pixels of the target whose word is all ones, in tile order. -/
def State.emptyPixels (s : State) (c : Context) (t : Target) : List Nat :=
  (List.range t.places).filter fun k => t.holds (t.pixelAt k) && s.visAt c t (t.pixelAt k) == noPixel

/-- The tiles become final (R324). -/
def State.makeFinal (s : State) (vid : Nat) (c : Context) (r : Render) : State :=
  let t := r.target
  s.modVol vid fun v => { v with render := some { r with
    final := true, cores := (List.range (t.tilesX * t.tilesY)).map fun n => s.physOf (s.spawnCore t n),
    clears := if t.flags.testBit 2 then s.emptyPixels c t else [] } }

/-- A clear write of the launch waits on a fault entry. -/
def Context.clearsFault (c : Context) (vid : Nat) : Bool := c.faults.any fun f => f.2.waiters.contains (.clears vid)

/-- The next clear write (R324): the clear colour, converted as a pixel's is. -/
def State.clearPixel (s : State) (vid : Nat) (v : Volume) (c : Context) (r : Render) : State :=
  match r.clears with
  | [] => s
  | k :: rest =>
    if c.clearsFault vid then s
    else
      let t := r.target
      let p := t.pixelAt k
      let core := r.cores.getD (k / 1024) 0
      match State.engineSpots (dieOfCore core) vid v.ctx c.root [t.pixelVa p.1 p.2] s with
      | (.error f, s) => (s.addFault v.ctx f v.pkt.seq (s.logicalOf core) (.clears vid)).2
      | (.ok l, s) => (s.engineWrite (l.headD 0) ((t.texel (t.clear.map BitVec.toNat)).map fun b => (b, false))).modVol vid fun v =>
          { v with render := v.render.map fun r => { r with clears := rest } }

/-- The next place from `c` on whose pixel a primitive covers, and its word; `n` bounds the places looked at. -/
def State.nextPixel (s : State) (c : Context) (t : Target) : Nat → Nat → Option (Nat × Nat)
  | 0, _ => none
  | n + 1, k =>
    let w := if t.holds (t.pixelAt k) then s.visAt c t (t.pixelAt k) else noPixel
    if w = noPixel then State.nextPixel s c t n (k + 1) else some (k, w)

/-- The next covered pixel's lane enters a bin of its tile's spawn core (R324), where one is to be had. -/
def State.spawnPixel (s : State) (vid : Nat) (v : Volume) (c : Context) (r : Render) : State :=
  let t := r.target
  let at' := fun (n : Nat) (s : State) => s.modVol vid fun v => { v with render := v.render.map fun r => { r with spawnCursor := n } }
  match s.nextPixel c t (t.places - r.spawnCursor) r.spawnCursor with
  | none => at' t.places s
  | some (k, w) =>
    let p := t.pixelAt k
    let key := match r.work.find? fun x => x.serial == w % 2 ^ 20 with
      | some x => recNum x.record 0 2
      | none => 0
    let core := r.cores.getD (k / 1024) 0
    let lane : BinLane := { payload := [(BitVec.ofNat 32 (p.1 + p.2 * 2 ^ 16), false), (BitVec.ofNat 32 key, false)], quire := 0, gath := 0, x := 0, y := 0, z := 0,
                            role := .pixel }
    let bin : Bin := { vol := vid, entry := r.pixel.entry, key := key, join := false, lanes := [], full := false, opened := s.ns }
    match s.enterBin core bin (v.laneCount .pixel) lane with
    | none => s
    | some s => at' (k + 1) s

/-- TILE_FINALITY at a launch: its tiles become final, and then, one by one, clear writes are made and pixels enter bins. -/
def State.finality (s : State) (vid : Nat) : State :=
  match FMap.find s.vols vid with
  | none => s
  | some v =>
    match v.render, FMap.find s.ctxs v.ctx with
    | some r, some c =>
      if v.ending != .running || !s.live v.ctx then s
      else if !r.final then if s.tilesDone vid v r then s.makeFinal vid c r else s
      else (s.clearPixel vid v c r).spawnPixel vid v c r
    | _, _ => s

/-- VISIBILITY_RESOLVE (R323). -/
def execVisibilityResolve (vol k : Nat) (s : State) : Out := .next (s.resolvePixel vol k)
/-- TILE_FINALITY (R324). -/
def execTileFinality (vol : Nat) (s : State) : Out := .next (s.finality vol)

end Sys2Proof.Machine
end

