-- ==== Sys2Proof/Machine/Preempt.lean ====
section
/-! DEFINITION. Pre-emption and context switch (R455–R465): save points, the save of a unit and its return, contexts switched in and out. -/
namespace Sys2Proof.Machine

/-! ### Save points (R456) -/

/-- A quire that waits parked (R372) or stalled (R119). -/
def Wait.idle : Wait → Bool
  | .none => false
  | .reply _ => false
  | _ => true

/-- A quire of a unit asked for is to be rolled back to its save point now (R456). -/
def State.pointDue (s : State) (e : Env) : Bool :=
  match e.g.asked with
  | none => false
  | some t => e.q.save == .running && (e.q.grp.isNone || e.q.wait.idle || e.q.stopped)
      && (e.q.wait.idle || e.handlerMode || e.q.stopped || decide (t + 100000 ≤ s.ns))

def State.reachPoint (s : State) (id : Nat) : State :=
  s.forQuire id fun e => if s.pointDue e then (s.rollback id).modQuire id fun q => { q with save := .atPoint } else s

/-! ### When a unit can be saved (R460, R461) -/

/-- A started transfer of the unit that the save waits for: every kind but a collective. -/
def Transfer.holdsSave (x : Transfer) : Bool := x.started && (match x.kind with | .coll _ => false | _ => true)

/-- Results still owed to a quire; a tree instruction all of whose lanes left wait on a fault entry owes none (R402). -/
def State.resultsDue (s : State) (id : Nat) (q : Quire) : Bool :=
  q.pend.any (fun p => p.kind != .tree || p.ready || s.treqs.any fun r => r.ins == p.req && r.faulted.isNone) || s.mjobs.any fun j => j.quire == id

/-- Atomics on their way from or to the unit. -/
def State.atomicsDue (s : State) (unit : List Nat) : Bool :=
  s.asq.any fun r => (match r.quire with
      | some q => (match FMap.find s.quires q with | some x => unit.contains x.gath | none => false)
      | none => false) || r.lanes.any fun x => match x.portion with | some g => unit.contains g | none => false

/-- The binning units and resolvers hold a primitive of the unit. One whose record is not written has not come to them. -/
def State.primitivesDue (s : State) (unit : List Nat) (vid : Nat) : Bool :=
  match (FMap.find s.vols vid).bind Volume.render with
  | none => false
  | some r => r.work.any fun w => unit.contains w.gath && w.written && decide (w.cursor < r.target.width * r.target.height)

/-- Gatherings of a unit that still hold a core: one that a bin forms may join a unit already saved (R67). -/
def State.unsaved (s : State) (unit : List Nat) : List Nat := unit.filter fun k => (FMap.find s.gaths k).any fun g => g.saved.isNone

/-- Every quire of the unit stands at its save point and everything owed to it has landed (R460). -/
def State.drained (s : State) (unit : List Nat) : Bool :=
  !(s.unsaved unit).isEmpty && (s.unsaved unit).all (fun gid => match FMap.find s.gaths gid with
    | none => false
    | some g => g.asked.isSome && !s.primitivesDue unit g.vol && g.quires.all fun id => match FMap.find s.quires id with
      | none => false
      | some q => q.save == .atPoint && !s.resultsDue id q)
    && !(s.xfers.any fun e => unit.contains e.2.gath && e.2.holdsSave) && !s.atomicsDue unit

/-- The release of the unit's cores (R461): their stores reach their homes; it is complete when every one is acknowledged. -/
def State.releaseCores (s : State) (cores : List Nat) : State := cores.foldl State.drainCore s
def State.releasedAll (s : State) (cores : List Nat) : Bool :=
  cores.all fun c => (s.core c).quiet && (outStores (s.core c).out).isEmpty

/-! ### What a save holds (R457–R459, R462) -/

/-- A quire as its save holds it (R457): its checkpoint, without lines, dead names or their rows; latches stand by their register copies (R92). -/
def Quire.pack (q : Quire) : Quire :=
  let r := q.ckpt.regs.killDead q.ckpt.live
  let rows := unmapRows q.fresh (q.spilled ++ q.rows)
  { q with regs := r, ckpt := { q.ckpt with regs := r }, snap := none, grp := none, pc := q.ckpt.pc, npc := q.ckpt.pc, selfPc := q.ckpt.pc,
           checked := false, latches := switched q.ckpt.latches, line := none, sealing := none, refetch := none,
           groupNo := q.ckpt.groupNo, resumed := none, store := [], spadEntries := 0,
           queries := q.ckpt.queries, heldSlots := 0, passed := 0, promoted := none, sweep := none, oldLane := none, spilled := [], refilled := [], rows := rows.filter (liveRow q.ckpt.live), fresh := [], claimed := 0, keepB := false, recordLive := true,
           save := .saved }

/-- Offset `o` of a gathering's portion is saved (R458, R459): in the range of a quire's current entry or in the tile range, in a word that a
barrier operation marked, in a ring buffer; the whole portion while a quire cites no entry. -/
def State.keepsByte (s : State) (g : Gathering) (o : Nat) : Bool :=
  let qs := g.quires.filterMap fun id => FMap.find s.quires id
  let inside := fun (r : Nat × Nat) => decide (r.1 ≤ o ∧ o < r.1 + r.2)
  qs.any (fun q => q.ckpt.live.isNone) || qs.any (fun q => (FMap.find g.ranges q.index).any inside) || g.tile.any inside
    || g.marked.contains (spadKey g.pcore (g.base + o / 8 * 8)) || decide (g.size ≤ o)

def State.savedBytes (s : State) (g : Gathering) : List SavedByte :=
  ((List.range g.portion).filter (s.keepsByte g)).map fun o =>
    let k := spadKey g.pcore (g.base + o)
    { off := o, byte := s.mem.byte k, bad := s.mem.bad k }

/-- Scalars that a liveness entry's mask names. -/
def maskCount (m : Nat) : Nat := ((List.range 128).filter m.testBit).length

/-- Bytes a save takes in the pool: the most R462 allows. -/
def State.saveSize (s : State) (g : Gathering) (bytes : Nat) : Nat :=
  let words := s.wordsOf g
  let names := match FMap.find s.vols g.vol with | some v => 16 * v.pkt.alloc | none => 0
  4096 + bytes + (g.quires.filterMap fun id => FMap.find s.quires id).foldl (fun n q =>
    n + 512 + 512 * q.ckpt.queries.length + (match q.ckpt.live with
      | some (_, count, mask) => 128 * words * count + 8 * maskCount mask
      | none => 128 * words * names + 8 * 127)) 0

/-- A batch that leaf appends are filling ends as if its timer had run out (R408). -/
def Gathering.endBatches (g : Gathering) : Gathering :=
  { g.batches.foldl (fun g b => g.setHandle b.1 { g.handle b.1 with state := .full }) g with batches := [] }

/-- Bins of the launch on the gathering's core go with the last gathering of the launch there (R458). -/
def State.takeBins (s : State) (gid : Nat) (g : Gathering) : State :=
  if s.gaths.any fun e => e.1 != gid && e.2.vol == g.vol && e.2.pcore == g.pcore && !e.2.retired && e.2.saved.isNone then s
  else
    let mine := (s.core g.pcore).bins.filter fun b => b.2.vol == g.vol
    (s.modCore g.pcore fun c => { c with bins := c.bins.filter fun b => b.2.vol != g.vol }).modGath gid fun x =>
      { x with bins := mine.map fun b => { b.2 with opened := s.ns - b.2.opened } }

/-- Stretches of a context's save pool in use: its saved gatherings', until they return or end, and its windows' (R462, R465). -/
def State.poolUses (s : State) (cid : Nat) (c : Context) : List (Nat × Nat) :=
  (s.gaths.filterMap fun e => if (FMap.find s.vols e.2.vol).any (fun v => v.ctx == cid) && (!e.2.retired || e.2.owes) then
    e.2.saved.map fun x => (x.off, x.size) else none) ++ c.windowSave.toList
def State.poolUsed (s : State) (cid : Nat) (c : Context) : Nat := (s.poolUses cid c).foldl (fun n x => n + x.2) 0
/-- Where a save of a size goes: the first stretch of the pool that is free (log entry 124). -/
def State.poolPlace (s : State) (cid : Nat) (c : Context) (size : Nat) : Nat :=
  let used := s.poolUses cid c
  ((0 :: used.map fun x => x.1 + x.2).find? fun o => decide (o + size ≤ c.save.2) && !used.any fun x => runsMeet o size x.1 x.2).getD 0

/-- The save engine of a die writes a stretch of a context's save pool through the L2 (R460): what its bytes are is the J384's own. A page that is not
mapped writable holds none of them. -/
def State.writePool (s : State) (die cid off size : Nat) : State :=
  match FMap.find s.ctxs cid with
  | none => s
  | some c =>
    (List.range ((off % 4096 + size + 4095) / 4096)).foldl (fun s k =>
      let lo := max off (off / 4096 * 4096 + 4096 * k)
      let hi := min (off + size) (off / 4096 * 4096 + 4096 * (k + 1))
      match s.translate die cid c.root (c.save.1 + lo) .ewrite with
      | (.error _, s) => s
      | (.ok x, s) => if paKind x.pa = .peer then s else (s.putHome x.pa (leBytes (hi - lo) (Config.free .spill s.tick))).bump) s

/-- One gathering's save is written. -/
def State.saveGath (s : State) (cid gid : Nat) : State :=
  match FMap.find s.gaths gid, FMap.find s.ctxs cid with
  | some g, some c =>
    let bytes := s.savedBytes g
    let size := s.saveSize g bytes.length
    let off := s.poolPlace cid c size
    let s := (s.setGath gid { g.endBatches with saved := some { bytes := bytes, off := off, size := size } }).takeBins gid g
    (g.quires.foldl (fun s id => s.modQuire id Quire.pack) s).writePool (dieOfCore g.pcore) cid off size
  | _, _ => s

/-- The request for a unit is withdrawn (R462): its quires go on, and the scheduler asks no more for 1 ms. A cluster it is to leave stays named. -/
def State.withdraw (s : State) (unit : List Nat) : State :=
  unit.foldl (fun s gid => match FMap.find s.gaths gid with
    | none => s
    | some g => g.quires.foldl (fun s id => s.modQuire id fun q => { q with save := .running })
        (s.setGath gid { g with asked := none, holdoff := some s.ns })) s

/-- The save of the unit of a gathering (R460–R462). -/
def State.saveUnit (s : State) (gid : Nat) : State :=
  let unit := s.unitOf gid
  if !s.drained unit then s
  else
    let unit := s.unsaved unit
    let gs := unit.filterMap fun k => FMap.find s.gaths k
    let s := s.releaseCores (gs.map Gathering.pcore)
    if !s.releasedAll (gs.map Gathering.pcore) then s
    else
      match gs.head?.bind fun g => FMap.find s.vols g.vol with
      | none => s
      | some v =>
        let size := gs.foldl (fun n g => n + s.saveSize g (s.savedBytes g).length) 0
        let room := match FMap.find s.ctxs v.ctx with | some c => c.save.2 - s.poolUsed v.ctx c | none => 0
        if room < size then s.withdraw unit else unit.foldl (fun s k => s.saveGath v.ctx k) s

/-! ### The return of a unit (R463) -/

/-- Bytes outside what a save holds read as they happen to after a restore (R458). -/
def unsavedByte (tick off : Nat) : W8 := BitVec.ofNat 8 (Config.free .unsaved tick / 256 ^ off)

/-- The portion of a gathering at its new place. -/
def State.fillPortion (s : State) (pcore base size : Nat) (l : List SavedByte) : State :=
  let at' := fun o => spadKey pcore (base + o)
  let mem := (List.range size).foldl (fun (m : Memory) o => m.setByte (at' o) (unsavedByte s.tick o)) (s.mem.clear (at' 0) size)
  let mem := l.foldl (fun (m : Memory) b => (m.setByte (at' b.off) b.byte).setBad (at' b.off) (b.bad || m.bad (at' b.off))) mem
  { s.bump with mem := mem }

/-- Where the portions of a unit stood and stand: old start, size, new start. -/
abbrev Moves := List (Nat × Nat × Nat)
def Moves.key (l : Moves) (k : Nat) : Nat := match l.find? fun m => decide (m.1 ≤ k ∧ k < m.1 + m.2.1) with
  | some m => m.2.2 + (k - m.1)
  | none => k

/-- The quires of a gathering in the order of their indices. -/
def State.byIndex (s : State) (g : Gathering) : List Nat :=
  (List.range 16).filterMap fun k => g.quires.find? fun id => (FMap.find s.quires id).any fun q => q.index == k

/-- A quire goes on from its restart PC on another partition. -/
def State.returnQuire (s : State) (p : Nat) (x : Nat × Nat) : State :=
  let slot := s.freeQuireSlot p x.2
  s.modQuire x.1 fun q => { q with part := x.2, slot := slot, age := s.clock, save := .running }

/-- One gathering of a unit comes to its new place. -/
def State.returnGath (s : State) (r : Return') : State × Moves :=
  match FMap.find s.gaths r.gath with
  | none => (s, [])
  | some g =>
    let size := g.portion
    let base := s.freeStretch r.pcore
    let slot := s.freeGathSlot r.pcore
    let s := s.fillPortion r.pcore base size (g.saved.elim [] GathSave.bytes)
    let id := s.fresh
    let s := id.2.setGath r.gath { g with core := r.core, pcore := r.pcore, slot := slot, base := base, saved := none, asked := none, avoid := none,
                                          holdoff := none, shrink := false, bins := [], placed := id.1 }
    let s := ((s.byIndex g).zip r.parts).foldl (fun s x => s.returnQuire r.pcore x) s
    let s := s.acquire r.pcore .dev
    let s := g.bins.foldl (fun s b => s.modCore r.pcore fun c => match freeBin c.bins with
      | some n => { c with bins := FMap.insert c.bins n { b with opened := s.ns - b.opened } }
      | none => c) s
    (s, [(spadKey g.pcore g.base, size, spadKey r.pcore base)])

/-- Barrier words of the unit's portions are known by their new keys. -/
def State.rekey (s : State) (unit : List Nat) (m : Moves) : State :=
  unit.foldl (fun s gid => match FMap.find s.gaths gid with
    | none => s
    | some g => g.quires.foldl (fun s id => s.modQuire id fun q => { q with arrived := q.arrived.foldl (fun a e => FMap.insert a (m.key e.1) e.2) [] })
        (s.setGath gid { g with tracked := g.tracked.map m.key, marked := (g.marked.map m.key).foldl setIns [] })) s

/-- Cores that lack traversal slots (R331) or bins for what lands on them. -/
def State.lacksRoom (s : State) (plan : List Return') : Bool :=
  plan.any fun r =>
    let here := plan.filter fun x => x.pcore == r.pcore
    let gs := here.filterMap fun x => FMap.find s.gaths x.gath
    let queries := gs.foldl (fun n g => n + (g.quires.filterMap fun id => FMap.find s.quires id).foldl (fun n q => n + q.queries.length) 0) 0
    let bins := gs.foldl (fun n g => n + g.bins.length) 0
    decide (2048 < s.querySlots r.pcore + queries) || decide (32 < (s.core r.pcore).bins.length + bins)

/-- A saved unit is placed again (R463). -/
def State.returnUnit (s : State) (gid : Nat) : State :=
  match s.returnPlan gid with
  | some plan =>
    if s.lacksRoom plan then s
    else
      let r := plan.foldl (fun (a : State × Moves) x => let b := a.1.returnGath x; (b.1, a.2 ++ b.2)) (s, [])
      r.1.rekey (plan.map Return'.gath) r.2
  | none => s

/-! ### Contexts (R464, R465) -/

/-- A queue's tail as it stands at its home now, where it is mapped. -/
def State.tailNow (s : State) (c : Context) (Q : Queue) : Option Nat :=
  match walk s.mem c.root (Q.tailVa % 2 ^ 57) with
  | .leaf l => some (s.mem.num (l.frame + Q.tailVa % 2 ^ 12) 4)
  | .fault _ _ _ => none

/-- Queues of a context with a packet that may be accepted, as far as is known or stands in its tail. -/
def State.wantsAccept (s : State) (cid : Nat) (c : Context) : List Queue :=
  (s.queues.filter fun e => e.1 / 4096 == cid && (e.2.mayAccept || (e.2.state == .running && (s.tailNow c e.2).any fun t => t != e.2.submitted))).map Prod.snd

/-- The best class of a context's work, running or waiting; 4 for none. -/
def State.bestClass (s : State) (cid : Nat) : Nat :=
  let work := (s.vols.filter fun v => v.2.ctx == cid && !v.2.done).map fun v => v.2.prio
  let more := match FMap.find s.ctxs cid with
    | some c => (s.wantsAccept cid c).map Queue.ceiling
    | none => []
  (work ++ more).foldl min 4

/-- No gathering of a context is resident and no packet of it can be accepted. -/
def State.idleCtx (s : State) (cid : Nat) (c : Context) : Bool :=
  (s.wantsAccept cid c).isEmpty && !(s.gaths.any fun g => !g.2.retired && g.2.saved.isNone && (match FMap.find s.vols g.2.vol with
    | some v => v.ctx == cid
    | none => false))

def leastOf {α : Type} (f : α → Nat) : List α → Option α
  | [] => none
  | a :: l => match leastOf f l with
    | none => some a
    | some b => if f a ≤ f b then some a else some b

/-- The context to be switched out for a candidate (R464), if one is: `late` once the candidate has waited 10 ms. -/
def State.switchVictim (s : State) (cid : Nat) (late : Bool) : Option Nat :=
  let res := s.ctxs.filter fun e => e.2.resident
  let mine := s.bestClass cid
  match leastOf (fun e => e.2.busyAt) (res.filter fun e => s.idleCtx e.1 e.2) with
  | some e => some e.1
  | none =>
    let worse := res.filter fun e => decide (mine < s.bestClass e.1)
    let top := worse.foldl (fun n e => max n (s.bestClass e.1)) 0
    match leastOf (fun e => e.2.residentSince) (worse.filter fun e => s.bestClass e.1 == top) with
    | some e => some e.1
    | none => if late then (leastOf (fun e => e.2.residentSince) (res.filter fun e => s.bestClass e.1 == mine)).map Prod.fst else none

/-- Gatherings of a context that hold a core. -/
def State.residentGaths (s : State) (cid : Nat) : List Nat :=
  (s.gaths.filter fun g => !g.2.retired && g.2.saved.isNone && (match FMap.find s.vols g.2.vol with
    | some v => v.ctx == cid
    | none => false)).map Prod.fst

/-- A switch-out begins, or asks again for a unit whose request was withdrawn and whose hold-off has ended (R465, R462). -/
def State.leaveBegin (s : State) (cid : Nat) : State :=
  (s.residentGaths cid).foldl (fun s g => match FMap.find s.gaths g with
    | some x => if x.asked.isNone && !s.heldOff x then s.requestPreemption g none else s
    | none => s) (s.modCtx cid fun c => { c with leaving := true })

/-- Keys of a context's windows on the four dies (R227). -/
def Context.ownsKey (c : Context) (k : Nat) : Bool :=
  (List.range 4).any fun d => decide (dspadKey d c.windowBase ≤ k ∧ k < dspadKey d c.windowBase + c.windowLen)

/-- What a memory holds at the keys that `p` picks. -/
def Memory.only (m : Memory) (p : Nat → Bool) : Memory := { cells := m.cells.filter fun x => p x.1, marks := m.marks.filter fun w => p (4 * w) }

/-- A context whose units are all saved and whose transfers have ended leaves its slot (R465), once every store to its windows has reached them. -/
def State.leaveEnd (s : State) (cid : Nat) : State :=
  match FMap.find s.ctxs cid with
  | none => s
  | some c =>
    if !c.leaving ∨ !(s.residentGaths cid).isEmpty ∨ s.xfers.any fun x => x.2.ctx == cid && x.2.holdsSave then s
    else
      let s := s.cores.foldl (fun s e => s.recallCore e.1 fun r => c.ownsKey r.key) s
      if s.cores.any fun e => (outStores e.2.out).any fun r => c.ownsKey r.key then s
      else
        let off := s.poolPlace cid c (4 * c.windowLen)
        let s := (s.setCtx cid { c with leaving := false, resident := false, windows := s.mem.only c.ownsKey,
                                        windowSave := some (off, 4 * c.windowLen) }).writePool 0 cid off (min (4 * c.windowLen) (c.save.2 - off))
        { s with tlb := s.tlb.filter fun t => t.ctx != cid }

/-- The modes of R4 that take effect at switch-in, as the context record states them then; one out of range keeps its setting. -/
def Context.readModes (c : Context) (m : Memory) : Context :=
  let t := m.num (c.record + 28) 4
  { c with watchdog := (m.byte (c.record + 26)).getLsbD 2, extTimeout := if t ≤ 60000 then t else c.extTimeout }

/-- A candidate takes a slot: its windows come back first (R465). -/
def State.enterSlot (s : State) (cid : Nat) (c : Context) : State :=
  let mem := s.mem.only fun k => !c.ownsKey k
  let mem := c.windows.marks.foldl (fun m w => m.setBad (4 * w) true) (c.windows.cells.foldl (fun m x => m.setByte x.1 x.2) mem)
  ({ s with mem := mem } : State).setCtx cid { c.readModes mem with resident := true, residentSince := s.ns, candidate := none, windows := Memory.empty, windowSave := none, busyAt := s.ns, stuck := 0 }

def State.residents (s : State) : Nat := (s.ctxs.filter fun e => e.2.resident).length

/-- A candidate is switched in when a slot is free; otherwise one context is on its way out for it (R464). -/
def State.switchIn (s : State) (cid : Nat) (late : Bool) : State :=
  match FMap.find s.ctxs cid with
  | none => s
  | some c =>
    if c.resident ∨ c.candidate.isNone then s
    else
      let s := (s.ctxs.filter fun e => e.2.leaving).foldl (fun s e => (s.leaveBegin e.1).leaveEnd e.1) s
      if s.residents < 64 then s.enterSlot cid c
      else if s.ctxs.any fun e => e.2.leaving then s
      else match s.switchVictim cid late with
        | none => s
        | some v => (s.leaveBegin v).leaveEnd v

def State.candidateLate (s : State) (cid : Nat) : Bool := match (FMap.find s.ctxs cid).bind Context.candidate with
  | some t => decide (t + 10000000 ≤ s.ns)
  | none => false

/-! ### Events -/

/-- PREEMPTION_TIMEOUT (R456). -/
def execPreemptionTimeout (quire : Nat) (s : State) : Out := .next (s.reachPoint quire)
/-- UNIT_SAVE (R460). -/
def execUnitSave (gath : Nat) (s : State) : Out := .next (s.saveUnit gath)
/-- UNIT_RESTORE (R463). -/
def execUnitRestore (gath : Nat) (s : State) : Out := .next (s.returnUnit gath)
/-- A hold-off ends (R462). A gathering that is still to leave its cluster, for a retired core or a migration, is asked again (R477). -/
def State.holdoffEnds (s : State) (gid : Nat) : State :=
  match FMap.find s.gaths gid with
  | none => s
  | some g =>
    if g.holdoff.isNone || s.heldOff g then s
    else
      let s := s.setGath gid { g with holdoff := none }
      if g.avoid.isSome then s.requestPreemption gid g.avoid else s

/-- PREEMPTION_HOLDOFF_EXPIRY (R462). -/
def execPreemptionHoldoffExpiry (gath : Nat) (s : State) : Out := .next (s.holdoffEnds gath)
/-- CONTEXT_SWITCH_IN (R464, R465). -/
def execContextSwitchIn (ctx : Nat) (s : State) : Out := .next (s.switchIn ctx false)
/-- CANDIDATE_WAIT_EXPIRY (R464). -/
def execCandidateWaitExpiry (ctx : Nat) (s : State) : Out := .next (if s.candidateLate ctx then s.switchIn ctx true else s)

end Sys2Proof.Machine
end

