-- ==== Sys2Proof/Machine/Containment.lean ====
section
/-! DEFINITION. Detected errors (R466–R479): what each does to the words it strikes, the events counted toward a retirement, and the
retirement of lanes, ways, rows and cores. -/
namespace Sys2Proof.Machine

/-! ### Counting (R474) -/

/-- What events are counted for: lanes, ways, rows. -/
def laneKey (core part lane : Nat) : Nat := 64 * (4 * core + part) + lane
def wayKey (array core bank way : Nat) : Nat := 2 ^ 60 + 16 * (256 * (512 * array + core) + bank) + way
def rowKey (row : Nat) : Nat := 2 ^ 61 + row
/-- A spare row, by its remap table and its entry there (R478). -/
def spareKey (table entry : Nat) : Nat := 2 ^ 80 + 4096 * table + entry

/-- One more event: those of the last second, this one with them. -/
def State.countEvent (s : State) (key : Nat) : Nat × State :=
  let l := ((FMap.val [] s.events key).filter fun t => decide (s.ns < t + 1000000000)) ++ [s.ns]
  (l.length, { s with events := FMap.insert s.events key l })

/-! ### Retiring a core (R477) -/

/-- The ASQs that run on a core are to leave it (R524): one whose queue holds requests stays until they have been served, and those that come
later wait. -/
def State.moveAsqs (s : State) (p : Nat) : State :=
  let busy := (List.range 12).filterMap fun k =>
    let cl := 12 * (p / 96) + k
    if s.asqCore cl == some p && (s.asq.any fun r => r.home == cl) then some cl else none
  { s with asqMoves := busy.foldl (fun m cl => if (FMap.find m cl).isSome then m else FMap.insert m cl (p, s.nextId)) s.asqMoves }

/-- A core is retired (R477): its logical cores are marked unavailable (R53, R54), its ASQs move (R524), and every gathering on it is to leave its
cluster, one without quires that still owes mesh gatherings included. -/
def State.retireCore (s : State) (p : Nat) : State :=
  if s.retired.contains p then s
  else
    let s := s.moveAsqs p
    let s := ({ s with retired := setIns s.retired p } : State).mapChange ((s.logicalsOf p).map fun l => (l, none))
    (s.gaths.filter fun g => g.2.pcore == p && (!g.2.retired || g.2.owes) && g.2.saved.isNone).foldl (fun s g => s.requestPreemption g.1 (some (clusterOf p))) s

/-! ### Lanes (R475, R476) -/

def State.laneTable (s : State) (p part : Nat) : W64 := FMap.val 0 s.lanes (4 * p + part)
def laneRetired (t : W64) (lane : Nat) : Bool := t.getLsbD (16 + lane)

/-- The lane remap table after physical lane `n` is retired: none when it served a lane and no spare can take it. -/
def laneRemap (spare : Bool) (t : W64) (n : Nat) : Option W64 :=
  let serves := n < 32 || (n == 32 && t.getLsbD 7) || (n == 33 && t.getLsbD 15)
  let lane := if n < 32 then n else if n = 32 then t.toNat % 32 else t.toNat / 2 ^ 8 % 32
  let t := t ||| BitVec.ofNat 64 (2 ^ (16 + n))
  let t := if n = 32 then t &&& ~~~0x9F else if n = 33 then t &&& ~~~0x9F00 else t
  if !serves then some t
  else if spare && !t.getLsbD 7 && !laneRetired t 32 then some (t ||| BitVec.ofNat 64 (0x80 + lane))
  else if spare && !t.getLsbD 15 && !laneRetired t 33 then some (t ||| BitVec.ofNat 64 (0x8000 + 2 ^ 8 * lane))
  else none

/-- The third event of a lane retires it: the remap waits for each quire of the partition, or the core goes. -/
def State.retireLane (s : State) (p part n seq ctx mode : Nat) : State :=
  let loc := laneLocation n part p
  match laneRemap s.spare (s.laneTable p part) n with
  | none => (s.errorRecord seq 11 1 loc 3 ctx mode).retireCore p
  | some t =>
    let s : State := { s with lanes := FMap.put 0 s.lanes (4 * p + part) t }
    let s := (s.onPart p part).foldl (fun s q => s.modQuire q.1 fun q => { q with oldLane := q.oldLane.or (some (n, s.ns)) }) s
    s.errorRecord seq 4 1 loc 3 ctx mode

/-- A quire that has reached no entry for 100 µs after a remap (R476). -/
def State.copyLate (s : State) (q : Quire) : Bool := match q.oldLane with
  | some (_, t) => decide (t + 100000 ≤ s.ns) && (q.grp.isNone || q.wait.idle) && q.save != .saved
  | none => false
def State.copyLane (s : State) (id : Nat) : State :=
  s.forQuire id fun e => if s.copyLate e.q then (s.rollback id).modQuire id fun q => { q with oldLane := none } else s

/-! ### Words, ways and rows (R466, R467, R470, R477, R478) -/

/-- The contents an uncorrectable error leaves are nothing the manual states; the mark says so. -/
def State.damageWord (s : State) (w : Nat) : State :=
  { s.bump with mem := (s.mem.setNum (4 * w) 4 (Config.free .damaged s.tick % 2 ^ 32)).setBad (4 * w) true }
def damagedWord (tick : Nat) : W32 × Bool := (BitVec.ofNat 32 (Config.free .damaged tick), true)

/-- A store with its bytes in word `w` damaged and marked; bytes of another word go on apart, as they were. -/
def StoreRec.damage (r : StoreRec) (w tick : Nat) : List StoreRec :=
  let here := fun (p : Nat × W8) => p.1 / 4 == w
  let all := r.bytes.mapIdx fun i b => (r.key + i, b)
  let make := fun (l : List (Nat × W8)) (bad : Bool) => match l with
    | [] => []
    | p :: _ => [{ r with key := p.1, bytes := l.map Prod.snd, bad := bad }]
  let hit := (all.filter here).map fun p => (p.1, (damagedWord tick).1.extractLsb' (8 * (p.1 % 4)) 8)
  if hit.isEmpty then [r] else make hit true ++ make (all.filter fun p => !here p) r.bad

/-- A word of a core's own copies: its committed bytes on their way, and its clean word. -/
def Core.damage (v : Core) (w tick : Nat) : Core :=
  { v with
    out := v.out.flatMap fun it => match it with
      | .store o r => (r.damage w tick).map (OutItem.store o)
      | it => [it],
    clean := FMap.modify v.clean w fun _ => damagedWord tick }
/-- A word of a line of the read-only cache. -/
def Core.damageRo (v : Core) (w tick : Nat) : Core :=
  { v with ro := v.ro.map fun l => if l.line = w / 32 then
      { l with bytes := l.bytes.mapIdx fun i b => if i / 4 = w % 32 then (damagedWord tick).1.extractLsb' (8 * (i % 4)) 8 else b,
               marks := setIns l.marks (w % 32) } else l }

/-- A word that cannot be corrected where it stands: array 0 L1, 1 L2 bank, 2 read-only cache. -/
def State.damageIn (s : State) (array core w : Nat) : State :=
  if array = 0 then (s.modCore core fun v => v.damage w s.tick).bump
  else if array = 2 then (s.modCore core fun v => v.damageRo w s.tick).bump
  else s.damageWord w

/-- A word the machine can name as affected by lost state (R470): it is poisoned wherever a copy stands. -/
def State.loseWord (s : State) (w : Nat) : State :=
  let t := s.tick
  let s := s.damageWord w
  { s with cores := s.cores.map fun e => (e.1, (e.2.damage w t).damageRo w t) }

/-- Lines of a core's L1 that stand in a way: which do is the array's own affair. -/
def State.inWay (s : State) (way line : Nat) : Bool := Config.free .order s.tick / 16 ^ line % 16 == way

/-- The third event of a way retires it, to at most four of an array (R477). -/
def State.retireWay (s : State) (array core bank way : Nat) : State :=
  let key := wayKey array core bank 0
  let mask := FMap.val 0 s.ways key
  let loc := way + 16 * array + 2 ^ 8 * bank + 2 ^ 16 * core
  let full := ((List.range 16).filter mask.testBit).length == 4
  if full && array == 1 then s.errorRecord 0 10 4 loc 3 0xFF 0
  else if full then (s.errorRecord 0 11 4 loc 3 0xFF 0).retireCore core
  else
    let inWay := s.inWay way
    let s := if array = 0 then (s.recallCore core fun r => inWay (r.key / 128)).modCore core fun v => { v with clean := v.clean.filter fun c => !inWay (c.1 / 32) }
      else if array = 2 then s.modCore core fun v => { v with ro := v.ro.filter fun l => !inWay l.line }
      else s
    ({ s.bump with ways := FMap.put 0 s.ways key (mask + 2 ^ way) } : State).errorRecord 0 5 4 loc 3 0xFF 0

/-- The way as the location field of an error record names it (R479). -/
def wayLocation (x : CacheWay) : Nat := x.way % 16 + 16 * x.array + 2 ^ 8 * x.bank + 2 ^ 16 * x.core
def State.wayRetired (s : State) (x : CacheWay) : Bool := (FMap.val 0 s.ways (wayKey x.array x.core x.bank 0)).testBit (x.way % 16)

/-- An event in a way (R474): what it does, given the events in the window; the third retires the way. On one already retired it counts toward nothing. -/
def State.countWay (s : State) (x : CacheWay) (act : State → Nat → State) : State :=
  if s.wayRetired x then act s 0
  else
    let r := s.countEvent (wayKey x.array x.core x.bank (x.way % 16))
    let s := act r.2 r.1
    if 3 ≤ r.1 then s.retireWay x.array x.core x.bank (x.way % 16) else s

def State.wayEvent (s : State) (x : CacheWay) (corrected : Bool) (w : Nat) : State :=
  if s.wayRetired x then s
  else s.countWay x fun s n => (if corrected then s else s.damageIn x.array x.core w).errorRecord 0 (if corrected then 1 else 9) 4 (wayLocation x) n 0xFF 0

/-- A datapath error of a quire (R469); one in a lane counts toward that lane, one in a read-only cache tag toward its way (R474). When a save was to be made of the lost row, it is withdrawn (R473). -/
def State.pathError (s : State) (id : Nat) (x : PathErr) : State :=
  s.forQuire id fun e =>
    if e.q.save == .saved then s
    else
      let p := e.g.pcore
      let counted := x.lane.filter fun n => decide (n < 34) && !laneRetired (s.laneTable p e.q.part) n
      let r := match counted with
        | some n => s.countEvent (laneKey p e.q.part n)
        | none => (0, s)
      let s := if x.ckptRow && e.g.asked.isSome && e.q.save == .atPoint then r.2.withdraw (r.2.unitOf e.q.gath) else r.2
      let s := match x.way with
        | some w => s.countWay w fun s n => s.datapathError id x.source (wayLocation w) n x.ckptRow
        | none => s.datapathError id x.source (laneLocation (x.lane.getD 0) e.q.part p) r.1 x.ckptRow
      match counted with
      | some n => if 3 ≤ r.1 then s.retireLane p e.q.part n e.vol.pkt.seq e.vol.ctx (e.vol.usedMode 2) else s
      | none => s

/-- The row table of a sector and how many entries it has (R478): one of each HBM4E stack, one of the second tier. -/
def rowTable (pa : Nat) : Nat × Nat := if paKind pa = .first then (Config.dramStack (pa / 32) % 8, 512) else (8, 2048)

/-- What events of a sector count for: its row, or the spare row that its last remapping gave it (R474, R478). -/
def State.rowNow (s : State) (pa : Nat) : Nat :=
  let t := (rowTable pa).1
  let row := Config.dramRow (pa / 32)
  match ((FMap.val [] s.rowsOut t).mapIdx fun i r => (i, r)).reverse.find? fun x => x.2 == row with
  | some x => spareKey t x.1
  | none => rowKey row

/-- The third event of a row, or of the spare that stands for it, remaps it, while its table has room; its sectors keep their bytes and their marks
(R478). -/
def State.retireRow (s : State) (pa source : Nat) : State :=
  let t := rowTable pa
  let rows := FMap.val [] s.rowsOut t.1
  if t.2 ≤ rows.length then s.errorRecord 0 10 source (pa / 32 * 32) 3 0xFF 0
  else ({ s with rowsOut := FMap.insert s.rowsOut t.1 (rows ++ [Config.dramRow (pa / 32)]) } : State).errorRecord 0 6 source (pa / 32 * 32) 3 0xFF 0

/-- An event in a sector of a DRAM tier (R466, R467): corrected and written back, or the whole sector poisoned. -/
def State.sectorEvent (s : State) (pa : Nat) (corrected : Bool) : State :=
  if !keyIsDram pa then s
  else
    let source := if paKind pa = .first then 7 else 8
    let s := if corrected then s else (List.range 8).foldl (fun s i => s.damageWord (pa / 32 * 8 + i)) s
    let kind := if corrected then 1 else 9
    let r := s.countEvent (s.rowNow pa)
    let s := r.2.errorRecord 0 kind source (pa / 32 * 32) r.1 0xFF 0
    if 3 ≤ r.1 then s.retireRow pa source else s

/-- Where an error record places a word that is in no lane, way or sector: the manual gives its field no such form. -/
def State.wordLocation (s : State) (key : Nat) : Nat := if keyIsGeneric key then key / 32 * 32 else Config.free .device s.tick % 2 ^ 52

/-- A launch that lost committed state (R470): its sealed launch is replayed, once for one error (`done` names those that have been), or it ends.
One that a replay or another's end has ended already is past both. -/
def State.loseLaunch (on : Nat → Bool) (loc count : Nat) (a : List Nat × State) (vid : Nat) : List Nat × State :=
  let s := a.2
  match FMap.find s.vols vid with
  | none => a
  | some v =>
    let root := (s.sealRoot 12 vid).getD vid
    if v.ending != .running || a.1.contains root then a
    else if v.contain = 2 && s.gaths.all (fun g => g.2.vol != vid || !on g.2.pcore || g.2.retired || g.2.contain == 2) then
      (root :: a.1, s.sealedReplay root 6 loc count)
    else (a.1, (s.errorRecord v.pkt.seq 8 6 loc count v.ctx (v.usedMode 2)).endLaunch vid (.error 0x0F))

/-- Committed state is lost (R470): the words named are poisoned, and every launch on the cores takes the whole-launch path without a handler. -/
def State.lost (s : State) (on : Nat → Bool) (words : List Nat) (loc count : Nat) : State :=
  let s := words.foldl (fun s w => (s.loseWord w).errorRecord 0 9 6 (s.wordLocation (4 * w)) count 0xFF 0) s
  let hit := (s.vols.filter fun v => v.2.ending == .running && s.gaths.any fun g => g.2.vol == v.1 && !g.2.retired && g.2.saved.isNone && on g.2.pcore).map Prod.fst
  (hit.foldl (State.loseLaunch on loc count) ([], s)).2

/-- An outstanding engine result of a quire arrives poisoned (R472). -/
def State.spoilResult (s : State) (id k : Nat) : State :=
  (s.modQuire id fun q => { q with pend := q.pend.mapIdx fun i p => if i = k then { p with spoilt := true } else p }).bump.errorRecord 0 9 4 (s.wordLocation (2 ^ 60)) 1 0xFF 0
/-- Result `k` of a quire is one an engine delivers. -/
def State.engineOwes (s : State) (id k : Nat) : Bool :=
  ((FMap.find s.quires id).bind fun q => q.pend[k]?).any fun p => p.kind == .engine || p.kind == .tree || p.kind == .matrix

/-- What an array check found (R466). -/
def State.ecc (s : State) : EccErr → State
  | .way x corrected w => s.wayEvent x corrected w
  | .sector pa corrected => s.sectorEvent pa corrected
  | .word key corrected =>
    let loc := s.wordLocation key
    ((if corrected then s else s.damageWord (key / 4)).bump).errorRecord 0 (if corrected then 1 else 9) 4 loc 1 0xFF 0
  | .fixed source x =>
    if source ≠ 5 ∧ source ≠ 6 then s
    else match x with
      | some x => s.countWay x fun s n => s.errorRecord 0 1 source (wayLocation x) n 0xFF 0
      | none => s.bump.errorRecord 0 1 source (s.wordLocation (2 ^ 60)) 1 0xFF 0
  | .control core words x => match x with
    | some x => s.countWay x fun s n => s.lost (fun p => p == core) words (wayLocation x) n
    | none => s.bump.lost (fun p => p == core) words (s.wordLocation (2 ^ 60)) 1
  | .directory die words => s.bump.lost (fun p => dieOfCore p == die) words (s.wordLocation (2 ^ 60)) 1
  | .result id k => if s.engineOwes id k then s.spoilResult id k else s

/-! ### Events -/

/-- DATAPATH_ERROR (R469). -/
def execDatapathError (quire : Nat) (e : PathErr) (s : State) : Out := .next (s.pathError quire e)
/-- ECC_EVENT (R466, R470). -/
def execEccEvent (e : EccErr) (s : State) : Out := .next (s.ecc e)
/-- PATROL_SCRUB (R466): the scrubber reads sectors. -/
def execPatrolScrub (e : EccErr) (s : State) : Out := .next (match e with
  | .sector pa corrected => s.sectorEvent pa corrected
  | _ => s)
/-- LANE_REMAP_TIMEOUT (R476). -/
def execLaneRemapTimeout (quire : Nat) (s : State) : Out := .next (s.copyLane quire)

end Sys2Proof.Machine
end

