-- ==== Sys2Proof/Machine/Double.lean ====
section
/-! DEFINITION. Group 0x3, FP64 (R187–R194): the meaning of each instruction. -/
namespace Sys2Proof.Machine

/-- DADD (R187). -/
def execDadd (h : Hdr) (f : FmtA) (s : State) : Out :=
  let x := Alu.ofA h f
  s.fpOp (.dadd h f) x (specFp tyD 2 true true x) fpAdd
/-- DADD_I (R187). -/
def execDaddI (h : Hdr) (f : FmtI) (s : State) : Out :=
  let x := Alu.ofI h f
  s.fpOp (.daddI h f) x (specFp tyD 2 true true x) fpAdd
/-- DSUB (R187). -/
def execDsub (h : Hdr) (f : FmtA) (s : State) : Out :=
  let x := Alu.ofA h f
  s.fpOp (.dsub h f) x (specFp tyD 2 true true x) fpSub
/-- DSUB_I (R187). -/
def execDsubI (h : Hdr) (f : FmtI) (s : State) : Out :=
  let x := Alu.ofI h f
  s.fpOp (.dsubI h f) x (specFp tyD 2 true true x) fpSub
/-- DMUL (R187). -/
def execDmul (h : Hdr) (f : FmtA) (s : State) : Out :=
  let x := Alu.ofA h f
  s.fpOp (.dmul h f) x (specFp tyD 2 true true x) fpMul
/-- DMUL_I (R187). -/
def execDmulI (h : Hdr) (f : FmtI) (s : State) : Out :=
  let x := Alu.ofI h f
  s.fpOp (.dmulI h f) x (specFp tyD 2 true true x) fpMul
/-- DFMA (R187). -/
def execDfma (h : Hdr) (f : FmtA) (s : State) : Out :=
  let x := Alu.ofA h f
  s.fpOp (.dfma h f) x (specFp tyD 3 true true x) fpFma
/-- DFMA_I (R187). -/
def execDfmaI (h : Hdr) (f : FmtI) (s : State) : Out :=
  let x := Alu.ofI h f
  s.fpOp (.dfmaI h f) x (specFp tyD 3 true true x) fpFma
/-- DMIN (R187). -/
def execDmin (h : Hdr) (f : FmtA) (s : State) : Out :=
  let x := Alu.ofA h f
  s.fpOp (.dmin h f) x (specFp tyD 2 false false x) fpMin
/-- DMIN_I (R187). -/
def execDminI (h : Hdr) (f : FmtI) (s : State) : Out :=
  let x := Alu.ofI h f
  s.fpOp (.dminI h f) x (specFp tyD 2 false false x) fpMin
/-- DMAX (R187). -/
def execDmax (h : Hdr) (f : FmtA) (s : State) : Out :=
  let x := Alu.ofA h f
  s.fpOp (.dmax h f) x (specFp tyD 2 false false x) fpMax
/-- DMAX_I (R187). -/
def execDmaxI (h : Hdr) (f : FmtI) (s : State) : Out :=
  let x := Alu.ofI h f
  s.fpOp (.dmaxI h f) x (specFp tyD 2 false false x) fpMax
/-- DCMP (R187). -/
def execDcmp (h : Hdr) (f : FmtA) (s : State) : Out :=
  let x := Alu.ofA h f
  s.fcmp (.dcmp h f) tyD x
/-- DCMP_I (R187). -/
def execDcmpI (h : Hdr) (f : FmtI) (s : State) : Out :=
  let x := Alu.ofI h f
  s.fcmp (.dcmpI h f) tyD x
/-- DRCPA (R187). -/
def execDrcpa (h : Hdr) (f : FmtA) (s : State) : Out :=
  let x := Alu.ofA h f
  s.fpOp (.drcpa h f) x (specFp tyD 1 false false x) fun _ F a _ _ => approxRcp F 0x0C7 a .rel
/-- DRSQA (R187). -/
def execDrsqa (h : Hdr) (f : FmtA) (s : State) : Out :=
  let x := Alu.ofA h f
  s.fpOp (.drsqa h f) x (specFp tyD 1 false false x) fun _ F a _ _ => approxRsq F 0x0C8 a .rel
/-- DSQRT (R187). -/
def execDsqrt (h : Hdr) (f : FmtA) (s : State) : Out :=
  let x := Alu.ofA h f
  s.fpOp (.dsqrt h f) x (specFp tyD 1 true true x) fpSqrt
/-- DDIV (R187). -/
def execDdiv (h : Hdr) (f : FmtA) (s : State) : Out :=
  let x := Alu.ofA h f
  s.fpOp (.ddiv h f) x (specFp tyD 2 true true x) fpDiv
/-- DDIV_I (R187). -/
def execDdivI (h : Hdr) (f : FmtI) (s : State) : Out :=
  let x := Alu.ofI h f
  s.fpOp (.ddivI h f) x (specFp tyD 2 true true x) fpDiv
/-- DCLASS (R187). -/
def execDclass (h : Hdr) (f : FmtA) (s : State) : Out :=
  let x := Alu.ofA h f
  s.aluOp (.dclass h f) x (specFclass tyD x) fun _ z => classLane x z
/-- DSCALE (R187). -/
def execDscale (h : Hdr) (f : FmtA) (s : State) : Out :=
  let x := Alu.ofA h f
  s.aluOp (.dscale h f) x (specFscale tyD x) fun e z => scaleLane e x z
/-- DSCALE_I (R187). -/
def execDscaleI (h : Hdr) (f : FmtI) (s : State) : Out :=
  let x := Alu.ofI h f
  s.aluOp (.dscaleI h f) x (specFscale tyD x) fun e z => scaleLane e x z
/-- DRND (R187). -/
def execDrnd (h : Hdr) (f : FmtA) (s : State) : Out :=
  let x := Alu.ofA h f
  s.fpOp (.drnd h f) x (specFp tyD 1 true false x) fpRound
/-- DFRC (R187). -/
def execDfrc (h : Hdr) (f : FmtA) (s : State) : Out :=
  let x := Alu.ofA h f
  s.fpOp (.dfrc h f) x (specFp tyD 1 false false x) fpFrac

end Sys2Proof.Machine
end

