-- ==== Sys2Proof/Machine/Faulting.lean ====
section
/-! DEFINITION. Fault entries after they are written (R248, R249): the driver's resolution, and what it means for each that waits on the
entry (R269, R288, R321, R324, R402, R430, R444). -/
namespace Sys2Proof.Machine

/-- What a resolution says (R249): try again, take the trap, end the launch. -/
inductive Verdict where
  | retry | deliver | kill
deriving DecidableEq, Repr

/-- Resolution codes (R248): 4 and above read as 2. -/
def verdictOf (res : Nat) : Verdict := if res = 1 then .retry else if res = 3 then .kill else .deliver

/-- A quire parked on the entry (R249); a matrix instruction's keeps its rows (R288). -/
def State.resolveQuire (s : State) (id entry : Nat) (v : Verdict) : State :=
  s.forQuire id fun e =>
    match e.q.wait with
    | .fault k t matrix =>
      if k ≠ entry then s
      else match v with
        | .kill => s.endLaunch e.g.vol (.killed 0)
        | .retry => if matrix then s.wake id else s.rollback id
        | .deliver => (s.wake id).takeTrap id t matrix
    | _ => s

/-- A delivery that waits on the entry (R444). -/
def State.resolveDelivery (s : State) (id entry : Nat) (v : Verdict) : State :=
  s.forQuire id fun e =>
    match e.q.wait with
    | .deliver t k =>
      if k ≠ entry then s
      else match v with
        | .kill => s.endLaunch e.g.vol (.killed 0)
        | .retry => (s.wake id).deliver id t
        | .deliver => s.endLaunch e.g.vol (.error t.code)
    | _ => s

/-- A transfer stopped by the entry (R269): one whose descriptor was not read starts over. A collective gives up what faulted (R430). -/
def State.resolveTransfer (s : State) (id entry code : Nat) (v : Verdict) : State :=
  match FMap.find s.xfers id with
  | none => s
  | some x =>
    if x.fault ≠ some entry then s
    else match v with
      | .kill =>
        let s := s.endLaunch x.vol (.killed 0)
        match x.kind with
        | .coll c => ({ s with xfers := FMap.insert s.xfers id { x with fault := none } } : State).modColl c fun c => c.abandon code
        | _ => if (FMap.find s.xfers id).isSome then (s.xferEnd id x code).reapFor x else s
      | .retry =>
        let again := match x.kind with | .cpyt _ _ => x.bytes == 0 | _ => false
        let s : State := { s with xfers := FMap.insert s.xfers id { x with fault := none, started := !again } }
        if again then s.xferStart id else s
      | .deliver =>
        match x.kind with
        | .coll c => ({ s with xfers := FMap.insert s.xfers id { x with fault := none } } : State).modColl c fun c => c.abandon code
        | _ => (s.xferEnd id x code).reapFor x

/-- Lanes of a quire's tree instruction that faulted (R402), and the lowest one's address. -/
def State.treeLanes (s : State) (id : Nat) : LaneSet × Nat :=
  let l := s.treqs.filter fun x => x.quire == id && x.faulted.isSome
  let m := setOf (l.map TreeReq.lane)
  (m, ((l.find? fun x => LaneSet.lowest 256 m == some x.lane).map TreeReq.faultVa).getD 0)

/-- A tree request that waits on the entry (R402): sent again, or left with status 8, whereupon the quire's group completes and takes the trap. -/
def State.resolveTree (s : State) (req entry code : Nat) (v : Verdict) : State :=
  match s.treqs.find? fun r => r.id == req with
  | none => s
  | some r =>
    if r.faulted ≠ some entry then s
    else match v with
      | .kill => s.endLaunch r.vol (.killed 0)
      | .retry => s.setTreq { r with faulted := none, prog := .fresh }
      | .deliver =>
        let at' := s.treeLanes r.quire
        let s := s.settleTrees r.quire
        let s := ({ s with treqs := s.treqs.filter fun x => !(x.quire == r.quire && x.faulted.isSome) } : State).dropTrees r.quire
        s.forQuire r.quire fun e =>
          let t := { e.trapLanes code 0 at'.2 at'.1 with pc := r.pc }
          let held := match e.q.wait with
            | .treeFault _ => true
            | .reply _ => true
            | _ => false
          if !held then s
          else if e.handlerMode then (s.hostEvent 2 e.vol.ctx e.vol.pkt.seq).endLaunch e.g.vol (.error code)
          else (s.wake r.quire).modQuire r.quire fun q => { q with grp := q.grp.map fun g => { g with owed := some t } }

/-- The records of a launch that faulted (R321). -/
def State.resolveRecords (s : State) (vid code : Nat) (v : Verdict) : State :=
  match FMap.find s.vols vid with
  | none => s
  | some x => match v with
    | .kill => s.endLaunch vid (.killed 0)
    | .deliver => s.endLaunch vid (.error code)
    | .retry => match x.render with
      | none => s
      | some r => r.work.foldl (fun s w => s.writeRecord vid w.serial) s

/-- The clear writes of a launch that faulted (R324): the next TILE_FINALITY makes what remains of them, or they are abandoned. -/
def State.resolveClears (s : State) (vid code : Nat) (v : Verdict) : State :=
  match v with
  | .kill => s.endLaunch vid (.killed 0)
  | .retry => s
  | .deliver => s.modVol vid fun x => { x with render := x.render.map fun r => { r with clears := [], abandoned := r.abandoned.or (some code) } }

def State.resolveWaiter (s : State) (entry : Nat) (f : FaultEnt) (v : Verdict) : Waiter → State
  | .quire id => s.resolveQuire id entry v
  | .delivery id => s.resolveDelivery id entry v
  | .transfer id => s.resolveTransfer id entry f.code v
  | .tree req => s.resolveTree req entry f.code v
  | .records vid => s.resolveRecords vid f.code v
  | .clears vid => s.resolveClears vid f.code v

/-- The driver has resolved an entry (R249): each waiter goes its way, and the entry's state byte becomes 0. -/
def State.resolve (s : State) (cid entry res : Nat) : State :=
  match FMap.find s.ctxs cid with
  | none => s
  | some c =>
    match FMap.find c.faults entry with
    | none => s
    | some f =>
      if !f.written ∨ res = 0 then s
      else
        let s := s.setCtx cid { c with faults := FMap.remove c.faults entry }
        let s := f.waiters.foldl (fun s w => s.resolveWaiter entry f (verdictOf res) w) s
        match s.translate 0 cid c.root (c.faultRing + 32 * f.slot) .ewrite with
        | (.ok x, s) => s.putHome (x.pa + 18) [0]
        | (.error _, s) => s

/-- Entries of a context not yet written are tried again (R248). -/
def State.retryFaults (s : State) (cid : Nat) : State :=
  match FMap.find s.ctxs cid with
  | none => s
  | some c => c.faults.foldl (fun s f => s.writeFault cid f.1) s

/-- FAULT_ENTRY_RETRY (R248). -/
def execFaultEntryRetry (ctx : Nat) (s : State) : Out := .next (s.retryFaults ctx)
/-- FAULT_RESOLUTION (R249). -/
def execFaultResolution (ctx entry res : Nat) (s : State) : Out := .next (s.resolve ctx entry res)

end Sys2Proof.Machine
end

