-- ==== Sys2Proof/Machine/Float.lean ====
section
/-! DEFINITION. Group 0x2, FP32, FP16 and BF16 (R187–R193): the meaning of each instruction. -/
namespace Sys2Proof.Machine

/-- FADD (R187). -/
def execFadd (h : Hdr) (f : FmtA) (s : State) : Out :=
  let x := Alu.ofA h f
  s.fpOp (.fadd h f) x (specFp tyF 2 true true x) fpAdd
/-- FADD_I (R187). -/
def execFaddI (h : Hdr) (f : FmtI) (s : State) : Out :=
  let x := Alu.ofI h f
  s.fpOp (.faddI h f) x (specFp tyF 2 true true x) fpAdd
/-- FSUB (R187). -/
def execFsub (h : Hdr) (f : FmtA) (s : State) : Out :=
  let x := Alu.ofA h f
  s.fpOp (.fsub h f) x (specFp tyF 2 true true x) fpSub
/-- FSUB_I (R187). -/
def execFsubI (h : Hdr) (f : FmtI) (s : State) : Out :=
  let x := Alu.ofI h f
  s.fpOp (.fsubI h f) x (specFp tyF 2 true true x) fpSub
/-- FMUL (R187). -/
def execFmul (h : Hdr) (f : FmtA) (s : State) : Out :=
  let x := Alu.ofA h f
  s.fpOp (.fmul h f) x (specFp tyF 2 true true x) fpMul
/-- FMUL_I (R187). -/
def execFmulI (h : Hdr) (f : FmtI) (s : State) : Out :=
  let x := Alu.ofI h f
  s.fpOp (.fmulI h f) x (specFp tyF 2 true true x) fpMul
/-- FFMA (R187). -/
def execFfma (h : Hdr) (f : FmtA) (s : State) : Out :=
  let x := Alu.ofA h f
  s.fpOp (.ffma h f) x (specFp tyF 3 true true x) fpFma
/-- FFMA_I (R187). -/
def execFfmaI (h : Hdr) (f : FmtI) (s : State) : Out :=
  let x := Alu.ofI h f
  s.fpOp (.ffmaI h f) x (specFp tyF 3 true true x) fpFma
/-- FMIN (R187). -/
def execFmin (h : Hdr) (f : FmtA) (s : State) : Out :=
  let x := Alu.ofA h f
  s.fpOp (.fmin h f) x (specFp tyF 2 false false x) fpMin
/-- FMIN_I (R187). -/
def execFminI (h : Hdr) (f : FmtI) (s : State) : Out :=
  let x := Alu.ofI h f
  s.fpOp (.fminI h f) x (specFp tyF 2 false false x) fpMin
/-- FMAX (R187). -/
def execFmax (h : Hdr) (f : FmtA) (s : State) : Out :=
  let x := Alu.ofA h f
  s.fpOp (.fmax h f) x (specFp tyF 2 false false x) fpMax
/-- FMAX_I (R187). -/
def execFmaxI (h : Hdr) (f : FmtI) (s : State) : Out :=
  let x := Alu.ofI h f
  s.fpOp (.fmaxI h f) x (specFp tyF 2 false false x) fpMax
/-- FCMP (R187). -/
def execFcmp (h : Hdr) (f : FmtA) (s : State) : Out :=
  let x := Alu.ofA h f
  s.fcmp (.fcmp h f) tyF x
/-- FCMP_I (R187). -/
def execFcmpI (h : Hdr) (f : FmtI) (s : State) : Out :=
  let x := Alu.ofI h f
  s.fcmp (.fcmpI h f) tyF x
/-- FRCP (R187). -/
def execFrcp (h : Hdr) (f : FmtA) (s : State) : Out :=
  let x := Alu.ofA h f
  s.approxOp (.frcp h f) x (fun a => approxRcp .f32 0x087 a (.ulp 1))
/-- FRSQ (R187). -/
def execFrsq (h : Hdr) (f : FmtA) (s : State) : Out :=
  let x := Alu.ofA h f
  s.approxOp (.frsq h f) x (fun a => approxRsq .f32 0x088 a (.ulp 2))
/-- FSQRT (R187). -/
def execFsqrt (h : Hdr) (f : FmtA) (s : State) : Out :=
  let x := Alu.ofA h f
  s.fpOp (.fsqrt h f) x (specFp tyF 1 true true x) fpSqrt
/-- FEXP2 (R187). -/
def execFexp2 (h : Hdr) (f : FmtA) (s : State) : Out :=
  let x := Alu.ofA h f
  s.approxOp (.fexp2 h f) x (approxExp2 .f32 0x08A)
/-- FLOG2 (R187). -/
def execFlog2 (h : Hdr) (f : FmtA) (s : State) : Out :=
  let x := Alu.ofA h f
  s.approxOp (.flog2 h f) x (approxLog2 .f32 0x08B)
/-- FSIN (R187). -/
def execFsin (h : Hdr) (f : FmtA) (s : State) : Out :=
  let x := Alu.ofA h f
  s.approxOp (.fsin h f) x (approxSin .f32 0x08C)
/-- FCOS (R187). -/
def execFcos (h : Hdr) (f : FmtA) (s : State) : Out :=
  let x := Alu.ofA h f
  s.approxOp (.fcos h f) x (approxCos .f32 0x08D)
/-- FTANH (R187). -/
def execFtanh (h : Hdr) (f : FmtA) (s : State) : Out :=
  let x := Alu.ofA h f
  s.approxOp (.ftanh h f) x (approxTanh .f32 0x08E)
/-- FCLASS (R187). -/
def execFclass (h : Hdr) (f : FmtA) (s : State) : Out :=
  let x := Alu.ofA h f
  s.aluOp (.fclass h f) x (specFclass tyF x) fun _ z => classLane x z
/-- FSCALE (R187). -/
def execFscale (h : Hdr) (f : FmtA) (s : State) : Out :=
  let x := Alu.ofA h f
  s.aluOp (.fscale h f) x (specFscale tyF x) fun e z => scaleLane e x z
/-- FSCALE_I (R187). -/
def execFscaleI (h : Hdr) (f : FmtI) (s : State) : Out :=
  let x := Alu.ofI h f
  s.aluOp (.fscaleI h f) x (specFscale tyF x) fun e z => scaleLane e x z
/-- FFRC (R187). -/
def execFfrc (h : Hdr) (f : FmtA) (s : State) : Out :=
  let x := Alu.ofA h f
  s.fpOp (.ffrc h f) x (specFp tyF 1 false false x) fpFrac
/-- FRND (R187). -/
def execFrnd (h : Hdr) (f : FmtA) (s : State) : Out :=
  let x := Alu.ofA h f
  s.fpOp (.frnd h f) x (specFp tyF 1 true false x) fpRound
/-- FDOT2 (R187). -/
def execFdot2 (h : Hdr) (f : FmtA) (s : State) : Out :=
  let x := Alu.ofA h f
  s.aluOp (.fdot2 h f) x (specFdot2 x) fun e z => dotLane e x z
/-- FDOT2_I (R187). -/
def execFdot2I (h : Hdr) (f : FmtI) (s : State) : Out :=
  let x := Alu.ofI h f
  s.aluOp (.fdot2I h f) x (specFdot2 x) fun e z => dotLane e x z

end Sys2Proof.Machine
end

