-- ==== Sys2Proof/Machine/Integer.lean ====
section
/-! DEFINITION. Group 0x1, integer, logic and addresses (R178–R186): what each operation computes from a lane's sources, and the meaning
of each instruction. -/
namespace Sys2Proof.Machine

/-- A source element as an integer after neg/abs (R95): absolute value first, each wrapping in two's complement. -/
def intSrc (t : Ty) (n : NegAbs) (code : Nat) : Int :=
  let w := t.width
  let g := fun v : Int => intOf t.isSigned w (intBits w v)
  let v := intOf t.isSigned w code
  let v := if n.abs && decide (v < 0) then g (-v) else v
  if n.neg then g (-v) else v

/-- An exact integer result written to an element (R179): clamped under saturate, else modulo 2^w. -/
def intPut (t : Ty) (sat : Bool) (v : Int) : Nat :=
  intBits t.width (if sat then clampInt (intLeast t.isSigned t.width) (intGreatest t.isSigned t.width) v else v)

/-- The arithmetic operations of R179, element by element. -/
def intArith (x : Alu) (op : Int → Int → Int → Int) (z : Srcs) : LaneRes :=
  perElem x.ty (fun a b c => (intPut x.ty x.sat (op (intSrc x.ty x.na a) (intSrc x.ty x.nb b) (intSrc x.ty x.nc c)), 0)) z

def State.intOp (s : State) (i : Instr) (x : Alu) (p : AluSpec) (op : Int → Int → Int → Int) : Out :=
  s.aluOp i x p fun _ z => intArith x op z

/-- Operations on the w-bit value of a wide type. -/
def State.wordOp (s : State) (i : Instr) (x : Alu) (p : AluSpec) (op : Nat → Nat → Nat → Nat → Nat) : Out :=
  s.aluOp i x p fun _ z => LaneRes.of (op x.ty.width z.a.n z.b.n z.c.n)

/-- IMULH: the high w bits of the exact product (R180). -/
def mulHigh (x : Alu) (z : Srcs) : Nat :=
  let w := x.ty.width
  intBits w ((intOf x.ty.isSigned w z.a.n * intOf x.ty.isSigned w z.b.n) / ((2 ^ w : Nat) : Int))

/-- IMADW (R180): a × b + c modulo 2^64, a and b by the type's sign. -/
def mulWide (x : Alu) (z : Srcs) : Nat :=
  intBits 64 (intOf x.ty.isSigned 32 z.a.n * intOf x.ty.isSigned 32 z.b.n + (z.c.n : Int))

/-- Shifts (R181) by a count read as an unsigned 32-bit number. -/
def shiftLeft (w a n _ : Nat) : Nat := if w ≤ n then 0 else a * 2 ^ n % 2 ^ w
def shiftRight (w a n _ : Nat) : Nat := if w ≤ n then 0 else a % 2 ^ w / 2 ^ n
def shiftArith (w a n _ : Nat) : Nat := intBits w (intOf true w a / ((2 ^ min n (w - 1) : Nat) : Int))
def rotateLeft (w a n _ : Nat) : Nat := let k := n % w; (a * 2 ^ k + a % 2 ^ w / 2 ^ (w - k)) % 2 ^ w

/-- Three-input logic (R182): result bit i is bit a_i + 2 b_i + 4 c_i of the code. -/
def tril (code w a b c : Nat) : Nat :=
  (List.range w).foldl (fun r i =>
    let t := (if a.testBit i then 1 else 0) + (if b.testBit i then 2 else 0) + (if c.testBit i then 4 else 0)
    if code.testBit t then r + 2 ^ i else r) 0

def popCount (w a _ _ : Nat) : Nat := (List.range w).foldl (fun n i => if a.testBit i then n + 1 else n) 0
def leadingZeros (w a _ _ : Nat) : Nat := if a % 2 ^ w = 0 then w else w - 1 - Nat.log2 (a % 2 ^ w)
def bitReverse (w a _ _ : Nat) : Nat := (List.range w).foldl (fun r i => if a.testBit i then r + 2 ^ (w - 1 - i) else r) 0

/-- BFE (R183): the field of the infinitely extended source, extended by its own sign for the signed types. -/
def fieldExtract (signed : Bool) (w a f : Nat) : Nat :=
  let pos := f % 256
  let len := min (f / 256 % 256) w
  if len = 0 then 0
  else
    let v := (intOf signed w a / ((2 ^ pos : Nat) : Int)) % ((2 ^ len : Nat) : Int)
    intBits w (intOf signed len v.toNat)
/-- BFI (R183): the bits of `a` placed over `c`. -/
def fieldInsert (w a f c : Nat) : Nat :=
  let pos := f % 256
  let len := min (f / 256 % 256) w
  (List.range w).foldl (fun r i =>
    let fromA := decide (pos ≤ i ∧ i < pos + len)
    if (if fromA then a.testBit (i - pos) else c.testBit i) then r + 2 ^ i else r) 0

/-- LEA (R186): a + (ext(b) << sh) modulo 2^64. -/
def effAddress (x : Alu) (z : Srcs) : Nat :=
  let w := x.ty.width
  intBits 64 ((z.a.n : Int) + intOf x.ty.isSigned w z.b.n * ((2 ^ (x.fn % 16) : Nat) : Int))

/-- Integer conditions (R184). -/
def intCond (c : Nat) (a b : Int) : Bool :=
  match c with
  | 0 => decide (a = b) | 1 => decide (a ≠ b) | 2 => decide (a < b) | 3 => decide (a ≤ b) | 4 => decide (b < a) | _ => decide (b ≤ a)

/-- Element masks of a comparison: all ones or zero in each element, one 32-bit mask for a 64-bit type. -/
def condMasks (t : Ty) (hits : List Bool) : Nat :=
  let w := if t.width = 64 then 32 else t.width
  packElems w (hits.map fun h => if h then 2 ^ w - 1 else 0)

def icmpLane (x : Alu) (z : Srcs) : LaneRes :=
  let w := x.ty.width
  let hits := (List.range x.ty.count).map fun k =>
    intCond (x.fn % 8) (intSrc x.ty x.na (elemOf w z.a.n k)) (intSrc x.ty x.nb (elemOf w z.b.n k))
  { n := condMasks x.ty hits, fl := 0, p := hits.all id }

/-- ICMP in both forms (R184). -/
def State.icmp (s : State) (i : Instr) (x : Alu) : Out :=
  s.perform i fun e s => e.alu s x (specIcmp x) (some (x.fn / 8 % 8)) (fun _ => Srcs.bad) (fun _ => icmpLane x)

/-- The lanes in which SEL takes its first source (R185). -/
def selLanes (e : Env) (x : Alu) : LaneSet :=
  let p := e.view.pget (x.fn % 8)
  if x.fn.testBit 3 && x.fn % 8 != 0 then ~~~p else p

/-- SEL in both forms (R185): poison comes from the chosen source alone; once per quire, the predicate must be uniform. -/
def State.sel (s : State) (i : Instr) (x : Alu) : Out :=
  s.perform i fun e s =>
    let p := selLanes e x
    let m := e.effect x.h
    let mixed := decide (m &&& p ≠ 0) && decide (m &&& ~~~p ≠ 0)
    if x.once (specSel x) && mixed then e.trapRes s 0x06 2
    else e.alu s x (specSel x) none (fun l z => if p.has l then z.a.bad else z.b.bad)
      (fun l z => LaneRes.of (if p.has l then z.a.n else z.b.n))

/-! ### Meanings -/

/-- IADD (R178). -/
def execIadd (h : Hdr) (f : FmtA) (s : State) : Out :=
  let x := Alu.ofA h f
  s.intOp (.iadd h f) x (specArith2 x) fun a b _ => a + b
/-- IADD_I (R178). -/
def execIaddI (h : Hdr) (f : FmtI) (s : State) : Out :=
  let x := Alu.ofI h f
  s.intOp (.iaddI h f) x (specArith2 x) fun a b _ => a + b
/-- ISUB (R178). -/
def execIsub (h : Hdr) (f : FmtA) (s : State) : Out :=
  let x := Alu.ofA h f
  s.intOp (.isub h f) x (specArith2 x) fun a b _ => a - b
/-- ISUB_I (R178). -/
def execIsubI (h : Hdr) (f : FmtI) (s : State) : Out :=
  let x := Alu.ofI h f
  s.intOp (.isubI h f) x (specArith2 x) fun a b _ => a - b
/-- IMUL (R178). -/
def execImul (h : Hdr) (f : FmtA) (s : State) : Out :=
  let x := Alu.ofA h f
  s.intOp (.imul h f) x (specArith2 x) fun a b _ => a * b
/-- IMUL_I (R178). -/
def execImulI (h : Hdr) (f : FmtI) (s : State) : Out :=
  let x := Alu.ofI h f
  s.intOp (.imulI h f) x (specArith2 x) fun a b _ => a * b
/-- IMULH (R178). -/
def execImulh (h : Hdr) (f : FmtA) (s : State) : Out :=
  let x := Alu.ofA h f
  s.aluOp (.imulh h f) x (specImulh x) fun _ z => LaneRes.of (mulHigh x z)
/-- IMULH_I (R178). -/
def execImulhI (h : Hdr) (f : FmtI) (s : State) : Out :=
  let x := Alu.ofI h f
  s.aluOp (.imulhI h f) x (specImulh x) fun _ z => LaneRes.of (mulHigh x z)
/-- IMAD (R178). -/
def execImad (h : Hdr) (f : FmtA) (s : State) : Out :=
  let x := Alu.ofA h f
  s.intOp (.imad h f) x (specArith3 x) fun a b c => a * b + c
/-- IMAD_I (R178). -/
def execImadI (h : Hdr) (f : FmtI) (s : State) : Out :=
  let x := Alu.ofI h f
  s.intOp (.imadI h f) x (specArith3 x) fun a b c => a * b + c
/-- IMADW (R178). -/
def execImadw (h : Hdr) (f : FmtA) (s : State) : Out :=
  let x := Alu.ofA h f
  s.aluOp (.imadw h f) x (specImadw x) fun _ z => LaneRes.of (mulWide x z)
/-- IMADW_I (R178). -/
def execImadwI (h : Hdr) (f : FmtI) (s : State) : Out :=
  let x := Alu.ofI h f
  s.aluOp (.imadwI h f) x (specImadw x) fun _ z => LaneRes.of (mulWide x z)
/-- IMIN (R178). -/
def execImin (h : Hdr) (f : FmtA) (s : State) : Out :=
  let x := Alu.ofA h f
  s.intOp (.imin h f) x (specMinMax x) fun a b _ => min a b
/-- IMIN_I (R178). -/
def execIminI (h : Hdr) (f : FmtI) (s : State) : Out :=
  let x := Alu.ofI h f
  s.intOp (.iminI h f) x (specMinMax x) fun a b _ => min a b
/-- IMAX (R178). -/
def execImax (h : Hdr) (f : FmtA) (s : State) : Out :=
  let x := Alu.ofA h f
  s.intOp (.imax h f) x (specMinMax x) fun a b _ => max a b
/-- IMAX_I (R178). -/
def execImaxI (h : Hdr) (f : FmtI) (s : State) : Out :=
  let x := Alu.ofI h f
  s.intOp (.imaxI h f) x (specMinMax x) fun a b _ => max a b
/-- IABS (R178). -/
def execIabs (h : Hdr) (f : FmtA) (s : State) : Out :=
  let x := Alu.ofA h f
  s.intOp (.iabs h f) x (specUnary x) fun a _ _ => (a.natAbs : Int)
/-- INEG (R178). -/
def execIneg (h : Hdr) (f : FmtA) (s : State) : Out :=
  let x := Alu.ofA h f
  s.intOp (.ineg h f) x (specUnary x) fun a _ _ => -a
/-- IADD3 (R178). -/
def execIadd3 (h : Hdr) (f : FmtA) (s : State) : Out :=
  let x := Alu.ofA h f
  s.intOp (.iadd3 h f) x (specArith3 x) fun a b c => a + b + c
/-- IADD3_I (R178). -/
def execIadd3I (h : Hdr) (f : FmtI) (s : State) : Out :=
  let x := Alu.ofI h f
  s.intOp (.iadd3I h f) x (specArith3 x) fun a b c => a + b + c
/-- ISAD (R178). -/
def execIsad (h : Hdr) (f : FmtA) (s : State) : Out :=
  let x := Alu.ofA h f
  s.intOp (.isad h f) x (specArith3 x) fun a b c => ((a - b).natAbs : Int) + c
/-- ISAD_I (R178). -/
def execIsadI (h : Hdr) (f : FmtI) (s : State) : Out :=
  let x := Alu.ofI h f
  s.intOp (.isadI h f) x (specArith3 x) fun a b c => ((a - b).natAbs : Int) + c
/-- SHL (R178). -/
def execShl (h : Hdr) (f : FmtA) (s : State) : Out :=
  let x := Alu.ofA h f
  s.wordOp (.shl h f) x (specShift x) shiftLeft
/-- SHL_I (R178). -/
def execShlI (h : Hdr) (f : FmtI) (s : State) : Out :=
  let x := Alu.ofI h f
  s.wordOp (.shlI h f) x (specShift x) shiftLeft
/-- SHR (R178). -/
def execShr (h : Hdr) (f : FmtA) (s : State) : Out :=
  let x := Alu.ofA h f
  s.wordOp (.shr h f) x (specShift x) shiftRight
/-- SHR_I (R178). -/
def execShrI (h : Hdr) (f : FmtI) (s : State) : Out :=
  let x := Alu.ofI h f
  s.wordOp (.shrI h f) x (specShift x) shiftRight
/-- SAR (R178). -/
def execSar (h : Hdr) (f : FmtA) (s : State) : Out :=
  let x := Alu.ofA h f
  s.wordOp (.sar h f) x (specShift x) shiftArith
/-- ROTL (R178). -/
def execRotl (h : Hdr) (f : FmtA) (s : State) : Out :=
  let x := Alu.ofA h f
  s.wordOp (.rotl h f) x (specShift x) rotateLeft
/-- TRIL (R178). -/
def execTril (h : Hdr) (f : FmtA) (s : State) : Out :=
  let x := Alu.ofA h f
  s.wordOp (.tril h f) x (specTril x) (tril x.fn)
/-- TRIL_I (R178). -/
def execTrilI (h : Hdr) (f : FmtI) (s : State) : Out :=
  let x := Alu.ofI h f
  s.wordOp (.trilI h f) x (specTril x) (tril x.fn)
/-- AND (R178). -/
def execAnd (h : Hdr) (f : FmtA) (s : State) : Out :=
  let x := Alu.ofA h f
  s.wordOp (.and h f) x (specLogic2 x) fun _ a b _ => a &&& b
/-- AND_I (R178). -/
def execAndI (h : Hdr) (f : FmtI) (s : State) : Out :=
  let x := Alu.ofI h f
  s.wordOp (.andI h f) x (specLogic2 x) fun _ a b _ => a &&& b
/-- OR (R178). -/
def execOr (h : Hdr) (f : FmtA) (s : State) : Out :=
  let x := Alu.ofA h f
  s.wordOp (.or h f) x (specLogic2 x) fun _ a b _ => a ||| b
/-- OR_I (R178). -/
def execOrI (h : Hdr) (f : FmtI) (s : State) : Out :=
  let x := Alu.ofI h f
  s.wordOp (.orI h f) x (specLogic2 x) fun _ a b _ => a ||| b
/-- XOR (R178). -/
def execXor (h : Hdr) (f : FmtA) (s : State) : Out :=
  let x := Alu.ofA h f
  s.wordOp (.xor h f) x (specLogic2 x) fun _ a b _ => a ^^^ b
/-- XOR_I (R178). -/
def execXorI (h : Hdr) (f : FmtI) (s : State) : Out :=
  let x := Alu.ofI h f
  s.wordOp (.xorI h f) x (specLogic2 x) fun _ a b _ => a ^^^ b
/-- NOT (R178). -/
def execNot (h : Hdr) (f : FmtA) (s : State) : Out :=
  let x := Alu.ofA h f
  s.wordOp (.not h f) x (specLogic1 x) fun w a _ _ => 2 ^ w - 1 - a % 2 ^ w
/-- POPC (R178). -/
def execPopc (h : Hdr) (f : FmtA) (s : State) : Out :=
  let x := Alu.ofA h f
  s.wordOp (.popc h f) x (specCount x) popCount
/-- CLZ (R178). -/
def execClz (h : Hdr) (f : FmtA) (s : State) : Out :=
  let x := Alu.ofA h f
  s.wordOp (.clz h f) x (specCount x) leadingZeros
/-- BREV (R178). -/
def execBrev (h : Hdr) (f : FmtA) (s : State) : Out :=
  let x := Alu.ofA h f
  s.wordOp (.brev h f) x (specLogic1 x) bitReverse
/-- BFE (R178). -/
def execBfe (h : Hdr) (f : FmtA) (s : State) : Out :=
  let x := Alu.ofA h f
  s.wordOp (.bfe h f) x (specShift x) fun w a f _ => fieldExtract x.ty.isSigned w a f
/-- BFE_I (R178). -/
def execBfeI (h : Hdr) (f : FmtI) (s : State) : Out :=
  let x := Alu.ofI h f
  s.wordOp (.bfeI h f) x (specShift x) fun w a f _ => fieldExtract x.ty.isSigned w a f
/-- BFI (R178). -/
def execBfi (h : Hdr) (f : FmtA) (s : State) : Out :=
  let x := Alu.ofA h f
  s.wordOp (.bfi h f) x (specBfi x) fun w a f c => fieldInsert w a f c
/-- BFI_I (R178). -/
def execBfiI (h : Hdr) (f : FmtI) (s : State) : Out :=
  let x := Alu.ofI h f
  s.wordOp (.bfiI h f) x (specBfi x) fun w a f c => fieldInsert w a f c
/-- ICMP (R178). -/
def execIcmp (h : Hdr) (f : FmtA) (s : State) : Out :=
  let x := Alu.ofA h f
  s.icmp (.icmp h f) x
/-- ICMP_I (R178). -/
def execIcmpI (h : Hdr) (f : FmtI) (s : State) : Out :=
  let x := Alu.ofI h f
  s.icmp (.icmpI h f) x
/-- SEL (R178). -/
def execSel (h : Hdr) (f : FmtA) (s : State) : Out :=
  let x := Alu.ofA h f
  s.sel (.sel h f) x
/-- SEL_I (R178). -/
def execSelI (h : Hdr) (f : FmtI) (s : State) : Out :=
  let x := Alu.ofI h f
  s.sel (.selI h f) x
/-- MOV (R178). -/
def execMov (h : Hdr) (f : FmtA) (s : State) : Out :=
  let x := Alu.ofA h f
  s.aluOp (.mov h f) x (specMov x) fun _ z => LaneRes.of z.a.n
/-- MOV_I (R178). -/
def execMovI (h : Hdr) (f : FmtI) (s : State) : Out :=
  let x := Alu.ofI h f
  s.aluOp (.movI h f) x (specMov x) fun _ z => LaneRes.of z.b.n
/-- LEA (R178). -/
def execLea (h : Hdr) (f : FmtA) (s : State) : Out :=
  let x := Alu.ofA h f
  s.aluOp (.lea h f) x (specLea x) fun _ z => LaneRes.of (effAddress x z)
/-- LEA_I (R178). -/
def execLeaI (h : Hdr) (f : FmtI) (s : State) : Out :=
  let x := Alu.ofI h f
  s.aluOp (.leaI h f) x (specLea x) fun _ z => LaneRes.of (effAddress x z)
/-- ICLAMP (R178). -/
def execIclamp (h : Hdr) (f : FmtA) (s : State) : Out :=
  let x := Alu.ofA h f
  s.intOp (.iclamp h f) x (specClamp x) fun a b c => min (max a b) c
/-- ICLAMP_I (R178). -/
def execIclampI (h : Hdr) (f : FmtI) (s : State) : Out :=
  let x := Alu.ofI h f
  s.intOp (.iclampI h f) x (specClamp x) fun a b c => min (max a b) c

end Sys2Proof.Machine
end

