-- ==== Sys2Proof/Machine/Manage.lean ====
section
/-! DEFINITION. The control processor and the management window (R51, R453–R454, R487–R497): registers, clocks and heat, resets, and the
commands of the driver. -/
namespace Sys2Proof.Machine

/-! ### Registers, clocks and heat (R489–R492) -/

/-- What a management register reads (R489). The module's measured power is its own affair. -/
def State.mgReg (s : State) (off : Nat) : W64 :=
  match off with
  | 0x0000 => BitVec.ofNat 64 (0x0384 + 2 ^ 16 + 2 ^ 24 * (s.boot % 4) + (if s.linkHalf then 2 ^ 26 else 0) + 2 ^ 32 * (s.epoch % 2 ^ 32))
  | 0x0008 => BitVec.ofNat 64 (s.power + 2 ^ 32 * ((Config.mgRead off s.tick).toNat % 2 ^ 16))
  | 0x0010 => BitVec.ofNat 64 s.clockMode
  | 0x0018 => BitVec.ofNat 64 ((List.range 4).foldl (fun n d => n + 2 ^ (8 * d) * (FMap.val 0 s.temps d % 256)) (2 ^ 32 * (s.inlet % 256)))
  | 0x0028 => s.evRing
  | 0x0030 => s.erRing
  | 0x0038 => W64.ofWords s.erDrops s.evDrops
  | _ => 0

/-- A junction stands at 105 °C or above (R492). -/
def State.hot (s : State) : Bool := s.temps.any fun t => decide (105 ≤ t.2)

/-- The arithmetic clock as mode and heat fix it: step 0 is 0.70 GHz, step 14 is 1.40 GHz; adaptive mode leaves it where it is. -/
def State.setClock (s : State) : State :=
  if s.hot || s.clockMode == 2 then { s with clockStep := 0 } else if s.clockMode = 1 then { s with clockStep := 14 } else s

def State.writePower (s : State) (v : W64) : State := if v.toNat % 64 ≤ 56 then { s with power := v.toNat % 64 } else s
def State.writeClock (s : State) (v : W64) : State := if v.toNat % 4 = 3 then s else ({ s with clockMode := v.toNat % 4 } : State).setClock
/-- Bits of a ring register that are kept. -/
def ringBits (v : W64) : W64 := v &&& BitVec.ofNat 64 (2 ^ 52 - 1)
def State.writeEvents (s : State) (v : W64) : State :=
  if 4 ≤ ringLog v ∧ ringLog v ≤ 16 then { s with evRing := ringBits v, evIx := 0 } else s
def State.writeErrors (s : State) (v : W64) : State := { s with erRing := ringBits v, erIx := 0 }

/-- A write to the management window: registers without a behaviour ignore it. A write of MG_CMD is followed by the command itself. -/
def State.writeMg (s : State) (off : Nat) (v : W64) : State :=
  match off with
  | 0x0008 => s.writePower v
  | 0x0010 => s.writeClock v
  | 0x0028 => s.writeEvents v
  | 0x0030 => s.writeErrors v
  | _ => s

/-- Power has stood above the cap for 10 ms in fixed-high mode (R491). -/
def State.fallBack (s : State) : State := if s.clockMode = 1 then ({ s with clockMode := 0 } : State).hostEvent 6 0xFF 0 else s

/-- The adaptive clock moves (R491); 105 °C holds it down (R492). -/
def State.adapt (s : State) (step : Nat) : State := if s.clockMode = 0 ∧ step ≤ 14 ∧ !s.hot then { s with clockStep := step } else s

/-! ### Resets (R51) -/

/-- A context after a device reset: registered, with no faults pending and no pools in use. -/
def Context.afterReset (c : Context) : Context :=
  { c with table := 0, faults := [], spillMap := [], pins := [], windowSave := none, residentSince := 0, candidate := none, busyAt := 0, stuck := 0, leaving := false,
           event8 := false }

/-- A queue after a reset: nothing it had accepted is left; one that was enabled is halted, fault 4, its accepted and completed fields kept. -/
def Queue.afterReset (Q : Queue) : Queue :=
  let Q : Queue := { Q with blocked := none, open' := [], signals := [], parents := [], round := 0 }
  if Q.state == .disabled then Q else { Q with state := .halted, fault := 4 }

/-- Bytes on their way to their homes arrive or are lost: the manual does not say which. -/
def State.outAtReset (s : State) : State :=
  if Config.free .stale s.tick % 2 = 0 then s.bump else (s.cores.foldl (fun s e => s.drainCore e.1) s).bump

/-- The ROM has read the firmware image again (R487): one that fails verification is not run, and Twison stays without coherent traffic. -/
def State.verifyImage (s : State) : State :=
  if Config.imageOk s.tick then { s with boot := 0, linkUp := !s.ctxs.isEmpty } else { s with boot := 2, linkUp := false }

/-- What the firmware does for the driver: nothing where its image was refused, when the module answers management reads only (R487). -/
def State.managed (s : State) (k : State) : State := if s.boot = 0 then k else s

/-- DEVICE_RESET's state (R51): all resident work is gone and every register has its reset value; memory, registrations, retired cores, ways and
rows, the module's identity and what waits outside stay. The span maps are the identity, without the cores that are retired (R524); the spare lanes
are as the firmware had set them (R4). The ROM reads the image again (R487), and the firmware that boots sets them for the next reset. -/
def State.resetDevice (s : State) : State :=
  let s := s.outAtReset
  let r := State.reset
  let t : State :=
    { r with
      mem := s.mem, ctxs := s.ctxs.map (fun e => (e.1, e.2.afterReset)), queues := s.queues.map (fun e => (e.1, e.2.afterReset)), accels := s.accels,
      retired := s.retired, ways := s.ways, rowsOut := s.rowsOut, spare := s.spareNext, spareNext := s.spareNext, temps := s.temps, inlet := s.inlet,
      interrupts := s.interrupts, epoch := s.epoch + 1, linkHalf := s.linkHalf, linkUp := s.linkUp, sigsLeft := s.sigsLeft,
      lastReply := s.lastReply, agenda := s.agenda, nextId := s.nextId, tick := s.tick }
  let t := t.verifyImage
  let t : State := if t.boot = 0 then { t with spareNext := Config.spareLanes t.tick } else t
  (((t.mapChange (s.retired.flatMap fun p => (t.logicalsOf p).map fun l => (l, none))).progressAll).setClock).bump

/-- CONTROL_PROCESSOR_RESTART's state (R51, R487): the images are measured again, the epoch rises, every queue's progress line says so. The firmware
that has booted sets the spare lanes for the next device reset (R4) and may change the span maps it keeps (R53, R54). -/
def State.restartFirmware (s : State) : State :=
  let s := s.verifyImage
  if s.boot = 0 then
    let s : State := { s with epoch := s.epoch + 1, measures := Config.measures, spareNext := Config.spareLanes s.tick }
    ((s.mapChange (Config.spanChange s.tick)).bump.progressAll).hostEvent 7 0xFF 0
  else s.bump

/-- A junction's temperature (R492): at 110 °C the module resets itself. -/
def State.heat (s : State) (die celsius : Nat) : State := ({ s with temps := FMap.put 0 s.temps die celsius } : State).setClock
def State.overheat (s : State) (die celsius : Nat) : State :=
  let s := s.heat die celsius
  if 110 ≤ celsius then (s.hostEvent 5 0xFF 0).resetDevice else s

/-! ### Commands (R493, R494) -/

/-- A command finishes: its status goes to bytes 4–7 of its block. -/
def State.finishCmd (s : State) (blk status : Nat) : State := s.putHome (blk + 4) (leBytes 4 status)
/-- A command that cannot finish yet goes on running; those behind it wait. -/
def State.unfinished (s : State) (c : Cmd) : State := { s with cmd := some c }

/-! #### Contexts (R495) -/

/-- Every page of a pool is mapped writable. -/
def poolOk (m : Memory) (root va bytes : Nat) : Bool :=
  decide (va % 2 ^ 16 = 0) && (List.range (bytes / 2 ^ 12)).all fun i => match walk m root ((va + 2 ^ 12 * i) % 2 ^ 57) with
    | .leaf l => canonical (va + 2 ^ 12 * i) && (checkLeaf (va + 2 ^ 12 * i) .ewrite l.frame l.writable l.noexec l.uncached l.level).isOk
    | .fault _ _ _ => false

/-- A context record as read: none when it breaks its table. -/
def contextOf (m : Memory) (pa : Nat) : Option Context :=
  let num := fun o n => m.num (pa + o) n
  let policy := num 26 1
  let root := num 0 8
  let pool := fun o k => (num o 8, 2 ^ 16 * num k 4)
  let ok := decide (root % 2 ^ 12 = 0) && tablePlace root && decide (num 16 8 % 64 = 0) && decide (1 ≤ num 24 2 ∧ num 24 2 ≤ 4096) && policy % 4 != 3
    && decide (policy < 32) && num 27 1 == 0 && decide (num 28 4 ≤ 60000) && decide (num 52 4 ≤ 512)
    && poolOk m root (pool 72 96).1 (pool 72 96).2 && poolOk m root (pool 80 100).1 (pool 80 100).2 && poolOk m root (pool 88 104).1 (pool 88 104).2
    && (List.range 20).all fun i => m.byte (pa + 108 + i) == 0
  if ok then
    some { record := pa, root := root, handler := BitVec.ofNat 64 (num 8 8), qtable := num 16 8, qcount := num 24 2, cap := policy % 4,
           watchdog := policy.testBit 2, loadTables := policy.testBit 3, debugBkpt := policy.testBit 4, extTimeout := num 28 4, trapArea := num 32 8,
           faultRing := num 40 8, faultSize := num 48 4, windowLen := 2 ^ 16 * num 52 4, windowBase := 0, callRing := num 56 8, callSize := num 64 4,
           marker := BitVec.ofNat 32 (num 68 4), spill := pool 72 96, save := pool 80 100, shadow := pool 88 104, table := 0, faultIx := 0, callIx := 0,
           faults := [], nextFault := 1, spillMap := [], pins := [], windowSave := none, resident := false, residentSince := 0, candidate := none, busyAt := 0, stuck := 0,
           leaving := false, windows := Memory.empty, event8 := false }
  else none

/-- The lowest place in the die scratchpads for a window: clear of every registered context's. -/
def State.freeWindow (s : State) (len : Nat) : Option Nat :=
  ((List.range 513).map fun k => 2 ^ 16 * k).find? fun b => decide (b + len ≤ 2 ^ 25)
    && s.ctxs.all fun e => decide (b + len ≤ e.2.windowBase ∨ e.2.windowBase + e.2.windowLen ≤ b ∨ len = 0 ∨ e.2.windowLen = 0)

/-- Register a context: a number, a window of zeros on every die, and a slot when one is free (R227, R464). -/
def State.register (s : State) (blk rec : Nat) : State :=
  let s := s.recallRange rec 128
  match contextOf s.mem rec with
  | none => s.finishCmd blk 1
  | some c =>
    match (List.range 255).find? (fun k => (FMap.find s.ctxs k).isNone), s.freeWindow c.windowLen with
    | some slot, some base =>
      let mem := (List.range 4).foldl (fun (m : Memory) d => m.clear (dspadKey d base) c.windowLen) s.mem
      let c := { c with windowBase := base, resident := decide (s.residents < 64), residentSince := s.ns, busyAt := s.ns }
      (({ s with mem := mem, linkUp := true } : State).setCtx slot c |>.putHome (blk + 8) (leBytes 4 slot ++ leBytes 4 base)).finishCmd blk 0
    | _, _ => s.finishCmd blk 3

/-- Launches of a context. -/
def State.launchesOf (s : State) (cid : Nat) : List Nat := (s.vols.filter fun v => v.2.ctx == cid).map Prod.fst

/-- Work of a context that has not left the state. -/
def State.worksFor (s : State) (cid : Nat) : Bool :=
  !(s.launchesOf cid).isEmpty || s.xfers.any (fun x => x.2.ctx == cid) || s.colls.any (fun c => c.2.ctx == cid && c.2.phase != .ended)

/-- Everything that belongs to a context goes with it. -/
def State.forget (s : State) (cid : Nat) : State :=
  { s with ctxs := FMap.remove s.ctxs cid, queues := s.queues.filter (fun e => e.1 / 4096 != cid), tlb := s.tlb.filter (fun t => t.ctx != cid),
           trees := s.trees.filter (fun t => t.ctx != cid), treqs := s.treqs.filter (fun t => t.ctx != cid), accels := s.accels.filter (fun a => a.ctx != cid),
           colls := s.colls.filter (fun c => c.2.ctx != cid), windows := s.windows.filter (fun w => w.2.ctx != cid) }

/-- Release a context: its launches end with status 0x0002, their records are written, and its slot is free when the last has completed. -/
def State.releaseCtx (s : State) (blk cid : Nat) : State :=
  match FMap.find s.ctxs cid with
  | none => s.finishCmd blk 1
  | some _ =>
    let s := (s.launchesOf cid).foldl (fun s v => s.endLaunch v (.killed 0)) s
    let s := (s.launchesOf cid).reverse.foldl (fun s v => s.completeVolume v) s
    if s.worksFor cid then s.unfinished (.release blk cid) else (s.forget cid).finishCmd blk 0

/-! #### Queues (R31, R51) -/

/-- A queue descriptor's bytes obey R31. -/
def queueOk (bs : List W8) : Bool :=
  let num := fun o n => leValue ((bs.drop o).take n)
  decide (num 0 8 % 2 ^ 12 = 0) && decide (4 ≤ num 8 1 ∧ num 8 1 ≤ 16) && decide (num 9 1 ≤ 3) && decide (1 ≤ num 10 1) && decide (num 11 1 < 8)
    && num 12 4 == 0 && decide (num 16 8 % 64 = 0) && decide (num 24 8 % 64 = 0) && num 36 28 == 0

/-- Every page of a range is mapped. -/
def mappedAll (m : Memory) (root va bytes : Nat) : Bool :=
  (List.range ((bytes + 2 ^ 12 - 1) / 2 ^ 12)).all fun i => match walk m root ((va + 2 ^ 12 * i) % 2 ^ 57) with
    | .leaf l => canonical (va + 2 ^ 12 * i) && paKind l.frame != .none
    | .fault _ _ _ => false

/-- The queue a descriptor describes. What it had accepted before goes on as accepted (R35); one enabled at another number than its next counts
what comes before that number as completed once those packets are (R36). -/
def queueFrom (old : Option Queue) (bs : List W8) : Queue :=
  let num := fun o n => leValue ((bs.drop o).take n)
  let first := num 32 4
  let last := (first + 2 ^ 32 - 1) % 2 ^ 32
  let left := (old.map Queue.open').getD []
  let goesOn := old.any fun Q => Q.accepted == last
  let blocked := old.bind Queue.blocked
  { ring := num 0 8, n := num 8 1, ceiling := num 9 1, weight := num 10 1, deviceSide := (num 11 1).testBit 1, poisonAccept := (num 11 1).testBit 2,
    tailVa := num 16 8, progVa := num 24 8, expected := first, accepted := last, completed := if left.isEmpty then last else (old.map Queue.completed).getD last, submitted := last,
    state := if blocked.isSome then .waiting else .running, fault := 0, blocked := blocked,
    open' := if left.isEmpty || goesOn then left else left ++ [(last, true)], signals := (old.map Queue.signals).getD [],
    parents := (old.map Queue.parents).getD [], round := 0 }

/-- Enable or re-enable a queue. -/
def State.enable (s : State) (blk cid q : Nat) : State :=
  match FMap.find s.ctxs cid with
  | none => s.finishCmd blk 1
  | some c =>
    if c.qcount ≤ q then s.finishCmd blk 1
    else
      match s.translate 0 cid c.root (c.qtable + 64 * q) .eread with
      | (.error _, s) => s.finishCmd blk 1
      | (.ok x, s) =>
        let s := s.recallRange x.pa 64
        let bs := s.mem.bytes x.pa 64
        let others := s.queues.filter fun e => e.1 != queueKey cid q && e.2.state != .disabled
        if !queueOk bs ∨ !mappedAll s.mem c.root (leValue (bs.take 8)) (128 * 2 ^ leValue ((bs.drop 8).take 1)) then s.finishCmd blk 1
        else if 4096 ≤ others.length then s.finishCmd blk 3
        else
          let Q := queueFrom (FMap.find s.queues (queueKey cid q)) bs
          (({ s with queues := FMap.insert s.queues (queueKey cid q) Q } : State).progress (queueKey cid q)).finishCmd blk 0

/-- Disable a queue: what it has accepted runs on. -/
def State.disable (s : State) (blk cid q : Nat) : State :=
  match FMap.find s.queues (queueKey cid q) with
  | none => s.finishCmd blk 1
  | some _ => ((s.modQueue (queueKey cid q) fun Q => { Q with state := .disabled }).progress (queueKey cid q)).finishCmd blk 0

/-! #### Translation and peers -/

/-- A quire of the context holds uncommitted stores: an invalidation waits for them (R247). -/
def State.storesHeld (s : State) (cid : Nat) : Bool :=
  s.quires.any fun x => !x.2.store.isEmpty && (match s.envOf x.1 with
    | some e => e.vol.ctx == cid
    | none => false)

/-- An atomic of a context that its home has not performed, or a request of one of its engines that a peer has not completed (R247). -/
def State.accessesDue (s : State) (cid : Nat) : Bool :=
  let quire := fun id => match s.envOf id with
    | some e => e.vol.ctx == cid
    | none => false
  s.asq.any (fun r => match FMap.find s.vols r.vol with
    | some v => v.ctx == cid
    | none => false)
  || s.peerOut.any fun o => match o.use with
    | .load q _ _ => quire q
    | .operand q _ => quire q
    | .piece cmd _ _ => s.xfers.any fun x => x.2.readBy x.1 == cmd && x.2.ctx == cid
    | .wrote id _ => match FMap.find s.xfers id with
      | some x => x.ctx == cid
      | none => false
    | .write _ => false
    | .atomic _ _ => false

/-- Invalidate pages of a context, or all of it (R247); the fault ring is tried again when it completes (R248). -/
def State.invalidatePages (s : State) (blk cid : Nat) (va : W64) (pages : Nat) : State :=
  match FMap.find s.ctxs cid with
  | none => s.finishCmd blk 1
  | some _ =>
    if s.storesHeld cid || s.accessesDue cid then s.unfinished (.invalidate blk cid va pages)
    else
      let first := va.toNat % 2 ^ 57 / 2 ^ 12
      let hit := fun (t : TlbEnt) => t.ctx == cid && (pages == 0 || runsMeet t.vpn t.pages first pages)
      (({ s with tlb := s.tlb.filter fun t => !hit t } : State).retryFaults cid).finishCmd blk 0

/-- Write a peer-table entry (R414, R419): its reserved bits read zero, its lost bit clears, and is set again while none of its stations is up. -/
def State.writePeer (s : State) (blk i : Nat) (v : W64) : State :=
  if 255 < i then s.finishCmd blk 1
  else (State.markLost { s with peers := FMap.put 0 s.peers i (v &&& 0x3FFFFFF0001) }).finishCmd blk 0

def State.writeWindow (s : State) (blk i cid : Nat) (va : W64) (len : Nat) (w : Bool) : State :=
  if 255 < i ∨ (FMap.find s.ctxs cid).isNone ∨ 2 ^ 34 < len then s.finishCmd blk 1
  else ({ s with windows := FMap.insert s.windows i { ctx := cid, va := va, len := len, writable := w } } : State).finishCmd blk 0

/-- Bring stations up (R413). -/
def State.raiseStations (s : State) (blk mask : Nat) : State :=
  let m := mask % 2 ^ 16
  ({ s with stations := s.stations ||| m, fallen := s.fallen &&& ((2 ^ 16 - 1) ^^^ m) } : State).finishCmd blk 0

/-! #### The debugger (R453, R454) -/

/-- Quires a debug command names; none when it names nothing. -/
def State.dbgQuires (s : State) (t : DbgTarget) : List Nat :=
  match t with
  | .quire id => if (FMap.find s.quires id).isSome then [id] else []
  | .gathering g => (s.quires.filter fun x => x.2.gath == g).map Prod.fst
  | .launch v => s.quiresOf v
  | .context c => (s.quires.filter fun x => match s.envOf x.1 with
    | some e => e.vol.ctx == c
    | none => false).map Prod.fst

/-- A stop begins at once, or at the end of the group in progress. -/
def Quire.askStop (q : Quire) : Quire := if q.grp.isSome && q.wait == .none then { q with stepping := true } else { q.switch with stopped := true }

/-- A stop completes when every quire named stands still with nothing owed to it. -/
def State.stop (s : State) (blk : Nat) (t : DbgTarget) : State :=
  let l := s.dbgQuires t
  if l.isEmpty then s.finishCmd blk 1
  else
    let s := l.foldl (fun s id => s.modQuire id fun q => if q.stopped then q else q.askStop) s
    let still := l.all fun id => match FMap.find s.quires id with
      | some q => q.stopped && !s.resultsDue id q
      | none => true
    if still then s.finishCmd blk 0 else s.unfinished (.stop blk t)

def State.resume (s : State) (blk : Nat) (t : DbgTarget) (step : Bool) : State :=
  let l := s.dbgQuires t
  if l.isEmpty then s.finishCmd blk 1
  else (l.foldl (fun s id => s.modQuire id fun q => if q.stopped then { q with stopped := false, stepping := step } else q) s).finishCmd blk 0

/-- Eight bytes of one of the five spaces (R225) as a quire sees them, its uncommitted stores included (R233); none outside the bounds, where
they are not mapped and at a peer (R416). `base`, `index` and `lane` are those of an access: a slice's base and lane (R226), a place offset. -/
def State.dbgMemory (s : State) (e : Env) (sp : Space) (ea base index lane : Nat) : Option (List W8) × State :=
  let take := fun (s : State) (ks : List Nat) (cached : Bool) => let r := s.readKeys e ks cached; (some (r.1.map Prod.fst), r.2)
  if ea % 8 ≠ 0 ∨ e.width ≤ lane then (none, s)
  else if sp = .gen then
    if !canonical ea then (none, s)
    else match s.xl (dieOfCore e.g.pcore) e.g.vol e.vol.ctx e.ctx.root ea .load with
      | (.error _, s) => (none, s)
      | (.ok x, s) => if paKind x.pa = .peer then (none, s) else take s (runKeys x.pa 8) !x.uncached
  else match s.place e sp ea 8 base index lane with
    | none => (none, s)
    | some p => take s p.1 false

/-- What a register named by the debugger holds. -/
def Env.dbgRead (e : Env) (s : State) : DbgReg → Option (List W8)
  | .vec n lane => if n < e.names ∧ lane < e.width then some (leBytes 4 (e.q.regs.vget n lane).toNat) else none
  | .scalar n => if n ≤ 127 then some (leBytes 8 (if n = 127 then 0 else (FMap.val 0 e.q.regs.s n).toNat)) else none
  | .hscalar n => e.q.regs.handler.bind fun h => if 112 ≤ n ∧ n ≤ 126 then some (leBytes 8 (FMap.val 0 h.bank n).toNat) else none
  | .pred k => if k < 8 then some (leBytes 32 (e.q.regs.pget k &&& e.allLanes).toNat) else none
  | .index k lane => if k < 4 ∧ lane < e.width then some (leBytes 4 (e.q.regs.xget k lane).toNat) else none
  | .pc => some (leBytes 8 e.q.pc.toNat)
  | .active => some (leBytes 32 (e.q.regs.path &&& ~~~e.q.regs.padding).toNat)
  | .padding => some (leBytes 32 e.q.regs.padding.toNat)
  | .fpmode => some (leBytes 8 e.q.regs.fpmode.toNat)
  | .fpflags => some (leBytes 8 e.q.regs.fpflags.toNat)
  | .special n lane => if n ≤ 0x16 ∧ lane < e.width then some (leBytes 8 (e.special s n lane)) else none
  | .memory _ _ _ _ _ => none

/-- A register as the debugger writes it; none for what it may not write. -/
def Env.dbgPut (e : Env) (r : DbgReg) (v : Nat) : Option (Regs → Regs) :=
  let lanes := fun (m : LaneSet) => m &&& e.allLanes
  match r with
  | .vec n lane => if n < e.names ∧ lane < e.width then some fun g => { g with v := FMap.put 0 g.v (vKey n lane) (BitVec.ofNat 32 v), vbad := setDel g.vbad (vKey n lane) } else none
  | .scalar n => if n < 127 then some fun g => { g with s := FMap.put 0 g.s n (BitVec.ofNat 64 v), sbad := scalarMarks g.sbad n false } else none
  | .hscalar n => if 112 ≤ n ∧ n ≤ 126 ∧ e.q.regs.handler.isSome then
      some fun g => { g with handler := g.handler.map fun h => { h with bank := FMap.put 0 h.bank n (BitVec.ofNat 64 v), bad := scalarMarks h.bad n false } } else none
  | .pred k => if 1 ≤ k ∧ k < 8 then some fun g => g.pput k e.allLanes (BitVec.ofNat 256 v) else none
  | .index k lane => if k < 4 ∧ lane < e.width then some fun g => g.xput k lane (BitVec.ofNat 32 v) else none
  | .active => some fun g => let m := lanes (BitVec.ofNat 256 v); { g with path := m ||| (g.path &&& g.padding), padding := g.padding &&& ~~~m }
  | .padding => some fun g => let m := lanes (BitVec.ofNat 256 v); { g with path := (g.path &&& ~~~g.padding) ||| m, padding := m }
  | .fpmode => if v % 8 < 5 then some fun g => { g with fpmode := e.fpmodeOf v } else none
  | .fpflags => some fun g => { g with fpflags := BitVec.ofNat 64 (v % 32) }
  | _ => none

/-- A read while the quire is stopped; what is read goes back to the debugger. -/
def State.debugRead (s : State) (blk id : Nat) (r : DbgReg) : State :=
  match s.envOf id with
  | none => s.finishCmd blk 1
  | some e =>
    if !e.q.stopped then s.finishCmd blk 1
    else
      let a : Option (List W8) × State := match r with
        | .memory sp ea base index lane => s.dbgMemory e sp ea base index lane
        | r => (e.dbgRead s r, s)
      match a with
      | (none, s) => s.finishCmd blk 1
      | (some bs, s) => ({ s with lastReply := some bs } : State).finishCmd blk 0

/-- A latch's register copy does not outlive a write of its destination register (R92, R454). -/
def latchesAfterDebug (r : DbgReg) (l : FMap Latch) : FMap Latch :=
  let mark := fun n : Nat => l.map fun e => (e.1, { e.2 with overwritten := e.2.overwritten || e.2.names.contains n })
  match r with
  | .vec n _ => mark n
  | .scalar n => mark (2 ^ 20 + n)
  | _ => l

/-- Rows that a debugger's write maps, as any write of a vector register does (R124). -/
def debugRows : DbgReg → List Nat
  | .vec n lane => [256 * n + lane / 32]
  | _ => []

/-- A write while the quire is stopped (R454): in program order at the stop; a new PC is entered as R74 says. Where a row is needed and none
can be had, the command answers 3, exhausted (DESIGN CHOICE, notes/assumptions/140.md). -/
def State.debugWrite (s : State) (blk id : Nat) (r : DbgReg) (v : Nat) : State :=
  match s.envOf id with
  | none => s.finishCmd blk 1
  | some e =>
    if !e.q.stopped then s.finishCmd blk 1
    else match r with
      | .pc => (s.modQuire id fun q => ({ q with wait := .none, grp := none, snap := none } : Quire).jump (BitVec.ofNat 64 v) true).finishCmd blk 0
      | r => match e.dbgPut r v with
        | none => s.finishCmd blk 1
        | some f => match State.mapNames e.g.pcore e.q.part id (debugRows r) s with
          | none => s.finishCmd blk 3
          | some s => (s.modQuire id fun q => { q with regs := f q.regs, snap := q.snap.map f, latches := latchesAfterDebug r q.latches }).finishCmd blk 0

/-! #### Attestation and remap tables -/

/-- A report over a nonce spends one signature (R488). -/
def State.attestTo (s : State) (blk : Nat) (nonce : List W8) (pa : Nat) : State :=
  if nonce.length ≠ 32 then s.finishCmd blk 1
  else if s.sigsLeft = 0 then s.finishCmd blk 3
  else
    let s : State := { s with sigsLeft := s.sigsLeft - 1 }
    (s.putHome pa (Config.attest nonce s.measures s.epoch s.sigsLeft)).finishCmd blk 0

/-- A remap table as the host reads it (R475, R478): of a core by its physical number, which its die must match (R524). -/
def State.remapTable (s : State) : RemapSel → Option (List W8)
  | .lane die p part => if p < 384 ∧ dieOfCore p = die ∧ part < 4 then some (leBytes 8 (s.laneTable p part).toNat) else none
  | .stack n => if n < 8 then some ((FMap.val [] s.rowsOut n).flatMap (leBytes 8)) else none
  | .tier2 => some ((FMap.val [] s.rowsOut 8).flatMap (leBytes 8))

def State.readTable (s : State) (blk : Nat) (t : RemapSel) : State :=
  match s.remapTable t with
  | none => s.finishCmd blk 1
  | some bs => ({ s with lastReply := some bs } : State).finishCmd blk 0

/-- The command that runs looks again whether it can finish. -/
def State.resumeCmd (s : State) : State :=
  let t : State := { s with cmd := none }
  match s.cmd with
  | none => s
  | some (.release blk cid) => t.releaseCtx blk cid
  | some (.invalidate blk cid va pages) => t.invalidatePages blk cid va pages
  | some (.stop blk d) => t.stop blk d

/-! ### Events -/

/-- DEVICE_RESET (R51). -/
def execDeviceReset (s : State) : Out := .next s.resetDevice
/-- CONTROL_PROCESSOR_RESTART (R51). -/
def execControlProcessorRestart (s : State) : Out := .next s.restartFirmware
/-- MG_POWER (R490). -/
def execMgPower (v : W64) (s : State) : Out := .next (s.managed (s.writePower v))
/-- MG_CLOCK (R491). -/
def execMgClock (v : W64) (s : State) : Out := .next (s.managed (s.writeClock v))
/-- CLOCK_MODE_FALLBACK (R491). -/
def execClockModeFallback (s : State) : Out := .next s.fallBack
/-- ADAPTIVE_CLOCK_STEP (R491). -/
def execAdaptiveClockStep (step : Nat) (s : State) : Out := .next (s.adapt step)
/-- THERMAL_THROTTLE (R492). -/
def execThermalThrottle (die celsius : Nat) (s : State) : Out := .next (s.heat die celsius)
/-- THERMAL_RESET (R492). -/
def execThermalReset (die celsius : Nat) (s : State) : Out := .next (s.overheat die celsius)
/-- MG_EVENTS (R489, R496). -/
def execMgEvents (v : W64) (s : State) : Out := .next (s.managed (s.writeEvents v))
/-- MG_ERRORS (R479, R489). -/
def execMgErrors (v : W64) (s : State) : Out := .next (s.managed (s.writeErrors v))
/-- MG_REGISTER_WRITE (R489). -/
def execMgRegisterWrite (off : Nat) (v : W64) (s : State) : Out := .next (s.managed (s.writeMg off v))
/-- REGISTER_CONTEXT (R495). -/
def execRegisterContext (blk rec : Nat) (s : State) : Out := .next (s.managed (s.register blk rec))
/-- RELEASE_CONTEXT (R494). -/
def execReleaseContext (blk slot : Nat) (s : State) : Out := .next (s.managed (s.releaseCtx blk slot))
/-- ENABLE_QUEUE (R31, R51). -/
def execEnableQueue (blk slot q : Nat) (s : State) : Out := .next (s.managed (s.enable blk slot q))
/-- DISABLE_QUEUE (R494). -/
def execDisableQueue (blk slot q : Nat) (s : State) : Out := .next (s.managed (s.disable blk slot q))
/-- INVALIDATE (R247). -/
def execInvalidate (blk slot : Nat) (va : W64) (pages : Nat) (s : State) : Out := .next (s.managed (s.invalidatePages blk slot va pages))
/-- PEER_ENTRY (R414, R419). -/
def execPeerEntry (blk idx : Nat) (v : W64) (s : State) : Out := .next (s.managed (s.writePeer blk idx v))
/-- INBOUND_WINDOW (R418). -/
def execInboundWindow (blk idx slot : Nat) (va : W64) (len : Nat) (w : Bool) (s : State) : Out := .next (s.managed (s.writeWindow blk idx slot va len w))
/-- STATION_UP (R413). -/
def execStationUp (blk mask : Nat) (s : State) : Out := .next (s.managed (s.raiseStations blk mask))
/-- DEBUG_STOP (R453). -/
def execDebugStop (blk : Nat) (t : DbgTarget) (s : State) : Out := .next (s.managed (s.stop blk t))
/-- DEBUG_RESUME (R453). -/
def execDebugResume (blk : Nat) (t : DbgTarget) (s : State) : Out := .next (s.managed (s.resume blk t false))
/-- DEBUG_STEP (R454). -/
def execDebugStep (blk : Nat) (t : DbgTarget) (s : State) : Out := .next (s.managed (s.resume blk t true))
/-- DEBUG_READ (R454). -/
def execDebugRead (blk quire : Nat) (r : DbgReg) (s : State) : Out := .next (s.managed (s.debugRead blk quire r))
/-- DEBUG_WRITE (R454). -/
def execDebugWrite (blk quire : Nat) (r : DbgReg) (v : Nat) (s : State) : Out := .next (s.managed (s.debugWrite blk quire r v))
/-- ATTEST (R488). -/
def execAttest (blk : Nat) (nonce : List W8) (pa : Nat) (s : State) : Out := .next (s.managed (s.attestTo blk nonce pa))
/-- READ_REMAP (R475, R478). -/
def execReadRemap (blk : Nat) (t : RemapSel) (s : State) : Out := .next (s.managed (s.readTable blk t))
/-- UNKNOWN_COMMAND (R494). -/
def execUnknownCommand (blk code : Nat) (s : State) : Out := .next (s.managed (if 1 ≤ code ∧ code ≤ 0x0B then s else s.finishCmd blk 2))
/-- DRIVER_PREEMPTION_REQUEST (R455). -/
def execDriverPreemptionRequest (blk gath : Nat) (s : State) : Out :=
  .next (s.managed (match FMap.find s.gaths gath with
    | some g => if g.retired || g.saved.isSome then s.finishCmd blk 1 else (s.requestPreemption gath none).finishCmd blk 0
    | none => s.finishCmd blk 1))

end Sys2Proof.Machine
end

