-- ==== Sys2Proof/Machine/Dispatch.lean ====
section
/-! DEFINITION. The machine's instructions and events, one arm each. -/
namespace Sys2Proof.Machine

def exec (i : Instr) (s : State) : Host.Outcome State Fault Refusal :=
  match i with
  | .nop h f => Sys2Proof.Machine.execNop h f s
  | .bra h f => Sys2Proof.Machine.execBra h f s
  | .brc h f => Sys2Proof.Machine.execBrc h f s
  | .brx h f => Sys2Proof.Machine.execBrx h f s
  | .call h f => Sys2Proof.Machine.execCall h f s
  | .callx h f => Sys2Proof.Machine.execCallx h f s
  | .ret h f => Sys2Proof.Machine.execRet h f s
  | .reconv h f => Sys2Proof.Machine.execReconv h f s
  | .loop h f => Sys2Proof.Machine.execLoop h f s
  | .exit h f => Sys2Proof.Machine.execExit h f s
  | .region h f => Sys2Proof.Machine.execRegion h f s
  | .sigck h f => Sys2Proof.Machine.execSigck h f s
  | .yield h f => Sys2Proof.Machine.execYield h f s
  | .bkpt h f => Sys2Proof.Machine.execBkpt h f s
  | .iadd h f => Sys2Proof.Machine.execIadd h f s
  | .iaddI h f => Sys2Proof.Machine.execIaddI h f s
  | .isub h f => Sys2Proof.Machine.execIsub h f s
  | .isubI h f => Sys2Proof.Machine.execIsubI h f s
  | .imul h f => Sys2Proof.Machine.execImul h f s
  | .imulI h f => Sys2Proof.Machine.execImulI h f s
  | .imulh h f => Sys2Proof.Machine.execImulh h f s
  | .imulhI h f => Sys2Proof.Machine.execImulhI h f s
  | .imad h f => Sys2Proof.Machine.execImad h f s
  | .imadI h f => Sys2Proof.Machine.execImadI h f s
  | .imadw h f => Sys2Proof.Machine.execImadw h f s
  | .imadwI h f => Sys2Proof.Machine.execImadwI h f s
  | .imin h f => Sys2Proof.Machine.execImin h f s
  | .iminI h f => Sys2Proof.Machine.execIminI h f s
  | .imax h f => Sys2Proof.Machine.execImax h f s
  | .imaxI h f => Sys2Proof.Machine.execImaxI h f s
  | .iabs h f => Sys2Proof.Machine.execIabs h f s
  | .ineg h f => Sys2Proof.Machine.execIneg h f s
  | .iadd3 h f => Sys2Proof.Machine.execIadd3 h f s
  | .iadd3I h f => Sys2Proof.Machine.execIadd3I h f s
  | .isad h f => Sys2Proof.Machine.execIsad h f s
  | .isadI h f => Sys2Proof.Machine.execIsadI h f s
  | .shl h f => Sys2Proof.Machine.execShl h f s
  | .shlI h f => Sys2Proof.Machine.execShlI h f s
  | .shr h f => Sys2Proof.Machine.execShr h f s
  | .shrI h f => Sys2Proof.Machine.execShrI h f s
  | .sar h f => Sys2Proof.Machine.execSar h f s
  | .rotl h f => Sys2Proof.Machine.execRotl h f s
  | .tril h f => Sys2Proof.Machine.execTril h f s
  | .trilI h f => Sys2Proof.Machine.execTrilI h f s
  | .and h f => Sys2Proof.Machine.execAnd h f s
  | .andI h f => Sys2Proof.Machine.execAndI h f s
  | .or h f => Sys2Proof.Machine.execOr h f s
  | .orI h f => Sys2Proof.Machine.execOrI h f s
  | .xor h f => Sys2Proof.Machine.execXor h f s
  | .xorI h f => Sys2Proof.Machine.execXorI h f s
  | .not h f => Sys2Proof.Machine.execNot h f s
  | .popc h f => Sys2Proof.Machine.execPopc h f s
  | .clz h f => Sys2Proof.Machine.execClz h f s
  | .brev h f => Sys2Proof.Machine.execBrev h f s
  | .bfe h f => Sys2Proof.Machine.execBfe h f s
  | .bfeI h f => Sys2Proof.Machine.execBfeI h f s
  | .bfi h f => Sys2Proof.Machine.execBfi h f s
  | .bfiI h f => Sys2Proof.Machine.execBfiI h f s
  | .icmp h f => Sys2Proof.Machine.execIcmp h f s
  | .icmpI h f => Sys2Proof.Machine.execIcmpI h f s
  | .sel h f => Sys2Proof.Machine.execSel h f s
  | .selI h f => Sys2Proof.Machine.execSelI h f s
  | .mov h f => Sys2Proof.Machine.execMov h f s
  | .movI h f => Sys2Proof.Machine.execMovI h f s
  | .lea h f => Sys2Proof.Machine.execLea h f s
  | .leaI h f => Sys2Proof.Machine.execLeaI h f s
  | .iclamp h f => Sys2Proof.Machine.execIclamp h f s
  | .iclampI h f => Sys2Proof.Machine.execIclampI h f s
  | .fadd h f => Sys2Proof.Machine.execFadd h f s
  | .faddI h f => Sys2Proof.Machine.execFaddI h f s
  | .fsub h f => Sys2Proof.Machine.execFsub h f s
  | .fsubI h f => Sys2Proof.Machine.execFsubI h f s
  | .fmul h f => Sys2Proof.Machine.execFmul h f s
  | .fmulI h f => Sys2Proof.Machine.execFmulI h f s
  | .ffma h f => Sys2Proof.Machine.execFfma h f s
  | .ffmaI h f => Sys2Proof.Machine.execFfmaI h f s
  | .fmin h f => Sys2Proof.Machine.execFmin h f s
  | .fminI h f => Sys2Proof.Machine.execFminI h f s
  | .fmax h f => Sys2Proof.Machine.execFmax h f s
  | .fmaxI h f => Sys2Proof.Machine.execFmaxI h f s
  | .fcmp h f => Sys2Proof.Machine.execFcmp h f s
  | .fcmpI h f => Sys2Proof.Machine.execFcmpI h f s
  | .frcp h f => Sys2Proof.Machine.execFrcp h f s
  | .frsq h f => Sys2Proof.Machine.execFrsq h f s
  | .fsqrt h f => Sys2Proof.Machine.execFsqrt h f s
  | .fexp2 h f => Sys2Proof.Machine.execFexp2 h f s
  | .flog2 h f => Sys2Proof.Machine.execFlog2 h f s
  | .fsin h f => Sys2Proof.Machine.execFsin h f s
  | .fcos h f => Sys2Proof.Machine.execFcos h f s
  | .ftanh h f => Sys2Proof.Machine.execFtanh h f s
  | .fclass h f => Sys2Proof.Machine.execFclass h f s
  | .fscale h f => Sys2Proof.Machine.execFscale h f s
  | .fscaleI h f => Sys2Proof.Machine.execFscaleI h f s
  | .ffrc h f => Sys2Proof.Machine.execFfrc h f s
  | .frnd h f => Sys2Proof.Machine.execFrnd h f s
  | .fdot2 h f => Sys2Proof.Machine.execFdot2 h f s
  | .fdot2I h f => Sys2Proof.Machine.execFdot2I h f s
  | .dadd h f => Sys2Proof.Machine.execDadd h f s
  | .daddI h f => Sys2Proof.Machine.execDaddI h f s
  | .dsub h f => Sys2Proof.Machine.execDsub h f s
  | .dsubI h f => Sys2Proof.Machine.execDsubI h f s
  | .dmul h f => Sys2Proof.Machine.execDmul h f s
  | .dmulI h f => Sys2Proof.Machine.execDmulI h f s
  | .dfma h f => Sys2Proof.Machine.execDfma h f s
  | .dfmaI h f => Sys2Proof.Machine.execDfmaI h f s
  | .dmin h f => Sys2Proof.Machine.execDmin h f s
  | .dminI h f => Sys2Proof.Machine.execDminI h f s
  | .dmax h f => Sys2Proof.Machine.execDmax h f s
  | .dmaxI h f => Sys2Proof.Machine.execDmaxI h f s
  | .dcmp h f => Sys2Proof.Machine.execDcmp h f s
  | .dcmpI h f => Sys2Proof.Machine.execDcmpI h f s
  | .drcpa h f => Sys2Proof.Machine.execDrcpa h f s
  | .drsqa h f => Sys2Proof.Machine.execDrsqa h f s
  | .dsqrt h f => Sys2Proof.Machine.execDsqrt h f s
  | .ddiv h f => Sys2Proof.Machine.execDdiv h f s
  | .ddivI h f => Sys2Proof.Machine.execDdivI h f s
  | .dclass h f => Sys2Proof.Machine.execDclass h f s
  | .dscale h f => Sys2Proof.Machine.execDscale h f s
  | .dscaleI h f => Sys2Proof.Machine.execDscaleI h f s
  | .drnd h f => Sys2Proof.Machine.execDrnd h f s
  | .dfrc h f => Sys2Proof.Machine.execDfrc h f s
  | .cvt h f => Sys2Proof.Machine.execCvt h f s
  | .cvtp h f => Sys2Proof.Machine.execCvtp h f s
  | .cvtq h f => Sys2Proof.Machine.execCvtq h f s
  | .deq h f => Sys2Proof.Machine.execDeq h f s
  | .bppack h f => Sys2Proof.Machine.execBppack h f s
  | .bpunp h f => Sys2Proof.Machine.execBpunp h f s
  | .b8dec h f => Sys2Proof.Machine.execB8dec h f s
  | .b8enc h f => Sys2Proof.Machine.execB8enc h f s
  | .bmux h f => Sys2Proof.Machine.execBmux h f s
  | .pack h f => Sys2Proof.Machine.execPack h f s
  | .plop h f => Sys2Proof.Machine.execPlop h f s
  | .pmov h f => Sys2Proof.Machine.execPmov h f s
  | .poll h f => Sys2Proof.Machine.execPoll h f s
  | .xlane h f => Sys2Proof.Machine.execXlane h f s
  | .redq h f => Sys2Proof.Machine.execRedq h f s
  | .scanq h f => Sys2Proof.Machine.execScanq h f s
  | .matchQ h f => Sys2Proof.Machine.execMatchQ h f s
  | .sread h f => Sys2Proof.Machine.execSread h f s
  | .swrite h f => Sys2Proof.Machine.execSwrite h f s
  | .xset h f => Sys2Proof.Machine.execXset h f s
  | .xadd h f => Sys2Proof.Machine.execXadd h f s
  | .claim h f => Sys2Proof.Machine.execClaim h f s
  | .surr h f => Sys2Proof.Machine.execSurr h f s
  | .maskrd h f => Sys2Proof.Machine.execMaskrd h f s
  | .pad h f => Sys2Proof.Machine.execPad h f s
  | .unpad h f => Sys2Proof.Machine.execUnpad h f s
  | .ubcast h f => Sys2Proof.Machine.execUbcast h f s
  | .ld h f => Sys2Proof.Machine.execLd h f s
  | .st h f => Sys2Proof.Machine.execSt h f s
  | .ldro h f => Sys2Proof.Machine.execLdro h f s
  | .pref h f => Sys2Proof.Machine.execPref h f s
  | .cinv h f => Sys2Proof.Machine.execCinv h f s
  | .cwb h f => Sys2Proof.Machine.execCwb h f s
  | .lds h f => Sys2Proof.Machine.execLds h f s
  | .sts h f => Sys2Proof.Machine.execSts h f s
  | .ldacq h f => Sys2Proof.Machine.execLdacq h f s
  | .strel h f => Sys2Proof.Machine.execStrel h f s
  | .atom h f => Sys2Proof.Machine.execAtom h f s
  | .red h f => Sys2Proof.Machine.execRed h f s
  | .atoms h f => Sys2Proof.Machine.execAtoms h f s
  | .fence h f => Sys2Proof.Machine.execFence h f s
  | .barinit h f => Sys2Proof.Machine.execBarinit h f s
  | .bararv h f => Sys2Proof.Machine.execBararv h f s
  | .barwait h f => Sys2Proof.Machine.execBarwait h f s
  | .bartry h f => Sys2Proof.Machine.execBartry h f s
  | .trywait h f => Sys2Proof.Machine.execTrywait h f s
  | .msync h f => Sys2Proof.Machine.execMsync h f s
  | .attach h f => Sys2Proof.Machine.execAttach h f s
  | .detach h f => Sys2Proof.Machine.execDetach h f s
  | .spawn h f => Sys2Proof.Machine.execSpawn h f s
  | .qpush h f => Sys2Proof.Machine.execQpush h f s
  | .cpy h f => Sys2Proof.Machine.execCpy h f s
  | .cpy2d h f => Sys2Proof.Machine.execCpy2d h f s
  | .cpyt h f => Sys2Proof.Machine.execCpyt h f s
  | .cpymc h f => Sys2Proof.Machine.execCpymc h f s
  | .cpyout h f => Sys2Proof.Machine.execCpyout h f s
  | .cpyfill h f => Sys2Proof.Machine.execCpyfill h f s
  | .hset h f => Sys2Proof.Machine.execHset h f s
  | .hwait h f => Sys2Proof.Machine.execHwait h f s
  | .hdrain h f => Sys2Proof.Machine.execHdrain h f s
  | .hfree h f => Sys2Proof.Machine.execHfree h f s
  | .hstat h f => Sys2Proof.Machine.execHstat h f s
  | .mma h f => Sys2Proof.Machine.execMma h f s
  | .mmas h f => Sys2Proof.Machine.execMmas h f s
  | .mmar h f => Sys2Proof.Machine.execMmar h f s
  | .mldc h f => Sys2Proof.Machine.execMldc h f s
  | .mstc h f => Sys2Proof.Machine.execMstc h f s
  | .mzero h f => Sys2Proof.Machine.execMzero h f s
  | .mact h f => Sys2Proof.Machine.execMact h f s
  | .tex h f => Sys2Proof.Machine.execTex h f s
  | .tld h f => Sys2Proof.Machine.execTld h f s
  | .tgath h f => Sys2Proof.Machine.execTgath h f s
  | .tqry h f => Sys2Proof.Machine.execTqry h f s
  | .hgfetch h f => Sys2Proof.Machine.execHgfetch h f s
  | .hgscat h f => Sys2Proof.Machine.execHgscat h f s
  | .ntex h f => Sys2Proof.Machine.execNtex h f s
  | .tpay h f => Sys2Proof.Machine.execTpay h f s
  | .mvtx h f => Sys2Proof.Machine.execMvtx h f s
  | .mprim h f => Sys2Proof.Machine.execMprim h f s
  | .mdone h f => Sys2Proof.Machine.execMdone h f s
  | .visrd h f => Sys2Proof.Machine.execVisrd h f s
  | .attr h f => Sys2Proof.Machine.execAttr h f s
  | .pixout h f => Sys2Proof.Machine.execPixout h f s
  | .rayq h f => Sys2Proof.Machine.execRayq h f s
  | .raynext h f => Sys2Proof.Machine.execRaynext h f s
  | .rayacc h f => Sys2Proof.Machine.execRayacc h f s
  | .rayend h f => Sys2Proof.Machine.execRayend h f s
  | .rayget h f => Sys2Proof.Machine.execRayget h f s
  | .asbuild h f => Sys2Proof.Machine.execAsbuild h f s
  | .asinfo h f => Sys2Proof.Machine.execAsinfo h f s
  | .tinit h f => Sys2Proof.Machine.execTinit h f s
  | .tsel h f => Sys2Proof.Machine.execTsel h f s
  | .texp h f => Sys2Proof.Machine.execTexp h f s
  | .tback h f => Sys2Proof.Machine.execTback h f s
  | .tleaf h f => Sys2Proof.Machine.execTleaf h f s
  | .treuse h f => Sys2Proof.Machine.execTreuse h f s
  | .tread h f => Sys2Proof.Machine.execTread h f s
  | .coll h f => Sys2Proof.Machine.execColl h f s
  | .collinfo h f => Sys2Proof.Machine.execCollinfo h f s
  | .trap h f => Sys2Proof.Machine.execTrap h f s
  | .trapcall h f => Sys2Proof.Machine.execTrapcall h f s
  | .tret h f => Sys2Proof.Machine.execTret h f s
  | .tkill h f => Sys2Proof.Machine.execTkill h f s
  | .perf h f => Sys2Proof.Machine.execPerf h f s
  | .decsel h f => Sys2Proof.Machine.execDecsel h f s
  | .queueWake ctx q => Sys2Proof.Machine.execQueueWake ctx q s
  | .dependencyWordWrite ctx q => Sys2Proof.Machine.execDependencyWordWrite ctx q s
  | .signalPacketEffect ctx q => Sys2Proof.Machine.execSignalPacketEffect ctx q s
  | .gatheringPlacement => Sys2Proof.Machine.execGatheringPlacement s
  | .binQuirePlacement core bin => Sys2Proof.Machine.execBinQuirePlacement core bin s
  | .binTimerExpiry core bin => Sys2Proof.Machine.execBinTimerExpiry core bin s
  | .meshGatheringPlacement gath => Sys2Proof.Machine.execMeshGatheringPlacement gath s
  | .pendingQuireCreation gath => Sys2Proof.Machine.execPendingQuireCreation gath s
  | .volumeCompletion vol => Sys2Proof.Machine.execVolumeCompletion vol s
  | .deviceReset => Sys2Proof.Machine.execDeviceReset s
  | .controlProcessorRestart => Sys2Proof.Machine.execControlProcessorRestart s
  | .lineFetch quire => Sys2Proof.Machine.execLineFetch quire s
  | .loadDataReturn quire => Sys2Proof.Machine.execLoadDataReturn quire s
  | .rowRefill quire => Sys2Proof.Machine.execRowRefill quire s
  | .claimGrant quire => Sys2Proof.Machine.execClaimGrant quire s
  | .tpaySlotTaken quire => Sys2Proof.Machine.execTpaySlotTaken quire s
  | .qpushRingRoom quire => Sys2Proof.Machine.execQpushRingRoom quire s
  | .barrierWake quire => Sys2Proof.Machine.execBarrierWake quire s
  | .trywaitReevaluation quire => Sys2Proof.Machine.execTrywaitReevaluation quire s
  | .trywaitTimeout quire => Sys2Proof.Machine.execTrywaitTimeout quire s
  | .hwaitWake quire => Sys2Proof.Machine.execHwaitWake quire s
  | .asqRequest k => Sys2Proof.Machine.execAsqRequest k s
  | .asqReply quire => Sys2Proof.Machine.execAsqReply quire s
  | .homeAccept core k => Sys2Proof.Machine.execHomeAccept core k s
  | .storeAcknowledge core die => Sys2Proof.Machine.execStoreAcknowledge core die s
  | .faultEntryRetry ctx => Sys2Proof.Machine.execFaultEntryRetry ctx s
  | .faultResolution ctx entry res => Sys2Proof.Machine.execFaultResolution ctx entry res s
  | .transferStart xfer => Sys2Proof.Machine.execTransferStart xfer s
  | .transferPiece xfer piece => Sys2Proof.Machine.execTransferPiece xfer piece s
  | .matrixResultLanding core part => Sys2Proof.Machine.execMatrixResultLanding core part s
  | .engineResultReturn quire => Sys2Proof.Machine.execEngineResultReturn quire s
  | .treeOperation k => Sys2Proof.Machine.execTreeOperation k s
  | .treeResultLanding quire => Sys2Proof.Machine.execTreeResultLanding quire s
  | .tleafAppend k => Sys2Proof.Machine.execTleafAppend k s
  | .batchTimerExpiry gath handle => Sys2Proof.Machine.execBatchTimerExpiry gath handle s
  | .visibilityResolve vol k => Sys2Proof.Machine.execVisibilityResolve vol k s
  | .tileFinality vol => Sys2Proof.Machine.execTileFinality vol s
  | .collectiveExchange coll rank params data => Sys2Proof.Machine.execCollectiveExchange coll rank params data s
  | .heartbeatSend coll => Sys2Proof.Machine.execHeartbeatSend coll s
  | .memberLost coll rank => Sys2Proof.Machine.execMemberLost coll rank s
  | .viewMessage coll rank view => Sys2Proof.Machine.execViewMessage coll rank view s
  | .coordinatorTimeout coll => Sys2Proof.Machine.execCoordinatorTimeout coll s
  | .finalMaskReceive coll rank mask => Sys2Proof.Machine.execFinalMaskReceive coll rank mask s
  | .finalMaskTimeout coll => Sys2Proof.Machine.execFinalMaskTimeout coll s
  | .collectiveCompletion coll => Sys2Proof.Machine.execCollectiveCompletion coll s
  | .stationReplayFailure station => Sys2Proof.Machine.execStationReplayFailure station s
  | .stationAckTimeout station => Sys2Proof.Machine.execStationAckTimeout station s
  | .peerCompletion req ok data marks => Sys2Proof.Machine.execPeerCompletion req ok data marks s
  | .peerRequestTimeout req => Sys2Proof.Machine.execPeerRequestTimeout req s
  | .peerInboundRequest r => Sys2Proof.Machine.execPeerInboundRequest r s
  | .hostAccess a => Sys2Proof.Machine.execHostAccess a s
  | .contextSwitchIn ctx => Sys2Proof.Machine.execContextSwitchIn ctx s
  | .candidateWaitExpiry ctx => Sys2Proof.Machine.execCandidateWaitExpiry ctx s
  | .preemptionTimeout quire => Sys2Proof.Machine.execPreemptionTimeout quire s
  | .unitSave gath => Sys2Proof.Machine.execUnitSave gath s
  | .unitRestore gath => Sys2Proof.Machine.execUnitRestore gath s
  | .preemptionHoldoffExpiry gath => Sys2Proof.Machine.execPreemptionHoldoffExpiry gath s
  | .datapathError quire e => Sys2Proof.Machine.execDatapathError quire e s
  | .eccEvent e => Sys2Proof.Machine.execEccEvent e s
  | .patrolScrub e => Sys2Proof.Machine.execPatrolScrub e s
  | .laneRemapTimeout quire => Sys2Proof.Machine.execLaneRemapTimeout quire s
  | .deadlockWatchdog ctx => Sys2Proof.Machine.execDeadlockWatchdog ctx s
  | .externalWaitTimeout quire => Sys2Proof.Machine.execExternalWaitTimeout quire s
  | .budgetExhausted quire => Sys2Proof.Machine.execBudgetExhausted quire s
  | .trapcallReply quire => Sys2Proof.Machine.execTrapcallReply quire s
  | .mgPower v => Sys2Proof.Machine.execMgPower v s
  | .mgClock v => Sys2Proof.Machine.execMgClock v s
  | .clockModeFallback => Sys2Proof.Machine.execClockModeFallback s
  | .thermalThrottle die celsius => Sys2Proof.Machine.execThermalThrottle die celsius s
  | .thermalReset die celsius => Sys2Proof.Machine.execThermalReset die celsius s
  | .mgEvents v => Sys2Proof.Machine.execMgEvents v s
  | .mgErrors v => Sys2Proof.Machine.execMgErrors v s
  | .mgRegisterWrite off v => Sys2Proof.Machine.execMgRegisterWrite off v s
  | .registerContext blk rec => Sys2Proof.Machine.execRegisterContext blk rec s
  | .releaseContext blk slot => Sys2Proof.Machine.execReleaseContext blk slot s
  | .enableQueue blk slot q => Sys2Proof.Machine.execEnableQueue blk slot q s
  | .disableQueue blk slot q => Sys2Proof.Machine.execDisableQueue blk slot q s
  | .invalidate blk slot va pages => Sys2Proof.Machine.execInvalidate blk slot va pages s
  | .peerEntry blk idx v => Sys2Proof.Machine.execPeerEntry blk idx v s
  | .inboundWindow blk idx slot va len w => Sys2Proof.Machine.execInboundWindow blk idx slot va len w s
  | .stationUp blk mask => Sys2Proof.Machine.execStationUp blk mask s
  | .debugStop blk t => Sys2Proof.Machine.execDebugStop blk t s
  | .debugResume blk t => Sys2Proof.Machine.execDebugResume blk t s
  | .debugStep blk t => Sys2Proof.Machine.execDebugStep blk t s
  | .debugRead blk quire r => Sys2Proof.Machine.execDebugRead blk quire r s
  | .debugWrite blk quire r v => Sys2Proof.Machine.execDebugWrite blk quire r v s
  | .attest blk nonce pa => Sys2Proof.Machine.execAttest blk nonce pa s
  | .readRemap blk t => Sys2Proof.Machine.execReadRemap blk t s
  | .unknownCommand blk code => Sys2Proof.Machine.execUnknownCommand blk code s
  | .linkLevelAcknowledgement station => Sys2Proof.Machine.execLinkLevelAcknowledgement station s
  | .heartbeatReceive coll rank => Sys2Proof.Machine.execHeartbeatReceive coll rank s
  | .driverPreemptionRequest blk gath => Sys2Proof.Machine.execDriverPreemptionRequest blk gath s
  | .adaptiveClockStep step => Sys2Proof.Machine.execAdaptiveClockStep step s

end Sys2Proof.Machine
end

