-- ==== Sys2Proof/Machine/Loader.lean ====
section
/-! DEFINITION. A small program made to stand in the machine by hand: a context, a launch, a gathering and one quire about to fetch a line.
It stands for what registration (R495), acceptance (R34–R35) and placement (R52–R63) do for a real launch (log entry 7). -/
namespace Sys2Proof.Machine

/-- Where the program's line stands: virtual and physical address 0x10_0000, slot 0 of its line. -/
def loadVa : Nat := 0x100000
def loadPc : W64 := pcOf (BitVec.ofNat 64 loadVa) 0
/-- Five levels of page table from 0x1000 on, mapping the page of the line onto itself, writable. -/
def loadTables : List (Nat × Nat) :=
  [(0x1000, 0x2003), (0x2000, 0x3003), (0x3000, 0x4003), (0x4000, 0x5003), (0x5000 + 8 * 0x100, 0x100083)]

/-- The line of one instruction in slot 0, the other slots empty (R68, R71): target bit of slot 0 set, parity made even (R75). -/
def loadLine (word : List W8) : List W8 :=
  let area := word ++ List.replicate 48 0
  let parity := fun q : Nat => onesOf 120 (leValue ((area.drop (15 * q)).take 15)) % 2 * 2 ^ (28 + q)
  leBytes 4 (parity 0 + parity 1 + parity 2 + parity 3 + 0x2A8 * 2 ^ 18 + 2 ^ 13) ++ area

def loadPacket : Packet :=
  { type := 1, flags := 0, seq := 1, desc := 0, param := 0, vx := 1, vy := 1, vz := 1, width := 0, minQ := 1, maxQ := 16, producer := 0,
    alloc := 96, reserve := 1, spad := 64, prio := 0, contain := 1, spanW := 0, spanH := 0, binTimer := 0, budget := 0, record := 0,
    depWord := 0, depVal := 0, depCmp := 0, inline := [] }

def loadDescriptor : Descriptor :=
  { table := 0, code := loadVa, lines := 1, paramSize := 0, liveVa := 0, liveN := 0, width := 0, minAlloc := 1, minSpad := 0, handles := 64,
    producer := 1 }

def loadVolume : Volume :=
  { ctx := 0, queue := 0, pkt := loadPacket, desc := loadDescriptor, prio := 0, contain := 1, depth := 0, parent := none, children := 0,
    table := 0, next := 1, live := 1, params := [], used := some 1, shadow := [], sealedOn := false, broken := false, replays := 0, render := none,
    ending := .running, collMask := none, collSeen := false, order := 0, done := false }

def loadGathering : Gathering :=
  { vol := 1, role := .main, x := 0, y := 0, z := 0, core := 0, pcore := 0, slot := 0, base := 0, size := 65536, quires := [1], handles := [],
    tracked := [], episodes := [], wanted := [], owed := [], running := [], ringOrder := [], parent := none,
    meshlet := { verts := [], prims := [], closed := false }, batches := [], shrink := false, minQuires := 1, tile := none, ranges := [], marked := [],
    asked := none, avoid := none, holdoff := none, saved := none, bins := [], retired := false, fromBin := false, placed := 0, contain := 1, portion := 0, records := 64 }

def loadContext : Context :=
  { record := 0, root := 0x1000, handler := 0, qtable := 0, qcount := 0, cap := 2, watchdog := true, loadTables := false, debugBkpt := false, extTimeout := 0,
    trapArea := 0, faultRing := 0, faultSize := 0, windowLen := 0, windowBase := 0, callRing := 0, callSize := 0, marker := 0, spill := (0, 0),
    save := (0, 0), shadow := (0, 0), table := 0, faultIx := 0, callIx := 0, faults := [], nextFault := 0, spillMap := [], pins := [], windowSave := none,
    resident := true, residentSince := 0, candidate := none, busyAt := 0, stuck := 0, leaving := false, windows := Memory.empty, event8 := false }

/-- A quire as it starts (R14): 32 lanes, all active. -/
def loadQuire : Quire :=
  let r := Regs.start (LaneSet.below 32) 0 1 0 1 []
  { gath := 1, index := 0, part := 0, slot := 0, regs := r, snap := none, grp := none, pc := loadPc, selfPc := loadPc, fall := loadPc,
    npc := loadPc, checked := true, line := none, sealing := none, refetch := none, latches := [], groupNo := 0, held := none, wait := .none, waited := 0, watched := 0,
    stopped := false, stepping := false, store := [], spadEntries := 0,
    ckpt := { regs := r, pc := loadPc, record := [], queries := [], live := none, latches := [], groupNo := 0 }, pend := [], queries := [], heldSlots := 0, budget := 0,
    perf := [], age := 0, passed := 0, promoted := none, sweep := none, errors := 0, sigFails := (0, 0, 0), arrived := [], save := .running, oldLane := none,
    spilled := [], rows := [], refilled := [], fresh := [], claimed := 0, yielded := none, keepB := false, resumed := none, call := none, returning := false, recordLive := true,
    peerGot := [] }

/-- The machine with one instruction in the line that the one quire of the one launch is about to fetch. -/
def State.load (s : State) (word : List W8) : State :=
  let mem := loadTables.foldl (fun (m : Memory) e => m.setNum e.1 8 e.2) s.mem
  { s with mem := mem.setBytes loadVa (loadLine word), quires := [(1, loadQuire)], gaths := [(1, loadGathering)], vols := [(1, loadVolume)],
           ctxs := [(0, loadContext)], cur := 1, agenda := [], cmd := none, nextId := max s.nextId 2 }

end Sys2Proof.Machine
end

