-- ==== Sys2Proof/Machine/Movers.lean ====
section
/-! DEFINITION. What may come next (R93, R119, R120, and the rule of each event): which quire of a partition issues, which of the J384's own
events are due, and the free choice among what is due. -/
namespace Sys2Proof.Machine

/-! ### The J384's own events -/

/-- An event of the J384 that becomes due by itself; what reaches it from outside stands in the agenda. -/
inductive Event where
  | queueWake (ctx q : Nat) | dependencyWordWrite (ctx q : Nat) | signalPacketEffect (ctx q : Nat)
  | gatheringPlacement | binQuirePlacement (core bin : Nat) | binTimerExpiry (core bin : Nat) | meshGatheringPlacement (gath : Nat)
  | pendingQuireCreation (gath : Nat) | volumeCompletion (vol : Nat)
  | lineFetch (quire : Nat) | loadDataReturn (quire : Nat) | rowRefill (quire : Nat) | claimGrant (quire : Nat) | tpaySlotTaken (quire : Nat)
  | qpushRingRoom (quire : Nat) | barrierWake (quire : Nat) | trywaitReevaluation (quire : Nat) | trywaitTimeout (quire : Nat) | hwaitWake (quire : Nat)
  | asqRequest (k : Nat) | asqReply (quire : Nat) | homeAccept (core k : Nat) | storeAcknowledge (core die : Nat)
  | faultEntryRetry (ctx : Nat) | faultResolution (ctx entry res : Nat)
  | transferStart (xfer : Nat) | transferPiece (xfer piece : Nat) | matrixResultLanding (core part : Nat) | engineResultReturn (quire : Nat)
  | treeOperation (k : Nat) | treeResultLanding (quire : Nat) | tleafAppend (k : Nat) | batchTimerExpiry (gath handle : Nat)
  | visibilityResolve (vol k : Nat) | tileFinality (vol : Nat)
  | heartbeatSend (coll : Nat) | memberLost (coll rank : Nat) | coordinatorTimeout (coll : Nat) | finalMaskTimeout (coll : Nat)
  | collectiveCompletion (coll : Nat) | stationAckTimeout (station : Nat) | peerRequestTimeout (req : Nat)
  | contextSwitchIn (ctx : Nat) | candidateWaitExpiry (ctx : Nat) | preemptionTimeout (quire : Nat) | unitSave (gath : Nat) | unitRestore (gath : Nat)
  | preemptionHoldoffExpiry (gath : Nat) | laneRemapTimeout (quire : Nat) | deadlockWatchdog (ctx : Nat) | externalWaitTimeout (quire : Nat)
  | budgetExhausted (quire : Nat) | trapcallReply (quire : Nat)
deriving DecidableEq, Repr

/-- What an event does: the meaning of its row of the table. -/
def Event.run (ev : Event) (s : State) : Out :=
  match ev with
  | .queueWake c q => execQueueWake c q s
  | .dependencyWordWrite c q => execDependencyWordWrite c q s
  | .signalPacketEffect c q => execSignalPacketEffect c q s
  | .gatheringPlacement => execGatheringPlacement s
  | .binQuirePlacement c b => execBinQuirePlacement c b s
  | .binTimerExpiry c b => execBinTimerExpiry c b s
  | .meshGatheringPlacement g => execMeshGatheringPlacement g s
  | .pendingQuireCreation g => execPendingQuireCreation g s
  | .volumeCompletion v => execVolumeCompletion v s
  | .lineFetch q => execLineFetch q s
  | .loadDataReturn q => execLoadDataReturn q s
  | .rowRefill q => execRowRefill q s
  | .claimGrant q => execClaimGrant q s
  | .tpaySlotTaken q => execTpaySlotTaken q s
  | .qpushRingRoom q => execQpushRingRoom q s
  | .barrierWake q => execBarrierWake q s
  | .trywaitReevaluation q => execTrywaitReevaluation q s
  | .trywaitTimeout q => execTrywaitTimeout q s
  | .hwaitWake q => execHwaitWake q s
  | .asqRequest k => execAsqRequest k s
  | .asqReply q => execAsqReply q s
  | .homeAccept c k => execHomeAccept c k s
  | .storeAcknowledge c d => execStoreAcknowledge c d s
  | .faultEntryRetry c => execFaultEntryRetry c s
  | .faultResolution c e r => execFaultResolution c e r s
  | .transferStart x => execTransferStart x s
  | .transferPiece x p => execTransferPiece x p s
  | .matrixResultLanding c p => execMatrixResultLanding c p s
  | .engineResultReturn q => execEngineResultReturn q s
  | .treeOperation k => execTreeOperation k s
  | .treeResultLanding q => execTreeResultLanding q s
  | .tleafAppend k => execTleafAppend k s
  | .batchTimerExpiry g h => execBatchTimerExpiry g h s
  | .visibilityResolve v k => execVisibilityResolve v k s
  | .tileFinality v => execTileFinality v s
  | .heartbeatSend c => execHeartbeatSend c s
  | .memberLost c r => execMemberLost c r s
  | .coordinatorTimeout c => execCoordinatorTimeout c s
  | .finalMaskTimeout c => execFinalMaskTimeout c s
  | .collectiveCompletion c => execCollectiveCompletion c s
  | .stationAckTimeout k => execStationAckTimeout k s
  | .peerRequestTimeout r => execPeerRequestTimeout r s
  | .contextSwitchIn c => execContextSwitchIn c s
  | .candidateWaitExpiry c => execCandidateWaitExpiry c s
  | .preemptionTimeout q => execPreemptionTimeout q s
  | .unitSave g => execUnitSave g s
  | .unitRestore g => execUnitRestore g s
  | .preemptionHoldoffExpiry g => execPreemptionHoldoffExpiry g s
  | .laneRemapTimeout q => execLaneRemapTimeout q s
  | .deadlockWatchdog c => execDeadlockWatchdog c s
  | .externalWaitTimeout q => execExternalWaitTimeout q s
  | .budgetExhausted q => execBudgetExhausted q s
  | .trapcallReply q => execTrapcallReply q s

/-- A list of one, or none. -/
def dueIf {α : Type} (b : Bool) (x : α) : List α := if b then [x] else []

/-! ### Which quire issues (R93, R119, R120) -/

/-- Those of several quires that may issue in this clock: one that has just executed YIELD stands back for the others (R148). -/
def standBack (clock : Nat) (l : List (Nat × Quire)) : List (Nat × Quire) :=
  match l.filter fun x => !(x.2.yielded.any fun t => decide (clock ≤ t + 1)) with
  | [] => l
  | m => m

/-- The quire a partition issues next (R93, R120): one whose group is in progress, one inside a sealed line, the first promoted, the oldest. -/
def State.pickQuire (s : State) (p part : Nat) : Option Nat :=
  let l := s.onPart p part
  let running := l.filter fun x => x.2.grp.isSome && x.2.wait == .none && !x.2.stopped
  match running with
  | x :: _ => some x.1
  | [] =>
    let l := match l with
      | [x] => if x.2.mayIssue then l else []
      | _ => standBack s.clock (l.filter fun x => s.ready x.1 || s.stallsNow x.1)
    match l.filter (fun x => x.2.sealing == some true), leastOf (fun x => x.2.promoted.getD 0) (l.filter fun x => x.2.promoted.isSome) with
    | x :: _, _ => some x.1
    | [], some x => some x.1
    | [], none => (leastOf (fun x => x.2.age) l).map Prod.fst

/-- Partitions that hold a quire. -/
def State.partitions (s : State) : List (Nat × Nat) :=
  (s.quires.filterMap fun x => if x.2.mayIssue || x.2.grp.isSome then (FMap.find s.gaths x.2.gath).map fun g => (g.pcore, x.2.part) else none).eraseDups

/-- Quires whose member is held in its place (R267, R352): it may find its way clear. -/
def State.heldQuires (s : State) : List Nat := (s.quires.filter fun x => x.2.memberHeld && !x.2.stopped).map Prod.fst

/-- The quires that issue next, one to a partition. -/
def State.issuers (s : State) : List Nat := s.partitions.filterMap fun x => s.pickQuire x.1 x.2

/-! ### What is due -/

/-- Events of one quire. -/
def State.quireEvents (s : State) (issuers : List Nat) (id : Nat) (q : Quire) : List Event :=
  match s.envOf id with
  | none => []
  | some e =>
    let pend := fun (k : PendKind) => q.pend.any fun p => p.kind == k && p.ready
    dueIf (q.wantsLine && !issuers.contains id) (.lineFetch id)
      ++ dueIf (pend .load) (.loadDataReturn id) ++ dueIf (pend .engine) (.engineResultReturn id) ++ dueIf (pend .tree) (.treeResultLanding id)
      ++ dueIf (pend .asq) (.asqReply id) ++ dueIf (!q.spilled.isEmpty && ((e.rowWanted s).bind (s.refill e.g.pcore q.part id)).isSome) (.rowRefill id)
      ++ (match q.wait with
        | .none => []
        | .stall (.claim n seq) => dueIf (!s.claimBefore e seq && decide ((n - q.claimed) * e.words * 16 ≤ s.poolRows e.g.pcore q.part)) (.claimGrant id)
        | .stall (.tpay _ _ _) => dueIf e.g.freeSlot.isSome (.tpaySlotTaken id)
        | .stall (.qpush _ _ _) => [.qpushRingRoom id]
        | .stall _ => []
        | .drain => dueIf (!q.repliesDue) (.asqReply id)
        | .barwait k gen _ => dueIf (s.generation e k != gen.toNat) (.barrierWake id)
        | .tryw t => dueIf (s.tryHolds e t) (.trywaitReevaluation id) ++ dueIf (t.limit != 2 ^ 32 - 1 && decide (t.limit ≤ q.waited)) (.trywaitTimeout id)
        | .msync _ => []
        | .barlost => []
        | .hwait h full => dueIf ((s.handle q.gath h).state == (if full then .full else .free)) (.hwaitWake id)
        | .call => [.trapcallReply id]
        | .reply _ => dueIf (!q.owesReply e.slot) (.asqReply id)
        | .fault _ _ _ => []
        | .deliver _ _ => []
        | .treeFault _ => [])
      ++ dueIf (s.pointDue e) (.preemptionTimeout id) ++ dueIf (s.copyLate q) (.laneRemapTimeout id)
      ++ dueIf (e.ctx.extTimeout != 0 && q.wait.outside && decide (1000000 * e.ctx.extTimeout < q.watched) && e.g.asked.isNone) (.externalWaitTimeout id)
      ++ dueIf (e.overBudget && q.mayIssue) (.budgetExhausted id)

/-- Events of one gathering. -/
def State.gathEvents (s : State) (gid : Nat) (g : Gathering) : List Event :=
  dueIf (!g.ringOrder.isEmpty && (s.meshPlan g).isSome) (.meshGatheringPlacement gid)
    ++ dueIf (!g.wanted.isEmpty && (s.pendingPlan gid g).isSome) (.pendingQuireCreation gid)
    ++ (g.batches.filterMap fun b => if b.2.2.1 != 0 && decide (b.2.2.2 + 250 * b.2.2.1 ≤ s.ns) then some (.batchTimerExpiry gid b.1) else none)
    ++ dueIf (g.asked.isSome && s.drained (s.unitOf gid)) (.unitSave gid)
    ++ dueIf (g.saved.isSome && (s.returnPlan gid).isSome) (.unitRestore gid)
    ++ dueIf (g.holdoff.isSome && !s.heldOff g) (.preemptionHoldoffExpiry gid)

/-- Events of one core: placements of its bins, stores that reach their homes, acknowledgements, fences that may go on. -/
def State.coreEvents (s : State) (p : Nat) (v : Core) : List Event :=
  (v.bins.flatMap fun b => dueIf (s.binPlan p b.2).isSome (.binQuirePlacement p b.1) ++ dueIf (s.binExpired b.2) (.binTimerExpiry p b.1))
    ++ ((List.range v.out.length).filterMap fun i => if outReady v.out i then some (.homeAccept p i) else none)
    ++ v.acks.eraseDups.map (.storeAcknowledge p)
    ++ dueIf (s.quires.any (s.fenceOver p)) (.storeAcknowledge p 0)

/-- Events of one launch. -/
def State.volEvents (s : State) (vid : Nat) (v : Volume) : List Event :=
  dueIf (s.volumeDue vid v) (.volumeCompletion vid) ++ (match v.render with
    | none => []
    | some r => (r.work.filterMap fun w => if w.written && decide (w.cursor < r.target.width * r.target.height) then some (.visibilityResolve vid w.serial) else none)
        ++ dueIf (if r.final then !r.clears.isEmpty || decide (r.spawnCursor < r.target.places) else s.tilesDone vid v r) (.tileFinality vid))

/-- Events of one queue: its tail has moved, or an accepted packet waits (R33, R37–R39); a context that is not resident becomes a candidate. -/
def State.queueEvents (s : State) (qk : Nat) (Q : Queue) : List Event :=
  match FMap.find s.ctxs (qk / 4096) with
  | none => []
  | some c =>
    let moved := match s.tailNow c Q with
      | some t => t != Q.submitted
      | none => false
    let serves := Q.state == .running || Q.state == .waiting
    dueIf (serves && (moved || Q.mayAccept) && (c.resident || c.candidate.isNone)) (.queueWake (qk / 4096) (qk % 4096))
      ++ dueIf (Q.blocked.any fun p => c.resident || (c.candidate.isNone && (s.blockedHolds qk c.root p).1)) (.dependencyWordWrite (qk / 4096) (qk % 4096))
      ++ dueIf ((c.resident || c.candidate.isNone) && (match Q.signals, Q.open' with
        | p :: _, x :: _ => p.seq == x.1
        | _, _ => false)) (.signalPacketEffect (qk / 4096) (qk % 4096))

/-- The resolution a driver has written into a fault entry (R248), as it stands in memory. -/
def State.resolutionOf (s : State) (c : Context) (f : FaultEnt) : Nat :=
  if !f.written then 0
  else match walk s.mem c.root ((c.faultRing + 32 * f.slot + 24) % 2 ^ 57) with
    | .leaf l => s.mem.num (l.frame + (c.faultRing + 32 * f.slot + 24) % 2 ^ 12) 4
    | .fault _ _ _ => 0

/-- Events of one context. -/
def State.ctxEvents (s : State) (cid : Nat) (c : Context) : List Event :=
  dueIf (c.faults.any fun f => !f.2.written) (.faultEntryRetry cid)
    ++ (c.faults.filterMap fun f => let r := s.resolutionOf c f.2; if r = 0 then none else some (.faultResolution cid f.1 r))
    ++ dueIf (c.candidate.isSome && !c.resident) (.contextSwitchIn cid) ++ dueIf (!c.resident && s.candidateLate cid) (.candidateWaitExpiry cid)
    ++ dueIf (c.watchdog && decide (50000000 ≤ c.stuck) && s.deadlocked cid) (.deadlockWatchdog cid)

/-- Events of one transfer. -/
def State.xferEvents (s : State) (id : Nat) (x : Transfer) : List Event :=
  if !x.started then [.transferStart id]
  else if x.fault.isSome then []
  else match x.kind with
    | .coll c => dueIf (match FMap.find s.colls c with
      | some k => !k.opened && !k.settled
      | none => false) (.transferPiece id 0)
    | _ => ((List.range x.total).filter fun p => !x.pieces.contains p && !s.asksPiece (x.readBy id) p && !(s.peerOut.any fun o => o.use == .wrote id p)).map (.transferPiece id)

/-- Events of one collective. -/
def State.collEvents (s : State) (id : Nat) (c : Coll) : List Event :=
  if !c.opened || c.phase == .ended then []
  else
    let since := fun (n : Nat) => match c.round with
      | some t => decide (t + n ≤ s.ns)
      | none => false
    dueIf c.due (.collectiveCompletion id)
      ++ (if c.settled then [] else
        dueIf (decide (c.sentAt + 250000 ≤ s.ns)) (.heartbeatSend id)
          ++ (((List.range c.n).filter (s.mayDeclare c)).map (.memberLost id))
          ++ dueIf (c.coordinates && since 2000000) (.coordinatorTimeout id)
          ++ dueIf (s.maskDue c) (.finalMaskTimeout id))

/-- Every event that is due. -/
def State.dueEvents (s : State) (issuers : List Nat) : List Event :=
  (s.quires.flatMap fun x => s.quireEvents issuers x.1 x.2)
    ++ (s.gaths.flatMap fun x => s.gathEvents x.1 x.2)
    ++ (s.cores.flatMap fun x => s.coreEvents x.1 x.2)
    ++ (s.vols.flatMap fun x => s.volEvents x.1 x.2)
    ++ (s.queues.flatMap fun x => s.queueEvents x.1 x.2)
    ++ (s.ctxs.flatMap fun x => s.ctxEvents x.1 x.2)
    ++ (s.xfers.flatMap fun x => s.xferEvents x.1 x.2)
    ++ (s.colls.flatMap fun x => s.collEvents x.1 x.2)
    ++ dueIf (s.vols.any fun v => s.launchWaits v.2) .gatheringPlacement
    ++ ((s.asq.filter s.asqReady).map fun r => .asqRequest r.id)
    ++ (((s.mjobs.map fun j => (j.core, j.part)).eraseDups.filter fun x => s.jobReady x.1 x.2).map fun x => .matrixResultLanding x.1 x.2)
    ++ ((s.treqs.filter s.treeReady).map fun r => .treeOperation r.id)
    ++ ((List.range s.apps.length).map .tleafAppend)
    ++ ((s.peerOut.filter s.requestLost).map fun o => .peerRequestTimeout o.id)
    ++ ((s.flits.filter fun f => s.ackLate f.1).map fun f => .stationAckTimeout f.1)

/-! ### The choice -/

/-- Something that can happen next: a quire's next member, an event that is due, the command that runs, the next external event, a marked sector that
goes out to DRAM (R467). -/
inductive Mover where
  | quire (id : Nat)
  | event (e : Event)
  | command
  | agenda
  | evict (sector : Nat)
deriving DecidableEq, Repr

/-- Commands run one at a time (R493). -/
def Instr.isCommand : Instr → Bool
  | .registerContext _ _ => true
  | .releaseContext _ _ => true
  | .enableQueue _ _ _ => true
  | .disableQueue _ _ _ => true
  | .invalidate _ _ _ _ => true
  | .peerEntry _ _ _ => true
  | .inboundWindow _ _ _ _ _ _ => true
  | .stationUp _ _ => true
  | .debugStop _ _ => true
  | .debugResume _ _ => true
  | .debugStep _ _ => true
  | .debugRead _ _ _ => true
  | .debugWrite _ _ _ _ => true
  | .attest _ _ _ => true
  | .readRemap _ _ => true
  | .unknownCommand _ _ => true
  | .driverPreemptionRequest _ _ => true
  | _ => false

/-- The next external event, and those left: while a command runs, those that are commands wait. -/
def State.nextExternal (s : State) : Option (Instr × List Instr) :=
  match s.agenda.find? fun i => s.cmd.isNone || !Instr.isCommand i with
  | none => none
  | some i => some (i, s.agenda.erase i)

/-- What can come next. -/
def State.movers (s : State) : List Mover :=
  let l := s.issuers
  (l ++ s.heldQuires).map Mover.quire ++ (s.dueEvents l).map Mover.event ++ dueIf s.cmd.isSome .command ++ dueIf s.nextExternal.isSome .agenda ++ s.mem.partMarked.map .evict

/-- One of several, by free choice. -/
def choose {α : Type} (tick : Nat) : List α → Option α
  | [] => none
  | [a] => some a
  | l => l[Config.free .order tick % l.length]?

/-! ### Time -/

/-- The quire is parked (R372, R248, R444, R449): it neither issues nor stalls at issue. -/
def Wait.parked : Wait → Bool
  | .none => false
  | .stall _ => false
  | .reply _ => false
  | _ => true

/-- `k` clocks and `t` nanoseconds pass for a quire: its wait grows, and its counters (R451): a parked one counts clocks; of one with registers
pending, some are spent before the scoreboard. The watchdog of an external wait stands still where its context is `frozen` (R453). -/
def Quire.pass (q : Quire) (k t blocked : Nat) (frozen : Bool) : Quire :=
  let q : Quire := { q with waited := if q.wait == .none then 0 else q.waited + t,
                            watched := if !q.wait.outside then 0 else if frozen then q.watched else q.watched + t }
  if q.wait.parked then q.perfAdd 2 k
  else if q.wait == .none && !q.pend.isEmpty then q.perfAdd 3 (blocked % (k + 1))
  else q

/-- `t` nanoseconds pass for a context: how long only device-internal waits have stood in it (R390), when it was last busy (R464). -/
def State.passCtx (s : State) (t cid : Nat) (c : Context) : Context :=
  { c with stuck := if s.deadlocked cid then c.stuck + t else if s.ctxStopped cid then c.stuck else 0, busyAt := if s.idleCtx cid c then c.busyAt else s.ns + t }

/-- The seal of a line lapses where the next group of its quire is not ready (R93). -/
def State.lapseSeals (s : State) : State :=
  if s.quires.any fun x => x.2.sealing == some true then
    { s with quires := s.quires.map fun x => if x.2.sealing == some true && !s.ready x.1 then (x.1, { x.2 with sealing := none }) else x }
  else s

/-- Quires that the last sweep of their partition passed over are counted once no group is in progress there (R120). -/
def State.countSweeps (s : State) : State :=
  let l := s.quires.filter fun x => x.2.sweep.isSome && (match FMap.find s.gaths x.2.gath with
    | some g => !(s.onPart g.pcore x.2.part).any fun y => y.2.grp.isSome && y.2.wait == .none && !y.2.stopped
    | none => true)
  l.foldl (fun t x => t.bump.setQuire x.1 (x.2.countSweep (s.ready x.1) (Config.free .elapsed t.tick) s.nextId)) s

/-- Time passes (R27, R216): by how much is free. -/
def State.pass (s : State) : State :=
  let k := Config.free .elapsed s.tick
  let t := Config.free .elapsed (s.tick + 1)
  let s := s.lapseSeals.countSweeps
  let s' : State := { s with clock := s.clock + k, ns := s.ns + t, tick := s.tick + 3, ctxs := s.ctxs.map (fun x => (x.1, s.passCtx t x.1 x.2)),
                             quires := s.quires.map fun x => (x.1, x.2.pass k t (Config.free .elapsed (s.tick + 2)) (match s.envOf x.1 with | some e => s.ctxStopped e.vol.ctx | none => false)) }
  s'.reshrink

end Sys2Proof.Machine
end

