-- ==== Sys2Proof/Machine/Step.lean ====
section
/-! DEFINITION. One step of the machine: time passes, and one of the things that are due happens: a quire executes the next member of its
issue group, or an event takes place. -/
namespace Sys2Proof.Machine

/-- What follows an executed member. -/
def finishMember (id : Nat) (r : Host.Outcome State Fault Refusal) : Host.Outcome State Fault Refusal :=
  match r with
  | .next s => .next (s.afterMember id)
  | .fault f => .fault f
  | .refused f => .refused f

/-- A quire's turn: it comes to its next member and executes it. -/
def State.turn (s : State) (id : Nat) : Host.Outcome State Fault Refusal :=
  let s := s.prepare id
  match s.nextMember id with
  | none => .next (s.afterMember id)
  | some m => finishMember id (exec m.ins (s.enterMember id m))

/-- The next external event takes place; an instruction is no event. -/
def State.external (s : State) : Host.Outcome State Fault Refusal :=
  match s.nextExternal with
  | none => .next s
  | some (i, l) => match Instr.hdr i with
    | some _ => .next { s with agenda := l }
    | none => exec i { s with agenda := l }

def step (s : State) : Host.Outcome State Fault Refusal :=
  let s := s.pass
  match choose s.tick s.movers with
  | none => .next s
  | some (.quire id) => s.bump.turn id
  | some (.event e) => e.run s.bump
  | some .command => .next s.bump.resumeCmd
  | some (.evict x) => .next { s.bump with mem := s.mem.spread x }
  | some .agenda => s.bump.external

/-- The state with one instruction, its bits numbered as the table of opcodes numbers them, where the next step fetches. -/
def State.withFetchWord (s : State) (nbits w : Nat) : State := s.load (leBytes 12 (w % 2 ^ nbits))

end Sys2Proof.Machine
end

