-- ==== Sys2Proof/Laws/Encoding.lean ====
section
/-! SUPPORT. The encoder's fields come back from the decoder unchanged: specifiers (R87), header (R80), formats (R83), and the word they stand in
(R68). -/
namespace Sys2Proof.Laws

/-! ### Two words side by side -/

theorem extract_low {m n : Nat} (a : BitVec m) (b : BitVec n) (lo len : Nat) (h : lo + len ≤ n) :
    (a ++ b).extractLsb' lo len = b.extractLsb' lo len := by
  ext i hi
  simp only [BitVec.getElem_extractLsb', BitVec.getLsbD_append]
  rw [if_pos (by omega)]

theorem extract_high {m n : Nat} (a : BitVec m) (b : BitVec n) (lo len : Nat) (h : n ≤ lo) :
    (a ++ b).extractLsb' lo len = a.extractLsb' (lo - n) len := by
  ext i hi
  simp only [BitVec.getElem_extractLsb', BitVec.getLsbD_append]
  rw [if_neg (by omega), show lo + i - n = lo - n + i by omega]

theorem extract_top {m n : Nat} (a : BitVec m) (b : BitVec n) : (a ++ b).extractLsb' n m = a := by
  rw [extract_high _ _ _ _ (Nat.le_refl _)]
  ext i hi
  simp

theorem low_bits {m n : Nat} (a : BitVec m) (b : BitVec n) (k : Nat) (h : k ≤ n) : (a ++ b).setWidth k = b.setWidth k := by
  ext i hi
  simp only [BitVec.getElem_setWidth, BitVec.getLsbD_append]
  rw [if_pos (by omega)]

theorem low_all {n : Nat} (a : BitVec n) : a.setWidth n = a := by simp

theorem bit_low {m n : Nat} (a : BitVec m) (b : BitVec n) (i : Nat) (h : i < n) : (a ++ b).getLsbD i = b.getLsbD i := by
  rw [BitVec.getLsbD_append, if_pos h]

theorem bit_top {n : Nat} (a : Bool) (b : BitVec n) : (bit a ++ b).getLsbD n = a := by
  rw [BitVec.getLsbD_append, if_neg (by omega), Nat.sub_self]
  cases a <;> rfl

theorem bit_one (a : Bool) : (bit a).getLsbD 0 = a := by cases a <;> rfl

theorem shift_top {m n : Nat} (a : BitVec m) (b : BitVec n) : ((a ++ b) >>> n).setWidth m = a := by
  ext i hi
  simp only [BitVec.getElem_setWidth, BitVec.getLsbD_ushiftRight, BitVec.getLsbD_append]
  rw [if_neg (by omega), show n + i - n = i by omega]
  simp [hi]

/-! ### Codes -/

theorem ty_code (t : Ty) : tyOf t.code = t := by cases t <;> rfl
theorem rnd_code (t : RndField) : rndOf t.code = t := by cases t <;> rfl
theorem width_code (t : Width) : widthOf t.code = t := by cases t <;> rfl
theorem space_code (t : Space) : spaceOf t.code = t := by cases t <;> rfl
theorem scope_code (t : Scope) : scopeOf t.code = t := by cases t <;> rfl
theorem negAbs_code (n : NegAbs) : negAbsOf n.code = n := by
  obtain ⟨a, b⟩ := n
  cases a <;> cases b <;> rfl

/-- The kind and the number field of a specifier. -/
theorem opnd_split (k : BitVec 2) (n : BitVec 11) : opndOf (k ++ n : BitVec 13) =
    if k = 0 then .v n
    else if k = 1 then .s (n.extractLsb' 7 4) (n.setWidth 7)
    else if k = 2 then .l (n.extractLsb' 3 8) (n.setWidth 3)
    else if n.getLsbD 10 then .x (n.extractLsb' 8 2) (n.setWidth 8)
    else .imm (n.setWidth 10) := by
  simp (disch := omega) only [opndOf, @low_bits 2 11, low_all, @shift_top 2 11]

theorem opnd_code (o : Opnd) : opndOf o.code = o := by
  cases o with
  | v n => exact opnd_split 0 n
  | s hi n =>
    refine (opnd_split 1 (hi ++ n)).trans ?_
    simp (disch := omega) only [@extract_top 4 7, @low_bits 4 7, low_all]
    rfl
  | l hi n =>
    refine (opnd_split 2 (hi ++ n)).trans ?_
    simp (disch := omega) only [@extract_top 8 3, @low_bits 8 3, low_all]
    rfl
  | x k off =>
    refine (opnd_split 3 (bit true ++ (k ++ off))).trans ?_
    simp (disch := omega) only [@bit_top 10, @extract_low 1 10, @extract_top 2 8, @low_bits 1 10, @low_bits 2 8, low_all]
    rfl
  | imm i =>
    refine (opnd_split 3 (bit false ++ i)).trans ?_
    simp (disch := omega) only [@bit_top 10, @low_bits 1 10, low_all]
    rfl

/-! ### Header and formats -/

theorem hdr_code (h : Hdr) : hdrOf h.code = h := by
  simp (disch := omega) only [hdrOf, Hdr.code, @extract_low 1 9, @bit_top 9, @bit_low 1 9, @extract_low 3 6, @extract_top 3 6,
    @bit_low 3 6, @extract_low 1 5, @bit_top 5, @bit_low 1 5, @extract_low 1 4, @bit_top 4, @bit_low 1 4, @extract_top 3 1, @bit_low 3
    1, bit_one]

theorem fmtA_code (f : FmtA) : fmtAOf f.code = f := by
  simp (disch := omega) only [fmtAOf, FmtA.code, @extract_low 13 63, @extract_top 13 63, @low_bits 13 63, @bit_low 13 63,
    @extract_low 13 50, @extract_top 13 50, @low_bits 13 50, @bit_low 13 50, @extract_low 13 37, @extract_top 13 37, @low_bits 13 37,
    @bit_low 13 37, @extract_low 13 24, @extract_top 13 24, @low_bits 13 24, @bit_low 13 24, @extract_low 4 20, @extract_top 4 20,
    @low_bits 4 20, @bit_low 4 20, @extract_low 3 17, @extract_top 3 17, @low_bits 3 17, @bit_low 3 17, @extract_low 1 16, @bit_top
    16, @low_bits 1 16, @extract_low 2 14, @extract_top 2 14, @low_bits 2 14, @extract_low 2 12, @extract_top 2 12, @low_bits 2 12,
    @extract_top 2 10, @low_bits 2 10, low_all, opnd_code, ty_code, rnd_code, negAbs_code]

theorem fmtI_code (f : FmtI) : fmtIOf f.code = f := by
  simp (disch := omega) only [fmtIOf, FmtI.code, @extract_low 13 63, @extract_top 13 63, @low_bits 13 63, @bit_low 13 63,
    @extract_low 13 50, @extract_top 13 50, @low_bits 13 50, @bit_low 13 50, @extract_low 32 18, @extract_top 32 18, @low_bits 32 18,
    @bit_low 32 18, @extract_low 4 14, @extract_top 4 14, @low_bits 4 14, @bit_low 4 14, @extract_low 3 11, @extract_top 3 11,
    @low_bits 3 11, @bit_low 3 11, @extract_low 1 10, @bit_top 10, @low_bits 1 10, @extract_top 2 8, @low_bits 2 8, low_all,
    opnd_code, ty_code, rnd_code, negAbs_code]

theorem fmtM_code (f : FmtM) : fmtMOf f.code = f := by
  simp (disch := omega) only [fmtMOf, FmtM.code, @extract_low 13 63, @extract_top 13 63, @low_bits 13 63, @extract_low 13 50,
    @extract_top 13 50, @low_bits 13 50, @extract_low 13 37, @extract_top 13 37, @low_bits 13 37, @extract_low 24 13, @extract_top 24
    13, @low_bits 24 13, @extract_low 3 10, @extract_top 3 10, @low_bits 3 10, @extract_low 3 7, @extract_top 3 7, @low_bits 3 7,
    @extract_top 3 4, @low_bits 3 4, low_all, opnd_code, width_code, space_code, scope_code]

theorem fmtE_code (f : FmtE) : fmtEOf f.code = f := by
  simp (disch := omega) only [fmtEOf, FmtE.code, @extract_low 13 63, @extract_top 13 63, @low_bits 13 63, @extract_low 13 50,
    @extract_top 13 50, @low_bits 13 50, @extract_low 13 37, @extract_top 13 37, @low_bits 13 37, @extract_top 13 24, @low_bits 13 24,
    low_all, opnd_code]

theorem fmtC_code (f : FmtC) : fmtCOf f.code = f := by
  simp (disch := omega) only [fmtCOf, FmtC.code, @extract_low 24 52, @extract_top 24 52, @low_bits 24 52, @extract_low 24 28,
    @extract_top 24 28, @low_bits 24 28, @extract_top 13 15, @low_bits 13 15, low_all, opnd_code]

/-! ### The word -/

theorem opcode_assemble (op h : BitVec 10) (w : BitVec 76) : opcodeOf (assemble op h w) = op := @extract_top 10 86 op (h ++ w)
theorem header_assemble (op h : BitVec 10) (w : BitVec 76) : headerOf (assemble op h w) = h :=
  (@extract_low 10 86 op (h ++ w) 76 10 (by omega)).trans (@extract_top 10 76 h w)
theorem payload_assemble (op h : BitVec 10) (w : BitVec 76) : payloadOf (assemble op h w) = w :=
  (@low_bits 10 86 op (h ++ w) 76 (by omega)).trans ((@low_bits 10 76 h w 76 (by omega)).trans (low_all w))

theorem decode_assemble (op : BitVec 10) (h : Hdr) (w : BitVec 76) : decode (assemble op h.code w) = build op.toNat h w := by
  rw [decode, opcode_assemble, header_assemble, payload_assemble, hdr_code]

end Sys2Proof.Laws
end

