-- ==== Sys2Proof/Laws/PerInstr.lean ====
section
/-! SUPPORT. Statements made for each instruction. `RoundTrip`: the word the encoder gives for an instruction decodes to it, with every
operand and every field at every value its bits can hold (R68, R80, R83, R87, R102); an event has no word. -/
namespace Sys2Proof.Laws.RoundTrip

/-- Decoding an instruction's word gives it back. -/
def Statement (i : Instr) : Prop := ∀ w, encode i = some w → decode w = some i

theorem of_build {i : Instr} {op : BitVec 10} {h : Hdr} {w : BitVec 76} (hp : parts i = some (op, h, w))
    (hb : build op.toNat h w = some i) : Statement i := by
  intro x hx
  rw [encode, hp, Option.map_some, Option.some.injEq] at hx
  rw [← hx, decode_assemble, hb]

theorem of_event {i : Instr} (hp : parts i = none) : Statement i := by
  intro x hx
  rw [encode, hp] at hx
  exact absurd hx (by simp)

theorem nop (h : Hdr) (f : FmtC) : Statement (.nop h f) := of_build rfl (congrArg (fun x => some (Instr.nop h x)) (fmtC_code f))
theorem bra (h : Hdr) (f : FmtC) : Statement (.bra h f) := of_build rfl (congrArg (fun x => some (Instr.bra h x)) (fmtC_code f))
theorem brc (h : Hdr) (f : FmtC) : Statement (.brc h f) := of_build rfl (congrArg (fun x => some (Instr.brc h x)) (fmtC_code f))
theorem brx (h : Hdr) (f : FmtC) : Statement (.brx h f) := of_build rfl (congrArg (fun x => some (Instr.brx h x)) (fmtC_code f))
theorem call (h : Hdr) (f : FmtC) : Statement (.call h f) := of_build rfl (congrArg (fun x => some (Instr.call h x)) (fmtC_code f))
theorem callx (h : Hdr) (f : FmtC) : Statement (.callx h f) := of_build rfl (congrArg (fun x => some (Instr.callx h x)) (fmtC_code f))
theorem ret (h : Hdr) (f : FmtC) : Statement (.ret h f) := of_build rfl (congrArg (fun x => some (Instr.ret h x)) (fmtC_code f))
theorem reconv (h : Hdr) (f : FmtC) : Statement (.reconv h f) := of_build rfl (congrArg (fun x => some (Instr.reconv h x)) (fmtC_code f))
theorem loop (h : Hdr) (f : FmtC) : Statement (.loop h f) := of_build rfl (congrArg (fun x => some (Instr.loop h x)) (fmtC_code f))
theorem exit (h : Hdr) (f : FmtC) : Statement (.exit h f) := of_build rfl (congrArg (fun x => some (Instr.exit h x)) (fmtC_code f))
theorem region (h : Hdr) (f : FmtC) : Statement (.region h f) := of_build rfl (congrArg (fun x => some (Instr.region h x)) (fmtC_code f))
theorem sigck (h : Hdr) (f : FmtC) : Statement (.sigck h f) := of_build rfl (congrArg (fun x => some (Instr.sigck h x)) (fmtC_code f))
theorem yield (h : Hdr) (f : FmtC) : Statement (.yield h f) := of_build rfl (congrArg (fun x => some (Instr.yield h x)) (fmtC_code f))
theorem bkpt (h : Hdr) (f : FmtC) : Statement (.bkpt h f) := of_build rfl (congrArg (fun x => some (Instr.bkpt h x)) (fmtC_code f))
theorem iadd (h : Hdr) (f : FmtA) : Statement (.iadd h f) := of_build rfl (congrArg (fun x => some (Instr.iadd h x)) (fmtA_code f))
theorem iaddI (h : Hdr) (f : FmtI) : Statement (.iaddI h f) := of_build rfl (congrArg (fun x => some (Instr.iaddI h x)) (fmtI_code f))
theorem isub (h : Hdr) (f : FmtA) : Statement (.isub h f) := of_build rfl (congrArg (fun x => some (Instr.isub h x)) (fmtA_code f))
theorem isubI (h : Hdr) (f : FmtI) : Statement (.isubI h f) := of_build rfl (congrArg (fun x => some (Instr.isubI h x)) (fmtI_code f))
theorem imul (h : Hdr) (f : FmtA) : Statement (.imul h f) := of_build rfl (congrArg (fun x => some (Instr.imul h x)) (fmtA_code f))
theorem imulI (h : Hdr) (f : FmtI) : Statement (.imulI h f) := of_build rfl (congrArg (fun x => some (Instr.imulI h x)) (fmtI_code f))
theorem imulh (h : Hdr) (f : FmtA) : Statement (.imulh h f) := of_build rfl (congrArg (fun x => some (Instr.imulh h x)) (fmtA_code f))
theorem imulhI (h : Hdr) (f : FmtI) : Statement (.imulhI h f) := of_build rfl (congrArg (fun x => some (Instr.imulhI h x)) (fmtI_code f))
theorem imad (h : Hdr) (f : FmtA) : Statement (.imad h f) := of_build rfl (congrArg (fun x => some (Instr.imad h x)) (fmtA_code f))
theorem imadI (h : Hdr) (f : FmtI) : Statement (.imadI h f) := of_build rfl (congrArg (fun x => some (Instr.imadI h x)) (fmtI_code f))
theorem imadw (h : Hdr) (f : FmtA) : Statement (.imadw h f) := of_build rfl (congrArg (fun x => some (Instr.imadw h x)) (fmtA_code f))
theorem imadwI (h : Hdr) (f : FmtI) : Statement (.imadwI h f) := of_build rfl (congrArg (fun x => some (Instr.imadwI h x)) (fmtI_code f))
theorem imin (h : Hdr) (f : FmtA) : Statement (.imin h f) := of_build rfl (congrArg (fun x => some (Instr.imin h x)) (fmtA_code f))
theorem iminI (h : Hdr) (f : FmtI) : Statement (.iminI h f) := of_build rfl (congrArg (fun x => some (Instr.iminI h x)) (fmtI_code f))
theorem imax (h : Hdr) (f : FmtA) : Statement (.imax h f) := of_build rfl (congrArg (fun x => some (Instr.imax h x)) (fmtA_code f))
theorem imaxI (h : Hdr) (f : FmtI) : Statement (.imaxI h f) := of_build rfl (congrArg (fun x => some (Instr.imaxI h x)) (fmtI_code f))
theorem iabs (h : Hdr) (f : FmtA) : Statement (.iabs h f) := of_build rfl (congrArg (fun x => some (Instr.iabs h x)) (fmtA_code f))
theorem ineg (h : Hdr) (f : FmtA) : Statement (.ineg h f) := of_build rfl (congrArg (fun x => some (Instr.ineg h x)) (fmtA_code f))
theorem iadd3 (h : Hdr) (f : FmtA) : Statement (.iadd3 h f) := of_build rfl (congrArg (fun x => some (Instr.iadd3 h x)) (fmtA_code f))
theorem iadd3I (h : Hdr) (f : FmtI) : Statement (.iadd3I h f) := of_build rfl (congrArg (fun x => some (Instr.iadd3I h x)) (fmtI_code f))
theorem isad (h : Hdr) (f : FmtA) : Statement (.isad h f) := of_build rfl (congrArg (fun x => some (Instr.isad h x)) (fmtA_code f))
theorem isadI (h : Hdr) (f : FmtI) : Statement (.isadI h f) := of_build rfl (congrArg (fun x => some (Instr.isadI h x)) (fmtI_code f))
theorem shl (h : Hdr) (f : FmtA) : Statement (.shl h f) := of_build rfl (congrArg (fun x => some (Instr.shl h x)) (fmtA_code f))
theorem shlI (h : Hdr) (f : FmtI) : Statement (.shlI h f) := of_build rfl (congrArg (fun x => some (Instr.shlI h x)) (fmtI_code f))
theorem shr (h : Hdr) (f : FmtA) : Statement (.shr h f) := of_build rfl (congrArg (fun x => some (Instr.shr h x)) (fmtA_code f))
theorem shrI (h : Hdr) (f : FmtI) : Statement (.shrI h f) := of_build rfl (congrArg (fun x => some (Instr.shrI h x)) (fmtI_code f))
theorem sar (h : Hdr) (f : FmtA) : Statement (.sar h f) := of_build rfl (congrArg (fun x => some (Instr.sar h x)) (fmtA_code f))
theorem rotl (h : Hdr) (f : FmtA) : Statement (.rotl h f) := of_build rfl (congrArg (fun x => some (Instr.rotl h x)) (fmtA_code f))
theorem tril (h : Hdr) (f : FmtA) : Statement (.tril h f) := of_build rfl (congrArg (fun x => some (Instr.tril h x)) (fmtA_code f))
theorem trilI (h : Hdr) (f : FmtI) : Statement (.trilI h f) := of_build rfl (congrArg (fun x => some (Instr.trilI h x)) (fmtI_code f))
theorem and (h : Hdr) (f : FmtA) : Statement (.and h f) := of_build rfl (congrArg (fun x => some (Instr.and h x)) (fmtA_code f))
theorem andI (h : Hdr) (f : FmtI) : Statement (.andI h f) := of_build rfl (congrArg (fun x => some (Instr.andI h x)) (fmtI_code f))
theorem or (h : Hdr) (f : FmtA) : Statement (.or h f) := of_build rfl (congrArg (fun x => some (Instr.or h x)) (fmtA_code f))
theorem orI (h : Hdr) (f : FmtI) : Statement (.orI h f) := of_build rfl (congrArg (fun x => some (Instr.orI h x)) (fmtI_code f))
theorem xor (h : Hdr) (f : FmtA) : Statement (.xor h f) := of_build rfl (congrArg (fun x => some (Instr.xor h x)) (fmtA_code f))
theorem xorI (h : Hdr) (f : FmtI) : Statement (.xorI h f) := of_build rfl (congrArg (fun x => some (Instr.xorI h x)) (fmtI_code f))
theorem not (h : Hdr) (f : FmtA) : Statement (.not h f) := of_build rfl (congrArg (fun x => some (Instr.not h x)) (fmtA_code f))
theorem popc (h : Hdr) (f : FmtA) : Statement (.popc h f) := of_build rfl (congrArg (fun x => some (Instr.popc h x)) (fmtA_code f))
theorem clz (h : Hdr) (f : FmtA) : Statement (.clz h f) := of_build rfl (congrArg (fun x => some (Instr.clz h x)) (fmtA_code f))
theorem brev (h : Hdr) (f : FmtA) : Statement (.brev h f) := of_build rfl (congrArg (fun x => some (Instr.brev h x)) (fmtA_code f))
theorem bfe (h : Hdr) (f : FmtA) : Statement (.bfe h f) := of_build rfl (congrArg (fun x => some (Instr.bfe h x)) (fmtA_code f))
theorem bfeI (h : Hdr) (f : FmtI) : Statement (.bfeI h f) := of_build rfl (congrArg (fun x => some (Instr.bfeI h x)) (fmtI_code f))
theorem bfi (h : Hdr) (f : FmtA) : Statement (.bfi h f) := of_build rfl (congrArg (fun x => some (Instr.bfi h x)) (fmtA_code f))
theorem bfiI (h : Hdr) (f : FmtI) : Statement (.bfiI h f) := of_build rfl (congrArg (fun x => some (Instr.bfiI h x)) (fmtI_code f))
theorem icmp (h : Hdr) (f : FmtA) : Statement (.icmp h f) := of_build rfl (congrArg (fun x => some (Instr.icmp h x)) (fmtA_code f))
theorem icmpI (h : Hdr) (f : FmtI) : Statement (.icmpI h f) := of_build rfl (congrArg (fun x => some (Instr.icmpI h x)) (fmtI_code f))
theorem sel (h : Hdr) (f : FmtA) : Statement (.sel h f) := of_build rfl (congrArg (fun x => some (Instr.sel h x)) (fmtA_code f))
theorem selI (h : Hdr) (f : FmtI) : Statement (.selI h f) := of_build rfl (congrArg (fun x => some (Instr.selI h x)) (fmtI_code f))
theorem mov (h : Hdr) (f : FmtA) : Statement (.mov h f) := of_build rfl (congrArg (fun x => some (Instr.mov h x)) (fmtA_code f))
theorem movI (h : Hdr) (f : FmtI) : Statement (.movI h f) := of_build rfl (congrArg (fun x => some (Instr.movI h x)) (fmtI_code f))
theorem lea (h : Hdr) (f : FmtA) : Statement (.lea h f) := of_build rfl (congrArg (fun x => some (Instr.lea h x)) (fmtA_code f))
theorem leaI (h : Hdr) (f : FmtI) : Statement (.leaI h f) := of_build rfl (congrArg (fun x => some (Instr.leaI h x)) (fmtI_code f))
theorem iclamp (h : Hdr) (f : FmtA) : Statement (.iclamp h f) := of_build rfl (congrArg (fun x => some (Instr.iclamp h x)) (fmtA_code f))
theorem iclampI (h : Hdr) (f : FmtI) : Statement (.iclampI h f) := of_build rfl (congrArg (fun x => some (Instr.iclampI h x)) (fmtI_code f))
theorem fadd (h : Hdr) (f : FmtA) : Statement (.fadd h f) := of_build rfl (congrArg (fun x => some (Instr.fadd h x)) (fmtA_code f))
theorem faddI (h : Hdr) (f : FmtI) : Statement (.faddI h f) := of_build rfl (congrArg (fun x => some (Instr.faddI h x)) (fmtI_code f))
theorem fsub (h : Hdr) (f : FmtA) : Statement (.fsub h f) := of_build rfl (congrArg (fun x => some (Instr.fsub h x)) (fmtA_code f))
theorem fsubI (h : Hdr) (f : FmtI) : Statement (.fsubI h f) := of_build rfl (congrArg (fun x => some (Instr.fsubI h x)) (fmtI_code f))
theorem fmul (h : Hdr) (f : FmtA) : Statement (.fmul h f) := of_build rfl (congrArg (fun x => some (Instr.fmul h x)) (fmtA_code f))
theorem fmulI (h : Hdr) (f : FmtI) : Statement (.fmulI h f) := of_build rfl (congrArg (fun x => some (Instr.fmulI h x)) (fmtI_code f))
theorem ffma (h : Hdr) (f : FmtA) : Statement (.ffma h f) := of_build rfl (congrArg (fun x => some (Instr.ffma h x)) (fmtA_code f))
theorem ffmaI (h : Hdr) (f : FmtI) : Statement (.ffmaI h f) := of_build rfl (congrArg (fun x => some (Instr.ffmaI h x)) (fmtI_code f))
theorem fmin (h : Hdr) (f : FmtA) : Statement (.fmin h f) := of_build rfl (congrArg (fun x => some (Instr.fmin h x)) (fmtA_code f))
theorem fminI (h : Hdr) (f : FmtI) : Statement (.fminI h f) := of_build rfl (congrArg (fun x => some (Instr.fminI h x)) (fmtI_code f))
theorem fmax (h : Hdr) (f : FmtA) : Statement (.fmax h f) := of_build rfl (congrArg (fun x => some (Instr.fmax h x)) (fmtA_code f))
theorem fmaxI (h : Hdr) (f : FmtI) : Statement (.fmaxI h f) := of_build rfl (congrArg (fun x => some (Instr.fmaxI h x)) (fmtI_code f))
theorem fcmp (h : Hdr) (f : FmtA) : Statement (.fcmp h f) := of_build rfl (congrArg (fun x => some (Instr.fcmp h x)) (fmtA_code f))
theorem fcmpI (h : Hdr) (f : FmtI) : Statement (.fcmpI h f) := of_build rfl (congrArg (fun x => some (Instr.fcmpI h x)) (fmtI_code f))
theorem frcp (h : Hdr) (f : FmtA) : Statement (.frcp h f) := of_build rfl (congrArg (fun x => some (Instr.frcp h x)) (fmtA_code f))
theorem frsq (h : Hdr) (f : FmtA) : Statement (.frsq h f) := of_build rfl (congrArg (fun x => some (Instr.frsq h x)) (fmtA_code f))
theorem fsqrt (h : Hdr) (f : FmtA) : Statement (.fsqrt h f) := of_build rfl (congrArg (fun x => some (Instr.fsqrt h x)) (fmtA_code f))
theorem fexp2 (h : Hdr) (f : FmtA) : Statement (.fexp2 h f) := of_build rfl (congrArg (fun x => some (Instr.fexp2 h x)) (fmtA_code f))
theorem flog2 (h : Hdr) (f : FmtA) : Statement (.flog2 h f) := of_build rfl (congrArg (fun x => some (Instr.flog2 h x)) (fmtA_code f))
theorem fsin (h : Hdr) (f : FmtA) : Statement (.fsin h f) := of_build rfl (congrArg (fun x => some (Instr.fsin h x)) (fmtA_code f))
theorem fcos (h : Hdr) (f : FmtA) : Statement (.fcos h f) := of_build rfl (congrArg (fun x => some (Instr.fcos h x)) (fmtA_code f))
theorem ftanh (h : Hdr) (f : FmtA) : Statement (.ftanh h f) := of_build rfl (congrArg (fun x => some (Instr.ftanh h x)) (fmtA_code f))
theorem fclass (h : Hdr) (f : FmtA) : Statement (.fclass h f) := of_build rfl (congrArg (fun x => some (Instr.fclass h x)) (fmtA_code f))
theorem fscale (h : Hdr) (f : FmtA) : Statement (.fscale h f) := of_build rfl (congrArg (fun x => some (Instr.fscale h x)) (fmtA_code f))
theorem fscaleI (h : Hdr) (f : FmtI) : Statement (.fscaleI h f) := of_build rfl (congrArg (fun x => some (Instr.fscaleI h x)) (fmtI_code f))
theorem ffrc (h : Hdr) (f : FmtA) : Statement (.ffrc h f) := of_build rfl (congrArg (fun x => some (Instr.ffrc h x)) (fmtA_code f))
theorem frnd (h : Hdr) (f : FmtA) : Statement (.frnd h f) := of_build rfl (congrArg (fun x => some (Instr.frnd h x)) (fmtA_code f))
theorem fdot2 (h : Hdr) (f : FmtA) : Statement (.fdot2 h f) := of_build rfl (congrArg (fun x => some (Instr.fdot2 h x)) (fmtA_code f))
theorem fdot2I (h : Hdr) (f : FmtI) : Statement (.fdot2I h f) := of_build rfl (congrArg (fun x => some (Instr.fdot2I h x)) (fmtI_code f))
theorem dadd (h : Hdr) (f : FmtA) : Statement (.dadd h f) := of_build rfl (congrArg (fun x => some (Instr.dadd h x)) (fmtA_code f))
theorem daddI (h : Hdr) (f : FmtI) : Statement (.daddI h f) := of_build rfl (congrArg (fun x => some (Instr.daddI h x)) (fmtI_code f))
theorem dsub (h : Hdr) (f : FmtA) : Statement (.dsub h f) := of_build rfl (congrArg (fun x => some (Instr.dsub h x)) (fmtA_code f))
theorem dsubI (h : Hdr) (f : FmtI) : Statement (.dsubI h f) := of_build rfl (congrArg (fun x => some (Instr.dsubI h x)) (fmtI_code f))
theorem dmul (h : Hdr) (f : FmtA) : Statement (.dmul h f) := of_build rfl (congrArg (fun x => some (Instr.dmul h x)) (fmtA_code f))
theorem dmulI (h : Hdr) (f : FmtI) : Statement (.dmulI h f) := of_build rfl (congrArg (fun x => some (Instr.dmulI h x)) (fmtI_code f))
theorem dfma (h : Hdr) (f : FmtA) : Statement (.dfma h f) := of_build rfl (congrArg (fun x => some (Instr.dfma h x)) (fmtA_code f))
theorem dfmaI (h : Hdr) (f : FmtI) : Statement (.dfmaI h f) := of_build rfl (congrArg (fun x => some (Instr.dfmaI h x)) (fmtI_code f))
theorem dmin (h : Hdr) (f : FmtA) : Statement (.dmin h f) := of_build rfl (congrArg (fun x => some (Instr.dmin h x)) (fmtA_code f))
theorem dminI (h : Hdr) (f : FmtI) : Statement (.dminI h f) := of_build rfl (congrArg (fun x => some (Instr.dminI h x)) (fmtI_code f))
theorem dmax (h : Hdr) (f : FmtA) : Statement (.dmax h f) := of_build rfl (congrArg (fun x => some (Instr.dmax h x)) (fmtA_code f))
theorem dmaxI (h : Hdr) (f : FmtI) : Statement (.dmaxI h f) := of_build rfl (congrArg (fun x => some (Instr.dmaxI h x)) (fmtI_code f))
theorem dcmp (h : Hdr) (f : FmtA) : Statement (.dcmp h f) := of_build rfl (congrArg (fun x => some (Instr.dcmp h x)) (fmtA_code f))
theorem dcmpI (h : Hdr) (f : FmtI) : Statement (.dcmpI h f) := of_build rfl (congrArg (fun x => some (Instr.dcmpI h x)) (fmtI_code f))
theorem drcpa (h : Hdr) (f : FmtA) : Statement (.drcpa h f) := of_build rfl (congrArg (fun x => some (Instr.drcpa h x)) (fmtA_code f))
theorem drsqa (h : Hdr) (f : FmtA) : Statement (.drsqa h f) := of_build rfl (congrArg (fun x => some (Instr.drsqa h x)) (fmtA_code f))
theorem dsqrt (h : Hdr) (f : FmtA) : Statement (.dsqrt h f) := of_build rfl (congrArg (fun x => some (Instr.dsqrt h x)) (fmtA_code f))
theorem ddiv (h : Hdr) (f : FmtA) : Statement (.ddiv h f) := of_build rfl (congrArg (fun x => some (Instr.ddiv h x)) (fmtA_code f))
theorem ddivI (h : Hdr) (f : FmtI) : Statement (.ddivI h f) := of_build rfl (congrArg (fun x => some (Instr.ddivI h x)) (fmtI_code f))
theorem dclass (h : Hdr) (f : FmtA) : Statement (.dclass h f) := of_build rfl (congrArg (fun x => some (Instr.dclass h x)) (fmtA_code f))
theorem dscale (h : Hdr) (f : FmtA) : Statement (.dscale h f) := of_build rfl (congrArg (fun x => some (Instr.dscale h x)) (fmtA_code f))
theorem dscaleI (h : Hdr) (f : FmtI) : Statement (.dscaleI h f) := of_build rfl (congrArg (fun x => some (Instr.dscaleI h x)) (fmtI_code f))
theorem drnd (h : Hdr) (f : FmtA) : Statement (.drnd h f) := of_build rfl (congrArg (fun x => some (Instr.drnd h x)) (fmtA_code f))
theorem dfrc (h : Hdr) (f : FmtA) : Statement (.dfrc h f) := of_build rfl (congrArg (fun x => some (Instr.dfrc h x)) (fmtA_code f))
theorem cvt (h : Hdr) (f : FmtA) : Statement (.cvt h f) := of_build rfl (congrArg (fun x => some (Instr.cvt h x)) (fmtA_code f))
theorem cvtp (h : Hdr) (f : FmtA) : Statement (.cvtp h f) := of_build rfl (congrArg (fun x => some (Instr.cvtp h x)) (fmtA_code f))
theorem cvtq (h : Hdr) (f : FmtA) : Statement (.cvtq h f) := of_build rfl (congrArg (fun x => some (Instr.cvtq h x)) (fmtA_code f))
theorem deq (h : Hdr) (f : FmtA) : Statement (.deq h f) := of_build rfl (congrArg (fun x => some (Instr.deq h x)) (fmtA_code f))
theorem bppack (h : Hdr) (f : FmtA) : Statement (.bppack h f) := of_build rfl (congrArg (fun x => some (Instr.bppack h x)) (fmtA_code f))
theorem bpunp (h : Hdr) (f : FmtA) : Statement (.bpunp h f) := of_build rfl (congrArg (fun x => some (Instr.bpunp h x)) (fmtA_code f))
theorem b8dec (h : Hdr) (f : FmtA) : Statement (.b8dec h f) := of_build rfl (congrArg (fun x => some (Instr.b8dec h x)) (fmtA_code f))
theorem b8enc (h : Hdr) (f : FmtA) : Statement (.b8enc h f) := of_build rfl (congrArg (fun x => some (Instr.b8enc h x)) (fmtA_code f))
theorem bmux (h : Hdr) (f : FmtA) : Statement (.bmux h f) := of_build rfl (congrArg (fun x => some (Instr.bmux h x)) (fmtA_code f))
theorem pack (h : Hdr) (f : FmtA) : Statement (.pack h f) := of_build rfl (congrArg (fun x => some (Instr.pack h x)) (fmtA_code f))
theorem plop (h : Hdr) (f : FmtA) : Statement (.plop h f) := of_build rfl (congrArg (fun x => some (Instr.plop h x)) (fmtA_code f))
theorem pmov (h : Hdr) (f : FmtA) : Statement (.pmov h f) := of_build rfl (congrArg (fun x => some (Instr.pmov h x)) (fmtA_code f))
theorem poll (h : Hdr) (f : FmtA) : Statement (.poll h f) := of_build rfl (congrArg (fun x => some (Instr.poll h x)) (fmtA_code f))
theorem xlane (h : Hdr) (f : FmtA) : Statement (.xlane h f) := of_build rfl (congrArg (fun x => some (Instr.xlane h x)) (fmtA_code f))
theorem redq (h : Hdr) (f : FmtA) : Statement (.redq h f) := of_build rfl (congrArg (fun x => some (Instr.redq h x)) (fmtA_code f))
theorem scanq (h : Hdr) (f : FmtA) : Statement (.scanq h f) := of_build rfl (congrArg (fun x => some (Instr.scanq h x)) (fmtA_code f))
theorem matchQ (h : Hdr) (f : FmtA) : Statement (.matchQ h f) := of_build rfl (congrArg (fun x => some (Instr.matchQ h x)) (fmtA_code f))
theorem sread (h : Hdr) (f : FmtA) : Statement (.sread h f) := of_build rfl (congrArg (fun x => some (Instr.sread h x)) (fmtA_code f))
theorem swrite (h : Hdr) (f : FmtA) : Statement (.swrite h f) := of_build rfl (congrArg (fun x => some (Instr.swrite h x)) (fmtA_code f))
theorem xset (h : Hdr) (f : FmtA) : Statement (.xset h f) := of_build rfl (congrArg (fun x => some (Instr.xset h x)) (fmtA_code f))
theorem xadd (h : Hdr) (f : FmtA) : Statement (.xadd h f) := of_build rfl (congrArg (fun x => some (Instr.xadd h x)) (fmtA_code f))
theorem claim (h : Hdr) (f : FmtA) : Statement (.claim h f) := of_build rfl (congrArg (fun x => some (Instr.claim h x)) (fmtA_code f))
theorem surr (h : Hdr) (f : FmtA) : Statement (.surr h f) := of_build rfl (congrArg (fun x => some (Instr.surr h x)) (fmtA_code f))
theorem maskrd (h : Hdr) (f : FmtA) : Statement (.maskrd h f) := of_build rfl (congrArg (fun x => some (Instr.maskrd h x)) (fmtA_code f))
theorem pad (h : Hdr) (f : FmtA) : Statement (.pad h f) := of_build rfl (congrArg (fun x => some (Instr.pad h x)) (fmtA_code f))
theorem unpad (h : Hdr) (f : FmtA) : Statement (.unpad h f) := of_build rfl (congrArg (fun x => some (Instr.unpad h x)) (fmtA_code f))
theorem ubcast (h : Hdr) (f : FmtA) : Statement (.ubcast h f) := of_build rfl (congrArg (fun x => some (Instr.ubcast h x)) (fmtA_code f))
theorem ld (h : Hdr) (f : FmtM) : Statement (.ld h f) := of_build rfl (congrArg (fun x => some (Instr.ld h x)) (fmtM_code f))
theorem st (h : Hdr) (f : FmtM) : Statement (.st h f) := of_build rfl (congrArg (fun x => some (Instr.st h x)) (fmtM_code f))
theorem ldro (h : Hdr) (f : FmtM) : Statement (.ldro h f) := of_build rfl (congrArg (fun x => some (Instr.ldro h x)) (fmtM_code f))
theorem pref (h : Hdr) (f : FmtM) : Statement (.pref h f) := of_build rfl (congrArg (fun x => some (Instr.pref h x)) (fmtM_code f))
theorem cinv (h : Hdr) (f : FmtM) : Statement (.cinv h f) := of_build rfl (congrArg (fun x => some (Instr.cinv h x)) (fmtM_code f))
theorem cwb (h : Hdr) (f : FmtM) : Statement (.cwb h f) := of_build rfl (congrArg (fun x => some (Instr.cwb h x)) (fmtM_code f))
theorem lds (h : Hdr) (f : FmtM) : Statement (.lds h f) := of_build rfl (congrArg (fun x => some (Instr.lds h x)) (fmtM_code f))
theorem sts (h : Hdr) (f : FmtM) : Statement (.sts h f) := of_build rfl (congrArg (fun x => some (Instr.sts h x)) (fmtM_code f))
theorem ldacq (h : Hdr) (f : FmtM) : Statement (.ldacq h f) := of_build rfl (congrArg (fun x => some (Instr.ldacq h x)) (fmtM_code f))
theorem strel (h : Hdr) (f : FmtM) : Statement (.strel h f) := of_build rfl (congrArg (fun x => some (Instr.strel h x)) (fmtM_code f))
theorem atom (h : Hdr) (f : FmtM) : Statement (.atom h f) := of_build rfl (congrArg (fun x => some (Instr.atom h x)) (fmtM_code f))
theorem red (h : Hdr) (f : FmtM) : Statement (.red h f) := of_build rfl (congrArg (fun x => some (Instr.red h x)) (fmtM_code f))
theorem atoms (h : Hdr) (f : FmtM) : Statement (.atoms h f) := of_build rfl (congrArg (fun x => some (Instr.atoms h x)) (fmtM_code f))
theorem fence (h : Hdr) (f : FmtM) : Statement (.fence h f) := of_build rfl (congrArg (fun x => some (Instr.fence h x)) (fmtM_code f))
theorem barinit (h : Hdr) (f : FmtE) : Statement (.barinit h f) := of_build rfl (congrArg (fun x => some (Instr.barinit h x)) (fmtE_code f))
theorem bararv (h : Hdr) (f : FmtE) : Statement (.bararv h f) := of_build rfl (congrArg (fun x => some (Instr.bararv h x)) (fmtE_code f))
theorem barwait (h : Hdr) (f : FmtE) : Statement (.barwait h f) := of_build rfl (congrArg (fun x => some (Instr.barwait h x)) (fmtE_code f))
theorem bartry (h : Hdr) (f : FmtE) : Statement (.bartry h f) := of_build rfl (congrArg (fun x => some (Instr.bartry h x)) (fmtE_code f))
theorem trywait (h : Hdr) (f : FmtE) : Statement (.trywait h f) := of_build rfl (congrArg (fun x => some (Instr.trywait h x)) (fmtE_code f))
theorem msync (h : Hdr) (f : FmtE) : Statement (.msync h f) := of_build rfl (congrArg (fun x => some (Instr.msync h x)) (fmtE_code f))
theorem attach (h : Hdr) (f : FmtE) : Statement (.attach h f) := of_build rfl (congrArg (fun x => some (Instr.attach h x)) (fmtE_code f))
theorem detach (h : Hdr) (f : FmtE) : Statement (.detach h f) := of_build rfl (congrArg (fun x => some (Instr.detach h x)) (fmtE_code f))
theorem spawn (h : Hdr) (f : FmtE) : Statement (.spawn h f) := of_build rfl (congrArg (fun x => some (Instr.spawn h x)) (fmtE_code f))
theorem qpush (h : Hdr) (f : FmtE) : Statement (.qpush h f) := of_build rfl (congrArg (fun x => some (Instr.qpush h x)) (fmtE_code f))
theorem cpy (h : Hdr) (f : FmtE) : Statement (.cpy h f) := of_build rfl (congrArg (fun x => some (Instr.cpy h x)) (fmtE_code f))
theorem cpy2d (h : Hdr) (f : FmtE) : Statement (.cpy2d h f) := of_build rfl (congrArg (fun x => some (Instr.cpy2d h x)) (fmtE_code f))
theorem cpyt (h : Hdr) (f : FmtE) : Statement (.cpyt h f) := of_build rfl (congrArg (fun x => some (Instr.cpyt h x)) (fmtE_code f))
theorem cpymc (h : Hdr) (f : FmtE) : Statement (.cpymc h f) := of_build rfl (congrArg (fun x => some (Instr.cpymc h x)) (fmtE_code f))
theorem cpyout (h : Hdr) (f : FmtE) : Statement (.cpyout h f) := of_build rfl (congrArg (fun x => some (Instr.cpyout h x)) (fmtE_code f))
theorem cpyfill (h : Hdr) (f : FmtE) : Statement (.cpyfill h f) := of_build rfl (congrArg (fun x => some (Instr.cpyfill h x)) (fmtE_code f))
theorem hset (h : Hdr) (f : FmtE) : Statement (.hset h f) := of_build rfl (congrArg (fun x => some (Instr.hset h x)) (fmtE_code f))
theorem hwait (h : Hdr) (f : FmtE) : Statement (.hwait h f) := of_build rfl (congrArg (fun x => some (Instr.hwait h x)) (fmtE_code f))
theorem hdrain (h : Hdr) (f : FmtE) : Statement (.hdrain h f) := of_build rfl (congrArg (fun x => some (Instr.hdrain h x)) (fmtE_code f))
theorem hfree (h : Hdr) (f : FmtE) : Statement (.hfree h f) := of_build rfl (congrArg (fun x => some (Instr.hfree h x)) (fmtE_code f))
theorem hstat (h : Hdr) (f : FmtE) : Statement (.hstat h f) := of_build rfl (congrArg (fun x => some (Instr.hstat h x)) (fmtE_code f))
theorem mma (h : Hdr) (f : FmtE) : Statement (.mma h f) := of_build rfl (congrArg (fun x => some (Instr.mma h x)) (fmtE_code f))
theorem mmas (h : Hdr) (f : FmtE) : Statement (.mmas h f) := of_build rfl (congrArg (fun x => some (Instr.mmas h x)) (fmtE_code f))
theorem mmar (h : Hdr) (f : FmtE) : Statement (.mmar h f) := of_build rfl (congrArg (fun x => some (Instr.mmar h x)) (fmtE_code f))
theorem mldc (h : Hdr) (f : FmtE) : Statement (.mldc h f) := of_build rfl (congrArg (fun x => some (Instr.mldc h x)) (fmtE_code f))
theorem mstc (h : Hdr) (f : FmtE) : Statement (.mstc h f) := of_build rfl (congrArg (fun x => some (Instr.mstc h x)) (fmtE_code f))
theorem mzero (h : Hdr) (f : FmtE) : Statement (.mzero h f) := of_build rfl (congrArg (fun x => some (Instr.mzero h x)) (fmtE_code f))
theorem mact (h : Hdr) (f : FmtE) : Statement (.mact h f) := of_build rfl (congrArg (fun x => some (Instr.mact h x)) (fmtE_code f))
theorem tex (h : Hdr) (f : FmtE) : Statement (.tex h f) := of_build rfl (congrArg (fun x => some (Instr.tex h x)) (fmtE_code f))
theorem tld (h : Hdr) (f : FmtE) : Statement (.tld h f) := of_build rfl (congrArg (fun x => some (Instr.tld h x)) (fmtE_code f))
theorem tgath (h : Hdr) (f : FmtE) : Statement (.tgath h f) := of_build rfl (congrArg (fun x => some (Instr.tgath h x)) (fmtE_code f))
theorem tqry (h : Hdr) (f : FmtE) : Statement (.tqry h f) := of_build rfl (congrArg (fun x => some (Instr.tqry h x)) (fmtE_code f))
theorem hgfetch (h : Hdr) (f : FmtE) : Statement (.hgfetch h f) := of_build rfl (congrArg (fun x => some (Instr.hgfetch h x)) (fmtE_code f))
theorem hgscat (h : Hdr) (f : FmtE) : Statement (.hgscat h f) := of_build rfl (congrArg (fun x => some (Instr.hgscat h x)) (fmtE_code f))
theorem ntex (h : Hdr) (f : FmtE) : Statement (.ntex h f) := of_build rfl (congrArg (fun x => some (Instr.ntex h x)) (fmtE_code f))
theorem tpay (h : Hdr) (f : FmtE) : Statement (.tpay h f) := of_build rfl (congrArg (fun x => some (Instr.tpay h x)) (fmtE_code f))
theorem mvtx (h : Hdr) (f : FmtE) : Statement (.mvtx h f) := of_build rfl (congrArg (fun x => some (Instr.mvtx h x)) (fmtE_code f))
theorem mprim (h : Hdr) (f : FmtE) : Statement (.mprim h f) := of_build rfl (congrArg (fun x => some (Instr.mprim h x)) (fmtE_code f))
theorem mdone (h : Hdr) (f : FmtE) : Statement (.mdone h f) := of_build rfl (congrArg (fun x => some (Instr.mdone h x)) (fmtE_code f))
theorem visrd (h : Hdr) (f : FmtE) : Statement (.visrd h f) := of_build rfl (congrArg (fun x => some (Instr.visrd h x)) (fmtE_code f))
theorem attr (h : Hdr) (f : FmtE) : Statement (.attr h f) := of_build rfl (congrArg (fun x => some (Instr.attr h x)) (fmtE_code f))
theorem pixout (h : Hdr) (f : FmtE) : Statement (.pixout h f) := of_build rfl (congrArg (fun x => some (Instr.pixout h x)) (fmtE_code f))
theorem rayq (h : Hdr) (f : FmtE) : Statement (.rayq h f) := of_build rfl (congrArg (fun x => some (Instr.rayq h x)) (fmtE_code f))
theorem raynext (h : Hdr) (f : FmtE) : Statement (.raynext h f) := of_build rfl (congrArg (fun x => some (Instr.raynext h x)) (fmtE_code f))
theorem rayacc (h : Hdr) (f : FmtE) : Statement (.rayacc h f) := of_build rfl (congrArg (fun x => some (Instr.rayacc h x)) (fmtE_code f))
theorem rayend (h : Hdr) (f : FmtE) : Statement (.rayend h f) := of_build rfl (congrArg (fun x => some (Instr.rayend h x)) (fmtE_code f))
theorem rayget (h : Hdr) (f : FmtE) : Statement (.rayget h f) := of_build rfl (congrArg (fun x => some (Instr.rayget h x)) (fmtE_code f))
theorem asbuild (h : Hdr) (f : FmtE) : Statement (.asbuild h f) := of_build rfl (congrArg (fun x => some (Instr.asbuild h x)) (fmtE_code f))
theorem asinfo (h : Hdr) (f : FmtE) : Statement (.asinfo h f) := of_build rfl (congrArg (fun x => some (Instr.asinfo h x)) (fmtE_code f))
theorem tinit (h : Hdr) (f : FmtE) : Statement (.tinit h f) := of_build rfl (congrArg (fun x => some (Instr.tinit h x)) (fmtE_code f))
theorem tsel (h : Hdr) (f : FmtE) : Statement (.tsel h f) := of_build rfl (congrArg (fun x => some (Instr.tsel h x)) (fmtE_code f))
theorem texp (h : Hdr) (f : FmtE) : Statement (.texp h f) := of_build rfl (congrArg (fun x => some (Instr.texp h x)) (fmtE_code f))
theorem tback (h : Hdr) (f : FmtE) : Statement (.tback h f) := of_build rfl (congrArg (fun x => some (Instr.tback h x)) (fmtE_code f))
theorem tleaf (h : Hdr) (f : FmtE) : Statement (.tleaf h f) := of_build rfl (congrArg (fun x => some (Instr.tleaf h x)) (fmtE_code f))
theorem treuse (h : Hdr) (f : FmtE) : Statement (.treuse h f) := of_build rfl (congrArg (fun x => some (Instr.treuse h x)) (fmtE_code f))
theorem tread (h : Hdr) (f : FmtE) : Statement (.tread h f) := of_build rfl (congrArg (fun x => some (Instr.tread h x)) (fmtE_code f))
theorem coll (h : Hdr) (f : FmtE) : Statement (.coll h f) := of_build rfl (congrArg (fun x => some (Instr.coll h x)) (fmtE_code f))
theorem collinfo (h : Hdr) (f : FmtE) : Statement (.collinfo h f) := of_build rfl (congrArg (fun x => some (Instr.collinfo h x)) (fmtE_code f))
theorem trap (h : Hdr) (f : FmtE) : Statement (.trap h f) := of_build rfl (congrArg (fun x => some (Instr.trap h x)) (fmtE_code f))
theorem trapcall (h : Hdr) (f : FmtE) : Statement (.trapcall h f) := of_build rfl (congrArg (fun x => some (Instr.trapcall h x)) (fmtE_code f))
theorem tret (h : Hdr) (f : FmtE) : Statement (.tret h f) := of_build rfl (congrArg (fun x => some (Instr.tret h x)) (fmtE_code f))
theorem tkill (h : Hdr) (f : FmtE) : Statement (.tkill h f) := of_build rfl (congrArg (fun x => some (Instr.tkill h x)) (fmtE_code f))
theorem perf (h : Hdr) (f : FmtE) : Statement (.perf h f) := of_build rfl (congrArg (fun x => some (Instr.perf h x)) (fmtE_code f))
theorem decsel (h : Hdr) (f : FmtE) : Statement (.decsel h f) := of_build rfl (congrArg (fun x => some (Instr.decsel h x)) (fmtE_code f))
theorem queueWake (ctx q : Nat) : Statement (.queueWake ctx q) := of_event rfl
theorem dependencyWordWrite (ctx q : Nat) : Statement (.dependencyWordWrite ctx q) := of_event rfl
theorem signalPacketEffect (ctx q : Nat) : Statement (.signalPacketEffect ctx q) := of_event rfl
theorem gatheringPlacement : Statement .gatheringPlacement := of_event rfl
theorem binQuirePlacement (core bin : Nat) : Statement (.binQuirePlacement core bin) := of_event rfl
theorem binTimerExpiry (core bin : Nat) : Statement (.binTimerExpiry core bin) := of_event rfl
theorem meshGatheringPlacement (gath : Nat) : Statement (.meshGatheringPlacement gath) := of_event rfl
theorem pendingQuireCreation (gath : Nat) : Statement (.pendingQuireCreation gath) := of_event rfl
theorem volumeCompletion (vol : Nat) : Statement (.volumeCompletion vol) := of_event rfl
theorem deviceReset : Statement .deviceReset := of_event rfl
theorem controlProcessorRestart : Statement .controlProcessorRestart := of_event rfl
theorem lineFetch (quire : Nat) : Statement (.lineFetch quire) := of_event rfl
theorem loadDataReturn (quire : Nat) : Statement (.loadDataReturn quire) := of_event rfl
theorem rowRefill (quire : Nat) : Statement (.rowRefill quire) := of_event rfl
theorem claimGrant (quire : Nat) : Statement (.claimGrant quire) := of_event rfl
theorem tpaySlotTaken (quire : Nat) : Statement (.tpaySlotTaken quire) := of_event rfl
theorem qpushRingRoom (quire : Nat) : Statement (.qpushRingRoom quire) := of_event rfl
theorem barrierWake (quire : Nat) : Statement (.barrierWake quire) := of_event rfl
theorem trywaitReevaluation (quire : Nat) : Statement (.trywaitReevaluation quire) := of_event rfl
theorem trywaitTimeout (quire : Nat) : Statement (.trywaitTimeout quire) := of_event rfl
theorem hwaitWake (quire : Nat) : Statement (.hwaitWake quire) := of_event rfl
theorem asqRequest (k : Nat) : Statement (.asqRequest k) := of_event rfl
theorem asqReply (quire : Nat) : Statement (.asqReply quire) := of_event rfl
theorem homeAccept (core k : Nat) : Statement (.homeAccept core k) := of_event rfl
theorem storeAcknowledge (core die : Nat) : Statement (.storeAcknowledge core die) := of_event rfl
theorem faultEntryRetry (ctx : Nat) : Statement (.faultEntryRetry ctx) := of_event rfl
theorem faultResolution (ctx entry res : Nat) : Statement (.faultResolution ctx entry res) := of_event rfl
theorem transferStart (xfer : Nat) : Statement (.transferStart xfer) := of_event rfl
theorem transferPiece (xfer piece : Nat) : Statement (.transferPiece xfer piece) := of_event rfl
theorem matrixResultLanding (core part : Nat) : Statement (.matrixResultLanding core part) := of_event rfl
theorem engineResultReturn (quire : Nat) : Statement (.engineResultReturn quire) := of_event rfl
theorem treeOperation (k : Nat) : Statement (.treeOperation k) := of_event rfl
theorem treeResultLanding (quire : Nat) : Statement (.treeResultLanding quire) := of_event rfl
theorem tleafAppend (k : Nat) : Statement (.tleafAppend k) := of_event rfl
theorem batchTimerExpiry (gath handle : Nat) : Statement (.batchTimerExpiry gath handle) := of_event rfl
theorem visibilityResolve (vol k : Nat) : Statement (.visibilityResolve vol k) := of_event rfl
theorem tileFinality (vol : Nat) : Statement (.tileFinality vol) := of_event rfl
theorem collectiveExchange (coll rank : Nat) (params : CollParams) (data : List W8) : Statement (.collectiveExchange coll rank params data) := of_event rfl
theorem heartbeatSend (coll : Nat) : Statement (.heartbeatSend coll) := of_event rfl
theorem memberLost (coll rank : Nat) : Statement (.memberLost coll rank) := of_event rfl
theorem viewMessage (coll rank : Nat) (view : Nat) : Statement (.viewMessage coll rank view) := of_event rfl
theorem coordinatorTimeout (coll : Nat) : Statement (.coordinatorTimeout coll) := of_event rfl
theorem finalMaskReceive (coll rank : Nat) (mask : Nat) : Statement (.finalMaskReceive coll rank mask) := of_event rfl
theorem finalMaskTimeout (coll : Nat) : Statement (.finalMaskTimeout coll) := of_event rfl
theorem collectiveCompletion (coll : Nat) : Statement (.collectiveCompletion coll) := of_event rfl
theorem stationReplayFailure (station : Nat) : Statement (.stationReplayFailure station) := of_event rfl
theorem stationAckTimeout (station : Nat) : Statement (.stationAckTimeout station) := of_event rfl
theorem peerCompletion (req : Nat) (ok : Bool) (data : List W8) (marks : List Nat) : Statement (.peerCompletion req ok data marks) := of_event rfl
theorem peerRequestTimeout (req : Nat) : Statement (.peerRequestTimeout req) := of_event rfl
theorem peerInboundRequest (r : PeerReq) : Statement (.peerInboundRequest r) := of_event rfl
theorem hostAccess (a : HostAcc) : Statement (.hostAccess a) := of_event rfl
theorem contextSwitchIn (ctx : Nat) : Statement (.contextSwitchIn ctx) := of_event rfl
theorem candidateWaitExpiry (ctx : Nat) : Statement (.candidateWaitExpiry ctx) := of_event rfl
theorem preemptionTimeout (quire : Nat) : Statement (.preemptionTimeout quire) := of_event rfl
theorem unitSave (gath : Nat) : Statement (.unitSave gath) := of_event rfl
theorem unitRestore (gath : Nat) : Statement (.unitRestore gath) := of_event rfl
theorem preemptionHoldoffExpiry (gath : Nat) : Statement (.preemptionHoldoffExpiry gath) := of_event rfl
theorem datapathError (quire : Nat) (e : PathErr) : Statement (.datapathError quire e) := of_event rfl
theorem eccEvent (e : EccErr) : Statement (.eccEvent e) := of_event rfl
theorem patrolScrub (e : EccErr) : Statement (.patrolScrub e) := of_event rfl
theorem laneRemapTimeout (quire : Nat) : Statement (.laneRemapTimeout quire) := of_event rfl
theorem deadlockWatchdog (ctx : Nat) : Statement (.deadlockWatchdog ctx) := of_event rfl
theorem externalWaitTimeout (quire : Nat) : Statement (.externalWaitTimeout quire) := of_event rfl
theorem budgetExhausted (quire : Nat) : Statement (.budgetExhausted quire) := of_event rfl
theorem trapcallReply (quire : Nat) : Statement (.trapcallReply quire) := of_event rfl
theorem mgPower (v : W64) : Statement (.mgPower v) := of_event rfl
theorem mgClock (v : W64) : Statement (.mgClock v) := of_event rfl
theorem clockModeFallback : Statement .clockModeFallback := of_event rfl
theorem thermalThrottle (die celsius : Nat) : Statement (.thermalThrottle die celsius) := of_event rfl
theorem thermalReset (die celsius : Nat) : Statement (.thermalReset die celsius) := of_event rfl
theorem mgEvents (v : W64) : Statement (.mgEvents v) := of_event rfl
theorem mgErrors (v : W64) : Statement (.mgErrors v) := of_event rfl
theorem mgRegisterWrite (off : Nat) (v : W64) : Statement (.mgRegisterWrite off v) := of_event rfl
theorem registerContext (blk rec : Nat) : Statement (.registerContext blk rec) := of_event rfl
theorem releaseContext (blk slot : Nat) : Statement (.releaseContext blk slot) := of_event rfl
theorem enableQueue (blk slot q : Nat) : Statement (.enableQueue blk slot q) := of_event rfl
theorem disableQueue (blk slot q : Nat) : Statement (.disableQueue blk slot q) := of_event rfl
theorem invalidate (blk slot : Nat) (va : W64) (pages : Nat) : Statement (.invalidate blk slot va pages) := of_event rfl
theorem peerEntry (blk idx : Nat) (v : W64) : Statement (.peerEntry blk idx v) := of_event rfl
theorem inboundWindow (blk idx slot : Nat) (va : W64) (len : Nat) (w : Bool) : Statement (.inboundWindow blk idx slot va len w) := of_event rfl
theorem stationUp (blk mask : Nat) : Statement (.stationUp blk mask) := of_event rfl
theorem debugStop (blk : Nat) (t : DbgTarget) : Statement (.debugStop blk t) := of_event rfl
theorem debugResume (blk : Nat) (t : DbgTarget) : Statement (.debugResume blk t) := of_event rfl
theorem debugStep (blk : Nat) (t : DbgTarget) : Statement (.debugStep blk t) := of_event rfl
theorem debugRead (blk quire : Nat) (r : DbgReg) : Statement (.debugRead blk quire r) := of_event rfl
theorem debugWrite (blk quire : Nat) (r : DbgReg) (v : Nat) : Statement (.debugWrite blk quire r v) := of_event rfl
theorem attest (blk : Nat) (nonce : List W8) (pa : Nat) : Statement (.attest blk nonce pa) := of_event rfl
theorem readRemap (blk : Nat) (t : RemapSel) : Statement (.readRemap blk t) := of_event rfl
theorem unknownCommand (blk code : Nat) : Statement (.unknownCommand blk code) := of_event rfl
theorem linkLevelAcknowledgement (station : Nat) : Statement (.linkLevelAcknowledgement station) := of_event rfl
theorem heartbeatReceive (coll rank : Nat) : Statement (.heartbeatReceive coll rank) := of_event rfl
theorem driverPreemptionRequest (blk gath : Nat) : Statement (.driverPreemptionRequest blk gath) := of_event rfl
theorem adaptiveClockStep (step : Nat) : Statement (.adaptiveClockStep step) := of_event rfl

end Sys2Proof.Laws.RoundTrip
end

