-- ==== Sys2Proof/Safety.lean ====
section
/-! DEFINITION. What counts as a safe step, and the invariant of the machine's state that every step keeps. -/
namespace Sys2Proof

/-- The machine neither faults nor refuses in a step from `s`. -/
def Safe (s : Machine.State) : Prop := ∃ t, Machine.step s = .next t

/-- Memory is in its canonical form. -/
abbrev Machine.State.MemWf (s : Machine.State) : Prop := s.mem.wf = true

/-- An instruction of quire `e` comes to its own effect from `s` (R106, R119, R525): `e` is the current quire, no check raises a trap, the
member is not one whose effect the checkpoint already records, and nothing stalls it at issue. -/
abbrev Machine.Executes (s : Machine.State) (e : Machine.Env) (i : Instr) : Prop :=
  s.envOf s.cur = some e ∧ e.check i = none ∧ e.recorded = none ∧ s.stallOf e 0 i = none

end Sys2Proof
end

