-- ==== Sys2Proof/WellFormed.lean ====
section
/-! DEFINITION. Which instructions are well formed: those whose header, fields, specifiers, types and modifiers check 5 of R106 admits.
What hangs on the quire (its index registers, its bounds, its latches, its mode) is not asked here. -/
namespace Sys2Proof

/-- The trap check 5 of R106 takes on the instruction as written: 0x03, or 0x0B for a space code; none for a well-formed one. -/
def Instr.fault (i : Instr) : Option Nat :=
  match Machine.Instr.hdr i with
  | none => none
  | some h => (Machine.Instr.form i).trap h

/-- The instruction has a word and check 5 admits it. -/
def Instr.WellFormed (i : Instr) : Prop := i.isWord = true ∧ i.fault = none

end Sys2Proof
end

