-- ==== Sys2Proof/Certificates/Slice0/Obligations.lean ====
section
/-! DEFINITION. What is to be proved of the J384: that every instruction comes to its effect and what that leaves, the frames, where traps go,
what decoding and encoding say of each other, and what every step keeps. `Executes` (Safety.lean) says when an instruction of a quire comes to
its own effect: no check of R106 fails, nothing stalls it (R119), the checkpoint does not already record it (R525). -/
namespace Sys2Proof.Claims
open Sys2Proof.Machine

/-! ### Instructions on registers -/

/-- An instruction on registers alone: its operands, the types its table gives them, what a lane computes from its sources. -/
structure Job where
  x : Alu
  p : AluSpec
  f : Env → Srcs → LaneRes

/-- The lane whose sources give lane `l` its result: its own, or the lowest that takes effect where the instruction executes once per
quire (R116). -/
def srcLane (e : Env) (j : Job) (l : Nat) : Nat := if j.x.once j.p then (LaneSet.lowest e.width (e.effect j.x.h)).getD 0 else l

/-- What lane `l` computes. -/
def lane (e : Env) (j : Job) (l : Nat) : LaneRes := j.f e (e.srcs j.x j.p (srcLane e j l))

/-- Poison of the sources of lane `l` (R175). -/
def poisoned (e : Env) (j : Job) (l : Nat) : Bool := (e.srcs j.x j.p (srcLane e j l)).bad

/-- The results, one for each lane that takes effect. -/
def outs (e : Env) (j : Job) : List LaneOut :=
  (e.lanes (e.effect j.x.h)).map fun l => { lane := l, n := (lane e j l).n, badLo := poisoned e j l, badHi := poisoned e j l }

/-- The flags of lane `l`: none where it is padding (R166), none where an operand is poisoned (R175). -/
def laneFlags (e : Env) (j : Job) (l : Nat) : Fl := if e.view.padding.has l || poisoned e j l then 0 else (lane e j l).fl

/-- The flags the instruction raises. -/
def flags (e : Env) (j : Job) : Fl := (e.lanes (e.effect j.x.h)).foldl (fun a l => a ||| laneFlags e j l) 0

/-- No lane raises a flag whose trap is enabled (R167). -/
abbrev Untrapped (e : Env) (j : Job) : Prop := ∀ l ∈ e.lanes (e.effect j.x.h), laneFlags e j l &&& e.enables = 0

/-- The words of the destination. -/
def words (p : AluSpec) : Nat := (p.td.map Ty.words).getD 1

/-- The quire after the results are delivered and the flags raised. -/
def after (e : Env) (j : Job) (q : Quire) : Quire :=
  e.deliver j.x.h j.x.d (words j.p) (j.p.td == some .i32) (outs e j) (q.raise (flags e j))

/-- An arithmetic element operation of R179: exact on the sources after neg/abs, then clamped or wrapped. -/
def arith (x : Alu) (p : AluSpec) (op : Int → Int → Int → Int) : Job := ⟨x, p, fun _ z => intArith x op z⟩
/-- An operation on the w-bit value. -/
def wordly (x : Alu) (p : AluSpec) (op : Nat → Nat → Nat → Nat → Nat) : Job :=
  ⟨x, p, fun _ z => LaneRes.of (op x.ty.width z.a.n z.b.n z.c.n)⟩

/-- The element arithmetic of R178 and R179: the operands, and the operation on exact integers. -/
def arithOf : Instr → Option (Alu × AluSpec × (Int → Int → Int → Int))
  | .iadd h f => let x := Alu.ofA h f; some (x, specArith2 x, fun a b _ => a + b)
  | .iaddI h f => let x := Alu.ofI h f; some (x, specArith2 x, fun a b _ => a + b)
  | .isub h f => let x := Alu.ofA h f; some (x, specArith2 x, fun a b _ => a - b)
  | .isubI h f => let x := Alu.ofI h f; some (x, specArith2 x, fun a b _ => a - b)
  | .imul h f => let x := Alu.ofA h f; some (x, specArith2 x, fun a b _ => a * b)
  | .imulI h f => let x := Alu.ofI h f; some (x, specArith2 x, fun a b _ => a * b)
  | .imad h f => let x := Alu.ofA h f; some (x, specArith3 x, fun a b c => a * b + c)
  | .imadI h f => let x := Alu.ofI h f; some (x, specArith3 x, fun a b c => a * b + c)
  | .imin h f => let x := Alu.ofA h f; some (x, specMinMax x, fun a b _ => min a b)
  | .iminI h f => let x := Alu.ofI h f; some (x, specMinMax x, fun a b _ => min a b)
  | .imax h f => let x := Alu.ofA h f; some (x, specMinMax x, fun a b _ => max a b)
  | .imaxI h f => let x := Alu.ofI h f; some (x, specMinMax x, fun a b _ => max a b)
  | .iabs h f => let x := Alu.ofA h f; some (x, specUnary x, fun a _ _ => (a.natAbs : Int))
  | .ineg h f => let x := Alu.ofA h f; some (x, specUnary x, fun a _ _ => -a)
  | .iadd3 h f => let x := Alu.ofA h f; some (x, specArith3 x, fun a b c => a + b + c)
  | .iadd3I h f => let x := Alu.ofI h f; some (x, specArith3 x, fun a b c => a + b + c)
  | .isad h f => let x := Alu.ofA h f; some (x, specArith3 x, fun a b c => ((a - b).natAbs : Int) + c)
  | .isadI h f => let x := Alu.ofI h f; some (x, specArith3 x, fun a b c => ((a - b).natAbs : Int) + c)
  | .iclamp h f => let x := Alu.ofA h f; some (x, specClamp x, fun a b c => min (max a b) c)
  | .iclampI h f => let x := Alu.ofI h f; some (x, specClamp x, fun a b c => min (max a b) c)
  | _ => none
def intJob (i : Instr) : Option Job := (arithOf i).map fun a => arith a.1 a.2.1 a.2.2

/-- Products, shifts, logic, counts, fields, moves and addresses (R180–R186). -/
def bitJob : Instr → Option Job
  | .imulh h f => let x := Alu.ofA h f; some ⟨x, specImulh x, fun _ z => LaneRes.of (mulHigh x z)⟩
  | .imulhI h f => let x := Alu.ofI h f; some ⟨x, specImulh x, fun _ z => LaneRes.of (mulHigh x z)⟩
  | .imadw h f => let x := Alu.ofA h f; some ⟨x, specImadw x, fun _ z => LaneRes.of (mulWide x z)⟩
  | .imadwI h f => let x := Alu.ofI h f; some ⟨x, specImadw x, fun _ z => LaneRes.of (mulWide x z)⟩
  | .shl h f => let x := Alu.ofA h f; some (wordly x (specShift x) shiftLeft)
  | .shlI h f => let x := Alu.ofI h f; some (wordly x (specShift x) shiftLeft)
  | .shr h f => let x := Alu.ofA h f; some (wordly x (specShift x) shiftRight)
  | .shrI h f => let x := Alu.ofI h f; some (wordly x (specShift x) shiftRight)
  | .sar h f => let x := Alu.ofA h f; some (wordly x (specShift x) shiftArith)
  | .rotl h f => let x := Alu.ofA h f; some (wordly x (specShift x) rotateLeft)
  | .tril h f => let x := Alu.ofA h f; some (wordly x (specTril x) (Machine.tril x.fn))
  | .trilI h f => let x := Alu.ofI h f; some (wordly x (specTril x) (Machine.tril x.fn))
  | .and h f => let x := Alu.ofA h f; some (wordly x (specLogic2 x) fun _ a b _ => a &&& b)
  | .andI h f => let x := Alu.ofI h f; some (wordly x (specLogic2 x) fun _ a b _ => a &&& b)
  | .or h f => let x := Alu.ofA h f; some (wordly x (specLogic2 x) fun _ a b _ => a ||| b)
  | .orI h f => let x := Alu.ofI h f; some (wordly x (specLogic2 x) fun _ a b _ => a ||| b)
  | .xor h f => let x := Alu.ofA h f; some (wordly x (specLogic2 x) fun _ a b _ => a ^^^ b)
  | .xorI h f => let x := Alu.ofI h f; some (wordly x (specLogic2 x) fun _ a b _ => a ^^^ b)
  | .not h f => let x := Alu.ofA h f; some (wordly x (specLogic1 x) fun w a _ _ => 2 ^ w - 1 - a % 2 ^ w)
  | .popc h f => let x := Alu.ofA h f; some (wordly x (specCount x) popCount)
  | .clz h f => let x := Alu.ofA h f; some (wordly x (specCount x) leadingZeros)
  | .brev h f => let x := Alu.ofA h f; some (wordly x (specLogic1 x) bitReverse)
  | .bfe h f => let x := Alu.ofA h f; some (wordly x (specShift x) fun w a f _ => fieldExtract x.ty.isSigned w a f)
  | .bfeI h f => let x := Alu.ofI h f; some (wordly x (specShift x) fun w a f _ => fieldExtract x.ty.isSigned w a f)
  | .bfi h f => let x := Alu.ofA h f; some (wordly x (specBfi x) fieldInsert)
  | .bfiI h f => let x := Alu.ofI h f; some (wordly x (specBfi x) fieldInsert)
  | .mov h f => let x := Alu.ofA h f; some ⟨x, specMov x, fun _ z => LaneRes.of z.a.n⟩
  | .movI h f => let x := Alu.ofI h f; some ⟨x, specMov x, fun _ z => LaneRes.of z.b.n⟩
  | .lea h f => let x := Alu.ofA h f; some ⟨x, specLea x, fun _ z => LaneRes.of (effAddress x z)⟩
  | .leaI h f => let x := Alu.ofI h f; some ⟨x, specLea x, fun _ z => LaneRes.of (effAddress x z)⟩
  | _ => none

/-- A floating-point operation, element by element, in the rounding mode the instruction names. -/
def fp (x : Alu) (p : AluSpec) (op : FpEnv → Fmt → Nat → Nat → Nat → Nat × Fl) : Job :=
  ⟨x, p, fun e z => perElem x.ty (fun a b c =>
    op (e.fp x x.ty) (fmtOf x.ty) (fltSrc (fmtOf x.ty) x.na a) (fltSrc (fmtOf x.ty) x.nb b) (fltSrc (fmtOf x.ty) x.nc c)) z⟩

/-- An FP32 approximation, narrowed for the packed types (R193). -/
def approximate (x : Alu) (g : Nat → Nat × Fl) : Job :=
  ⟨x, specFp tyF 1 false false x, fun e z => perElem x.ty (fun a _ _ =>
    if x.ty = .f32 then g (fltSrc (fmtOf x.ty) x.na a) else approxNarrow (fmtOf x.ty) (e.fp x x.ty).ftz g (fltSrc (fmtOf x.ty) x.na a)) z⟩

/-- FP32, FP16 and BF16 (R187–R193). -/
def floatJob : Instr → Option Job
  | .fadd h f => let x := Alu.ofA h f; some (fp x (specFp tyF 2 true true x) fpAdd)
  | .faddI h f => let x := Alu.ofI h f; some (fp x (specFp tyF 2 true true x) fpAdd)
  | .fsub h f => let x := Alu.ofA h f; some (fp x (specFp tyF 2 true true x) fpSub)
  | .fsubI h f => let x := Alu.ofI h f; some (fp x (specFp tyF 2 true true x) fpSub)
  | .fmul h f => let x := Alu.ofA h f; some (fp x (specFp tyF 2 true true x) fpMul)
  | .fmulI h f => let x := Alu.ofI h f; some (fp x (specFp tyF 2 true true x) fpMul)
  | .ffma h f => let x := Alu.ofA h f; some (fp x (specFp tyF 3 true true x) fpFma)
  | .ffmaI h f => let x := Alu.ofI h f; some (fp x (specFp tyF 3 true true x) fpFma)
  | .fmin h f => let x := Alu.ofA h f; some (fp x (specFp tyF 2 false false x) fpMin)
  | .fminI h f => let x := Alu.ofI h f; some (fp x (specFp tyF 2 false false x) fpMin)
  | .fmax h f => let x := Alu.ofA h f; some (fp x (specFp tyF 2 false false x) fpMax)
  | .fmaxI h f => let x := Alu.ofI h f; some (fp x (specFp tyF 2 false false x) fpMax)
  | .fsqrt h f => let x := Alu.ofA h f; some (fp x (specFp tyF 1 true true x) fpSqrt)
  | .frcp h f => let x := Alu.ofA h f; some (approximate x fun a => approxRcp .f32 0x087 a (.ulp 1))
  | .frsq h f => let x := Alu.ofA h f; some (approximate x fun a => approxRsq .f32 0x088 a (.ulp 2))
  | .fexp2 h f => let x := Alu.ofA h f; some (approximate x (approxExp2 .f32 0x08A))
  | .flog2 h f => let x := Alu.ofA h f; some (approximate x (approxLog2 .f32 0x08B))
  | .fsin h f => let x := Alu.ofA h f; some (approximate x (approxSin .f32 0x08C))
  | .fcos h f => let x := Alu.ofA h f; some (approximate x (approxCos .f32 0x08D))
  | .ftanh h f => let x := Alu.ofA h f; some (approximate x (approxTanh .f32 0x08E))
  | .fclass h f => let x := Alu.ofA h f; some ⟨x, specFclass tyF x, fun _ z => classLane x z⟩
  | .fscale h f => let x := Alu.ofA h f; some ⟨x, specFscale tyF x, fun e z => scaleLane e x z⟩
  | .fscaleI h f => let x := Alu.ofI h f; some ⟨x, specFscale tyF x, fun e z => scaleLane e x z⟩
  | .ffrc h f => let x := Alu.ofA h f; some (fp x (specFp tyF 1 false false x) fpFrac)
  | .frnd h f => let x := Alu.ofA h f; some (fp x (specFp tyF 1 true false x) fpRound)
  | .fdot2 h f => let x := Alu.ofA h f; some ⟨x, specFdot2 x, fun e z => dotLane e x z⟩
  | .fdot2I h f => let x := Alu.ofI h f; some ⟨x, specFdot2 x, fun e z => dotLane e x z⟩
  | _ => none

/-- FP64 (R187–R194). -/
def doubleJob : Instr → Option Job
  | .dadd h f => let x := Alu.ofA h f; some (fp x (specFp tyD 2 true true x) fpAdd)
  | .daddI h f => let x := Alu.ofI h f; some (fp x (specFp tyD 2 true true x) fpAdd)
  | .dsub h f => let x := Alu.ofA h f; some (fp x (specFp tyD 2 true true x) fpSub)
  | .dsubI h f => let x := Alu.ofI h f; some (fp x (specFp tyD 2 true true x) fpSub)
  | .dmul h f => let x := Alu.ofA h f; some (fp x (specFp tyD 2 true true x) fpMul)
  | .dmulI h f => let x := Alu.ofI h f; some (fp x (specFp tyD 2 true true x) fpMul)
  | .dfma h f => let x := Alu.ofA h f; some (fp x (specFp tyD 3 true true x) fpFma)
  | .dfmaI h f => let x := Alu.ofI h f; some (fp x (specFp tyD 3 true true x) fpFma)
  | .dmin h f => let x := Alu.ofA h f; some (fp x (specFp tyD 2 false false x) fpMin)
  | .dminI h f => let x := Alu.ofI h f; some (fp x (specFp tyD 2 false false x) fpMin)
  | .dmax h f => let x := Alu.ofA h f; some (fp x (specFp tyD 2 false false x) fpMax)
  | .dmaxI h f => let x := Alu.ofI h f; some (fp x (specFp tyD 2 false false x) fpMax)
  | .drcpa h f => let x := Alu.ofA h f; some (fp x (specFp tyD 1 false false x) fun _ F a _ _ => approxRcp F 0x0C7 a .rel)
  | .drsqa h f => let x := Alu.ofA h f; some (fp x (specFp tyD 1 false false x) fun _ F a _ _ => approxRsq F 0x0C8 a .rel)
  | .dsqrt h f => let x := Alu.ofA h f; some (fp x (specFp tyD 1 true true x) fpSqrt)
  | .ddiv h f => let x := Alu.ofA h f; some (fp x (specFp tyD 2 true true x) fpDiv)
  | .ddivI h f => let x := Alu.ofI h f; some (fp x (specFp tyD 2 true true x) fpDiv)
  | .dclass h f => let x := Alu.ofA h f; some ⟨x, specFclass tyD x, fun _ z => classLane x z⟩
  | .dscale h f => let x := Alu.ofA h f; some ⟨x, specFscale tyD x, fun e z => scaleLane e x z⟩
  | .dscaleI h f => let x := Alu.ofI h f; some ⟨x, specFscale tyD x, fun e z => scaleLane e x z⟩
  | .drnd h f => let x := Alu.ofA h f; some (fp x (specFp tyD 1 true false x) fpRound)
  | .dfrc h f => let x := Alu.ofA h f; some (fp x (specFp tyD 1 false false x) fpFrac)
  | _ => none

/-- Conversions that work in one lane (R197–R204). -/
def convertJob : Instr → Option Job
  | .cvt h f => let x := Alu.ofA h f; some ⟨x, specCvt x, fun e z => cvtLane e x z⟩
  | .cvtp h f => let x := Alu.ofA h f; some ⟨x, specCvtp x, fun e z => cvtpLane e x z⟩
  | .deq h f => let x := Alu.ofA h f; some ⟨x, specDeq x, fun e z => deqLane e x z⟩
  | .b8dec h f => let x := Alu.ofA h f; some ⟨x, specB8dec x, fun _ z => b8decLane x z⟩
  | .b8enc h f => let x := Alu.ofA h f; some ⟨x, specB8enc x, fun _ z => b8encLane x z⟩
  | .bmux h f => let x := Alu.ofA h f; some ⟨x, specBmux x, fun _ z => bmuxLane z⟩
  | .pack h f => let x := Alu.ofA h f; some ⟨x, specPack x, fun _ z => packLane x z⟩
  | _ => none

end Sys2Proof.Claims

open Sys2Proof Sys2Proof.Machine Sys2Proof.Claims

/-- R178–R186: an integer instruction writes its result, in the elements of its type, in every lane that takes effect, and changes nothing else:
arithmetic, products, shifts, logic, counts, fields, moves, addresses. -/
def Obligations.IntegerInstructionsDeliver : Prop :=
  ∀ (s : State) (e : Env) (i : Instr) (j : Job), (intJob i = some j ∨ bitJob i = some j) → Executes s e i →
    exec i s = .next (s.upd e fun q => e.deliver j.x.h j.x.d (words j.p) (j.p.td == some .i32) (outs e j) q)

/-- R166, R176, R187–R204: a floating-point instruction of any width, or a conversion that works in one lane, that raises no trapped flag writes its
results and adds its flags to sr.fpflags. -/
def Obligations.FloatingPointInstructionsDeliver : Prop :=
  ∀ (s : State) (e : Env) (i : Instr) (j : Job), (floatJob i = some j ∨ doubleJob i = some j ∨ convertJob i = some j) → Executes s e i → Untrapped e j →
    exec i s = .next (s.upd e (after e j))

namespace Sys2Proof.Claims
open Sys2Proof.Machine

/-! ### Comparisons and selection -/

/-- A comparison (R184, R190): what its lanes compute, and the predicate it writes. -/
def cmpJob : Instr → Option (Job × Nat)
  | .icmp h f => let x := Alu.ofA h f; some (⟨x, specIcmp x, fun _ z => icmpLane x z⟩, x.fn / 8 % 8)
  | .icmpI h f => let x := Alu.ofI h f; some (⟨x, specIcmp x, fun _ z => icmpLane x z⟩, x.fn / 8 % 8)
  | .fcmp h f => let x := Alu.ofA h f; some (⟨x, specFcmp tyF x, fun _ z => fcmpLane x z⟩, x.fn / 16 % 8)
  | .fcmpI h f => let x := Alu.ofI h f; some (⟨x, specFcmp tyF x, fun _ z => fcmpLane x z⟩, x.fn / 16 % 8)
  | .dcmp h f => let x := Alu.ofA h f; some (⟨x, specFcmp tyD x, fun _ z => fcmpLane x z⟩, x.fn / 16 % 8)
  | .dcmpI h f => let x := Alu.ofI h f; some (⟨x, specFcmp tyD x, fun _ z => fcmpLane x z⟩, x.fn / 16 % 8)
  | _ => none

/-- The lanes that take effect and whose comparison holds. -/
def hits (e : Env) (j : Job) : LaneSet := e.pick (e.effect j.x.h) fun l => (lane e j l).p

/-- The quire after the predicate is written in the lanes that take effect, and the masks where the form has a destination. -/
def compared (e : Env) (j : Job) (pd : Nat) (q : Quire) : Quire :=
  let q := q.raise (flags e j)
  let q := { q with regs := q.regs.pput pd (e.effect j.x.h) (hits e j) }
  if j.p.td.isSome then e.deliver j.x.h j.x.d (words j.p) (j.p.td == some .i32) (outs e j) q else q

/-- SEL's operands. -/
def selOf : Instr → Option Alu
  | .sel h f => some (Alu.ofA h f)
  | .selI h f => some (Alu.ofI h f)
  | _ => none

/-- The lanes of SEL whose predicate differs from another's (R185). -/
abbrev Mixed (e : Env) (x : Alu) : Prop := e.effect x.h &&& selLanes e x ≠ 0 ∧ e.effect x.h &&& ~~~selLanes e x ≠ 0

/-- SEL in one lane: its chosen source, with that source's poison alone. -/
def selected (e : Env) (x : Alu) (l : Nat) : LaneOut :=
  let k := if x.once (specSel x) then (LaneSet.lowest e.width (e.effect x.h)).getD 0 else l
  let z := e.srcs x (specSel x) k
  let v := if (selLanes e x).has l then z.a else z.b
  { lane := l, n := v.n, badLo := v.bad, badHi := v.bad }

/-! ### Lanes, predicates, windows -/

/-- One value in every lane that takes effect. -/
def each (e : Env) (h : Hdr) (v : Nat → Nat) (bad : Nat → Bool) : List LaneOut :=
  (e.lanes (e.effect h)).map fun l => { lane := l, n := v l, badLo := bad l, badHi := bad l }

/-- A predicate written in the lanes that take effect. -/
def voted (e : Env) (h : Hdr) (pd : Nat) (b : Bool) (q : Quire) : Quire :=
  { q with regs := q.regs.pput pd (e.effect h) (if b then e.effect h else 0) }

/-- A once-per-quire operand is not poisoned where a lane that is not padding takes effect. -/
abbrev Clean (e : Env) (h : Hdr) (o : Opnd) (t : Ty) : Prop := (e.readOnce h o t).bad = false ∨ e.contrib h = 0

/-- No index register's source is poisoned in a lane that is not padding. -/
abbrev CleanLanes (e : Env) (h : Hdr) (o : Opnd) (t : Ty) : Prop :=
  ∀ l ∈ e.lanes (e.effect h), e.view.padding.has l = false → (e.readTy o t l).bad = false

end Sys2Proof.Claims

/-- R166, R184, R190: a comparison writes its predicate in every lane that takes effect, and the element masks where it has a destination. -/
def Obligations.ComparisonsWritePredicates : Prop :=
  ∀ (s : State) (e : Env) (i : Instr) (j : Job) (pd : Nat), cmpJob i = some (j, pd) → Executes s e i → Untrapped e j →
    exec i s = .next (s.upd e (compared e j pd))

/-- R185: SEL writes a where its predicate holds and b elsewhere; once per quire, a predicate that is not uniform takes trap 0x06, detail 2. -/
def Obligations.SelectionFollowsThePredicate : Prop :=
  ∀ (s : State) (e : Env) (i : Instr) (x : Alu), selOf i = some x → Executes s e i →
    (¬ (x.once (specSel x) = true ∧ Mixed e x) →
      exec i s = .next (s.upd e (e.deliver x.h x.d (words (specSel x)) ((specSel x).td == some .i32) ((e.lanes (e.effect x.h)).map (selected e x)))))
    ∧ (x.once (specSel x) = true ∧ Mixed e x → exec i s = .next (s.takeTrap e.id (e.trapAll 0x06 2) false))

/-- R200, R203, R212–R216, R222: conversions over a mask word and moves between lanes deliver one value to every lane that takes effect. -/
def Obligations.CrossLaneMovesDeliver : Prop :=
  ∀ (s : State) (e : Env) (h : Hdr) (f : FmtA), let x := Alu.ofA h f
    (∀ size, Executes s e (.xlane h f) → e.segment (x.fn / 4 % 16) = some size →
      let b := fun l => e.readTy x.b (if x.fn % 4 = 1 then .i32 else .n32) l
      let a := fun l => e.readTy x.a x.ty (xlaneSource (x.fn % 4) size l (b l).n)
      exec (.xlane h f) s = .next (s.upd e (e.deliver h x.d x.ty.words false (each e h (fun l => (a l).n) fun l => (a l).bad || (b l).bad))))
    ∧ (Executes s e (.sread h f) →
      exec (.sread h f) s = .next (s.upd e (e.deliver h x.d x.ty.words false (each e h (fun l => e.special s x.fn l % 2 ^ x.ty.width) fun _ => false))))
    ∧ (∀ m, Executes s e (.ubcast h f) → LaneSet.lowest e.width (e.contrib h) = some m →
      exec (.ubcast h f) s = .next (s.upd e (e.deliver h x.d x.ty.words false
        (each e h (fun _ => (e.readTy x.a x.ty m).n) fun _ => (e.readTy x.a x.ty m).bad))))
    ∧ (Executes s e (.maskrd h f) → x.fn / 4 % 8 < e.words →
      let m := if x.fn % 4 = 0 then e.active else if x.fn % 4 = 1 then e.view.padding else e.view.absent &&& e.allLanes
      exec (.maskrd h f) s = .next (s.upd e (e.deliver h x.d 1 false (each e h
        (fun l => if x.fn % 4 = 3 then e.summary e.path else (m.word (if x.d.isScal then x.fn / 4 % 8 else l / 32)).toNat) fun _ => false))))

/-- R211: POLL's votes write a predicate; `.mask` and `.count` deliver the vote's lanes and their number. -/
def Obligations.PollVotes : Prop :=
  ∀ (s : State) (e : Env) (h : Hdr) (f : FmtA), let x := Alu.ofA h f
    let v := e.contrib h
    let q := (if x.fn.testBit 3 then ~~~(e.view.pget (x.fn % 8)) else e.view.pget (x.fn % 8)) &&& v
    let pd := x.fn / 16 % 8
    Executes s e (.poll h f) →
      (x.fn / 128 = 0 → exec (.poll h f) s = .next (s.upd e (voted e h pd (q == v))))
      ∧ (x.fn / 128 = 1 → exec (.poll h f) s = .next (s.upd e (voted e h pd (q != 0))))
      ∧ (x.fn / 128 = 2 → exec (.poll h f) s = .next (s.upd e (voted e h pd (q == 0))))
      ∧ (x.fn / 128 = 3 → exec (.poll h f) s = .next (s.upd e (voted e h pd (q == v || q == 0))))
      ∧ (x.fn / 128 = 4 → x.d.isScal = false →
        exec (.poll h f) s = .next (s.upd e (e.deliver h x.d 1 false (each e h (fun l => (wordOf q l).toNat) fun _ => false))))
      ∧ (x.fn / 128 = 4 → x.d.isScal = true → e.width ≤ 64 →
        exec (.poll h f) s = .next (s.upd e (e.deliver h x.d 2 false (each e h (fun _ => (q.extractLsb' 0 64).toNat) fun _ => false))))
      ∧ (x.fn / 128 = 4 → x.d.isScal = true → 64 < e.width → exec (.poll h f) s = .next (s.takeTrap e.id (e.trapAll 0x03 0) false))
      ∧ (5 ≤ x.fn / 128 → exec (.poll h f) s = .next (s.upd e (e.deliver h x.d 1 false (each e h (fun _ => (e.lanes q).length) fun _ => false))))

/-- R209, R210: predicate logic, and predicates moved to and from registers, act in the lanes that take effect. -/
def Obligations.PredicateInstructionsWrite : Prop :=
  ∀ (s : State) (e : Env) (h : Hdr) (f : FmtA), let x := Alu.ofA h f
    (Executes s e (.plop h f) →
      let bit := fun (k l n : Nat) => if (e.view.pget k).has l then n else 0
      exec (.plop h f) s = .next (s.upd e fun q => { q with regs := q.regs.pput (x.fn / 64 % 8) (e.effect h) (e.pick (e.effect h) fun l =>
        x.b.immVal.toNat.testBit (bit (x.fn / 8 % 8) l 1 + bit (x.fn % 8) l 2 + bit x.a.immVal.toNat l 4)) }))
    ∧ (Executes s e (.pmov h f) → x.fn.testBit 9 = false →
      exec (.pmov h f) s = .next (s.upd e (e.deliver h x.d 1 false (each e h (predWord e.view) fun _ => false))))
    ∧ (Executes s e (.pmov h f) → x.fn.testBit 9 = true →
      exec (.pmov h f) s = .next (s.upd e fun q => { q with regs := (List.range 8).foldl (fun r k =>
        if x.fn.testBit k && k != 0 then r.pput k (e.effect h) (e.pick (e.effect h) fun l => (e.readTy x.a .n32 l).n.testBit k) else r) q.regs }))

/-- R213, R214: folds and scans deliver their partial results segment by segment where no enabled flag is raised; MATCH delivers the lanes of
the mask word that agree, and says in its predicate whether all lanes do. -/
def Obligations.FoldsAndMatchesDeliver : Prop :=
  ∀ (s : State) (e : Env) (h : Hdr) (f : FmtA), let x := Alu.ofA h f
    (∀ (scan : Bool) (size : Nat), Executes s e (if scan then .scanq h f else .redq h f) → e.segment (x.fn / 8 % 16) = some size →
      let segs := (List.range (e.width / size)).map fun k =>
        e.foldSegment x scan (e.effect h) (e.contrib h) ((List.range size).map fun i => k * size + i)
      e.flagTrap (segs.flatMap Fold.fl) = none →
      exec (if scan then .scanq h f else .redq h f) s = .next (s.upd e fun q =>
        e.deliver h x.d x.ty.words (x.ty == .i32) ((segs.flatMap Fold.out).map Prod.fst) (q.raise (flUnion (segs.flatMap Fold.fl)))))
    ∧ (Executes s e (.matchQ h f) →
      let v := e.lanes (e.contrib h)
      let val := fun l => e.readTy x.a x.ty l
      let peers := fun l => v.filter fun k => k / 32 == l / 32
      exec (.matchQ h f) s = .next (s.upd e fun q =>
        let q := e.deliver h x.d 1 false (each e h
          (fun l => (peers l).foldl (fun n k => if (val k).n = (val l).n then n + 2 ^ (k % 32) else n) 0)
          (fun l => (val l).bad || (peers l).any fun k => (val k).bad)) q
        voted e h (x.fn % 8) (match v with
          | [] => true
          | k :: ks => ks.all fun l => (val l).n == (val k).n) q))

/-- R216–R219, R223: the special registers software may write, the index registers, the reservation, the padding. -/
def Obligations.WindowInstructionsWrite : Prop :=
  ∀ (s : State) (e : Env) (h : Hdr) (f : FmtA), let x := Alu.ofA h f
    (Executes s e (.swrite h f) → e.uniform h = .all → Clean e h x.a .i64 → x.fn = 0x12 → (e.readOnce h x.a .i64).n % 8 < 5 →
      exec (.swrite h f) s = .next (s.upd e fun q => { q with regs := { q.regs with fpmode := e.fpmodeOf (e.readOnce h x.a .i64).n } }))
    ∧ (Executes s e (.swrite h f) → e.uniform h = .all → Clean e h x.a .i64 → x.fn ≠ 0x12 →
      exec (.swrite h f) s = .next (s.upd e fun q =>
        { q with regs := { q.regs with fpflags := BitVec.ofNat 64 ((e.readOnce h x.a .i64).n % 32) } }))
    ∧ (Executes s e (.xset h f) → CleanLanes e h x.a .i32 →
      exec (.xset h f) s = .next (s.upd e fun q => { q with regs := (e.lanes (e.effect h)).foldl (fun r l =>
        r.xput (x.fn % 4) l (BitVec.ofNat 32 (e.readTy x.a .i32 l).n)) q.regs }))
    ∧ (Executes s e (.xadd h f) → CleanLanes e h x.a .i32 →
      exec (.xadd h f) s = .next (s.upd e fun q => { q with regs := (e.lanes (e.effect h)).foldl (fun r l =>
        r.xput (x.fn % 4) l (BitVec.ofNat 32 (e.readTy x.a .i32 l).n + e.view.xget (x.fn % 4) l)) q.regs }))
    ∧ (Executes s e (.claim h f) → e.uniform h = .all → Clean e h x.a .n32 → (e.readOnce h x.a .n32).n ≠ 0 →
      e.q.regs.reserve + (e.readOnce h x.a .n32).n ≤ e.vol.pkt.alloc → e.q.regs.reserve + (e.readOnce h x.a .n32).n ≤ 128 / e.words →
      exec (.claim h f) s = .next (s.upd e fun q =>
        { q with claimed := q.claimed - (e.readOnce h x.a .n32).n,
                 regs := { q.regs with reserve := q.regs.reserve + (e.readOnce h x.a .n32).n } }))
    ∧ (Executes s e (.surr h f) → e.uniform h = .all → Clean e h x.a .n32 → (e.readOnce h x.a .n32).n < e.q.regs.reserve →
      exec (.surr h f) s = .next (s.upd e fun q =>
        { q with regs := { q.regs with reserve := q.regs.reserve - (e.readOnce h x.a .n32).n,
                                       surrendered := q.regs.surrendered + (e.readOnce h x.a .n32).n } }))
    ∧ (∀ m, Executes s e (.pad h f) → e.uniform h = .all → e.padWords x.fn = some m → e.view.stack.any StackEntry.isReconv = false →
      exec (.pad h f) s = .next (s.upd e fun q =>
        let n := q.regs.absent &&& m &&& e.allLanes
        { q with regs := { q.regs with padding := q.regs.padding ||| n, absent := q.regs.absent &&& ~~~n, path := q.regs.path ||| n } }))
    ∧ (∀ m, Executes s e (.unpad h f) → e.uniform h = .all → e.padWords x.fn = some m →
      exec (.unpad h f) s = .next (s.upd e fun q => { q with regs := q.regs.dropLanes (q.regs.padding &&& m) }))

/-- R200, R203: block quantisation and the bit planes deliver their words, mask word by mask word. -/
def Obligations.BlockConversionsDeliver : Prop :=
  ∀ (s : State) (e : Env) (h : Hdr) (f : FmtA), let x := Alu.ofA h f
    (Executes s e (.cvtq h f) →
      let rs := (e.byWord (e.effect h)).flatMap fun ls =>
        (cvtqBlock (tyOfCode x.fn) (e.mode x.rnd) (ls.map fun l => (l, (e.readTy x.a .f32 l).n))).map fun r => (r, ls.any fun l => (e.readTy x.a .f32 l).bad)
      let fl : List LaneFl := (rs.filter fun r => !e.view.padding.has r.1.1 && !r.2 && r.1.2.2 != 0).map fun r => { lane := r.1.1, fl := r.1.2.2 }
      e.flagTrap fl = none →
      exec (.cvtq h f) s = .next (s.upd e fun q => e.deliver h x.d 1 false
        (rs.map fun r => { lane := r.1.1, n := r.1.2.1, badLo := r.2, badHi := r.2 }) (q.raise (flUnion fl))))
    ∧ (Executes s e (.bppack h f) →
      let a := fun l => e.readTy x.a .n32 l
      let b := fun l => e.readTy x.b .n32 l
      exec (.bppack h f) s = .next (s.upd e (e.deliver h x.d 2 false ((e.byWord (e.effect h)).flatMap fun ls =>
        ls.map fun l =>
          let in' := decide (l % 32 < planes x)
          let bad := in' && ls.any fun k => (a k).bad || (b k).bad
          { lane := l, n := if in' then planeOf (ls.map fun k => (k, (a k).n, (b k).n)) (l % 32) else 0, badLo := bad, badHi := bad }))))
    ∧ (Executes s e (.bpunp h f) →
      let plane := fun (ls : List Nat) (j : Nat) => (ls.find? fun l => l % 32 == j).map fun l => e.readTy x.a .n64 l
      let js := (List.range (planes x)).filter fun j => decide (x.fn / 8 % 4 ≤ j)
      let half := if x.fn.testBit 2 then 32 else 0
      exec (.bpunp h f) s = .next (s.upd e (e.deliver h x.d 1 (x.ty == .i32) ((e.byWord (e.effect h)).flatMap fun ls =>
        let bad := js.any fun j => ((plane ls j).map Val.bad).getD false
        ls.map fun l =>
          let v := js.foldl (fun n j => if ((plane ls j).map fun v => v.n.testBit (half + l % 32)).getD false then n + 2 ^ j else n) 0
          { lane := l, n := intBits 32 (intOf (x.ty == .i32) (planes x) v), badLo := bad, badHi := bad }))))

namespace Sys2Proof.Claims
open Sys2Proof.Machine

/-! ### Control flow -/

/-- A branch of R130: the state its lanes split in, the lanes it takes, its target, the displacement of its reconvergence point. -/
structure Branch where
  from' : State
  t : LaneSet
  pc : W64
  rdisp : BitVec 24

/-- The counters a vector LOOP leaves (R146). -/
def counted (e : Env) (h : Hdr) (o : Opnd) : List LaneOut :=
  (e.lanes (e.effect h)).map fun l =>
    let v := e.readTy o .n32 l
    { lane := l, n := (BitVec.ofNat 32 v.n - 1).toNat, badLo := v.bad, badHi := v.bad }

/-- The lanes BRA, BRC, BRX and the vector LOOP take, where no source is poisoned and BRX finds one PC (R140–R142, R146). -/
def branchOf (s : State) (e : Env) : Instr → Option Branch
  | .bra h f => some ⟨s, e.effect h, e.target f.tdisp, f.rdisp⟩
  | .brc h f => (brcType f.m).bind fun t =>
    if e.poisoned (e.effect h) f.a t = 0 then
      some ⟨s, e.pick (e.effect h) fun l => !(e.readTy f.a t l).bad && brcHolds t (f.m.toNat / 4096) (e.readTy f.a t l).n, e.target f.tdisp, f.rdisp⟩
    else none
  | .brx h f =>
    if e.poisoned (e.effect h) f.a .n64 = 0 then
      match e.lanes (e.effect h) with
      | [] => some ⟨s, e.effect h, 0, f.rdisp⟩
      | l :: ls =>
        if ls.all fun k => (e.readTy f.a .n64 k).n == (e.readTy f.a .n64 l).n then
          some ⟨s, e.effect h, BitVec.ofNat 64 (e.readTy f.a .n64 l).n, f.rdisp⟩
        else none
    else none
  | .loop h f =>
    if f.a.isScal = false ∧ e.poisoned (e.effect h) f.a .n32 = 0 then
      some ⟨s.upd e fun q => { q with regs := q.regs.applyAll (e.destWrites f.a 1 false (counted e h f.a)) },
        (counted e h f.a).foldl (fun (m : LaneSet) r => if r.n != 0 && !r.badLo then m ||| LaneSet.one r.lane else m) 0, e.target f.tdisp, f.rdisp⟩
    else none
  | _ => none

/-- The lanes that do not branch already wait at `rpc` (R130). -/
def waitsAt (e : Env) (rpc : W64) : Bool :=
  match e.q.regs.stack with
  | .reconv r _ _ :: _ => e.q.fall == rpc && r == rpc
  | _ => false

/-- The taken lanes run on at the target, over what is pushed. -/
def diverged (b : Branch) (push : List StackEntry) (q : Quire) : Quire :=
  ({ q with regs := { q.regs with path := q.regs.path &&& b.t, stack := push ++ q.regs.stack } } : Quire).goto b.pc true

/-- Instructions that execute once per quire under a guard uniform over E. -/
def uniformOnly : Instr → Bool
  | .call _ _ | .callx _ _ | .ret _ _ | .swrite _ _ | .claim _ _ | .surr _ _ | .pad _ _ | .unpad _ _ | .atoms _ _ | .fence _ _
  | .barinit _ _ | .bararv _ _ | .barwait _ _ | .bartry _ _ | .trywait _ _ | .msync _ _ | .attach _ _ | .detach _ _ | .qpush _ _ => true
  | .loop _ f => f.a.isScal
  | _ => false

/-- No once-per-quire value is poisoned where a lane that is not padding takes effect. -/
abbrev Fresh (e : Env) (h : Hdr) (l : List Val) : Prop := e.poisonOnce h l = false

end Sys2Proof.Claims

/-- R208, R260, R371, R375, R143, R144, R146: with every guard false nothing happens; a guard that is not uniform takes trap 0x06, detail 2. -/
def Obligations.UniformGuardsAreRequired : Prop :=
  ∀ (s : State) (e : Env) (i : Instr) (h : Hdr), uniformOnly i = true → Instr.hdr i = some h → Executes s e i →
    (e.uniform h = .none → exec i s = .next s)
    ∧ (e.uniform h = .mixed → exec i s = .next (s.takeTrap e.id (e.trapAll 0x06 2) false))

/-- R130, R134: how BRA, BRC, BRX and the vector LOOP split the lanes of the path. -/
def Obligations.BranchesSplitTheLanes : Prop :=
  ∀ (s : State) (e : Env) (i : Instr) (b : Branch), branchOf s e i = some b → Executes s e i → e.path ≠ 0 →
    let rpc := e.target b.rdisp
    (b.t = e.path → exec i s = .next (b.from'.upd e fun q => q.goto b.pc true))
    ∧ (b.t = 0 → exec i s = .next b.from')
    ∧ (b.t ≠ e.path → b.t ≠ 0 →
      (b.rdisp = 0 → exec i s = .next (b.from'.takeTrap e.id (e.trapAll 0x06 1) false))
      ∧ (b.rdisp ≠ 0 → waitsAt e rpc = true → exec i s = .next (b.from'.upd e (diverged b [])))
      ∧ (b.rdisp ≠ 0 → waitsAt e rpc = false → 1024 ≤ e.q.regs.stack.length → exec i s = .next (b.from'.takeTrap e.id (e.trapAll 0x06 4) false))
      ∧ (b.rdisp ≠ 0 → waitsAt e rpc = false → e.q.regs.stack.length < 1024 → e.q.fall = rpc →
        exec i s = .next (b.from'.upd e fun q => diverged b [.reconv rpc q.regs.path none] q))
      ∧ (b.rdisp ≠ 0 → waitsAt e rpc = false → e.q.regs.stack.length < 1024 → e.q.fall ≠ rpc →
        exec i s = .next (b.from'.upd e fun q => diverged b [.reconv rpc q.regs.path (some (e.q.fall, q.regs.path &&& ~~~b.t))] q)))

/-- R142–R144, R146: CALL and CALLX write the link, push a call marker and go to their target; RET pops the marker and goes to the link; the
scalar LOOP counts down and goes back while its counter is not zero. -/
def Obligations.CallsReturnsAndCountedLoops : Prop :=
  ∀ (s : State) (e : Env) (h : Hdr) (f : FmtC), e.uniform h = .all →
    let called := fun pc : W64 => s.upd e fun q =>
      ({ q with regs := { (q.regs.sput (f.m.toNat % 128) e.q.fall false) with stack := .call :: q.regs.stack } } : Quire).goto pc true
    let v := e.readOnce h f.a .n64
    let count := BitVec.ofNat 64 v.n - 1
    (Executes s e (.call h f) → e.q.regs.stack.length < 1024 → exec (.call h f) s = .next (called (e.target f.tdisp)))
    ∧ (Executes s e (.callx h f) → e.q.regs.stack.length < 1024 → e.poisoned (e.effect h) f.a .n64 = 0 →
      ∀ l ls, e.lanes (e.effect h) = l :: ls → (∀ k ∈ ls, (e.readTy f.a .n64 k).n = (e.readTy f.a .n64 l).n) →
        exec (.callx h f) s = .next (called (BitVec.ofNat 64 (e.readTy f.a .n64 l).n)))
    ∧ (∀ l, Executes s e (.ret h f) → Fresh e h [v] → e.q.regs.stack = .call :: l →
      exec (.ret h f) s = .next (s.upd e fun q => ({ q with regs := { q.regs with stack := l } } : Quire).goto (BitVec.ofNat 64 v.n) false))
    ∧ (Executes s e (.ret h f) → Fresh e h [v] → e.q.regs.stack.head? ≠ some .call → exec (.ret h f) s = .next (s.takeTrap e.id (e.trapAll 0x06 3) false))
    ∧ (∀ w n, Executes s e (.loop h f) → Fresh e h [v] → f.a = .s w n →
      exec (.loop h f) s = .next (s.upd e fun q =>
        let q := { q with regs := q.regs.sput n.toNat count v.bad }
        if count ≠ 0 ∧ v.bad = false then q.goto (e.target f.tdisp) true else q))

/-- R139, R145, R147–R149, R440: NOP, RECONV, EXIT, YIELD, BKPT and SIGCK. -/
def Obligations.PathInstructionsAct : Prop :=
  ∀ (s : State) (e : Env) (h : Hdr) (f : FmtC),
    (Executes s e (.nop h f) → exec (.nop h f) s = .next (s.upd e id))
    ∧ (Executes s e (.reconv h f) → exec (.reconv h f) s = .next (s.upd e (Env.reconv e)))
    ∧ (Executes s e (.exit h f) → exec (.exit h f) s = .next (if e.effect h = 0 then s else (s.commit e.id).upd e fun q =>
        { q with regs := q.regs.dropLanes (e.effect h), queries := q.queries.filter fun r => !(e.effect h).has r.1 }))
    ∧ (Executes s e (.yield h f) → exec (.yield h f) s = .next (if e.effect h = 0 then s else s.upd e fun q =>
        { q with age := s.clock, passed := 0, promoted := none, yielded := some s.clock, sealing := none }))
    ∧ (Executes s e (.bkpt h f) → e.effect h = 0 → exec (.bkpt h f) s = .next s)
    ∧ (Executes s e (.bkpt h f) → e.effect h ≠ 0 → e.ctx.debugBkpt = false →
        exec (.bkpt h f) s = .next (s.takeTrap e.id (e.trapAll 0x19 (f.m.toNat % 256)) false))
    ∧ (Executes s e (.sigck h f) → e.handlerMode = false →
        (f.m.getLsbD 0 = true ∨ (e.q.regs.sig = f.tdisp ++ f.rdisp.extractLsb' 16 8 ∧ e.q.regs.path &&& ~~~e.q.regs.padding = e.q.regs.latchedMask)) →
        exec (.sigck h f) s = .next (s.upd e fun q =>
          { q with regs := { q.regs with sig := 0, latchedMask := e.q.regs.path &&& ~~~e.q.regs.padding },
                   sigFails := if q.sigFails.2 == (q.selfPc, e.q.regs.entry) then (0, 0, 0) else q.sigFails }))

/-- R438: REGION completes wherever its index is in the liveness table, its entry is mapped, not at a peer, holds a legal entry, and no ray query is
open: it commits, counts its entry, clears sr.poison and checkpoints under the liveness it reads. The entry is the one in memory where the core's
read-only path does not hold its line, and what that path reads else. -/
def Obligations.RegionOpensARegion : Prop :=
  ∀ (s : State) (e : Env) (h : Hdr) (f : FmtC) (x : Xlated) (live : (Nat × Nat × Nat) × (Nat × Nat) × Bool),
    let ix := f.m.toNat % 4096
    let xl := s.xl (dieOfCore e.g.pcore) e.g.vol e.vol.ctx e.ctx.root (e.desc.liveVa + 32 * ix) .load
    let read := xl.2.roRead e.g.pcore x.pa 32
    Executes s e (.region h f) → ix < e.desc.liveN → xl.1 = .ok x → paKind x.pa ≠ .peer → e.q.queries = [] →
    (livenessOf (read.1.map Prod.fst) e.names e.vol.portion = some live → exec (.region h f) s = .next (e.regionEnter read.2 f live))
    ∧ (x.pa % 32 = 0 → findRo (xl.2.core e.g.pcore).ro (x.pa / 128) = none → livenessOf (xl.2.mem.bytes x.pa 32) e.names e.vol.portion = some live →
      exec (.region h f) s = .next (e.regionEnter read.2 f live))

namespace Sys2Proof.Claims
open Sys2Proof.Machine

/-! ### Memory -/

/-- A vector load whose lanes pass their checks: what is read now stands outstanding until it lands. -/
def loaded (s : State) (e : Env) (h : Hdr) (f : FmtM) (xs : List Spot) : State :=
  let size := Wd f.width
  let pad := e.lanes (e.effect h &&& e.view.padding)
  let p := e.padSpots s f size (bypassed f) pad
  let writes := fun (l : Nat) (bs : List (W8 × Bool)) => e.laneWrites h f.data l (datumWords (sxOf f) bs)
  let r := State.loadSpots e h f writes (xs ++ p.1) p.2
  let zero := (pad.filter fun l => !(p.1.any fun x => x.lane == l)).flatMap fun l => writes l (List.replicate size (0, false))
  (if f.space == .gen && !xs.isEmpty then r.2.2.countMisses e xs.length else r.2.2).upd e
    (e.outstanding h f.data (loadWords f) (e.lanes (e.effect h)) (Pending.load (r.1 ++ zero) true 0 :: r.2.1))

/-- A scalar load of the lowest lane, read for a lane that is not padding. -/
def loadedOnce (s : State) (e : Env) (h : Hdr) (f : FmtM) (l : Nat) (xs : List Spot) : State :=
  let r := State.loadSpots e h f (fun _ bs => e.scalarWrites h f.data (datumScalar (sxOf f) bs) (bs.any Prod.snd)) xs
    (if f.space == .gen then s.countMisses e 1 else s)
  r.2.2.upd e (e.outstanding h f.data 1 [l] (if r.2.1.isEmpty then [Pending.load r.1 true 0] else r.2.1))

/-- What padding lanes of a load read of what they can reach (R221), and that nothing stands before it (R267, R352). -/
abbrev PadsReady (t : State) (e : Env) (f : FmtM) (lanes : List Nat) : Prop :=
  let p := e.padSpots t f (Wd f.width) (bypassed f) lanes
  p.2.accessWait e .load p.1 = none

/-- A scalar load that only padding lanes take: what its lane can read, or zero (R221). -/
def loadedPad (t : State) (e : Env) (h : Hdr) (f : FmtM) (l : Nat) : State :=
  let writes := fun bs : List (W8 × Bool) => e.scalarWrites h f.data (datumScalar (sxOf f) bs) (bs.any Prod.snd)
  let p := e.padSpots t f (Wd f.width) (bypassed f) [l]
  if p.1 = [] then p.2.upd e (e.outstanding h f.data 1 [l] [Pending.load (writes (List.replicate (Wd f.width) (0, false))) true 0])
  else
    let r := State.loadSpots e h f (fun _ => writes) p.1 p.2
    r.2.2.upd e (e.outstanding h f.data 1 [l] (if r.2.1.isEmpty then [Pending.load r.1 true 0] else r.2.1))

/-- The lanes of an access that take part in the checks of R229. -/
def checked (e : Env) (h : Hdr) : List Nat := e.lanes (e.contrib h)

end Sys2Proof.Claims

/-- R229–R233, R251, R255, R256: LD, LDS, LDACQ and LDRO read the bytes of their lanes once every check passes; LDACQ then acquires at its scope.
Without a lane that takes effect LD and LDRO write an enabled latch alone. -/
def Obligations.LoadsReadWhatTheirLanesName : Prop :=
  ∀ (s t : State) (e : Env) (h : Hdr) (f : FmtM) (xs : List Spot),
    (e.effect h = 0 → ∀ i, (i = .ld h f ∨ i = .ldro h f) → Executes s e i → exec i s = .next (s.upd e (e.keepLatch h f.data (loadWords f))))
    ∧ (e.effect h ≠ 0 →
    (Executes s e (.ld h f) → e.privTrap f (e.lanes (e.effect h)) = none →
      e.spots s f (Wd f.width) 0 (bypassed f) .load (checked e h) = .ok (xs, t) → PadsReady t e f (e.lanes (e.effect h &&& e.view.padding)) →
      exec (.ld h f) s = .next (loaded t e h f xs))
    ∧ (∀ l, Executes s e (.lds h f) → e.contrib h = 0 → LaneSet.lowest e.width (e.effect h) = some l → PadsReady s e f [l] →
      exec (.lds h f) s = .next (loadedPad s e h f l))
    ∧ (∀ l, Executes s e (.lds h f) → e.contrib h ≠ 0 → LaneSet.lowest e.width (e.effect h) = some l →
      e.spots s f (Wd f.width) (e.contrib h) (bypassed f) .load [l] = .ok (xs, t) → exec (.lds h f) s = .next (loadedOnce t e h f l xs))
    ∧ (Executes s e (.ldacq h f) → f.data.isScal = false → e.privTrap f (e.lanes (e.effect h)) = none →
      e.spots s f (Wd f.width) 0 (bypassed f) .load (checked e h) = .ok (xs, t) → PadsReady t e f (e.lanes (e.effect h &&& e.view.padding)) →
      exec (.ldacq h f) s = .next (((loaded t e h f xs).acquire e.g.pcore f.scope).upd e fun q => q.awaitLoads f.scope))
    ∧ (∀ l, Executes s e (.ldacq h f) → f.data.isScal = true → e.contrib h ≠ 0 → LaneSet.lowest e.width (e.effect h) = some l →
      e.spots s f (Wd f.width) (e.contrib h) (bypassed f) .load [l] = .ok (xs, t) →
      exec (.ldacq h f) s = .next (((loadedOnce t e h f l xs).acquire e.g.pcore f.scope).upd e fun q => q.awaitLoads f.scope))
    ∧ (∀ ws, Executes s e (.ldro h f) → e.addrTrap s f (Wd f.width) 0 (checked e h) = none →
      e.roLanes h f (checked e h) s = .ok (ws, t) →
      let p := (e.lanes (e.effect h &&& e.view.padding)).foldl (e.roPad h f) (ws, t)
      exec (.ldro h f) s = .next (p.2.upd e
        (e.outstanding h f.data (loadWords f) (e.lanes (e.effect h)) [Pending.load p.1 true 0]))))

/-- R235, R237, R251, R255, R256: ST, STS and STREL put their bytes in the quire's store queue, whatever forced commits that takes; STREL first
commits and releases. Without a lane that takes effect nothing happens. -/
def Obligations.StoresEnterTheStoreQueue : Prop :=
  ∀ (s t u : State) (e : Env) (h : Hdr) (f : FmtM) (l : List (Nat × List StoreRec)),
    (e.effect h = 0 → ∀ i, (i = .st h f ∨ i = .sts h f ∨ i = .strel h f) → Executes s e i → exec i s = .next s)
    ∧ (e.effect h ≠ 0 →
    (Executes s e (.st h f) → e.privTrap f (e.lanes (e.effect h)) = none → e.storePlan s f 0 (checked e h) = .ok (l, t) →
      t.storeLanes e (f.space != .gen) (wordEntries f.width) (e.effect h) l = .ok u → exec (.st h f) s = .next u)
    ∧ (∀ k, Executes s e (.sts h f) → e.contrib h ≠ 0 → LaneSet.lowest e.width (e.effect h) = some k →
      e.storePlan s f (e.contrib h) [k] = .ok (l, t) →
      t.storeLanes e (f.space != .gen) 1 (LaneSet.one k) l = .ok u → exec (.sts h f) s = .next u)
    ∧ (Executes s e (.sts h f) → e.contrib h = 0 → exec (.sts h f) s = .next s)
    ∧ (Executes s e (.strel h f) → e.storePlan s f 0 (checked e h) = .ok (l, t) →
      let v := if e.firstWord = 0 then (t.commit e.id).release e.g.pcore e.id f.scope false else t
      v.storeLanes e (f.space != .gen) (wordEntries f.width) (e.effect h) l = .ok u → exec (.strel h f) s = .next u))

namespace Sys2Proof.Claims
open Sys2Proof.Machine

/-- A lane of PREF (R253): one whose address fails a check does nothing. -/
def prefetch (e : Env) (f : FmtM) (s : State) (l : Nat) : State :=
  if (e.addrTrap s f 1 0 [l]).isSome then s
  else match s.xlLane e (e.eaOf f l) .load with
    | (.error _, s) => s
    | (.ok x, s) =>
      if hintOf f = 3 ∨ x.uncached ∨ paKind x.pa = .peer then s
      else (List.range 4).foldl (fun s i => s.fillSector e.g.pcore (x.pa / 128 * 32 + 8 * i)) s

/-- No address word of the lanes that take part is poisoned. -/
abbrev Reachable (e : Env) (h : Hdr) (f : FmtM) : Prop :=
  ∀ l ∈ checked e h, (e.baseVal f l).bad = false ∧ (e.indexVal f l).bad = false

end Sys2Proof.Claims

/-- R253, R254: PREF fills the sectors of its lanes' lines; CINV drops clean words or read-only sectors; CWB brings committed bytes home, and with
`.evict` drops the clean words of lines that hold no uncommitted byte of the core's quires. Without a lane that takes effect nothing happens. -/
def Obligations.CacheInstructionsAct : Prop :=
  ∀ (s : State) (e : Env) (h : Hdr) (f : FmtM),
    (Executes s e (.pref h f) → Reachable e h f → exec (.pref h f) s = .next ((e.lanes (e.effect h)).foldl (prefetch e f) s))
    ∧ (∀ i, (i = .cinv h f ∨ i = .cwb h f) → Executes s e i → LaneSet.lowest e.width (e.effect h) = none → exec i s = .next s)
    ∧ (∀ l, LaneSet.lowest e.width (e.effect h) = some l → (e.contrib h = 0 ∨ ((e.baseVal f l).bad = false ∧ (e.indexVal f l).bad = false)) →
      let named := e.namedLines s h f
      (Executes s e (.cinv h f) → hintOf f ≠ 1 → exec (.cinv h f) s = .next (named.2.modCore e.g.pcore fun v =>
        { v with clean := v.clean.filter fun w => !inLines named.1 (w.1 / 32) || (outStores v.out).any fun r => r.words.contains w.1 }))
      ∧ (Executes s e (.cinv h f) → hintOf f = 1 →
        exec (.cinv h f) s = .next (named.2.modCore e.g.pcore fun v => { v with ro := v.ro.filter fun r => !inLines named.1 r.line }))
      ∧ (Executes s e (.cwb h f) →
        let mine := fun r : StoreRec => keyIsGeneric r.key && !r.far && inLines named.1 (r.key / 128)
        let home := named.2.recallCore e.g.pcore mine
        (∀ r ∈ outStores (home.core e.g.pcore).out, mine r = false) →
        let held := home.heldLines e.g.pcore
        exec (.cwb h f) s = .next (if hintOf f = 1 then
            home.modCore e.g.pcore fun v => { v with clean := v.clean.filter fun w => !inLines named.1 (w.1 / 32) || held.contains (w.1 / 32) }
          else home)))

/-- R229, R253, R254: PREF, CINV and CWB complete: whichever lanes take effect, as long as none of their address words is poisoned and, for CWB, no
store of the core to generic memory is on its way, there is a next state, in which no quire has changed. -/
def Obligations.CacheInstructionsComplete : Prop :=
  ∀ (s : State) (e : Env) (h : Hdr) (f : FmtM), Reachable e h f →
    (∀ l, LaneSet.lowest e.width (e.effect h) = some l → e.contrib h ≠ 0 → (e.baseVal f l).bad = false ∧ (e.indexVal f l).bad = false) →
    (Executes s e (.pref h f) → ∃ t, exec (.pref h f) s = .next t ∧ t.quires = s.quires)
    ∧ (Executes s e (.cinv h f) → ∃ t, exec (.cinv h f) s = .next t ∧ t.quires = s.quires)
    ∧ (Executes s e (.cwb h f) → (∀ r ∈ outStores (s.core e.g.pcore).out, keyIsGeneric r.key = false ∨ r.far = true) →
      ∃ t, exec (.cwb h f) s = .next t ∧ t.quires = s.quires)

/-- R350, R356, R366–R371: ATOM, RED and ATOMS send their requests after a commit, and a release where they order; FENCE drains and acquires.
Without a lane that takes effect nothing happens. -/
def Obligations.AtomicsAndFencesAct : Prop :=
  ∀ (s t : State) (e : Env) (h : Hdr) (f : FmtM) (l : List AsqLane),
    (e.effect h = 0 → ∀ i, (i = .atom h f ∨ i = .red h f) → Executes s e i → exec i s = .next s)
    ∧ (e.effect h ≠ 0 →
    let plan := fun (dst : Option Opnd) (words : Nat) => AtomPlan.mk (.atom f.sel (f.width == .w64)) dst words
      (if dst.isSome && ordered f.scope then some f.scope else none) (ordered f.scope)
    (Executes s e (.atom h f) → e.atomLanes s f 0 (checked e h) = .ok (l, t) →
      exec (.atom h f) s = .next (t.sendAtomics e (plan (some f.data) (atomWords f)) f.scope l))
    ∧ (Executes s e (.red h f) → e.atomLanes s f 0 (checked e h) = .ok (l, t) →
      exec (.red h f) s = .next (t.sendAtomics e (plan none (atomWords f)) f.scope l))
    ∧ (Executes s e (.atoms h f) → e.uniform h = .all → e.contrib h ≠ 0 →
      e.atomLanes s f (e.contrib h) (LaneSet.lowest e.width (e.effect h)).toList = .ok (l, t) →
      exec (.atoms h f) s = .next (t.sendAtomics e (plan (some f.data) 1) f.scope l))
    ∧ (Executes s e (.fence h f) → e.uniform h = .all →
      let released := (s.commit e.id).release e.g.pcore e.id f.scope true
      (f.sel = 4 → exec (.fence h f) s = .next (s.roClear e.g.pcore))
      ∧ (f.sel = 0 → exec (.fence h f) s = .next released)
      ∧ (f.sel = 1 → exec (.fence h f) s = .next (s.acquire e.g.pcore f.scope))
      ∧ (f.sel = 2 → exec (.fence h f) s = .next (released.acquire e.g.pcore f.scope))
      ∧ (f.sel = 3 → exec (.fence h f) s = .next (
          let u := released.acquire e.g.pcore f.scope
          if (u.core e.g.pcore).released e.id then u else u.upd e fun q => { q with wait := .stall .fence }))))

namespace Sys2Proof.Claims
open Sys2Proof.Machine

/-! ### Barriers, waits, quires -/

/-- The word a barrier operation acts on (R374): its key, the portion it lies in, and the state after the checks. -/
abbrev Word (s : State) (e : Env) (h : Hdr) (f : FmtE) (acc : Acc) (p : Nat × Option Nat) (t : State) : Prop :=
  s.wordAt e (Machine.spaceOf (mSpace f.m)) (e.readOnce h f.a .n64).n 8 acc = .ok (p, t)

/-- TRYWAIT's request on a word or a handle. -/
def tryOf (e : Env) (h : Hdr) (f : FmtE) : TryWait :=
  let m := f.m.toNat
  { handle := none, key := 0, cond := BitVec.ofNat 2 (bits m 19 18), wide := m.testBit 17, value := 0, ext := m.testBit 16,
    scope := Env.scopeField f, limit := (e.readOnce h f.c .n32).n, pd := bits m 23 21, lanes := e.effect h }

/-- A write of a scalar result of 32 bits. -/
def scalarResult (o : Opnd) (v : Nat) : List RegWrite := oldWrites (some o) true 0 v false

end Sys2Proof.Claims

/-- R376–R378: BARINIT writes or enrols its word, BARARV sends an arrival, BARWAIT returns or parks, BARTRY writes its predicate. -/
def Obligations.BarrierInstructionsAct : Prop :=
  ∀ (s t : State) (e : Env) (h : Hdr) (f : FmtE) (p : Nat × Option Nat), e.uniform h = .all →
    let a := e.readOnce h f.a .n64
    let n := e.readOnce h f.b .n32
    let g := e.readOnce h f.b .i64
    let track := f.m.getLsbD 3
    let enrol := f.m.getLsbD 4
    (Executes s e (.barinit h f) → Fresh e h [a, n] → n.n ≤ 4095 → (n.n ≠ 0 ∨ track = true ∨ enrol = true) → (enrol = true → n.n = 0) →
      Word s e h f .atomic p t → (track = true ∨ enrol = true → p.1 ∈ e.g.tracked ∨ e.g.tracked.length < 8) →
      let u := t.commit e.id
      (enrol = false → ∀ c ∈ u.cores, stuckIn c.2.quiet c.2.out p.1 8 = false) →
      let written := if enrol then u
        else (((((u.homeNum p.1 8).2.breakFor e.g.vol p.1).putHomeNum p.1 8
          (Bar.word { expected := n.n, arrived := 0, gen := 0, low := if track then 2 ^ 16 else 0 })).markBarrier p.1).observed e.g.pcore p.1 8).loseWaiters p.1
      exec (.barinit h f) s = .next ((if track || enrol then written.track e.q.gath p.1 else written).accept e.id []))
    ∧ (Executes s e (.bararv h f) → Fresh e h [a] → Word s e h f .atomic p t →
      exec (.bararv h f) s = .next (t.sendAtomics e { op := .arrive, dst := some f.d, words := 1, acq := none, rel := true }
        (barScope (Machine.spaceOf (mSpace f.m))) [{ lane := 0, key := p.1, v := 0, c := 0, bad := false, portion := p.2 }]))
    ∧ (Executes s e (.barwait h f) → Fresh e h [a, g] → Word s e h f .load p t →
      let sc := barScope (Machine.spaceOf (mSpace f.m))
      exec (.barwait h f) s = .next (if t.generation e p.1 ≠ g.n then t.barrierPassed e p.1 sc
        else t.upd e fun q => q.park (.barwait p.1 (BitVec.ofNat 16 g.n) sc)))
    ∧ (Executes s e (.bartry h f) → Fresh e h [a, g] → Word s e h f .load p t →
      let pd := bits f.m.toNat 7 5
      (t.generation e p.1 ≠ g.n → exec (.bartry h f) s = .next ((t.barrierPassed e p.1 (barScope (Machine.spaceOf (mSpace f.m)))).upd e fun q =>
        { q with regs := q.regs.pput pd (e.effect h) (e.effect h) }))
      ∧ (t.generation e p.1 = g.n → exec (.bartry h f) s = .next (t.upd e fun q => { q with regs := q.regs.pput pd (e.effect h) 0 })))

/-- R379, R380, R385: TRYWAIT ends at once or parks; MSYNC opens or joins an episode and parks until it completes. -/
def Obligations.WaitsParkOrEnd : Prop :=
  ∀ (s t : State) (e : Env) (h : Hdr) (f : FmtE) (p : Nat × Option Nat), e.uniform h = .all →
    let m := f.m.toNat
    let limit := e.readOnce h f.c .n32
    let n := e.readOnce h f.d .n64
    let a := e.readOnce h f.a .n64
    let v := e.readOnce h f.b .i64
    (Executes s e (.trywait h f) → m.testBit 20 = true → Fresh e h [n, limit] → e.handleNamed n.n = true →
      exec (.trywait h f) s = .next (e.tryPark s { tryOf e h f with handle := some n.n } limit.n))
    ∧ (Executes s e (.trywait h f) → m.testBit 20 = false → Fresh e h [a, v, limit] →
      s.wordAt e (Machine.spaceOf (bits m 12 10)) a.n (if m.testBit 17 then 8 else 4) .load = .ok (p, t) →
      exec (.trywait h f) s = .next (e.tryPark t { tryOf e h f with key := p.1, value := BitVec.ofNat 64 v.n } limit.n))
    ∧ (∀ mask, Executes s e (.msync h f) → (∀ l ∈ e.lanes (e.contrib h), (e.readTy f.a .n32 l).bad = false) → mask < 2 ^ 16 →
      e.lanes (e.effect h) ≠ [] → (∀ l ∈ e.lanes (e.effect h), (e.readTy f.a .n32 l).n = mask) → mask.testBit e.q.index = true →
      let w := BitVec.ofNat 16 mask
      let mine : W16 := BitVec.ofNat 16 (2 ^ e.q.index)
      let arrived := fun eps : List Episode => ((((s.setGath e.q.gath { e.g with episodes := eps }).upd e fun q => q.park (.msync w)).modGath e.q.gath
        fun g => g.dropEpisodes (((s.setGath e.q.gath { e.g with episodes := eps }).upd e fun q => q.park (.msync w)).memberIndices g)).wakeMsync e.q.gath)
      (e.g.episodes.any (fun ep => ep.mask == w) = true → exec (.msync h f) s = .next (arrived (e.g.episodes.map fun ep =>
        if ep.mask = w then { ep with arrived := ep.arrived ||| mine } else ep)))
      ∧ (e.g.episodes.all (fun ep => ep.mask &&& w == 0) = true → e.g.episodes.length < 4 →
        exec (.msync h f) s = .next (arrived (e.g.episodes ++ [{ mask := w, arrived := mine }]))))

/-- R382, R383, R386, R388: ATTACH asks for quires and says how many; DETACH leaves; SPAWN enters its lanes in bins; QPUSH pushes a packet. -/
def Obligations.QuiresAndLaunchesAreAskedFor : Prop :=
  ∀ (s t : State) (e : Env) (h : Hdr) (f : FmtE),
    (Executes s e (.attach h f) → e.uniform h = .all →
      let k := e.readOnce h f.a .n32
      let entry := e.readOnce h f.b .n64
      let arg := e.readOnce h f.c .i64
      let g := min k.n (e.vol.pkt.maxQ - e.g.quires.length - e.g.wanted.length)
      Fresh e h [k, entry, arg] → 1 ≤ k.n → k.n ≤ 15 →
      exec (.attach h f) s = .next ((((s.commit e.id).accept e.id []).modGath e.q.gath fun x =>
        { x with wanted := x.wanted ++ List.replicate g { entry := BitVec.ofNat 64 entry.n, arg := BitVec.ofNat 64 arg.n, from' := e.q.index } }).returned
          e.id (scalarResult f.d g)))
    ∧ (Executes s e (.detach h f) → e.uniform h = .all →
      exec (.detach h f) s = .next ((s.commit e.id).upd e fun q => { q with regs := q.regs.dropLanes (BitVec.allOnes 256), queries := [] }))
    ∧ (∀ l ls, Executes s e (.spawn h f) → e.lanes (e.contrib h) = l :: ls →
      (e.pick (e.contrib h) fun k => (e.spawnEntry f k).bad || (e.spawnKey f k).bad) = 0 → (∀ k ∈ l :: ls, (e.spawnEntry f k).n = (e.spawnEntry f l).n) →
      ∀ u, e.enterLanes f (BitVec.ofNat 64 (e.spawnEntry f l).n) (l :: ls) (s.commit e.id) = some u →
      let v := u.accept e.id []
      exec (.spawn h f) s = .next (if f.m.getLsbD 0 then v.upd e fun q =>
        { q with regs := q.regs.dropLanes (e.contrib h), queries := q.queries.filter fun r => !(e.contrib h).has r.1 } else v))
    ∧ (∀ (p : Nat × Option Nat) (Q : Queue) (u w : State), Executes s e (.qpush h f) → e.uniform h = .all →
      let qn := e.readOnce h f.a .n64
      let pv := e.readOnce h f.b .n64
      Fresh e h [qn, pv] → e.vol.depth < 10 → qn.n < 4096 → FMap.find s.queues (queueKey e.vol.ctx qn.n) = some Q → Q.deviceSide = true →
      (Q.state = .running ∨ Q.state = .waiting) → pv.n % 128 = 0 → s.wordAt e .gen pv.n 128 .load = .ok (p, t) →
      let r := t.readKeys e (runKeys p.1 128) true
      (∀ b ∈ r.1, b.2 = false) →
      ((r.2.commit e.id).release e.g.pcore e.id .dev false).pushTry e (queueKey e.vol.ctx qn.n) (r.1.map Prod.fst) f.d = (.ok (some u), w) →
      exec (.qpush h f) s = .next u)

namespace Sys2Proof.Claims
open Sys2Proof.Machine

/-! ### Streamer and handles -/

/-- What an instruction on a handle asks before its own checks (R260, R262): the guard, a lane that is not padding, the handle `n`, producer
rights where it commands a transfer, no poison. -/
abbrev Handles (e : Env) (h : Hdr) (o : Opnd) (producer : Bool) (others : List Val) (n : Nat) : Prop :=
  e.uniform h = .all ∧ e.contrib h ≠ 0 ∧ e.readOnce h o .n64 = { n := n, bad := false }
    ∧ (producer = true → e.vol.pkt.producer = e.q.index) ∧ ∀ v ∈ others, v.bad = false

/-- The address checks of R262 pass. -/
abbrev Reaches (e : Env) (dspad : Bool) (a len : Nat) : Prop :=
  (dspad = true → e.dspadBad (a % 2 ^ 32) len = false) ∧ a % 16 = 0 ∧ (dspad = false → canonical a = true)

/-- A command is taken: the commit, its place behind the handle's earlier ones, the acceptance (R260, R263, R433). -/
def commanded (s : State) (e : Env) (n : Nat) (kind : XferKind) (bytes : Nat) : State :=
  ((s.commit e.id).queueXfer e e.q.gath n kind bytes).accept e.id []

/-! ### Matrix instructions -/

/-- MMA, MMAS and MMAR: the plan of their operands; the values, bases, scale VAs and strides their checks look at (R284). -/
def matrixPlan (e : Env) : Instr → Option (Hdr × FmtE × MmaPlan × List Val × List Nat × List Nat × List Int)
  | .mma h f => (e.mmaPlan h f).map fun x =>
    (h, f, x, [e.readOnce h f.a .n64, e.readOnce h f.b .n64, e.readOnce h f.c .i64], [x.aBase, x.bBase], [], [x.aStride, x.bStride])
  | .mmas h f => (e.mmasPlan h f).map fun x =>
    (h, f, x, [e.readOnce h f.a .n64, e.readOnce h f.b .n64] ++ (List.range 4).map (e.scaleScal h f), [x.aBase, x.bBase], [x.aScale, x.bScale],
     [x.aStride, x.bStride])
  | .mmar h f => (e.mmarPlan h f).map fun x => (h, f, x, [e.readOnce h f.b .n64, e.readOnce h f.c .i64], [x.bBase], [], [x.bStride])
  | _ => none

/-- Checks 2 to 6 of R284 pass. -/
abbrev MatrixReady (e : Env) (h : Hdr) (vals : List Val) (bases scales : List Nat) (strides : List Int) : Prop :=
  e.guard h ≠ 0 ∧ e.guard h = e.allLanes ∧ e.path = e.allLanes ∧ (∀ v ∈ vals, v.bad = false)
    ∧ (∀ b ∈ bases, b % 16 = 0 ∧ canonical b = true) ∧ (∀ b ∈ scales, canonical b = true) ∧ ∀ t ∈ strides, t % 16 = 0

/-- A run of reads begins, no copy held: any other copy of the partition is dropped (R291). -/
def begun (s : State) (e : Env) (old : List Mel) : Reads := { s := s.dropHeld e, old := old, landing := false, log := [] }

/-- The unit holds the results of all its rows, and the B operand where the header keeps it (R288–R291). -/
def multiplied (c : (List (List Mel) × List (List Mel)) × RowsDone × Reads) (e : Env) (i : Instr) (h : Hdr) (f : FmtE) (x : MmaPlan) : State :=
  let u := c.2.2.s.queueMatrix e i f.d (fragRegs x.p.cls) (c.2.1.writes, c.2.1.fl) c.2.2.log
  let held : HeldB := { core := e.g.pcore, part := e.q.part, quire := e.id, key := x.key f, vals := c.1.1, scales := c.1.2 }
  let u : State := if h.keep then { u with held := u.held ++ [held] } else u
  u.upd e fun q => { q with keepB := h.keep, regs := if (e.startRow x).isSome then { q.regs with rowprog := 0 } else q.regs }

/-- What MLDC leaves for its fragment: the writes, and the flags of lanes that are not padding. -/
def tileLoaded (e : Env) (f : FmtE) (ms : List Mel) : List RegWrite × Fl :=
  ((e.tile (mA f)).zip ms).foldl (fun (acc : List RegWrite × Fl) x =>
    let w := widenMem (mA f) (mB f) x.2.1
    (acc.1 ++ fragWrites (mA f) (Opnd.num f.d) x.1.1 x.1.2 (w.1, x.2.2),
     if e.view.padding.has (fragPlace (mA f) x.1.1 x.1.2).1 then acc.2 else acc.2 ||| w.2)) ([], 0)

/-- The elements MSTC stores: those of lanes that are not padding. -/
def tileStored (e : Env) (f : FmtE) : List (Nat × Nat) := (e.tile (mA f)).filter fun x => !e.view.padding.has (fragPlace (mA f) x.1 x.2).1

/-- A lane of MACT: its packed results and flags (R293). -/
def actLane (e : Env) (f : FmtE) (bias : List Mel) (l : Nat) : List RegWrite × Fl :=
  let w := elemBits (mB f)
  let per := 32 / w
  (List.range (32 / per)).foldl (fun (acc : List RegWrite × Fl) i =>
    let es := (List.range per).map fun k =>
      let j := i * per + k
      let c := e.view.vecVal (Opnd.num f.a + j) 1 l
      let d := bias.getD j (0, false)
      let r := actElem (mB f) (f.m.getLsbD 14) (f.m.getLsbD 13) e.ftz16 c.n d.1
      (r.1, r.2, c.bad || d.2)
    (acc.1 ++ [RegWrite.vec (vKey (Opnd.num f.d + i) l) (BitVec.ofNat 32 (packElems w (es.map Prod.fst))) (es.any fun x => x.2.2)],
     acc.2 ||| es.foldl (fun a x => a ||| x.2.1) 0)) ([], 0)

def activated (e : Env) (f : FmtE) (bias : List Mel) : List RegWrite × Fl :=
  (e.lanes e.allLanes).foldl (fun (acc : List RegWrite × Fl) l =>
    (acc.1 ++ (actLane e f bias l).1, if e.view.padding.has l then acc.2 else acc.2 ||| (actLane e f bias l).2)) ([], 0)

end Sys2Proof.Claims

/-- R260–R267, R339, R424: a command whose checks pass commits the region, queues its transfer behind the handle's earlier ones, and is accepted. -/
def Obligations.TransfersAreQueued : Prop :=
  ∀ (s : State) (e : Env) (h : Hdr) (f : FmtE) (n : Nat), e.ringSlot n = false →
    let a := e.readOnce h f.a .n64
    let ai := e.readOnce h f.a .i64
    let b := e.readOnce h f.b .i64
    let bn := e.readOnce h f.b .n64
    let c := e.readOnce h f.c .i64
    let cn := e.readOnce h f.c .n64
    let va := BitVec.ofNat 64 a.n
    (Executes s e (.cpy h f) → Handles e h f.d true [a, b] n → e.countBad n b.n = false → Reaches e (isDspad f) a.n b.n →
      exec (.cpy h f) s = .next (commanded s e n (.cpy va (isDspad f)) b.n))
    ∧ (Executes s e (.cpyout h f) → Handles e h f.d true [a, b] n → e.countBad n b.n = false → Reaches e (isDspad f) a.n b.n →
      exec (.cpyout h f) s = .next (commanded s e n (.cpyout va (isDspad f)) b.n))
    ∧ (Executes s e (.cpy2d h f) → Handles e h f.d true [a, b, c] n →
      let rows := bits b.n 47 32
      let rb := bits b.n 23 0
      let stride := (BitVec.ofNat 64 c.n).toInt
      rows ≠ 0 → bits b.n 63 48 = 0 → bits b.n 31 24 = 0 → stride % 16 = 0 → e.countBad n (rows * rb) = false →
      (isDspad f = true → e.rowsBad a.n rows rb stride = false) → Reaches e (isDspad f) a.n 0 →
      exec (.cpy2d h f) s = .next (commanded s e n (.cpy2d va (isDspad f) rows rb (BitVec.ofNat 64 c.n)) (rows * rb)))
    ∧ (Executes s e (.cpyt h f) → Handles e h f.d true [a, bn] n → a.n % 64 = 0 → canonical a.n = true →
      exec (.cpyt h f) s = .next (commanded s e n (.cpyt va (BitVec.ofNat 64 bn.n)) 16))
    ∧ (Executes s e (.cpyfill h f) → Handles e h f.d true [ai, b] n → e.countBad n b.n = false →
      exec (.cpyfill h f) s = .next (commanded s e n (.fill (BitVec.ofNat 32 ai.n) false) b.n))
    ∧ (Executes s e (.cpymc h f) → Handles e h f.d true [a, b, c] n → b.n ≠ 0 → b.n % 16 = 0 → bits c.n 63 49 = 0 →
      (∀ d ∈ maskOffsets c.n, e.offSpan d = false) → Reaches e (isDspad f) a.n b.n →
      let cmd := (s.commit e.id).fresh
      exec (.cpymc h f) s = .next (((maskOffsets c.n).foldl (fun s d => match s.spanMate e d.1 d.2 with
        | none => s
        | some t => s.queueXfer e t.1 n (.mc va (isDspad f) cmd.1) b.n) cmd.2).accept e.id []))
    ∧ (Executes s e (.asbuild h f) → Handles e h f.d false [a, bn, cn] n → bn.n % 256 = 0 → cn.n % 256 = 0 →
      exec (.asbuild h f) s = .next (commanded s e n (.build va (BitVec.ofNat 64 bn.n) (BitVec.ofNat 64 cn.n) (f.m.getLsbD 0)) 0))
    ∧ (Executes s e (.coll h f) → Handles e h f.d false [a] n → a.n % 64 = 0 → canonical a.n = true →
      let r := (s.commit e.id).fresh
      exec (.coll h f) s = .next (((r.2.setColl r.1 (Coll.fresh e a.n f.m.toNat)).queueXfer e e.q.gath n (.coll r.1) 0).accept e.id []))

/-- R257, R268, R271: HSET, HWAIT, HDRAIN, HFREE and HSTAT take a handle through its states. -/
def Obligations.HandlesGoThroughTheirStates : Prop :=
  ∀ (s : State) (e : Env) (h : Hdr) (f : FmtE) (n : Nat),
    let a := e.readOnce h f.a .i64
    let b := e.readOnce h f.b .i64
    let st := (s.handle e.q.gath n).state
    (Executes s e (.hset h f) → Handles e h f.d true [a, b] n → e.ringSlot n = false → b.n ≠ 0 → b.n % 16 = 0 → a.n % 16 = 0 → a.n + b.n ≤ e.vol.portion →
      (e.g.handle n).state = .free → s.heldOn e.q.gath n = false →
      exec (.hset h f) s = .next (((s.commit e.id).modHandle e.q.gath n fun x =>
        { x with offset := a.n / 16, size := b.n / 16, fill := 0, error := 0 }).accept e.id []))
    ∧ (Executes s e (.hwait h f) → Handles e h f.d false [] n →
      let full := f.m.toNat % 4 == 2
      (st = (if full then .full else .free) → (full = true → (s.handle e.q.gath n).error = 0) →
        exec (.hwait h f) s = .next (if full then s.acquire e.g.pcore .dev else s))
      ∧ (st = (if full then .full else .free) → full = true → (s.handle e.q.gath n).error ≠ 0 →
        exec (.hwait h f) s = .next (s.takeTrap e.id (e.trapInfo (s.handle e.q.gath n).error 0xFFFF n 0 0) false))
      ∧ (st ≠ (if full then .full else .free) → exec (.hwait h f) s = .next (s.upd e fun q => q.park (.hwait n full))))
    ∧ (Executes s e (.hdrain h f) → Handles e h f.d false [] n → e.ringSlot n = false → st = .full →
      exec (.hdrain h f) s = .next (((s.commit e.id).modHandle e.q.gath n fun x => { x with state := .draining, error := 0 }).accept e.id []))
    ∧ (Executes s e (.hfree h f) → Handles e h f.d false [] n → e.ringSlot n = false → st = .draining →
      exec (.hfree h f) s = .next (((s.commit e.id).freeHandle e.q.gath n).accept e.id []))
    ∧ (Executes s e (.hstat h f) → Handles e h f.a false [] n →
      let seen := if st = .full then s.acquire e.g.pcore .dev else s
      exec (.hstat h f) s = .next (seen.upd e (e.deliver h f.d 2 false (each e h (fun _ => (s.handleWord e.q.gath n).toNat) fun _ => false))))

/-- R285–R291: MMA, MMAS and MMAR whose operands can all be read hand the rows of their tile to the matrix unit; a copy of B that is held and may be
used is read in place of memory. -/
def Obligations.MatrixProductsAreTaken : Prop :=
  ∀ (s : State) (e : Env) (i : Instr) (h : Hdr) (f : FmtE) (x : MmaPlan) (vals : List Val) (bases scales : List Nat) (strides : List Int),
    matrixPlan e i = some (h, f, x, vals, bases, scales, strides) → Executes s e i → MatrixReady e h vals bases scales strides →
    let old := match s.heldFor e (x.key f) x.scaled with
      | some b => b.elems x.scaled
      | none => []
    let c := mmaCalc e f x (begun s e old)
    c.2.1.fault = none → exec i s = .next (multiplied c e i h f x)

/-- R284, R286, R292, R293: MLDC and MACT fill fragments, MZERO clears one, MSTC commits and hands a tile to the unit for its turn to be written. -/
def Obligations.FragmentInstructionsAct : Prop :=
  ∀ (s t : State) (e : Env) (h : Hdr) (f : FmtE),
    let a := e.readOnce h f.a .n64
    let st := e.readOnce h f.b .i64
    let stride := strideOf (st.n % 2 ^ 32)
    let bias := e.readOnce h f.b .n64
    let cols := tileCols (mA f)
    let size := elemBits (mB f) / 8
    let va := fun x : Nat × Nat => rowVa a.n x.1 stride (x.2 * size)
    (∀ ms r, Executes s e (.mldc h f) → MatrixReady e h [a, st] [a.n] [] [stride] → e.tileTrap (e.tile (mA f)) (mA f) va = none →
      readList (fun i r => r.elem fun s => s.rowElem e true (mB f) (rowVa a.n (i / cols) stride 0) (i % cols)) (List.range (e.tile (mA f)).length)
        (begun s e []) = (.ok ms, r) →
      exec (.mldc h f) s = .next (r.s.queueMatrix e (.mldc h f) f.d (fragRegs (mA f)) (tileLoaded e f ms) r.log))
    ∧ (∀ pas, Executes s e (.mstc h f) → MatrixReady e h [a, st] [a.n] [] [stride] → e.tileTrap (tileStored e f) (mA f) va = none →
      let vals := (tileStored e f).map fun x => e.fragElem (mA f) (Opnd.num f.c) x.1 x.2
      let out := vals.map fun m => narrowMem e.ftz16 (mA f) (mB f) m.1
      (s.dropHeld e).tilePlaces e ((tileStored e f).map va) = (.ok pas, t) → (∀ m ∈ vals, m.2 = false) →
      let u := ((t.commit e.id).accept e.id []).fresh
      exec (.mstc h f) s = .next ((u.2.takeJob e (.mstc h f) u.1 0 [] ((pas.zip out).map fun x => (x.1, leBytes size x.2.1))).upd e
        fun q => q.raise (out.foldl (fun a r => a ||| r.2) 0)))
    ∧ (Executes s e (.mzero h f) → MatrixReady e h [] [] [] [] →
      exec (.mzero h f) s = .next ((s.dropHeld e).queueMatrix e (.mzero h f) f.d (fragRegs (mA f))
        ((e.lanes e.allLanes).flatMap fun l => (List.range (fragRegs (mA f))).map fun i => RegWrite.vec (vKey (Opnd.num f.d + i) l) 0 false, 0) []))
    ∧ (Executes s e (.mact h f) → f.b = Opnd.s127 → MatrixReady e h [bias] [] [] [] →
      exec (.mact h f) s = .next ((s.dropHeld e).queueMatrix e (.mact h f) f.d (elemBits (mB f)) (activated e f (List.replicate 32 (0, false))) []))
    ∧ (∀ bs r, Executes s e (.mact h f) → f.b ≠ Opnd.s127 → MatrixReady e h [bias] [bias.n] [] [] → (∀ j < 32, canonical (bias.n + 4 * j) = true) →
      readList (fun j r => r.elem fun s => s.operandBytes e false (bias.n + 4 * j) 4) (List.range 32) (begun s e []) = (.ok bs, r) →
      exec (.mact h f) s = .next (r.s.queueMatrix e (.mact h f) f.d (elemBits (mB f)) (activated e f bs) r.log))

namespace Sys2Proof.Claims
open Sys2Proof.Machine

/-! ### Sampling -/

/-- Steps over the lanes of an engine's instruction, each giving its lane's words. -/
abbrev LaneWords := List (Nat × List (W32 × Bool))

/-- TLD's texel, or zero outside the level (R303). -/
def loadTexel (e : Env) (f : FmtE) (x : Nat × Tex) (s : State) : Except Halt (Nat × List (W32 × Bool)) × State :=
  let half := f.m.getLsbD 3
  let c := fun i => signedLow 32 (e.regAt f.a i x.1).n
  let j := (c 3).toNat
  if decide (0 ≤ c 3 ∧ c 3 < x.2.levels) && (List.range 3).all fun i => decide (0 ≤ c i ∧ c i < ((x.2.dims j).getD i 1 : Int)) then
    andThen (s.texel e x.1 x.2 j (c 0).toNat (c 1).toNat (c 2).toNat) fun t s => (.ok (x.1, channelWords half t), s)
  else (.ok (x.1, channelWords half { ch := [0, 0, 0, 0], bad := false }), s)

/-- TQRY's words in a lane (R303). -/
def queried (e : Env) (f : FmtE) (x : Nat × Tex) : Nat × List (W32 × Bool) :=
  let j := e.readTy f.a .n32 x.1
  (x.1, (if j.n < x.2.levels then x.2.dims j.n ++ [x.2.levels] else [0, 0, 0, 0]).map fun v => (BitVec.ofNat 32 v, j.bad))

/-- No lane that takes effect and is not padding holds such poison. -/
abbrev Unpoisoned (e : Env) (h : Hdr) (bad : Nat → Bool) : Prop := ∀ l ∈ e.lanes (e.effect h), e.view.padding.has l = false → bad l = false

end Sys2Proof.Claims

/-- R294–R303: TEX, TGATH, TLD and TQRY return their samples once every record, coordinate and texel has been read. -/
def Obligations.TexturesAreSampled : Prop :=
  ∀ (s t u : State) (e : Env) (h : Hdr) (f : FmtE), e.effect h ≠ 0 →
    let half := f.m.getLsbD 3
    let n := if half then 2 else 4
    let lanes := e.lanes (e.effect h)
    (∀ xs rs, Executes s e (.tex h f) → e.texPlan s f false lanes = (.ok xs, t) →
      eachLane Prod.fst (fun (x : Nat × Sampled) s => andThen (s.texLane e x.1 x.2) fun t s => (.ok (x.1, channelWords half t), s)) xs t = (.ok rs, u) →
      exec (.tex h f) s = .next (u.engineReturn e h f.d n (fun _ => n) rs))
    ∧ (∀ xs rs, Executes s e (.tgath h f) → e.texPlan s f true lanes = (.ok xs, t) →
      eachLane Prod.fst (fun (x : Nat × Sampled) s =>
        andThen (s.footprint e x.1 x.2.tex x.2.smp true (levelsOf x.2.tex x.2.smp x.2.lod).j0 x.2.layer x.2.u) fun l s =>
          (.ok (x.1, l.map fun c => (BitVec.ofNat 32 (c.1.ch.getD (bits f.m.toNat 5 4) 0), c.1.bad)), s)) xs t = (.ok rs, u) →
      exec (.tgath h f) s = .next (u.engineReturn e h f.d 4 (fun _ => 4) rs))
    ∧ (∀ ts rs, Executes s e (.tld h f) → Unpoisoned e h (fun l => (e.vaIn f.b l).bad || (List.range 4).any fun i => (e.regAt f.a i l).bad) →
      e.readRecords s 64 (e.recAt f.b lanes) texOf = (.ok ts, t) → eachLane Prod.fst (loadTexel e f) (e.working ts) t = (.ok rs, u) →
      exec (.tld h f) s = .next (u.engineReturn e h f.d n (fun _ => n) rs))
    ∧ (∀ ts, Executes s e (.tqry h f) → Unpoisoned e h (fun l => (e.vaIn f.b l).bad) → e.readRecords s 64 (e.recAt f.b lanes) texOf = (.ok ts, t) →
      exec (.tqry h f) s = .next (t.engineReturn e h f.d 4 (fun _ => 4) ((e.working ts).map (queried e f))))

/-- R304–R309: HGFETCH and NTEX return the features and outputs of their lanes, HGSCAT sends the sums of its lanes' gradients. -/
def Obligations.GridsAndNetworksAreSampled : Prop :=
  ∀ (s t u v : State) (e : Env) (h : Hdr) (f : FmtE), e.effect h ≠ 0 → Unpoisoned e h (fun l => (e.vaIn f.b l).bad || (e.regAt f.a 0 l).bad) →
    let lanes := e.lanes (e.effect h)
    (∀ gs rs, Executes s e (.hgfetch h f) → e.readRecords s 64 (e.recAt f.b lanes) (gridOf false) = (.ok gs, t) →
      e.gridChecks f.a (fun g => [useN f.d g.regs 1 true]) gs lanes = none →
      eachLane Prod.fst (fun (x : Nat × Grid) s => andThen (s.gridFeatures e x.1 x.2 (e.gridCoords f.a x.2 x.1)) fun l s => (.ok (x.1, pairWords l), s))
        (e.working gs) t = (.ok rs, u) →
      let n := gs.foldl (fun n g => max n g.2.regs) 1
      u.resultRows e h f.d n = true →
      exec (.hgfetch h f) s = .next (u.engineReturn e h f.d n (fun l => ((ofLane gs l).map Grid.regs).getD 1) rs))
    ∧ (∀ gs l, Executes s e (.hgscat h f) → e.readRecords s 64 (e.recAt f.b lanes) (gridOf true) = (.ok gs, t) →
      e.gridChecks f.a (fun g => [useN f.c g.regs 1 false]) gs lanes = none →
      Unpoisoned e h (fun k => (List.range (((ofLane gs k).map Grid.regs).getD 1)).any fun i => (e.regAt f.c i k).bad) →
      eachLane (fun (p : Nat × Nat × Nat) => p.2.1) (fun p s => s.laneAt e p.2.1 p.1 .atomic fun x s =>
        (.ok { lane := 0, key := x.pa, v := BitVec.ofNat 64 p.2.2, c := 0, bad := false, portion := none : AsqLane }, s))
        (e.gradSums f (e.working gs)) t = (.ok l, u) →
      exec (.hgscat h f) s = .next (u.sendAtomics e { op := .atom 0xD false, dst := none, words := 1, acq := none, rel := false } .quire l))
    ∧ (∀ ns gs rs, Executes s e (.ntex h f) → e.readRecords s 64 (e.recAt f.b lanes) neuralOf = (.ok ns, t) →
      e.readRecords t 64 (ns.map fun n => { lane := n.1, va := n.2.grid }) (gridOf false) = (.ok gs, u) →
      e.gridChecks f.a (fun _ => []) gs lanes = none →
      eachLane Prod.fst (fun (x : Nat × Neural) s => match ofLane gs x.1 with
        | none => (.ok (x.1, []), s)
        | some g => andThen (s.ntexLane e f x.1 x.2 g) fun r s => (.ok (x.1, r), s)) (e.working ns) u = (.ok rs, v) →
      exec (.ntex h f) s = .next (v.engineReturn e h f.d 16 (fun _ => 16) rs))

namespace Sys2Proof.Claims
open Sys2Proof.Machine

/-! ### Raster -/

/-- The member is of the kernel its instruction belongs to (R314). -/
abbrev Kernel (e : Env) (role : Role) (r : Render) : Prop := e.vol.render = some r ∧ e.g.role = role

/-- Vertex words of a lane of MVTX: the position, then the attributes. -/
def vertexWords (e : Env) (f : FmtE) (attrs l : Nat) : List Val :=
  ((List.range 4).map fun i => e.regAt f.b i l) ++ (List.range attrs).map fun i => e.regAt f.c i l

/-- The records MDONE keeps (R321), and whether none fits. -/
def keptRecords (e : Env) (h : Hdr) (f : FmtE) (r : Render) : List (List W8) :=
  e.g.meshlet.prims.filterMap fun p => (keepPrim r.target e.g.meshlet p.2).map fun vs => recordBytesOf p.2.key (e.readOnce h f.a .n32).n vs
def dropsRecords (r : Render) (kept : List (List W8)) : Bool :=
  !kept.isEmpty && (decide (1048574 < r.nextSerial + kept.length - 1) || decide (r.target.capacity < r.nextSerial + kept.length))

/-- A lane of ATTR: the words of its record, read in 16-byte pieces. -/
def attributes (e : Env) (f : FmtE) (t : Target) (first count : Nat) (l : Nat) (s : State) : Except Halt (Nat × List (W32 × Bool) × Fl) × State :=
  let vis := e.readTy f.a .n64 l
  if vis.n = noPixel then (.ok (l, List.replicate count ((0 : W32), false), (0 : Fl)), s)
  else andThen (eachOf (fun i s => s.loadAt e l (t.recordVa (vis.n % 2 ^ 20) + 16 * i) 16) (List.range (t.recordSize / 16)) s) fun bs s =>
    let r := attrLane t.attrs bs.flatten (e.view.vecVal 0 1 l) (f.m.getLsbD 0) first count
    (.ok (l, r.1, r.2), s)

/-- A lane of PIXOUT: where its texel goes, and its error bit where the colour is poisoned (R328). -/
def pixelPlace (e : Env) (f : FmtE) (t : Target) (poisoned : Nat → Bool) (l : Nat) (s : State) : Except Halt PixPlan × State :=
  let p := pixelOf (e.readTy f.a .n32 l).n
  s.laneAt e l (t.pixelVa p.1 p.2) .store fun x s =>
    if poisoned l then
      let b := p.2 * t.width + p.1
      s.laneAt e l (t.errMap + b / 64 * 8) .atomic fun y s => (.ok ({ lane := l, pa := x.pa, bit := some (y.pa, b % 64) } : PixPlan), s)
    else (.ok { lane := l, pa := x.pa, bit := none }, s)

/-- One texel written, or the marker and the error bit. -/
def putPixel (e : Env) (f : FmtE) (t : Target) (s : State) (p : PixPlan) : State :=
  let s := s.breakFor e.g.vol p.pa
  match p.bit with
  | none => s.engineWrite p.pa ((t.texel ((List.range 4).map fun i => (e.regAt f.b i p.lane).n)).map fun b => (b, false))
  | some b =>
    let s := s.engineWrite p.pa ((t.marker e.ctx.marker).map fun b => (b, false))
    let w := (s.breakFor e.g.vol b.1).homeNum b.1 8
    w.2.putMarked b.1 8 (w.1 ||| 2 ^ b.2) (w.2.mem.anyBad b.1 8)

end Sys2Proof.Claims

/-- R316, R318–R323: TPAY takes a ring slot or waits for one; MVTX and MPRIM set meshlet entries; MDONE closes the meshlet and counts its
records. -/
def Obligations.MeshInstructionsAct : Prop :=
  ∀ (s : State) (e : Env) (h : Hdr) (f : FmtE) (r : Render), e.contrib h ≠ 0 → e.effect h ≠ 0 →
    let a := e.readOnce h f.a .n32
    let b := e.readOnce h f.b .n32
    let c := e.readOnce h f.c .n32
    let lanes := checked e h
    let u := s.commit e.id
    (Executes s e (.tpay h f) → Kernel e .task r → e.uniform h = .all → a.bad = false → b.bad = false → c.bad = false →
      a.n % 16 = 0 → b.n % 16 = 0 → b.n ≠ 0 → b.n ≤ r.target.payload → 1 ≤ c.n → c.n ≤ 64 → a.n + b.n ≤ e.g.size →
      exec (.tpay h f) s = .next (match e.g.freeSlot with
        | some k => u.takeSlot e.id k a.n b.n c.n r.target.payload
        | none => u.upd e fun q => { q with wait := .stall (.tpay a.n b.n c.n) }))
    ∧ (Executes s e (.mvtx h f) → Kernel e .mesh r →
      (∀ l ∈ lanes, (e.readTy f.a .n32 l).bad = false ∧ (e.readTy f.a .n32 l).n < 256 ∧ ∀ v ∈ vertexWords e f r.target.attrs l, v.bad = false) →
      e.g.meshlet.closed = false →
      exec (.mvtx h f) s = .next ((u.modGath e.q.gath fun g => lanes.foldl (fun g l =>
        let ws := (vertexWords e f r.target.attrs l).map fun v => BitVec.ofNat 32 v.n
        { g with meshlet := { g.meshlet with
            verts := FMap.insert g.meshlet.verts (e.readTy f.a .n32 l).n { pos := ws.take 4, attr := ws.drop 4 } } }) g).accept e.id []))
    ∧ (Executes s e (.mprim h f) → Kernel e .mesh r → e.g.meshlet.closed = false →
      (∀ l ∈ lanes, (e.readTy f.a .n32 l).bad = false ∧ (e.readTy f.b .n32 l).bad = false ∧ (e.readTy f.c .n32 l).bad = false
        ∧ (e.readTy f.a .n32 l).n < 256 ∧ (e.readTy f.b .n32 l).n < 2 ^ 24 ∧ (e.readTy f.c .n32 l).n < 2 ^ 16) →
      exec (.mprim h f) s = .next ((u.modGath e.q.gath fun g => lanes.foldl (fun g l =>
        let v := (e.readTy f.b .n32 l).n
        { g with meshlet := { g.meshlet with
            prims := FMap.insert g.meshlet.prims (e.readTy f.a .n32 l).n
              { i0 := bits v 7 0, i1 := bits v 15 8, i2 := bits v 23 16, key := BitVec.ofNat 16 (e.readTy f.c .n32 l).n } } }) g).accept e.id []))
    ∧ (Executes s e (.mdone h f) → Kernel e .mesh r → e.uniform h = .all → a.bad = false → a.n ≤ 0xFFFFE → e.g.meshlet.closed = false →
      let kept := keptRecords e h f r
      let new : List PrimWork := if dropsRecords r kept then []
        else kept.mapIdx fun i b => { serial := r.nextSerial + i, gath := e.q.gath, core := e.g.pcore, place := e.g.core, record := b, written := false, cursor := 0 }
      let v := ((u.modGath e.q.gath fun g => { g with meshlet := { g.meshlet with closed := true } }).accept e.id []).modVol e.g.vol fun v =>
        { v with render := v.render.map fun r => { r with nextSerial := r.nextSerial + new.length, work := r.work ++ new } }
      exec (.mdone h f) s = .next ((new.foldl (fun s w => s.writeRecord e.g.vol w.serial) v).returned e.id
        (oldWrites (some f.d) true 0 (if dropsRecords r kept then 2 ^ 16 else kept.length) false)))

/-- R326–R328: VISRD reads visibility words, ATTR interpolates attributes, PIXOUT commits and writes its lanes' texels. -/
def Obligations.PixelInstructionsAct : Prop :=
  ∀ (s t : State) (e : Env) (h : Hdr) (f : FmtE) (r : Render), e.effect h ≠ 0 → Kernel e .pixel r →
    let lanes := checked e h
    (Executes s e (.visrd h f) → (∀ l ∈ lanes, (e.readTy f.a .n32 l).bad = false ∧ r.target.holds (pixelOf (e.readTy f.a .n32 l).n) = true) →
      exec (.visrd h f) s = .next (s.engineReturn e h f.d 2 (fun _ => 2) (lanes.map fun l =>
        let p := pixelOf (e.readTy f.a .n32 l).n
        let k := pixelKey e.ctx r.target p.1 p.2
        let bs := s.engineBytes e.g.pcore k 8
        (l, [(BitVec.ofNat 32 (leValue bs), s.engineBad e.g.pcore k), (BitVec.ofNat 32 (leValue (bs.drop 4)), s.engineBad e.g.pcore (k + 4))]))))
    ∧ (∀ rs, Executes s e (.attr h f) →
      let bary := f.m.getLsbD 0
      let vis := fun l => e.readTy f.a .n64 l
      let first := if bary then Val.zero else e.readOnce h f.b .n32
      let count := if bary then { n := 3, bad := false } else e.readOnce h f.c .n32
      let fl := rs.foldl (fun (a : Fl) x => a ||| x.2.2) 0
      (∀ l ∈ lanes, (vis l).bad = false ∧ first.bad = false ∧ count.bad = false ∧ ((vis l).n = noPixel ∨ (vis l).n % 2 ^ 20 < r.target.capacity)) →
      (bary = true ∨ (1 ≤ count.n ∧ count.n ≤ 16 ∧ first.n + count.n ≤ r.target.attrs)) →
      (bary = false → e.boundsBy (fun _ => [useN f.d count.n 1 true]) (e.lanes (e.effect h)) = none) →
      eachLane (fun l : Nat => l) (attributes e f r.target first.n count.n) lanes s = (.ok rs, t) → t.resultRows e h f.d count.n = true →
      exec (.attr h f) s = .next ((if fl = 0 then t else t.upd e fun q => q.raise fl).engineReturn e h f.d count.n (fun _ => count.n) (rs.map fun x => (x.1, x.2.1))))
    ∧ (∀ ps, Executes s e (.pixout h f) →
      let poisoned := fun l => ((List.range 4).map fun i => e.regAt f.b i l).any Val.bad
      (∀ l ∈ lanes, (e.readTy f.a .n32 l).bad = false ∧ r.target.holds (pixelOf (e.readTy f.a .n32 l).n) = true ∧ (r.accept = false → poisoned l = false)) →
      eachLane (fun l : Nat => l) (pixelPlace e f r.target poisoned) lanes s = (.ok ps, t) →
      exec (.pixout h f) s = .next ((ps.foldl (putPixel e f r.target) (t.commit e.id)).accept e.id []))

/-- R331–R339: ray queries are opened, advanced, accepted, read and ended; ASINFO writes three byte counts. -/
def Obligations.RayInstructionsAct : Prop :=
  ∀ (s t : State) (e : Env) (h : Hdr) (f : FmtE),
    let lanes := checked e h
    let query := fun l => FMap.find e.q.queries l
    (Executes s e (.rayq h f) → (∀ l ∈ lanes, (e.vaIn f.b l).bad = false ∧ (e.readTy f.c .n32 l).bad = false ∧ rayFlagsBad (e.readTy f.c .n32 l).n = false) →
      exec (.rayq h f) s = .next (s.upd e fun q => { q with queries := lanes.foldl (fun m l => FMap.insert m l (e.openQuery f l)) q.queries }))
    ∧ (∀ rs, Executes s e (.raynext h f) → e.effect h ≠ 0 → eachLane (fun l : Nat => l) (fun l s => s.rayNextLane e l) lanes s = (.ok rs, t) →
      exec (.raynext h f) s = .next (t.engineReturn e h f.d 1 (fun _ => 1) rs))
    ∧ (Executes s e (.rayacc h f) →
      exec (.rayacc h f) s = .next (s.upd e fun q => { q with queries := lanes.foldl (e.tryAccept f (f.m.getLsbD 0)) q.queries }))
    ∧ (Executes s e (.rayend h f) → e.effect h ≠ 0 →
      let closed := (lanes.filter fun l => (query l).isSome).length
      let ended := fun q : Quire => ({ q with queries := lanes.foldl (fun m l => FMap.remove m l) q.queries, heldSlots := q.heldSlots + closed } : Quire)
      exec (.rayend h f) s = .next ((s.upd e ended).engineReturn e h f.d 7 (fun _ => 7) (lanes.map fun l => (l, (List.range 7).map fun i => committedItem (query l) l i))))
    ∧ (Executes s e (.rayget h f) → e.effect h ≠ 0 →
      let i := f.m.toNat % 8
      let candidate := fun r : RayQuery => match r.cand with
        | none => (0, r.bad)
        | some c => (c.item i r.invalid, r.bad || c.bad)
      exec (.rayget h f) s = .next (s.engineReturn e h f.d 1 (fun _ => 1) (lanes.map fun l =>
        (l, [if f.m.getLsbD 3 then committedItem (query l) l i else ((query l).map candidate).getD (0, false)]))))
    ∧ (∀ bs, Executes s e (.asinfo h f) → e.uniform h = .all → e.contrib h ≠ 0 →
      let a := e.readOnce h f.a .n64
      a.bad = false → a.n % 64 = 0 → canonical a.n = true → s.roAt e ((LaneSet.lowest e.width (e.effect h)).getD 0) a.n 64 = (.ok bs, t) →
      let r := bs.map Prod.fst
      exec (.asinfo h f) s = .next (t.upd e fun q => { q with regs := q.regs.applyAll ((List.range 3).map fun k =>
        RegWrite.scal (Opnd.num f.d + k) (BitVec.ofNat 64 (sizeOfBuild r k)) (bs.any Prod.snd)) }))

namespace Sys2Proof.Claims
open Sys2Proof.Machine

/-! ### Search trees -/

/-- An instruction of the tree engine that acts lane by lane: the words it returns, whether it is a commit point, the poison its operands may
carry, the lists its lanes name, what each lane asks for (R399–R411). -/
structure TreeJob where
  h : Hdr
  f : FmtE
  words : Nat
  commits : Bool
  poison : List (Nat × (Nat → Bool))
  list : Nat → Option Nat
  op : Nat → TreeOp

def treeJob (e : Env) : Instr → Option TreeJob
  | .tsel h f => some ⟨h, f, 4, true, [], fun _ => none, fun _ => .sel⟩
  | .texp h f =>
    let va := fun l => e.readTy f.c .n64 l
    let k := fun l => e.regAt f.c 2 l
    some ⟨h, f, 1, true, [(8, e.pathBad f), (1, fun l => (va l).bad), (8, fun l => (k l).bad)], fun l => some (va l).n,
      fun l => .exp (e.pathWord f 0 l).w32 (e.pathWord f 1 l).w32 (va l).w64 (k l).w32⟩
  | .tback h f =>
    let v := fun l => e.readTy f.c .f64 l
    some ⟨h, f, 1, true, [(8, e.pathBad f), (8, fun l => (v l).bad)], fun _ => none,
      fun l => .back (e.pathWord f 0 l).w32 (e.pathWord f 1 l).w32 (v l).w64⟩
  | .tleaf h f =>
    let tag := fun l => e.readTy f.c .n32 l
    some ⟨h, f, 1, true, [(8, e.pathBad f), (8, fun l => (tag l).bad)], fun _ => none,
      fun l => .leaf (e.pathWord f 0 l).w32 (e.pathWord f 1 l).w32 (tag l).w32 e.desc.handles⟩
  | .tread h f =>
    let n := fun l => e.readTy f.b .n32 l
    some ⟨h, f, 16, false, [(8, fun l => (n l).bad)], fun _ => none, fun l => .read (n l).w32⟩
  | _ => none

end Sys2Proof.Claims

/-- R399–R411: a tree instruction whose checks pass sends one request for each lane, TINIT and TREUSE one in all, and waits for the results. -/
def Obligations.TreeRequestsAreSent : Prop :=
  ∀ (s : State) (e : Env) (i : Instr),
    let taken := (s.commit e.id).accept e.id []
    (∀ j : TreeJob, treeJob e i = some j → Executes s e i → e.effect j.h ≠ 0 → e.treeTrap j.f false (checked e j.h) j.poison j.list = none →
      exec i s = .next ((if j.commits then taken else s).sendTree e j.h j.f j.words (checked e j.h) j.op))
    ∧ (∀ h f, i = .tinit h f → Executes s e i → e.uniform h = .all → e.contrib h ≠ 0 →
      let lanes := (LaneSet.lowest e.width (e.effect h)).toList
      e.treeTrap f true lanes [] (fun _ => none) = none → exec i s = .next (taken.sendTree e h f 1 lanes fun _ => .init))
    ∧ (∀ h f, i = .treuse h f → Executes s e i → e.uniform h = .all → e.contrib h ≠ 0 →
      let lanes := (LaneSet.lowest e.width (e.effect h)).toList
      let n := fun l => e.readTy f.b .n32 l
      e.treeTrap f true lanes [(8, fun l => (n l).bad)] (fun _ => none) = none →
      exec i s = .next (taken.sendTree e h f 1 lanes fun l => .reuse (n l).w32))

/-- R432, R447–R452: COLLINFO, the deliberate trap and call, the return from a trap, TKILL, PERF and DECSEL. -/
def Obligations.SystemInstructionsAct : Prop :=
  ∀ (s t : State) (e : Env) (h : Hdr), e.contrib h ≠ 0 →
    let l := (LaneSet.lowest e.width (e.contrib h)).getD 0
    (∀ f : FmtE, Executes s e (.collinfo h f) → e.uniform h = .all →
      let peer := f.m.getLsbD 0
      let a := e.readOnce h f.a .n64
      a.bad = false → (peer = true → a.n ≤ 255) →
      let w := s.collinfo e.vol.ctx peer a.n
      exec (.collinfo h f) s = .next (s.upd e fun q => { q with regs := q.regs.applyAll (if h.nowb then []
        else [RegWrite.scal (Opnd.num f.d) (BitVec.ofNat 64 w.1) false, .scal (Opnd.num f.d + 1) (BitVec.ofNat 64 w.2) false]) }))
    ∧ (∀ f : FmtE, Executes s e (.trap h f) →
      exec (.trap h f) s = .next (s.takeTrap e.id (e.trapLanes 0x12 (f.m.toNat % 2 ^ 16) 0 (e.contrib h)) false))
    ∧ (∀ f : FmtE, Executes s e (.trapcall h f) → e.handlerMode = false →
      exec (.trapcall h f) s = .next ((s.commit e.id).takeTrap e.id (e.trapLanes 0x13 ((e.readOnce h f.b .n32).n % 2 ^ 32)
        (f.d.code.toNat + f.a.code.toNat * 2 ^ 13 + f.b.code.toNat * 2 ^ 26) (e.contrib h)) false))
    ∧ (∀ (f : FmtE) (u : State), Executes s e (.trapcall h f) → e.handlerMode = true → e.q.call = none →
      (s.commit e.id).callSend e (e.callOf h f) = (.ok u, t) → exec (.trapcall h f) s = .next u)
    ∧ (∀ (f : FmtE) b rest v, Executes s e (.tret h f) → e.uniform h = .all → e.q.regs.handler = some b → e.q.regs.stack = .handler :: rest →
      s.numAt e l (b.record.toNat + 8) 8 = (.ok (v, false), t) →
      exec (.tret h f) s = .next (t.upd e fun q => q.leaveHandler b rest (BitVec.ofNat 64 v)))
    ∧ (∀ f : FmtE, Executes s e (.tret h f) → e.uniform h = .all → e.q.regs.handler = none →
      exec (.tret h f) s = .next (s.takeTrap e.id (e.trapAll 0x0D 0) false))
    ∧ (∀ f : FmtE, Executes s e (.tkill h f) → e.uniform h = .all →
      exec (.tkill h f) s = .next (if f.m.getLsbD 8 then s.endLaunch e.g.vol (.killed (f.m.toNat % 256)) else s.killQuire e.id))
    ∧ (∀ (f : FmtE) v, Executes s e (.perf h f) → e.uniform h = .all → e.counter s (e.readOnce h f.a .n32).n = some v →
      exec (.perf h f) s = .next (s.upd e fun q => { q with regs := q.regs.sput (Opnd.num f.d) v (e.readOnce h f.a .n32).bad }))
    ∧ (∀ f : FmtE, Executes s e (.decsel h f) → e.uniform h = .all →
      let n := (e.readOnce h f.a .n32).n
      let a := e.readOnce h f.b .n64
      let status := fun (s : State) (v : Nat) => s.upd e fun q => { q with regs := q.regs.sput (Opnd.num f.d) (BitVec.ofNat 64 v) false }
      let select := fun s : State => status (s.modCtx e.vol.ctx fun c => { c with table := n }) 0
      n ≤ 3 → a.bad = false →
      (a.n = 0 → exec (.decsel h f) s = .next (select s))
      ∧ (a.n ≠ 0 → (n = 0 ∨ s.tableBusy n = true) → exec (.decsel h f) s = .next (status s 1))
      ∧ (∀ bs, a.n ≠ 0 → n ≠ 0 → s.tableBusy n = false → eachOf (fun p s => s.loadAt e l p.1 p.2) (cuts 2049 a.n 2048) s = (.ok bs, t) →
        exec (.decsel h f) s = .next (match imageOf (bs.flatten.map Prod.fst) with
          | none => status t 2
          | some tab => select { t with tables := FMap.insert t.tables n tab })))

namespace Sys2Proof.Claims
open Sys2Proof.Machine

/-! ### Events -/

/-- A quire whose wait is over. -/
def goesOn (q : Quire) : Quire := { q with wait := .none }

end Sys2Proof.Claims

/-- R119, R126, R219, R316, R388: what lets a stalled quire go on. A CLAIM is granted when none before it of its partition stalls and the pool has
its rows, a TPAY takes the lowest free slot, a QPUSH finds room in its ring, a spilled row comes back; where the condition does not hold, the
event changes nothing. -/
def Obligations.StalledQuiresGoOn : Prop :=
  ∀ (s t u : State) (id : Nat) (e : Env), s.envOf id = some e →
    (∀ n seq, e.q.wait = .stall (.claim n seq) →
      ((s.claimBefore e seq = true ∨ s.poolRows e.g.pcore e.q.part < (n - e.q.claimed) * e.words * 16) → exec (.claimGrant id) s = .next s)
      ∧ (s.claimBefore e seq = false → (n - e.q.claimed) * e.words * 16 ≤ s.poolRows e.g.pcore e.q.part → exec (.claimGrant id) s = .next (s.upd e fun q =>
          { q with wait := .none, claimed := n })))
    ∧ (∀ off bytes n, e.q.wait = .stall (.tpay off bytes n) →
      (e.g.freeSlot = none → exec (.tpaySlotTaken id) s = .next s)
      ∧ (∀ k r, e.g.freeSlot = some k → e.vol.render = some r →
          exec (.tpaySlotTaken id) s = .next ((s.takeSlot id k off bytes n r.target.payload).modQuire id goesOn)))
    ∧ (∀ qk pkt sd, e.q.wait = .stall (.qpush qk pkt sd) →
      (s.pushTry e qk pkt sd = (.ok (some t), u) → exec (.qpushRingRoom id) s = .next t)
      ∧ (s.pushTry e qk pkt sd = (.ok none, t) → exec (.qpushRingRoom id) s = .next t)
      ∧ (∀ f, s.pushTry e qk pkt sd = (.error f, t) → exec (.qpushRingRoom id) s = .next (t.parkFault e f false)))
    ∧ (e.rowWanted s = none → exec (.rowRefill id) s = .next s)
    ∧ (∀ n, e.rowWanted s = some n →
      (s.refill e.g.pcore e.q.part id n = some t → exec (.rowRefill id) s = .next t)
      ∧ (s.refill e.g.pcore e.q.part id n = none → exec (.rowRefill id) s = .next s))
    ∧ (e.q.wantsLine = true → ∀ r e' x rest, e.q.settled = some r → (s.setQuire id r).envOf id = some e' →
        let pc := e'.q.pc
        Machine.canonical (lineVa pc).toNat = true →
        (s.setQuire id r).xl (dieOfCore e'.g.pcore) e'.g.vol e'.vol.ctx e'.ctx.root (lineVa pc).toNat .fetch = (.ok x, t) → paKind x.pa ≠ .peer →
        t.roCut e'.g.pcore x.pa 64 1 = (rest, u) → rest.any Prod.snd = false → lineParityOk (rest.map Prod.fst) = true →
        lineFault (rest.map Prod.fst) (pcSlot pc) e'.q.checked = none →
        exec (.lineFetch id) s = .next (u.modQuire id fun q =>
          { q with line := some (lineVa pc, rest.map Prod.fst), checked := false, refetch := q.refetch.filter (· != lineVa pc),
                   sealing := if lineSealed (lineWord (rest.map Prod.fst)) then some false else none }))
    ∧ (e.q.wantsLine = false → exec (.lineFetch id) s = .next s)

/-- R268, R378–R380, R449: what wakes a parked quire, and that nothing else does: another generation of its barrier word, its condition found to
hold or its limit passed, the state its handle was to reach, the status of its call record. -/
def Obligations.ParkedQuiresWake : Prop :=
  ∀ (s t : State) (id : Nat) (e : Env), s.envOf id = some e →
    (∀ k gen sc, e.q.wait = .barwait k gen sc →
      (s.generation e k = gen.toNat → exec (.barrierWake id) s = .next s)
      ∧ (s.generation e k ≠ gen.toNat → exec (.barrierWake id) s = .next ((s.barrierPassed e k sc).modQuire id goesOn)))
    ∧ (∀ w, e.q.wait = .tryw w →
      (s.tryHolds e w = true → exec (.trywaitReevaluation id) s = .next (s.tryDone id e.g.pcore w true))
      ∧ (s.tryHolds e w = false → exec (.trywaitReevaluation id) s = .next s)
      ∧ (w.limit ≠ 2 ^ 32 - 1 → w.limit ≤ e.q.waited → exec (.trywaitTimeout id) s = .next (s.tryDone id e.g.pcore w false))
      ∧ ((w.limit = 2 ^ 32 - 1 ∨ e.q.waited < w.limit) → exec (.trywaitTimeout id) s = .next s))
    ∧ (∀ n full, e.q.wait = .hwait n full →
      let wanted := if full then HState.full else HState.free
      ((s.handle e.q.gath n).state ≠ wanted → exec (.hwaitWake id) s = .next s)
      ∧ ((s.handle e.q.gath n).state = wanted → e.handleReached s n full = .ok t → exec (.hwaitWake id) s = .next (t.modQuire id goesOn)))
    ∧ (∀ c pa r, e.q.wait = .call → e.q.call = some c → c.slotPa = some pa → s.homeNum pa 4 = (r, t) →
      (r = 0 → exec (.trapcallReply id) s = .next t)
      ∧ (1 < r → exec (.trapcallReply id) s = .next (t.endLaunch e.g.vol (.killed 0)))
      ∧ (r = 1 → c.todo = [] →
        let u := t.recallRange pa 256
        let c' := { c with replies := c.replies ++ u.callReplies pa c.sent, sent := [], slotPa := none }
        exec (.trapcallReply id) s = .next ((u.putHome (pa + 20) [0]).callDone e c')))

/-- R122, R281, R286, R292, R350, R360, R364, R401: a result that is ready lands in its quire: of a load, which acquires where its instruction does,
or of an engine, which acquires; of the matrix unit with its flags, as its operands are met when it lands, and the tile of an MSTC in memory; the
replies of atomics, and a waiting member goes on when none is owed; the results of tree engines. -/
def Obligations.ResultsLand : Prop :=
  ∀ (s : State) (id : Nat),
    (∀ e i p, s.envOf id = some e → e.q.pend[i]? = some p → e.q.pend.findIdx? (fun x => x.kind == .load && x.ready) = some i →
      let landed := s.upd e fun q => ({ q with pend := q.pend.eraseIdx i } : Quire).arrive p
      (p.acq = none → exec (.loadDataReturn id) s = .next landed)
      ∧ (∀ sc, p.acq = some sc → (∀ refused, e.q.wait ≠ .reply refused) → exec (.loadDataReturn id) s = .next (landed.acquire e.g.pcore sc))
      ∧ (∀ sc refused, p.acq = some sc → e.q.wait = .reply refused →
        (e.q.pend.eraseIdx i).any (fun x => x.kind == .load && x.acq.isSome) = false →
        exec (.loadDataReturn id) s = .next ((landed.acquire e.g.pcore sc).modQuire id goesOn)))
    ∧ (∀ e i p, s.envOf id = some e → e.q.pend[i]? = some p → e.q.pend.findIdx? (fun x => x.kind == .engine && x.ready) = some i →
      exec (.engineResultReturn id) s = .next ((s.acquire e.g.pcore .dev).upd e fun q => ({ q with pend := q.pend.eraseIdx i } : Quire).arrive p))
    ∧ (∀ core part j, s.mjobs.find? (fun j => j.core == core && j.part == part) = some j → j.stores ≠ [] →
      (s.tileHeld j = true → exec (.matrixResultLanding core part) s = .next s)
      ∧ (s.tileHeld j = false → exec (.matrixResultLanding core part) s = .next
          (j.stores.foldl (fun s x => s.tileWrite j.core j.vol x) { s with mjobs := s.mjobs.filter fun x => x.req != j.req })))
    ∧ (∀ core part j q p, s.mjobs.find? (fun j => j.core == core && j.part == part) = some j → j.stores = [] → FMap.find s.quires j.quire = some q →
      q.pend.find? (fun p => p.kind == .matrix && p.req == j.req) = some p →
      let z := (s.landTile j).1
      ∃ t r, exec (.matrixResultLanding core part) s = .next t ∧ FMap.find t.quires j.quire = some r
        ∧ r.regs.fpflags = (({ q with pend := q.pend.filter fun x => !(x.kind == .matrix && x.req == j.req) } : Quire).arrive
            { p with writes := z.1 }).regs.fpflags ||| z.2.setWidth 64
        ∧ (∀ k, k ≠ j.quire → FMap.find t.quires k = FMap.find s.quires k) ∧ (t.core core).clean = [] ∧ t.mem = s.mem ∧ t.mjobs = s.mjobs.filter fun x => x.req != j.req)
    ∧ (∀ e refused, s.envOf id = some e → e.q.wait = .reply refused →
      let acqs := (e.q.pend.filter fun p => p.kind == .asq && p.ready).filterMap Pending.acq
      let landed := acqs.foldl (fun s sc => s.acquire e.g.pcore sc) (s.upd e Quire.landReplies)
      let owed : Bool := match FMap.find landed.quires id with
        | some q => q.owesReply e.slot
        | none => false
      (owed = true → exec (.asqReply id) s = .next landed)
      ∧ (owed = false → refused = false → exec (.asqReply id) s = .next (landed.modQuire id goesOn))
      ∧ (owed = false → refused = true → exec (.asqReply id) s = .next ((landed.modQuire id goesOn).takeTrap id (e.trapAll 0x07 0) false)))
    ∧ (∀ e refused, s.envOf id = some e → e.q.wait = .reply refused → e.q.pend.any (fun p => p.kind == .tree && p.ready) = true →
      let landed := ((s.modQuire id Quire.landTrees).dropTrees id).acquire e.g.pcore .dev
      landed.treqs.find? (fun r => r.quire == id && r.faulted.isSome) = none →
      landed.treqs.any (fun r => r.quire == id && r.faulted.isNone) = false →
      exec (.treeResultLanding id) s = .next (landed.modQuire id goesOn))

/-- R263, R354, R357, R363, R408, R412: what stands on its way moves: a store reaches its home or leaves for its peer, its die
acknowledges, an atomic is performed in its turn, a transfer starts and its pieces land, a tree engine acts, an append lands and a batch's timer runs out. -/
def Obligations.RequestsMoveOn : Prop :=
  ∀ (s : State),
    (∀ core k owner r, (s.core core).out[k]? = some (.store owner r) →
      (outReady (s.core core).out k = false → exec (.homeAccept core k) s = .next s)
      ∧ (outReady (s.core core).out k = true → r.far = false → exec (.homeAccept core k) s = .next (s.acceptOut core k))
      ∧ (outReady (s.core core).out k = true → r.far = true →
        let d := keyHomeDie r.key
        exec (.homeAccept core k) s = .next ((s.peerSend r.key core r.bytes (if r.bad then r.words else []) r.bytes.length (.write (some d))).2.modCore core
          fun v => { v with out := v.out.eraseIdx k, cnt := FMap.put 0 v.cnt d (FMap.val 0 v.cnt d + 1) })))
    ∧ (∀ core die, exec (.storeAcknowledge core die) s = .next ((s.ackOut core die).wakeFences core))
    ∧ (∀ k r, s.asq.find? (fun r => r.id == k) = some r →
      (s.asqReady r = true → exec (.asqRequest k) s = .next ((s.serveAsq r).wakeFences r.core))
      ∧ (s.asqReady r = false → exec (.asqRequest k) s = .next s))
    ∧ (∀ id x g, FMap.find s.xfers id = some x → FMap.find s.gaths x.gath = some g → g.saved = none →
      (s.xfers.find? fun e => e.2.gath == x.gath && e.2.handle == x.handle && !e.2.started).map Prod.fst = some id →
      ((s.handle x.gath x.handle).state = .free → exec (.transferStart id) s = .next (s.xferStart id))
      ∧ ((s.handle x.gath x.handle).state ≠ .free → exec (.transferStart id) s = .next s))
    ∧ (∀ id p x, FMap.find s.xfers id = some x →
      (∀ a b c d, x.kind = .build a b c d → exec (.transferPiece id p) s = .next ((s.buildRun id).reapFor x))
      ∧ (∀ c, x.kind = .coll c → exec (.transferPiece id p) s = .next ((s.collOpen id c).reapFor x))
      ∧ ((∀ a b c d, x.kind ≠ .build a b c d) → (∀ c, x.kind ≠ .coll c) → exec (.transferPiece id p) s = .next ((s.xferPiece id p).reapFor x)))
    ∧ (∀ k r, s.treqs.find? (fun r => r.id == k) = some r →
      (s.treeReady r = true → exec (.treeOperation k) s = .next (s.treeStep r)) ∧ (s.treeReady r = false → exec (.treeOperation k) s = .next s))
    ∧ (∀ (k : Nat) a g, s.apps[k]? = some a → FMap.find s.gaths a.gath = some g → g.retired = false → g.saved = none →
      (s.apps.take k).any (fun b => b.gath == a.gath && b.handle == a.handle) = false →
      let h := g.handle a.handle
      let filling := h.state = .filling ∧ (FMap.find g.batches a.handle).isSome = true
      let fill := if h.state = .free then 0 else h.fill
      let full := decide (a.batch ≤ fill + 1)
      let t := s.engineWrite (g.bufKey h (16 * fill)) (a.bytes.map fun b => (b, false))
      let u := t.modGath a.gath fun g' =>
        { g'.setHandle a.handle { h with state := if full then .full else .filling, fill := fill + 1, error := 0, multicast := false } with
          batches := if full then FMap.remove g'.batches a.handle
            else if h.state = .free then FMap.insert g'.batches a.handle (a.batch, a.timer, t.ns) else g'.batches }
      ((h.state = .free ∨ filling) → exec (.tleafAppend k) s = .next { u with apps := u.apps.eraseIdx k })
      ∧ ((h.state ≠ .free ∧ ¬ filling) → exec (.tleafAppend k) s = .next s))
    ∧ (∀ gid n g size timer start, FMap.find s.gaths gid = some g → FMap.find g.batches n = some (size, timer, start) →
      ((timer = 0 ∨ s.ns < start + 250 * timer) → exec (.batchTimerExpiry gid n) s = .next s)
      ∧ (timer ≠ 0 → start + 250 * timer ≤ s.ns → exec (.batchTimerExpiry gid n) s = .next (s.setGath gid
          { g.setHandle n { g.handle n with state := .full } with batches := FMap.remove g.batches n })))

/-- R248, R249, R389–R392: watchdogs and faults. The deadlock watchdog ends every launch with work on a core, class 0x1A; an external wait past its
limit takes trap 0x1A, an exhausted budget trap 0x11; an entry of the fault ring is tried again; a resolution lets a parked quire retry,
take its trap, or ends its launch. -/
def Obligations.WatchdogsAndResolutionsAct : Prop :=
  ∀ (s : State),
    (∀ cid c, FMap.find s.ctxs cid = some c →
      let l := (s.vols.filter fun v => v.2.ctx == cid && v.2.ending == .running
        && s.gaths.any fun g => g.2.vol == v.1 && !g.2.retired && g.2.saved.isNone).map Prod.fst
      ((c.watchdog = false ∨ c.stuck < 50000000 ∨ s.deadlocked cid = false) → exec (.deadlockWatchdog cid) s = .next s)
      ∧ (c.watchdog = true → 50000000 ≤ c.stuck → s.deadlocked cid = true → exec (.deadlockWatchdog cid) s = .next
          (((l.foldl (fun s v => s.endLaunch v (.error 0x1A)) s).hostEvent 1 cid (s.firstSeq l)).modCtx cid fun c => { c with stuck := 0 })))
    ∧ (∀ id e, s.envOf id = some e →
      let stops := s.ctxStopped e.vol.ctx
      let own := match e.q.wait with
        | .tryw t => decide (t.limit < 1000000 * e.ctx.extTimeout ∧ t.limit ≠ 2 ^ 32 - 1)
        | _ => false
      (e.ctx.extTimeout ≠ 0 → e.q.wait.outside = true → 1000000 * e.ctx.extTimeout < e.q.watched → stops = false →
        e.g.asked = none → own = false →
        exec (.externalWaitTimeout id) s = .next (s.takeTrap id { e.trapInfo 0x1A 0xFFFF 2 0 0 with pc := e.waitPc } false))
      ∧ ((e.ctx.extTimeout = 0 ∨ e.q.wait.outside = false ∨ e.q.watched ≤ 1000000 * e.ctx.extTimeout ∨ stops = true
          ∨ e.g.asked.isSome = true ∨ own = true) →
        exec (.externalWaitTimeout id) s = .next s))
    ∧ (∀ id e l, s.envOf id = some e → e.nextGroup s = some l → e.q.mayIssue = true → e.q.grp = none → e.groupTrap l = none → e.scoreboardOk l = true →
      (e.handlerMode = false → e.vol.pkt.budget ≠ 0 → 2 ^ e.vol.pkt.budget < e.q.budget + 1 →
        exec (.budgetExhausted id) s = .next ((s.modQuire id fun q => { q with budget := 0 }).takeTrap id (e.trapAll 0x11 0) false))
      ∧ ((e.handlerMode = true ∨ e.vol.pkt.budget = 0 ∨ e.q.budget + 1 ≤ 2 ^ e.vol.pkt.budget) → exec (.budgetExhausted id) s = .next s))
    ∧ (∀ cid c, FMap.find s.ctxs cid = some c → exec (.faultEntryRetry cid) s = .next (c.faults.foldl (fun s f => s.writeFault cid f.1) s))
    ∧ (∀ cid c k f res, FMap.find s.ctxs cid = some c → FMap.find c.faults k = some f →
      ((f.written = false ∨ res = 0) → exec (.faultResolution cid k res) s = .next s)
      ∧ (f.written = true → res ≠ 0 → ∀ x t,
          let freed := s.setCtx cid { c with faults := FMap.remove c.faults k }
          let gone := f.waiters.foldl (fun s w => s.resolveWaiter k f (verdictOf res) w) freed
          gone.translate 0 cid c.root (c.faultRing + 32 * f.slot) .ewrite = (.ok x, t) → exec (.faultResolution cid k res) s = .next (t.putHome (x.pa + 18) [0])))
    ∧ (∀ cid c k f id e trap, FMap.find s.ctxs cid = some c → FMap.find c.faults k = some f → f.written = true → f.waiters = [.quire id] →
      let freed := s.setCtx cid { c with faults := FMap.remove c.faults k }
      freed.envOf id = some e → e.q.wait = .fault k trap false → ∀ t x u,
      t.translate 0 cid c.root (c.faultRing + 32 * f.slot) .ewrite = (.ok x, u) →
      (t = freed.rollback id → exec (.faultResolution cid k 1) s = .next (u.putHome (x.pa + 18) [0]))
      ∧ (t = (freed.modQuire id goesOn).takeTrap id trap false → exec (.faultResolution cid k 2) s = .next (u.putHome (x.pa + 18) [0]))
      ∧ (t = freed.endLaunch e.g.vol (.killed 0) → exec (.faultResolution cid k 3) s = .next (u.putHome (x.pa + 18) [0])))

/-- R456–R465: pre-emption. A quire of a unit asked for is rolled back to its save point; a drained unit is saved while its pool has room and is
asked no more for a time where it has none; a saved unit returns where it can be placed; a hold-off ends; a candidate takes a free slot. -/
def Obligations.UnitsAreSavedAndReturn : Prop :=
  ∀ (s : State),
    (∀ id e, s.envOf id = some e →
      (s.pointDue e = true → exec (.preemptionTimeout id) s = .next ((s.rollback id).modQuire id fun q => { q with save := .atPoint }))
      ∧ (s.pointDue e = false → exec (.preemptionTimeout id) s = .next s))
    ∧ (∀ id e, s.envOf id = some e →
      (s.copyLate e.q = true → exec (.laneRemapTimeout id) s = .next ((s.rollback id).modQuire id fun q => { q with oldLane := none }))
      ∧ (s.copyLate e.q = false → exec (.laneRemapTimeout id) s = .next s))
    ∧ (∀ gid v c, let unit := s.unitOf gid
      let here := s.unsaved unit
      let gs := here.filterMap fun k => FMap.find s.gaths k
      let t := s.releaseCores (gs.map Gathering.pcore)
      let size := gs.foldl (fun n g => n + t.saveSize g (t.savedBytes g).length) 0
      (s.drained unit = false → exec (.unitSave gid) s = .next s)
      ∧ (s.drained unit = true → t.releasedAll (gs.map Gathering.pcore) = false → exec (.unitSave gid) s = .next t)
      ∧ (s.drained unit = true → t.releasedAll (gs.map Gathering.pcore) = true → (gs.head?.bind fun g => FMap.find t.vols g.vol) = some v →
          FMap.find t.ctxs v.ctx = some c →
          (c.save.2 - t.poolUsed v.ctx c < size → exec (.unitSave gid) s = .next (t.withdraw here))
          ∧ (size ≤ c.save.2 - t.poolUsed v.ctx c → exec (.unitSave gid) s = .next (here.foldl (fun s k => s.saveGath v.ctx k) t))))
    ∧ (∀ gid, s.returnPlan gid = none → exec (.unitRestore gid) s = .next s)
    ∧ (∀ gid plan, s.returnPlan gid = some plan →
      let unit := plan.map Return'.gath
      let r := plan.foldl (fun (a : State × Moves) x => ((a.1.returnGath x).1, a.2 ++ (a.1.returnGath x).2)) (s, [])
      (s.lacksRoom plan = true → exec (.unitRestore gid) s = .next s)
      ∧ (s.lacksRoom plan = false → exec (.unitRestore gid) s = .next (r.1.rekey unit r.2)))
    ∧ (∀ gid g since, FMap.find s.gaths gid = some g → g.holdoff = some since →
      let t := s.setGath gid { g with holdoff := none }
      (since + 1000000 ≤ s.ns → exec (.preemptionHoldoffExpiry gid) s = .next (if g.avoid = none then t else t.requestPreemption gid g.avoid))
      ∧ (s.ns < since + 1000000 → exec (.preemptionHoldoffExpiry gid) s = .next s))
    ∧ (∀ cid c, FMap.find s.ctxs cid = some c →
      ((c.resident = true ∨ c.candidate = none) → exec (.contextSwitchIn cid) s = .next s)
      ∧ (c.resident = false → c.candidate.isSome = true → (∀ x ∈ s.ctxs, x.2.leaving = false) →
          (s.residents < 64 → exec (.contextSwitchIn cid) s = .next (s.enterSlot cid c))
          ∧ (64 ≤ s.residents → ∀ v, s.switchVictim cid false = some v → exec (.contextSwitchIn cid) s = .next ((s.leaveBegin v).leaveEnd v))))
    ∧ (∀ cid c since, FMap.find s.ctxs cid = some c → c.candidate = some since →
      (s.ns < since + 10000000 → exec (.candidateWaitExpiry cid) s = .next s)
      ∧ (since + 10000000 ≤ s.ns → c.resident = false → (∀ x ∈ s.ctxs, x.2.leaving = false) →
          (s.residents < 64 → exec (.candidateWaitExpiry cid) s = .next (s.enterSlot cid c))
          ∧ (64 ≤ s.residents → ∀ v, s.switchVictim cid true = some v → exec (.candidateWaitExpiry cid) s = .next ((s.leaveBegin v).leaveEnd v))))

/-- R466–R478: errors. A datapath error of a quire rolls it back and counts toward its lane; a corrected error leaves memory as it was and one that
cannot be corrected marks its word or its sector; the scrubber meets sectors only; lost control state ends or replays its launches. -/
def Obligations.ErrorsAreContained : Prop :=
  ∀ (s : State),
    (∀ id e x, s.envOf id = some e → e.q.save ≠ .saved →
      let kept := fun u : State => if x.ckptRow = true ∧ e.g.asked.isSome = true ∧ e.q.save = .atPoint then u.withdraw (u.unitOf e.q.gath) else u
      (x.lane = none → x.way = none →
        exec (.datapathError id x) s = .next ((kept s).datapathError id x.source (laneLocation 0 e.q.part e.g.pcore) 0 x.ckptRow))
      ∧ (∀ n, x.lane = some n → x.way = none → n < 34 → laneRetired (s.laneTable e.g.pcore e.q.part) n = false →
        let r := s.countEvent (laneKey e.g.pcore e.q.part n)
        let t := (kept r.2).datapathError id x.source (laneLocation n e.q.part e.g.pcore) r.1 x.ckptRow
        (r.1 < 3 → exec (.datapathError id x) s = .next t)
        ∧ (3 ≤ r.1 → exec (.datapathError id x) s = .next (t.retireLane e.g.pcore e.q.part n e.vol.pkt.seq e.vol.ctx (e.vol.usedMode 2))))
      ∧ (∀ w, x.lane = none → x.way = some w → exec (.datapathError id x) s = .next
          ((kept s).countWay w fun s n => s.datapathError id x.source (wayLocation w) n x.ckptRow)))
    ∧ (∀ id e x, s.envOf id = some e → e.q.save = .saved → exec (.datapathError id x) s = .next s)
    ∧ (∀ key, exec (.eccEvent (.word key true)) s = .next (s.bump.errorRecord 0 1 4 (s.wordLocation key) 1 0xFF 0))
    ∧ (∀ key, exec (.eccEvent (.word key false)) s = .next ((s.damageWord (key / 4)).bump.errorRecord 0 9 4 (s.wordLocation key) 1 0xFF 0))
    ∧ (∀ x w, let loc := wayLocation x
      let r := s.countEvent (wayKey x.array x.core x.bank (x.way % 16))
      let fixed := r.2.errorRecord 0 1 4 loc r.1 0xFF 0
      let spoilt := (r.2.damageIn x.array x.core w).errorRecord 0 9 4 loc r.1 0xFF 0
      (s.wayRetired x = true → ∀ ok, exec (.eccEvent (.way x ok w)) s = .next s)
      ∧ (s.wayRetired x = false → r.1 < 3 →
          exec (.eccEvent (.way x true w)) s = .next fixed ∧ exec (.eccEvent (.way x false w)) s = .next spoilt)
      ∧ (s.wayRetired x = false → 3 ≤ r.1 →
          exec (.eccEvent (.way x true w)) s = .next (fixed.retireWay x.array x.core x.bank (x.way % 16))
          ∧ exec (.eccEvent (.way x false w)) s = .next (spoilt.retireWay x.array x.core x.bank (x.way % 16))))
    ∧ (∀ pa, keyIsDram pa = true →
      let source := if paKind pa = .first then 7 else 8
      let damaged := (List.range 8).foldl (fun s i => s.damageWord (pa / 32 * 8 + i)) s
      let key := s.rowNow pa
      let spare := damaged.rowNow pa
      ((s.countEvent key).1 < 3 → exec (.patrolScrub (.sector pa true)) s =
          .next ((s.countEvent key).2.errorRecord 0 1 source (pa / 32 * 32) (s.countEvent key).1 0xFF 0))
      ∧ ((damaged.countEvent spare).1 < 3 → exec (.eccEvent (.sector pa false)) s =
          .next ((damaged.countEvent spare).2.errorRecord 0 9 source (pa / 32 * 32) (damaged.countEvent spare).1 0xFF 0)))
    ∧ (∀ source, (source = 5 ∨ source = 6) →
      exec (.eccEvent (.fixed source none)) s = .next (s.bump.errorRecord 0 1 source (s.wordLocation (2 ^ 60)) 1 0xFF 0)
      ∧ ∀ x, exec (.eccEvent (.fixed source (some x))) s = .next (s.countWay x fun s n => s.errorRecord 0 1 source (wayLocation x) n 0xFF 0))
    ∧ (∀ key ok, exec (.patrolScrub (.word key ok)) s = .next s)
    ∧ (∀ core words, exec (.eccEvent (.control core words none)) s = .next (s.bump.lost (fun p => p == core) words (s.wordLocation (2 ^ 60)) 1))
    ∧ (∀ core words x, exec (.eccEvent (.control core words (some x))) s = .next
        (s.countWay x fun s n => s.lost (fun p => p == core) words (wayLocation x) n))
    ∧ (∀ die words, exec (.eccEvent (.directory die words)) s = .next (s.bump.lost (fun p => dieOfCore p == die) words (s.wordLocation (2 ^ 60)) 1))
    ∧ (∀ id k, (s.engineOwes id k = true → exec (.eccEvent (.result id k)) s = .next (s.spoilResult id k))
        ∧ (s.engineOwes id k = false → exec (.eccEvent (.result id k)) s = .next s))

/-- R33–R44, R63–R67, R317, R321–R324, R382, R386: launches. A queue learns its tail and accepts, a blocked one goes on, a signal acts at the head of
its queue, a finished launch completes; gatherings and quires are placed; primitives are resolved and tiles become final. -/
def Obligations.LaunchesComeAndGo : Prop :=
  ∀ (s : State),
    (∀ cid q Q c, q < 4096 → FMap.find s.queues (queueKey cid q) = some Q → FMap.find s.ctxs cid = some c →
      (c.resident = false → exec (.queueWake cid q) s = .next (s.setCtx cid { c with candidate := c.candidate.or (some s.ns) }))
      ∧ (c.resident = true → (Q.state = .halted ∨ Q.state = .disabled) → exec (.queueWake cid q) s = .next s)
      ∧ (∀ x t f, c.resident = true → (Q.state = .running ∨ Q.state = .waiting) →
        (s.translate 0 cid c.root Q.tailVa .eread = (.error f, t) → exec (.queueWake cid q) s = .next (t.haltQueue (queueKey cid q) 3))
        ∧ (s.translate 0 cid c.root Q.tailVa .eread = (.ok x, t) → paKind x.pa = .peer →
          exec (.queueWake cid q) s = .next (t.haltQueue (queueKey cid q) 3))
        ∧ (s.translate 0 cid c.root Q.tailVa .eread = (.ok x, t) → paKind x.pa ≠ .peer →
          let tail := t.mem.num x.pa 4
          let told := t.modQueue (queueKey cid q) fun Q => { Q with submitted := tail }
          let told := if tail = Q.submitted then told else told.progress (queueKey cid q)
          (2 ^ Q.n < seqDiff (tail + 1) Q.expected → exec (.queueWake cid q) s = .next (told.haltQueue (queueKey cid q) 2))
          ∧ (seqDiff (tail + 1) Q.expected ≤ 2 ^ Q.n →
              exec (.queueWake cid q) s = .next (State.acceptAll (queueKey cid q) (seqDiff (tail + 1) Q.expected) told))))
      ∧ (Q.blocked = none → exec (.dependencyWordWrite cid q) s = .next s)
      ∧ (∀ p t ok, Q.blocked = some p → s.blockedHolds (queueKey cid q) c.root p = (ok, t) →
        let freed := t.modQueue (queueKey cid q) Queue.unblock
        (ok = false → exec (.dependencyWordWrite cid q) s = .next t)
        ∧ (ok = true → c.resident = false → exec (.dependencyWordWrite cid q) s = .next
            (t.modCtx (queueKey cid q / 4096) fun c => { c with candidate := c.candidate.or (some t.ns) }))
        ∧ (ok = true → c.resident = true → p.type ≠ 3 → exec (.dependencyWordWrite cid q) s = .next (freed.progress (queueKey cid q)))
        ∧ (ok = true → c.resident = true → p.type = 3 → exec (.dependencyWordWrite cid q) s = .next
            ((freed.closePacket (queueKey cid q) p (freed.parentOf (queueKey cid q) p.seq) false 0 0).progress (queueKey cid q))))
      ∧ (∀ p rest seq done more, Q.signals = p :: rest → Q.open' = (seq, done) :: more →
        let drained := s.flushAll
        (p.seq ≠ seq → exec (.signalPacketEffect cid q) s = .next s)
        ∧ (p.seq = seq → c.resident = false →
          exec (.signalPacketEffect cid q) s = .next (s.setCtx cid { c with candidate := c.candidate.or (some s.ns) }))
        ∧ (p.seq = seq → c.resident = true → drained.writesDue = true → exec (.signalPacketEffect cid q) s = .next drained)
        ∧ (p.seq = seq → c.resident = true → drained.writesDue = false →
          let sent := if p.depWord = 0 then drained
            else drained.engineStore (queueKey cid q / 4096) ((drained.parentOf (queueKey cid q) p.seq).getD 0) p.depWord (leBytes 7 p.depVal ++ [BitVec.ofNat 8 p.depCmp])
          exec (.signalPacketEffect cid q) s = .next ((sent.modQueue (queueKey cid q) fun Q => { Q with signals := rest }).closePacket (queueKey cid q) p
            (sent.parentOf (queueKey cid q) p.seq) false 0 0))))
    ∧ (∀ vid v, FMap.find s.vols vid = some v →
      let drained := s.flushAll
      (s.volumeDue vid v = false → exec (.volumeCompletion vid) s = .next s)
      ∧ (s.volumeDue vid v = true → drained.writesDue = true → exec (.volumeCompletion vid) s = .next drained)
      ∧ (s.volumeDue vid v = true → drained.writesDue = false →
        let qk := queueKey v.ctx v.queue
        let sealed := drained.sealEnd vid v
        let mask : W64 := if v.outcome.1 = 3 then v.collMask.getD 0 else 0
        let told := if v.ending == .silent then sealed else sealed.writeRecordOf v.ctx vid v.pkt v.outcome.1 v.outcome.2 (v.usedMode (sealed.policyCap v.ctx)) mask
        let closed := (told.childGone v.parent).finishPacket qk v.pkt.seq
        let gone : State := { closed with vols := FMap.remove closed.vols vid }
        (((∃ p, (FMap.find gone.queues qk).bind Queue.blocked = some p ∧ p.seq = v.pkt.seq) →
          exec (.volumeCompletion vid) s = .next ((gone.modQueue qk Queue.unblock).progress qk))
        ∧ ((∀ p, (FMap.find gone.queues qk).bind Queue.blocked = some p → p.seq ≠ v.pkt.seq) → exec (.volumeCompletion vid) s = .next gone))))
    ∧ ((∀ t, s.placeClasses 4 0 = some t → exec .gatheringPlacement s = .next t)
      ∧ (s.placeClasses 4 0 = none → exec .gatheringPlacement s = .next ((s.waiting 0 ++ s.waiting 1).foldl (fun s e => s.askFor e.2) s)))
    ∧ (∀ p n b v part f more, FMap.find (s.core p).bins n = some b → FMap.find s.vols b.vol = some v → b.lanes = f :: more →
      let gone := s.modCore p fun c => { c with bins := FMap.remove c.bins n }
      (s.binPlan p b = none → exec (.binQuirePlacement p n) s = .next s)
      ∧ (s.binPlan p b = some (none, part) →
        let r := gone.addGathering b.vol v b.role f.x f.y f.z (s.logicalOf p) p none true
        let bound := (r.2.addQuire r.1 0 part b.entry (b.regs v)).bindRows p part r.2.nextId b
        (bound = none → exec (.binQuirePlacement p n) s = .next s)
        ∧ (∀ u, bound = some u → exec (.binQuirePlacement p n) s =
            .next (if u.retired.contains p then u.requestPreemption r.1 (some (clusterOf p)) else u)))
      ∧ (∀ gid g t, s.binPlan p b = some (some gid, part) → FMap.find s.gaths gid = some g → gone.join gid = some t →
        let joined := ((b.regs v).sput 2 0 false).sput 3 (BitVec.ofNat 64 f.quire) false
        exec (.binQuirePlacement p n) s = .next (((t.addQuire gid (s.freeIndex g) part b.entry joined).bindRows p part t.nextId b).getD s))
      ∧ (s.binExpired b = false → exec (.binTimerExpiry p n) s = .next s)
      ∧ (s.binExpired b = true → exec (.binTimerExpiry p n) s = .next
          ((s.modCore p fun c => { c with bins := FMap.insert c.bins n { b with full := true } }).placeBin p n)))
    ∧ (∀ gid g v slot owed n parts m, FMap.find s.gaths gid = some g → FMap.find s.vols g.vol = some v → s.meshPlan g = some (slot, owed, n, parts) →
      let r := s.addGathering g.vol v .mesh (n - owed) 0 0 g.core g.pcore (some (gid, slot)) false
      let t := r.2.addQuires r.1 v .mesh parts
      FMap.find t.gaths r.1 = some m →
      exec (.meshGatheringPlacement gid) s = .next (((t.copyBytes (spadKey g.pcore (g.base + g.size + slot * v.payload)) (spadKey m.pcore m.base) v.payload).modGath
        gid fun g =>
          { g.setHandle (60 + slot) { g.handle (60 + slot) with state := .draining } with
            owed := FMap.put (0, 0) g.owed slot (if owed ≤ 1 then (0, 0) else (owed - 1, n)),
            running := FMap.put 0 g.running slot (FMap.val 0 g.running slot + 1),
            ringOrder := if owed ≤ 1 then g.ringOrder.drop 1 else g.ringOrder }).reap gid))
    ∧ (∀ gid g v w k t, FMap.find s.gaths gid = some g → FMap.find s.vols g.vol = some v → s.pendingPlan gid g = some (w, k) → s.join gid = some t →
      let r := ((v.startRegs g.role (LaneSet.below (v.laneCount g.role)) 0).sput 2 w.arg false).sput 3 (BitVec.ofNat 64 w.from') false
      exec (.pendingQuireCreation gid) s = .next ((t.modGath gid fun g => { g with wanted := g.wanted.drop 1 }).addQuire gid (s.freeIndex g) k w.entry r))
    ∧ (∀ vid v c r w, FMap.find s.vols vid = some v → FMap.find s.ctxs v.ctx = some c → v.render = some r → c.resident = true →
      r.work.find? (fun x => x.serial == w.serial && c.resident) = some w →
      let t := r.target
      let move := fun (n : Nat) (s : State) => s.modVol vid fun v => { v with render := v.render.map fun r =>
        { r with work := r.work.map fun x => if x.serial = w.serial then { x with cursor := n } else x } }
      (nextCovered t (recVertices w.record) (t.width * t.height - w.cursor) w.cursor = none →
        exec (.visibilityResolve vid w.serial) s = .next (move (t.width * t.height) s))
      ∧ (∀ p d old u, nextCovered t (recVertices w.record) (t.width * t.height - w.cursor) w.cursor = some (p, d) →
        let k := pixelKey c t (p % t.width) (p / t.width)
        s.homeNum k 8 = (old, u) → exec (.visibilityResolve vid w.serial) s =
          .next (move (p + 1) (u.putMarked k 8 (min old (visWord d (recNum w.record 4 4) w.serial)) (u.mem.anyBad k 8)))))
    ∧ (∀ vid v c r, FMap.find s.vols vid = some v → FMap.find s.ctxs v.ctx = some c → v.render = some r → v.ending = .running → s.live v.ctx = true →
      (r.final = false → s.tilesDone vid v r = true → exec (.tileFinality vid) s = .next (s.makeFinal vid c r))
      ∧ (r.final = false → s.tilesDone vid v r = false → exec (.tileFinality vid) s = .next s)
      ∧ (r.final = true → exec (.tileFinality vid) s = .next ((s.clearPixel vid v c r).spawnPixel vid v c r)))

/-- R413–R420, R425–R430: messages and their clocks. Contributions, heartbeats, views and masks of a collective's members; losses; the outcome;
completions and requests of peers, stations and what they acknowledge; the host's own accesses. -/
def Obligations.MessagesAndPeersAct : Prop :=
  ∀ (s : State),
    (∀ id c, FMap.find s.colls id = some c → c.opened = true → c.settled = false → c.phase ≠ .ended →
      (∀ rank params data, c.other rank = true →
        (params = c.params → exec (.collectiveExchange id rank params data) s = .next (s.setColl id
          { c with data := FMap.insert c.data rank (c.fit rank data), phase := if c.phase == .waiting then .exchanging else c.phase }))
        ∧ (params ≠ c.params → exec (.collectiveExchange id rank params data) s =
            .next (s.setColl id { c with settled := true, status := 1, cls := 0x21, error := 3 }))
        ∧ exec (.heartbeatReceive id rank) s = .next (s.setColl id { c with heard := FMap.insert c.heard rank s.ns }))
      ∧ (s.ns < c.sentAt + 250000 → exec (.heartbeatSend id) s = .next s)
      ∧ (c.sentAt + 250000 ≤ s.ns → exec (.heartbeatSend id) s = .next
          (((ranksOf c.n c.view).filter (· != c.rank)).foldl (fun s r =>
            let path := s.pathOf (c.ids.getD r 0)
            if Nat.land path s.stations = 0 then s else { s.flit path with outbox := s.outbox ++ [.heartbeat id r] })
            (s.setColl id { c with sentAt := s.ns })))
      ∧ (∀ rank, s.mayDeclare c rank = false → exec (.memberLost id rank) s = .next s)
      ∧ (∀ rank, s.mayDeclare c rank = true → exec (.memberLost id rank) s = .next ((s.collRound id { c with lost := setIns c.lost rank }).decideIfReady id))
      ∧ (∀ rank view, c.other rank = true →
        let c' := { c with views := FMap.insert c.views rank view, learnt := ((List.range c.n).filter fun r => !view.testBit r).foldl setIns c.learnt }
        exec (.viewMessage id rank view) s = .next ((if c.round.isNone then s.collRound id c' else s.setColl id c').decideIfReady id))
      ∧ (∀ t, c.round = some t →
        (c.coordinates = true → t + 2000000 ≤ s.ns → (c.mask.isSome = true ∨ s.ns < t + 4000000) →
          exec (.coordinatorTimeout id) s = .next (s.collDecide id c))
        ∧ ((c.coordinates = false ∨ s.ns < t + 2000000 ∨ (c.mask = none ∧ t + 4000000 ≤ s.ns)) → exec (.coordinatorTimeout id) s = .next s)
        ∧ (c.mask = none → t + 4000000 ≤ s.ns →
            exec (.finalMaskTimeout id) s = .next (s.setColl id { c with settled := true, status := 1, cls := 0x22, error := 0 }))
        ∧ ((c.mask.isSome = true ∨ s.ns < t + 4000000) → exec (.finalMaskTimeout id) s = .next s))
      ∧ (∀ rank mask, c.other rank = true →
        (∀ t, c.round = some t → c.mask = none → t + 4000000 ≤ s.ns → exec (.finalMaskReceive id rank mask) s =
          .next (s.setColl id { c with settled := true, status := 1, cls := 0x22, error := 0 }))
        ∧ (∀ m, c.mask = some m → m.2 ≤ rank → exec (.finalMaskReceive id rank mask) s = .next (s.setColl id c))
        ∧ ((∀ m, c.mask = some m → rank < m.2) → (∀ t, c.round = some t → c.mask = none → s.ns < t + 4000000) →
            exec (.finalMaskReceive id rank mask) s = .next (s.setColl id { c with mask := some (mask % 2 ^ c.n, rank) }))))
    ∧ (∀ id x t, s.collXfer id = some x → FMap.find s.xfers x = some t → exec (.collectiveCompletion id) s = .next ((s.collEnd x id).reapFor t))
    ∧ (∀ k, k < 16 → s.stations.testBit k = true →
      let down : State := { s with stations := s.stations - 2 ^ k, fallen := if s.fallen.testBit k then s.fallen else s.fallen + 2 ^ k, flits := FMap.remove s.flits k }
      exec (.stationReplayFailure k) s = .next down.markLost
      ∧ (s.ackLate k = true → exec (.stationAckTimeout k) s = .next down.markLost) ∧ (s.ackLate k = false → exec (.stationAckTimeout k) s = .next s))
    ∧ (∀ k, FMap.sorted s.flits = true → ∃ t n, exec (.linkLevelAcknowledgement k) s = .next t ∧ 1 ≤ n ∧ FMap.val [] t.flits k = (FMap.val [] s.flits k).drop n
      ∧ (∀ j, j ≠ k → FMap.val [] t.flits j = FMap.val [] s.flits j) ∧ t.mem = s.mem)
    ∧ (∀ req o ok data marks, s.peerOut.find? (fun o => o.id == req) = some o →
      ((o.lost = true ∨ o.sentAt + 2000000 ≤ s.ns) → exec (.peerCompletion req ok data marks) s = .next (s.peerDone o false data marks)
        ∧ exec (.peerRequestTimeout req) s = .next (s.peerDone o false [] []))
      ∧ (o.lost = false → s.ns < o.sentAt + 2000000 → exec (.peerCompletion req ok data marks) s = .next (s.peerDone o ok data marks)
        ∧ exec (.peerRequestTimeout req) s = .next s))
    ∧ (∀ (r : PeerReq),
      let shape := reqShape r
      let off := shape.1 % 2 ^ 34
      let served := match r with | .atomic _ op _ _ _ => peerOp op.toNat && decide (shape.1 % shape.2.1 = 0) | _ => true
      (FMap.find s.windows (shape.1 / 2 ^ 34 % 256) = none → exec (.peerInboundRequest r) s = .next ({ s with lastReply := none }.flit s.stations))
      ∧ (∀ w c t pas, FMap.find s.windows (shape.1 / 2 ^ 34 % 256) = some w → FMap.find s.ctxs w.ctx = some c →
        ((w.len < off + shape.2.1 ∨ (shape.2.2.writes = true ∧ w.writable = false) ∨ served = false) →
          exec (.peerInboundRequest r) s = .next ({ s with lastReply := none }.flit s.stations))
        ∧ (off + shape.2.1 ≤ w.len → (shape.2.2.writes = true → w.writable = true) → served = true →
            s.windowPas w c.root shape.2.2 shape.2.1 off = (some pas, t) → exec (.peerInboundRequest r) s = .next ((t.performReq r pas).flit (t.performReq r pas).stations))
        ∧ (off + shape.2.1 ≤ w.len → (shape.2.2.writes = true → w.writable = true) → served = true →
            s.windowPas w c.root shape.2.2 shape.2.1 off = (none, t) → exec (.peerInboundRequest r) s = .next ({ t with lastReply := none }.flit t.stations))))
    ∧ (∀ pa n, (∀ i < n, s.hostMay (pa + i) = true) →
      let t := ((List.range n).map (pa + ·)).foldl (fun s k => s.recallRange k 1) s
      exec (.hostAccess (.read pa n)) s = .next { t with lastReply := some (((List.range n).map (pa + ·)).map t.mem.byte) })
    ∧ (∀ pa d, (∀ i < d.length, s.hostMay (pa + i) = true) →
      exec (.hostAccess (.write pa d)) s = .next { s.outsideWrite (d.mapIdx fun i b => (pa + i, b)) with lastReply := some [] })
    ∧ (∀ pa n i, i < n → s.hostMay (pa + i) = false → exec (.hostAccess (.read pa n)) s = .next { s with lastReply := none })

namespace Sys2Proof.Claims

/-- What the firmware does for the driver: the writes of the management window and the commands (R487, R489, R494). -/
def driverAsks : Instr → Bool
  | .mgPower _ | .mgClock _ | .mgEvents _ | .mgErrors _ | .mgRegisterWrite _ _ => true
  | .registerContext _ _ | .releaseContext _ _ | .enableQueue _ _ _ | .disableQueue _ _ _ | .invalidate _ _ _ _ | .peerEntry _ _ _ => true
  | .inboundWindow _ _ _ _ _ _ | .stationUp _ _ | .attest _ _ _ | .readRemap _ _ | .unknownCommand _ _ | .driverPreemptionRequest _ _ => true
  | .debugStop _ _ | .debugResume _ _ | .debugStep _ _ | .debugRead _ _ _ | .debugWrite _ _ _ _ => true
  | _ => false

end Sys2Proof.Claims

/-- R51, R487, R489–R492, R496: the management window, clocks and heat, and resets. A power cap of 0–56 and a clock mode of 0–2 are taken, a ring of 2^4–2^16
entries begins empty; 105 °C holds the arithmetic clock at its lowest step; a device reset leaves nothing resident and counts the epoch up; a module whose firmware image was refused answers no write and no command. -/
def Obligations.ManagementActs : Prop :=
  ∀ (s : State),
    (s.boot ≠ 0 → ∀ i, driverAsks i = true → exec i s = .next s)
    ∧ (s.boot = 0 → ∀ v : W64, let n := v.toNat % 64
      exec (.mgPower v) s = .next { s with power := if n ≤ 56 then n else s.power } ∧ exec (.mgRegisterWrite 0x0008 v) s = exec (.mgPower v) s)
    ∧ (s.boot = 0 → ∀ v : W64, let n := v.toNat % 4
      (n = 3 → exec (.mgClock v) s = .next s)
      ∧ (n ≤ 1 → s.hot = false → exec (.mgClock v) s = .next { s with clockMode := n, clockStep := if n = 1 then 14 else s.clockStep })
      ∧ (n ≠ 3 → (n = 2 ∨ s.hot = true) → exec (.mgClock v) s = .next { s with clockMode := n, clockStep := 0 })
      ∧ exec (.mgRegisterWrite 0x0010 v) s = exec (.mgClock v) s)
    ∧ (s.clockMode = 1 → exec .clockModeFallback s = .next (({ s with clockMode := 0 } : State).hostEvent 6 0xFF 0))
    ∧ (s.clockMode ≠ 1 → exec .clockModeFallback s = .next s)
    ∧ (∀ n, (s.clockMode = 0 → n ≤ 14 → s.hot = false → exec (.adaptiveClockStep n) s = .next { s with clockStep := n })
      ∧ ((s.clockMode ≠ 0 ∨ 14 < n ∨ s.hot = true) → exec (.adaptiveClockStep n) s = .next s))
    ∧ (∀ die celsius, let temps := FMap.put 0 s.temps die celsius
      (temps.any (fun t => decide (105 ≤ t.2)) = true →
        exec (.thermalThrottle die celsius) s = .next { s with temps := temps, clockStep := 0 }
        ∧ (celsius < 110 → exec (.thermalReset die celsius) s = .next { s with temps := temps, clockStep := 0 })
        ∧ (110 ≤ celsius → exec (.thermalReset die celsius) s =
            exec .deviceReset (({ s with temps := temps, clockStep := 0 } : State).hostEvent 5 0xFF 0)))
      ∧ (temps.any (fun t => decide (105 ≤ t.2)) = false → s.clockMode = 0 → exec (.thermalThrottle die celsius) s = .next { s with temps := temps }))
    ∧ (s.boot = 0 → ∀ v : W64, let n := v.toNat % 64
      (4 ≤ n → n ≤ 16 → exec (.mgEvents v) s = .next { s with evRing := v &&& BitVec.ofNat 64 (2 ^ 52 - 1), evIx := 0 })
      ∧ ((n < 4 ∨ 16 < n) → exec (.mgEvents v) s = .next s) ∧ exec (.mgRegisterWrite 0x0028 v) s = exec (.mgEvents v) s)
    ∧ (s.boot = 0 → ∀ v : W64, exec (.mgErrors v) s = .next { s with erRing := v &&& BitVec.ofNat 64 (2 ^ 52 - 1), erIx := 0 }
      ∧ exec (.mgRegisterWrite 0x0030 v) s = exec (.mgErrors v) s)
    ∧ (∀ off v, off ≠ 0x0008 → off ≠ 0x0010 → off ≠ 0x0028 → off ≠ 0x0030 → exec (.mgRegisterWrite off v) s = .next s)
    ∧ (s.queues = [] → ∃ t, exec .deviceReset s = .next t ∧ t.epoch = s.epoch + 1 ∧ t.quires = [] ∧ t.gaths = [] ∧ t.vols = [] ∧ t.xfers = [] ∧ t.colls = []
      ∧ t.asq = [] ∧ t.power = State.reset.power ∧ t.clockMode = State.reset.clockMode ∧ t.evRing = 0 ∧ t.erRing = 0 ∧ t.cmd = none ∧ t.retired = s.retired
      ∧ t.temps = s.temps)
    ∧ (s.queues = [] →
      let u := s.verifyImage
      let booted : State := { u with epoch := u.epoch + 1, measures := Config.measures, spareNext := Config.spareLanes u.tick }
      (u.boot = 0 → exec .controlProcessorRestart s = .next ((booted.mapChange (Config.spanChange u.tick)).bump.hostEvent 7 0xFF 0))
      ∧ (u.boot ≠ 0 → exec .controlProcessorRestart s = .next u.bump))

/-- R31, R227, R247, R413, R414, R418, R488, R494, R495: the driver's commands on contexts, queues, translations, the peer table, windows and stations.
What a command names wrongly ends it with status 1, an unknown one with 2, a want of room with 3, else 0; a status is the four bytes at 4 of its block. -/
def Obligations.CommandsAct : Prop :=
  ∀ (s : State) (blk : Nat), s.boot = 0 →
    (∀ rec, let t := s.recallRange rec 128
      (contextOf t.mem rec = none → exec (.registerContext blk rec) s = .next (t.finishCmd blk 1))
      ∧ (∀ c slot base, contextOf t.mem rec = some c → (List.range 255).find? (fun k => (FMap.find t.ctxs k).isNone) = some slot →
        t.freeWindow c.windowLen = some base →
        let mem := (List.range 4).foldl (fun (m : Memory) d => m.clear (dspadKey d base) c.windowLen) t.mem
        let placed : State := { t with mem := mem, linkUp := true }
        let c' := { c with windowBase := base, resident := decide (t.residents < 64), residentSince := t.ns, busyAt := t.ns }
        exec (.registerContext blk rec) s = .next (((placed.setCtx slot c').putHome (blk + 8) (leBytes 4 slot ++ leBytes 4 base)).finishCmd blk 0))
      ∧ (∀ c, contextOf t.mem rec = some c → ((List.range 255).find? (fun k => (FMap.find t.ctxs k).isNone) = none ∨ t.freeWindow c.windowLen = none) →
        exec (.registerContext blk rec) s = .next (t.finishCmd blk 3)))
    ∧ (∀ cid, FMap.find s.ctxs cid = none → exec (.releaseContext blk cid) s = .next (s.finishCmd blk 1)
      ∧ (∀ q, exec (.enableQueue blk cid q) s = .next (s.finishCmd blk 1)) ∧ (∀ va n, exec (.invalidate blk cid va n) s = .next (s.finishCmd blk 1)))
    ∧ (∀ cid c, FMap.find s.ctxs cid = some c →
      let ended := (s.launchesOf cid).foldl (fun s v => s.endLaunch v (.killed 0)) s
      let done := (ended.launchesOf cid).reverse.foldl (fun s v => s.completeVolume v) ended
      (done.worksFor cid = true → exec (.releaseContext blk cid) s = .next { done with cmd := some (.release blk cid) })
      ∧ (done.worksFor cid = false → exec (.releaseContext blk cid) s = .next ((done.forget cid).finishCmd blk 0))
      ∧ (∀ q, c.qcount ≤ q → exec (.enableQueue blk cid q) s = .next (s.finishCmd blk 1))
      ∧ (∀ q x t, q < c.qcount → s.translate 0 cid c.root (c.qtable + 64 * q) .eread = (.ok x, t) →
        let u := t.recallRange x.pa 64
        let bs := u.mem.bytes x.pa 64
        let others := u.queues.filter fun e => e.1 != queueKey cid q && e.2.state != .disabled
        let mapped := mappedAll u.mem c.root (leValue (bs.take 8)) (128 * 2 ^ leValue ((bs.drop 8).take 1))
        ((queueOk bs = false ∨ mapped = false) → exec (.enableQueue blk cid q) s = .next (u.finishCmd blk 1))
        ∧ (queueOk bs = true → mapped = true → 4096 ≤ others.length → exec (.enableQueue blk cid q) s = .next (u.finishCmd blk 3))
        ∧ (queueOk bs = true → mapped = true → others.length < 4096 →
          let Q := queueFrom (FMap.find u.queues (queueKey cid q)) bs
          exec (.enableQueue blk cid q) s = .next
            ((({ u with queues := FMap.insert u.queues (queueKey cid q) Q } : State).progress (queueKey cid q)).finishCmd blk 0)))
      ∧ (∀ va n, let first := va.toNat % 2 ^ 57 / 2 ^ 12
        let hit := fun (t : TlbEnt) => t.ctx == cid && (n == 0 || runsMeet t.vpn t.pages first n)
        let held := s.storesHeld cid || s.accessesDue cid
        (held = true → exec (.invalidate blk cid va n) s = .next { s with cmd := some (.invalidate blk cid va n) })
        ∧ (held = false → exec (.invalidate blk cid va n) s = .next
            ((({ s with tlb := s.tlb.filter fun t => !hit t } : State).retryFaults cid).finishCmd blk 0))))
    ∧ (∀ cid q, (FMap.find s.queues (queueKey cid q) = none → exec (.disableQueue blk cid q) s = .next (s.finishCmd blk 1))
      ∧ (∀ Q, FMap.find s.queues (queueKey cid q) = some Q → exec (.disableQueue blk cid q) s = .next
          (((s.modQueue (queueKey cid q) fun Q => { Q with state := .disabled }).progress (queueKey cid q)).finishCmd blk 0)))
    ∧ (∀ i v, (255 < i → exec (.peerEntry blk i v) s = .next (s.finishCmd blk 1))
      ∧ (i ≤ 255 → exec (.peerEntry blk i v) s = .next
          ((State.markLost { s with peers := FMap.put 0 s.peers i (v &&& 0x3FFFFFF0001) }).finishCmd blk 0)))
    ∧ (∀ i cid va len w, ((255 < i ∨ FMap.find s.ctxs cid = none ∨ 2 ^ 34 < len) → exec (.inboundWindow blk i cid va len w) s = .next (s.finishCmd blk 1))
      ∧ (i ≤ 255 → (FMap.find s.ctxs cid).isSome = true → len ≤ 2 ^ 34 → exec (.inboundWindow blk i cid va len w) s = .next
          (({ s with windows := FMap.insert s.windows i { ctx := cid, va := va, len := len, writable := w } } : State).finishCmd blk 0)))
    ∧ (∀ mask, exec (.stationUp blk mask) s = .next (({ s with
        stations := s.stations ||| mask % 2 ^ 16, fallen := s.fallen &&& ((2 ^ 16 - 1) ^^^ (mask % 2 ^ 16)) } : State).finishCmd blk 0))
    ∧ (∀ nonce pa, (nonce.length ≠ 32 → exec (.attest blk nonce pa) s = .next (s.finishCmd blk 1))
      ∧ (nonce.length = 32 → s.sigsLeft = 0 → exec (.attest blk nonce pa) s = .next (s.finishCmd blk 3))
      ∧ (nonce.length = 32 → s.sigsLeft ≠ 0 → exec (.attest blk nonce pa) s = .next ((({ s with sigsLeft := s.sigsLeft - 1 } : State).putHome pa
          (Config.attest nonce s.measures s.epoch (s.sigsLeft - 1))).finishCmd blk 0)))
    ∧ (∀ die p part, p < 384 → dieOfCore p = die → part < 4 → exec (.readRemap blk (.lane die p part)) s = .next
        (({ s with lastReply := some (leBytes 8 (s.laneTable p part).toNat) } : State).finishCmd blk 0))
    ∧ (∀ die core part, (384 ≤ core ∨ dieOfCore core ≠ die ∨ 4 ≤ part) → exec (.readRemap blk (.lane die core part)) s = .next (s.finishCmd blk 1))
    ∧ (∀ code, (code = 0 ∨ 0x0B < code) → exec (.unknownCommand blk code) s = .next (s.finishCmd blk 2))

/-- R42, R453, R454: the debugger and the driver's pre-emption. A stop waits until every quire it names stands still; a resume and a step let stopped
quires go on, a step for one group; registers of a stopped quire are read and written; the unit of a gathering is asked to leave its core. -/
def Obligations.DebugAndPreemptionCommandsAct : Prop :=
  ∀ (s : State) (blk : Nat), s.boot = 0 →
    (∀ d, s.dbgQuires d = [] → exec (.debugStop blk d) s = .next (s.finishCmd blk 1) ∧ exec (.debugResume blk d) s = .next (s.finishCmd blk 1)
      ∧ exec (.debugStep blk d) s = .next (s.finishCmd blk 1))
    ∧ (∀ d id more, s.dbgQuires d = id :: more →
      let asked := (id :: more).foldl (fun s id => s.modQuire id fun q => if q.stopped then q else q.askStop) s
      let still := (id :: more).all fun id => match FMap.find asked.quires id with
        | some q => q.stopped && !asked.resultsDue id q
        | none => true
      let freed := fun step => (id :: more).foldl (fun s id => s.modQuire id fun q => if q.stopped then { q with stopped := false, stepping := step } else q) s
      (still = true → exec (.debugStop blk d) s = .next (asked.finishCmd blk 0))
      ∧ (still = false → exec (.debugStop blk d) s = .next { asked with cmd := some (.stop blk d) })
      ∧ exec (.debugResume blk d) s = .next ((freed false).finishCmd blk 0) ∧ exec (.debugStep blk d) s = .next ((freed true).finishCmd blk 0))
    ∧ (∀ id e, s.envOf id = some e → e.q.stopped = true →
      (∀ n, n < 127 → exec (.debugRead blk id (.scalar n)) s = .next
        (({ s with lastReply := some (leBytes 8 (FMap.val 0 e.q.regs.s n).toNat) } : State).finishCmd blk 0))
      ∧ exec (.debugRead blk id (.scalar 127)) s = .next (({ s with lastReply := some (leBytes 8 0) } : State).finishCmd blk 0)
      ∧ (∀ n l, n < e.names → l < e.width → exec (.debugRead blk id (.vec n l)) s = .next
        (({ s with lastReply := some (leBytes 4 (e.q.regs.vget n l).toNat) } : State).finishCmd blk 0))
      ∧ (∀ sp ea base index lane bs t, s.dbgMemory e sp ea base index lane = (some bs, t) →
        exec (.debugRead blk id (.memory sp ea base index lane)) s = .next (({ t with lastReply := some bs } : State).finishCmd blk 0))
      ∧ (∀ sp ea base index lane t, s.dbgMemory e sp ea base index lane = (none, t) →
        exec (.debugRead blk id (.memory sp ea base index lane)) s = .next (t.finishCmd blk 1))
      ∧ exec (.debugRead blk id .pc) s = .next (({ s with lastReply := some (leBytes 8 e.q.pc.toNat) } : State).finishCmd blk 0)
      ∧ (∀ v, exec (.debugWrite blk id .pc v) s = .next
        ((s.modQuire id fun q => ({ q with wait := .none, grp := none, snap := none } : Quire).jump (BitVec.ofNat 64 v) true).finishCmd blk 0))
      ∧ (∀ r v f t, r ≠ .pc → e.dbgPut r v = some f → State.mapNames e.g.pcore e.q.part id (debugRows r) s = some t →
        exec (.debugWrite blk id r v) s = .next ((t.modQuire id fun q => { q with regs := f q.regs, snap := q.snap.map f, latches := latchesAfterDebug r q.latches }).finishCmd blk 0))
      ∧ (∀ r v f, r ≠ .pc → e.dbgPut r v = some f → State.mapNames e.g.pcore e.q.part id (debugRows r) s = none →
        exec (.debugWrite blk id r v) s = .next (s.finishCmd blk 3))
      ∧ (∀ r v, r ≠ .pc → e.dbgPut r v = none → exec (.debugWrite blk id r v) s = .next (s.finishCmd blk 1)))
    ∧ (∀ id e, s.envOf id = some e → e.q.stopped = false →
      (∀ r, exec (.debugRead blk id r) s = .next (s.finishCmd blk 1)) ∧ (∀ r v, exec (.debugWrite blk id r v) s = .next (s.finishCmd blk 1)))
    ∧ (∀ gid g, FMap.find s.gaths gid = some g → g.retired = false → g.saved = none →
      exec (.driverPreemptionRequest blk gid) s = .next ((s.requestPreemption gid none).finishCmd blk 0))
    ∧ (∀ gid, (∀ g, FMap.find s.gaths gid = some g → g.retired = true ∨ g.saved.isSome = true) →
      exec (.driverPreemptionRequest blk gid) s = .next (s.finishCmd blk 1))

namespace Sys2Proof.Claims
open Sys2Proof.Machine

/-! ### Values -/

/-- Operand b of a shift or a field instruction: bits [31:0] of srcB, or imm32 (R181, R183). -/
def selector (e : Env) (x : Alu) (l : Nat) : Nat := match x.imm with
  | some w => w.toNat
  | none => (e.readTy x.b .n32 l).n

/-- What R181–R183 say of a lane's w-bit result `v`, bit by bit, where its sources are `z` and its count or selector `n`. -/
def BitRule (i : Instr) (x : Alu) (z : Srcs) (n v : Nat) : Prop :=
  let w := x.ty.width
  let a := z.a.n
  let bits := fun g : Nat → Bool => v < 2 ^ w ∧ ∀ k, k < w → v.testBit k = g k
  let pos := n % 256
  let len := min (n / 256 % 256) w
  let wide := fun k => if k < w then a.testBit k else x.ty.isSigned && a.testBit (w - 1)
  let one := fun b : Bool => if b then 1 else 0
  match i with
  | .shl _ _ | .shlI _ _ => bits fun k => decide (n ≤ k) && a.testBit (k - n)
  | .shr _ _ | .shrI _ _ => bits fun k => decide (k + n < w) && a.testBit (k + n)
  | .sar _ _ => bits fun k => a.testBit (min (k + n) (w - 1))
  | .rotl _ _ => bits fun k => a.testBit ((k + (w - n % w)) % w)
  | .tril _ _ | .trilI _ _ => bits fun k => (x.fn).testBit (one (a.testBit k) + 2 * one (z.b.n.testBit k) + 4 * one (z.c.n.testBit k))
  | .popc _ _ => v = ((List.range w).filter fun k => a.testBit k).length
  | .clz _ _ => v ≤ w ∧ (∀ k, k < v → a.testBit (w - 1 - k) = false) ∧ (v < w → a.testBit (w - 1 - v) = true)
  | .brev _ _ => bits fun k => a.testBit (w - 1 - k)
  | .bfe _ _ | .bfeI _ _ => bits fun k => decide (len ≠ 0) && (if k < len then wide (pos + k) else x.ty.isSigned && wide (pos + len - 1))
  | .bfi _ _ | .bfiI _ _ => bits fun k => if pos ≤ k ∧ k < pos + len then a.testBit (k - pos) else z.c.n.testBit k
  | _ => True

/-- The instructions of R181–R183. -/
def isBitwise : Instr → Bool
  | .shl _ _ | .shlI _ _ | .shr _ _ | .shrI _ _ | .sar _ _ | .rotl _ _ | .tril _ _ | .trilI _ _ | .popc _ _ | .clz _ _ | .brev _ _
  | .bfe _ _ | .bfeI _ _ | .bfi _ _ | .bfiI _ _ => true
  | _ => false

/-- The quire after one value per lane that takes effect is delivered; a lane's poison is that of its sources. -/
def given (e : Env) (j : Job) (v : Nat → Nat) (q : Quire) : Quire :=
  e.deliver j.x.h j.x.d (words j.p) (j.p.td == some .i32)
    ((e.lanes (e.effect j.x.h)).map fun l => { lane := l, n := v l, badLo := poisoned e j l, badHi := poisoned e j l }) q

/-- A source element as an integer: as the type reads it, then its absolute value, then negated, each modulo 2^w (R95). -/
def element (t : Ty) (n : NegAbs) (v k : Nat) : Int :=
  let read := fun x : Int => let c := BitVec.ofInt t.width x; if t.isSigned then c.toInt else (c.toNat : Int)
  let x := read ((v / 2 ^ (t.width * k) : Nat) : Int)
  let x := if n.abs ∧ x < 0 then read (-x) else x
  if n.neg then read (-x) else x

end Sys2Proof.Claims

/-- R181, R182, R183: each bit of a shift, a rotation, a three-input function, a reversal or a field, and the counts of ones and of leading zeros,
in every lane that takes effect. -/
def Obligations.BitwiseResultsFollowTheRules : Prop :=
  ∀ (s : State) (e : Env) (i : Instr) (j : Job), bitJob i = some j → isBitwise i = true → Executes s e i →
    ∃ v : Nat → Nat, exec i s = .next (s.upd e (given e j v))
      ∧ (∀ l ∈ e.lanes (e.effect j.x.h), BitRule i j.x (e.srcs j.x j.p (srcLane e j l)) (selector e j.x (srcLane e j l)) (v l))
      ∧ (∀ h f, (i = .popc h f ∨ i = .clz h f) → words j.p = 1) ∧ (∀ h f, i = .tril h f → j.x.fn < 256) ∧ (∀ h f, i = .bfiI h f → j.x.c = f.d)

/-- R179: each element of an arithmetic result is the exact integer result of its operation on the elements of its sources, clamped to the type
under saturate and else modulo 2^w. -/
def Obligations.IntegerArithmeticIsExact : Prop :=
  ∀ (s : State) (e : Env) (i : Instr) (x : Alu) (p : AluSpec) (op : Int → Int → Int → Int), arithOf i = some (x, p, op) → Executes s e i →
    let j := arith x p op
    ∃ v : Nat → Nat, exec i s = .next (s.upd e (given e j v)) ∧ ∀ l ∈ e.lanes (e.effect x.h), ∀ k, k < x.ty.count →
      let z := e.srcs x p (srcLane e j l)
      let exact := op (element x.ty x.na z.a.n k) (element x.ty x.nb z.b.n k) (element x.ty x.nc z.c.n k)
      let least : Int := if x.ty.isSigned then -2 ^ (x.ty.width - 1) else 0
      let greatest : Int := if x.ty.isSigned then 2 ^ (x.ty.width - 1) - 1 else 2 ^ x.ty.width - 1
      let got := element x.ty { neg := false, abs := false } (v l) k
      least ≤ got ∧ got ≤ greatest ∧ (x.sat = true → got = max least (min greatest exact)) ∧ (x.sat = false → (2 ^ x.ty.width : Int) ∣ got - exact)

namespace Sys2Proof.Claims
open Sys2Proof.Machine

/-! ### Frames -/

/-- Word `n` of vector registers in lane `l` is one the job's destination names. -/
def named (e : Env) (j : Job) (n l : Nat) : Bool :=
  !j.x.h.nowb && (e.effect j.x.h).has l && decide (l < e.width) && (match j.x.d with
    | .v k => decide (k.toNat ≤ n ∧ n < k.toNat + words j.p)
    | .x k off => decide ((e.view.indexed k off l).toNat ≤ n ∧ n < (e.view.indexed k off l).toNat + words j.p)
    | _ => false)

/-- Scalar `n` is the job's destination. -/
def namedScalar (j : Job) (n : Nat) : Bool := !j.x.h.nowb && (match j.x.d with
  | .s _ k => k.toNat == n
  | _ => false)

/-- A quire keeps everything of it but vector registers, scalars, poison, the flags, predicates, and latches. -/
def QuireFrame (a b : Quire) : Prop :=
  b.pc = a.pc ∧ b.npc = a.npc ∧ b.store = a.store ∧ b.pend = a.pend ∧ b.ckpt = a.ckpt ∧ b.wait = a.wait ∧ b.queries = a.queries
    ∧ b.regs.x = a.regs.x ∧ b.regs.path = a.regs.path ∧ b.regs.padding = a.regs.padding ∧ b.regs.absent = a.regs.absent ∧ b.regs.stack = a.regs.stack
    ∧ b.regs.reserve = a.regs.reserve ∧ b.regs.surrendered = a.regs.surrendered ∧ b.regs.entry = a.regs.entry ∧ b.regs.sig = a.regs.sig
    ∧ b.regs.latchedMask = a.regs.latchedMask ∧ b.regs.fpmode = a.regs.fpmode ∧ b.regs.rowprog = a.regs.rowprog

/-- Everything outside one quire is as it was: every other quire, memory, the cores' streams and caches, gatherings, launches, contexts, queues. -/
def OnlyQuire (s t : State) (id : Nat) : Prop :=
  (∀ k, k ≠ id → FMap.find t.quires k = FMap.find s.quires k) ∧ t.mem = s.mem ∧ t.cores = s.cores ∧ t.gaths = s.gaths ∧ t.vols = s.vols ∧ t.ctxs = s.ctxs
    ∧ t.queues = s.queues ∧ t.xfers = s.xfers ∧ t.asq = s.asq

/-- A byte as a quire sees it: its own uncommitted stores, then what its core has committed, then the home (R233, R347). -/
def seen (s : State) (e : Env) (q : Quire) (k : Nat) : W8 := (storeByte q.store k).getD (s.engineByte e.g.pcore k)

/-- The keys of the bytes an access on chip names in a lane (R225, R226). -/
def keysOf (s : State) (e : Env) (f : FmtM) (l : Nat) : List Nat := ((e.placeOf s f (Wd f.width) l).map Prod.fst).getD []

end Sys2Proof.Claims

/-- R78, R81, R166: the frame of the instructions on registers and of the comparisons. Only the destination's words in the lanes that take effect, a
scalar destination, the predicate of a comparison, the flags raised and a latch named change. -/
def Obligations.RegisterInstructionsFrame : Prop :=
  ∀ (s t : State) (e : Env) (i : Instr) (j : Job),
    (intJob i = some j ∨ bitJob i = some j ∨ floatJob i = some j ∨ doubleJob i = some j ∨ convertJob i = some j ∨ ∃ pd, cmpJob i = some (j, pd)) →
    Executes s e i → Untrapped e j → exec i s = .next t →
    OnlyQuire s t e.id ∧ ∃ q, FMap.find t.quires e.id = some q ∧ QuireFrame e.q q
      ∧ (∀ n l, l < 256 → named e j n l = false → q.regs.vget n l = e.q.regs.vget n l ∧ q.regs.vbadAt n l = e.q.regs.vbadAt n l)
      ∧ (∀ n, namedScalar j n = false → q.regs.sget n = e.q.regs.sget n)
      ∧ q.regs.fpflags = e.q.regs.fpflags ||| (flags e j).setWidth 64
      ∧ (cmpJob i = none → q.regs.p = e.q.regs.p)
      ∧ (∀ pd k, cmpJob i = some (j, pd) → k ≠ pd → q.regs.pget k = e.q.regs.pget k)
      ∧ (j.x.h.lat = false → q.latches = e.q.latches)

/-- R225, R226, R233, R235, R251: on chip, a store whose checks pass changes no register, no byte of memory as its quire sees it but those its lanes
name, and those read as its data; a load changes no byte and, until its results land, no register. -/
def Obligations.ScratchpadAccessesFrame : Prop :=
  ∀ (s : State) (e : Env) (h : Hdr) (f : FmtM), f.space ≠ .gen → e.effect h ≠ 0 → e.privTrap f (e.lanes (e.effect h)) = none →
    e.addrTrap s f (Wd f.width) 0 (checked e h) = none →
    (Executes s e (.st h f) → (∀ l ∈ checked e h, (e.datum f l).2 = false) → (storeLines e.q.store).length ≤ 32 →
      e.q.spadEntries + e.words * wordEntries f.width ≤ 256 →
      ∃ t q, exec (.st h f) s = .next t ∧ FMap.find t.quires e.id = some q ∧ OnlyQuire s t e.id ∧ q.regs = e.q.regs ∧ q.pend = e.q.pend ∧ q.pc = e.q.pc
        ∧ (∀ k, (∀ l ∈ checked e h, k ∉ keysOf s e f l) → seen t e q k = seen s e e.q k)
        ∧ (∀ l ∈ checked e h, e.firstWord ≤ l / 32 → ∀ (i k : Nat), (keysOf s e f l)[i]? = some k → (∀ j, (keysOf s e f l)[j]? = some k → j = i) →
            (∀ l' ∈ checked e h, l' ≠ l → k ∉ keysOf s e f l') → seen t e q k = ((e.datum f l).1[i]?).getD (seen s e e.q k)))
    ∧ (∀ xs u, Executes s e (.ld h f) → e.spots s f (Wd f.width) 0 (bypassed f) .load (checked e h) = .ok (xs, u) →
      PadsReady u e f (e.lanes (e.effect h &&& e.view.padding)) →
      ∃ t q, exec (.ld h f) s = .next t ∧ FMap.find t.quires e.id = some q ∧ q.regs = e.q.regs ∧ q.store = e.q.store ∧ q.pc = e.q.pc ∧ t.mem = s.mem
        ∧ (∀ k, k ≠ e.id → FMap.find t.quires k = FMap.find s.quires k) ∧ (∀ k, seen t e q k = seen s e e.q k))

/-- R106: an instruction in a quire whose checks fail does nothing but take the trap of the first that fails: privilege 0x0D, the word as written
0x03 or 0x0B, a handle that does not exist, an attribute base where there are no attributes or an odd indexed base 0x03, register bounds 0x04, latches 0x05; and one whose checks pass never stops the machine. -/
def Obligations.FailedChecksTakeTheirTraps : Prop :=
  ∀ (s : State) (e : Env) (i : Instr) (h : Hdr), Instr.hdr i = some h → s.envOf s.cur = some e →
    let trap := fun t => exec i s = .next (s.takeTrap e.id t false)
    let odd := (e.lanes (e.effect h)).filter (e.misaligned (Instr.form i).uses)
    (e.privileged i = false → trap (e.trapAll 0x0D 0))
    ∧ (e.privileged i = true → ∀ code, (Instr.form i).trap h = some code → trap (e.trapAll code 0))
    ∧ (e.privileged i = true → (Instr.form i).trap h = none → (e.handleBad i h || e.attrBad i) = true → trap (e.trapAll 0x03 0))
    ∧ (e.privileged i = true → (Instr.form i).trap h = none → (e.handleBad i h || e.attrBad i) = false → odd ≠ [] →
        trap (e.trapLanes 0x03 0 0 (odd.foldl (fun m l => m ||| LaneSet.one l) 0)))
    ∧ (e.privileged i = true → (Instr.form i).trap h = none → (e.handleBad i h || e.attrBad i) = false → odd = [] →
        (∀ t, e.bounds (e.uses i) (e.lanes (e.effect h)) = some t → t.code = 0x04 ∧ trap t)
        ∧ (e.bounds (e.uses i) (e.lanes (e.effect h)) = none →
          (e.latchesOk (Instr.form i).uses = false → trap (e.trapAll 0x05 0)) ∧ (e.latchesOk (Instr.form i).uses = true → e.check i = none)))
    ∧ ∃ t, exec i s = .next t

/-- R442, R444–R446: delivering a trap writes its 64-byte record into the quire's slot of the trap area, in the page itself and in the version of it
that a sealed launch uses, and enters handler mode: a marker on the stack, the handler bank, the trap enables of sr.fpmode zero, the context's
handler entry; every other register stands. A breakpoint's or a deliberate trap's group completes first. A context without a handler, or a trap in
handler mode, ends the launch with the trap's code and a host event. -/
def Obligations.DeliveryEntersTheHandler : Prop :=
  ∀ (s t : State) (id : Nat) (e : Env) (tr : TrapInfo) (x : Xlated), s.envOf id = some e →
    let ended := (s.hostEvent 2 e.vol.ctx e.vol.pkt.seq).endLaunch e.g.vol (.error tr.code)
    (e.ctx.handler = 0 → s.deliver id tr = ended)
    ∧ (e.handlerMode = true → s.takeTrap id tr false = ended)
    ∧ (e.ctx.handler ≠ 0 → s.translate (dieOfCore e.g.pcore) e.vol.ctx e.ctx.root e.recordVa .store = (.ok x, t) → paKind x.pa ≠ .peer → t.MemWf →
      let v := if tr.cls = 3 ∨ tr.code = 0x19 then t.finishGroup id else t
      let u := s.deliver id tr
      ∀ d, v.envOf id = some d → d.q.regs.handler = none → ∃ q, FMap.find u.quires id = some q ∧
        let copy := v.shadowed d.g.vol x.pa
        let record := leBytes 8 tr.pc.toNat ++ leBytes 8 tr.resume.toNat ++ [BitVec.ofNat 8 tr.code, BitVec.ofNat 8 tr.cls]
            ++ leBytes 2 tr.lane ++ leBytes 4 tr.detail.toNat ++ leBytes 8 tr.addr.toNat ++ leBytes 4 d.q.regs.entry.toNat ++ leBytes 4 d.vol.pkt.seq
            ++ leBytes 2 d.g.core ++ [BitVec.ofNat 8 d.g.slot, BitVec.ofNat 8 d.q.index] ++ leBytes 4 tr.lanes.toNat
            ++ leBytes 8 d.q.regs.sig.toNat ++ leBytes 8 v.clock
        (∀ i, i < 64 → u.mem.byte (copy + i) = record.getD i 0)
        ∧ ((∀ c ∈ v.cores, c.2.out = []) → (copy + 64 ≤ x.pa ∨ x.pa + 64 ≤ copy) → ∀ i, i < 64 → u.mem.byte (x.pa + i) = record.getD i 0)
        ∧ q.pc = d.ctx.handler ∧ q.checked = true ∧ (tr.cls ≠ 1 ∨ d.q.repliesDue = false → q.wait = .none) ∧ q.regs.stack = .handler :: d.q.regs.stack
        ∧ q.regs.sget 112 = BitVec.ofNat 64 d.recordVa ∧ q.regs.sget 113 = BitVec.ofNat 64 tr.code
        ∧ (∀ n, 114 ≤ n → n ≤ 127 → q.regs.sget n = 0) ∧ (∀ n, n < 112 → q.regs.sget n = d.q.regs.sget n)
        ∧ q.regs.v = d.q.regs.v ∧ q.regs.p = d.q.regs.p ∧ q.regs.x = d.q.regs.x ∧ q.regs.path = d.q.regs.path ∧ q.regs.padding = d.q.regs.padding
        ∧ q.regs.fpmode = d.q.regs.fpmode &&& ~~~0x1F0 ∧ q.regs.fpflags = d.q.regs.fpflags)

namespace Sys2Proof.Claims
open Sys2Proof.Machine

/-! ### Steps, words, invariants -/

/-- The instruction is the row of the table an internal event stands for. -/
def RowOf (i : Instr) : Event → Prop
  | .queueWake c q => i = .queueWake c q
  | .dependencyWordWrite c q => i = .dependencyWordWrite c q
  | .signalPacketEffect c q => i = .signalPacketEffect c q
  | .gatheringPlacement => i = .gatheringPlacement
  | .binQuirePlacement c b => i = .binQuirePlacement c b
  | .binTimerExpiry c b => i = .binTimerExpiry c b
  | .meshGatheringPlacement g => i = .meshGatheringPlacement g
  | .pendingQuireCreation g => i = .pendingQuireCreation g
  | .volumeCompletion v => i = .volumeCompletion v
  | .lineFetch q => i = .lineFetch q
  | .loadDataReturn q => i = .loadDataReturn q
  | .rowRefill q => i = .rowRefill q
  | .claimGrant q => i = .claimGrant q
  | .tpaySlotTaken q => i = .tpaySlotTaken q
  | .qpushRingRoom q => i = .qpushRingRoom q
  | .barrierWake q => i = .barrierWake q
  | .trywaitReevaluation q => i = .trywaitReevaluation q
  | .trywaitTimeout q => i = .trywaitTimeout q
  | .hwaitWake q => i = .hwaitWake q
  | .asqRequest k => i = .asqRequest k
  | .asqReply q => i = .asqReply q
  | .homeAccept c k => i = .homeAccept c k
  | .storeAcknowledge c d => i = .storeAcknowledge c d
  | .faultEntryRetry c => i = .faultEntryRetry c
  | .faultResolution c n r => i = .faultResolution c n r
  | .transferStart x => i = .transferStart x
  | .transferPiece x p => i = .transferPiece x p
  | .matrixResultLanding c p => i = .matrixResultLanding c p
  | .engineResultReturn q => i = .engineResultReturn q
  | .treeOperation k => i = .treeOperation k
  | .treeResultLanding q => i = .treeResultLanding q
  | .tleafAppend k => i = .tleafAppend k
  | .batchTimerExpiry g h => i = .batchTimerExpiry g h
  | .visibilityResolve v k => i = .visibilityResolve v k
  | .tileFinality v => i = .tileFinality v
  | .heartbeatSend c => i = .heartbeatSend c
  | .memberLost c r => i = .memberLost c r
  | .coordinatorTimeout c => i = .coordinatorTimeout c
  | .finalMaskTimeout c => i = .finalMaskTimeout c
  | .collectiveCompletion c => i = .collectiveCompletion c
  | .stationAckTimeout k => i = .stationAckTimeout k
  | .peerRequestTimeout r => i = .peerRequestTimeout r
  | .contextSwitchIn c => i = .contextSwitchIn c
  | .candidateWaitExpiry c => i = .candidateWaitExpiry c
  | .preemptionTimeout q => i = .preemptionTimeout q
  | .unitSave g => i = .unitSave g
  | .unitRestore g => i = .unitRestore g
  | .preemptionHoldoffExpiry g => i = .preemptionHoldoffExpiry g
  | .laneRemapTimeout q => i = .laneRemapTimeout q
  | .deadlockWatchdog c => i = .deadlockWatchdog c
  | .externalWaitTimeout q => i = .externalWaitTimeout q
  | .budgetExhausted q => i = .budgetExhausted q
  | .trapcallReply q => i = .trapcallReply q

end Sys2Proof.Claims

/-- R70, R76, R93, R117: where a quire's turn comes, the step executes the instruction that the word of its next slot decodes to, once the quire is the
current one, its own PC names the slot and the member counts as begun; a completed group then leaves the PC at the next. A due event, or one from
outside, is its row of the table; a part-marked sector that leaves for DRAM is marked whole. -/
def Obligations.AStepRunsTheDecodedInstruction : Prop :=
  ∀ (s : State),
    (∀ id e g va bs k i, choose s.pass.tick s.pass.movers = some (.quire id) →
      let u := s.pass.bump.prepare id
      let m : Member := { slot := k, word := lineSlot bs k, ins := i }
      u.envOf id = some e → e.q.grp = some g → e.q.line = some (va, bs) → e.q.wait = .none → e.q.stopped = false → g.slots[g.done]? = some k →
      decodeUnder (e.table u) (lineSlot bs k) = some i →
      step s = finishMember id (exec i (u.enterMember id m))
      ∧ (u.enterMember id m).cur = id
      ∧ (∃ q, FMap.find (u.enterMember id m).quires id = some q ∧ q.selfPc = pcOf (lineVa e.q.pc) k ∧ q.grp = some { g with done := g.done + 1 }
          ∧ q.regs.v = e.q.regs.v ∧ q.regs.s = e.q.regs.s ∧ q.regs.p = e.q.regs.p)
      ∧ (∀ t q g', exec i (u.enterMember id m) = .next t → FMap.find t.quires id = some q → q.grp = some g' → q.wait = .none → g'.slots.length ≤ g'.done →
          g'.owed = none → g'.committed = false → q.stepping = false → q.regs.stack.length ≤ 32 →
          ∃ t' q', step s = .next t' ∧ FMap.find t'.quires id = some q' ∧ q'.pc = q.npc ∧ q'.grp = none ∧ q'.regs = q.regs ∧ t'.mem = t.mem))
    ∧ (∀ ev i, choose s.pass.tick s.pass.movers = some (.event ev) → RowOf i ev → step s = exec i s.pass.bump)
    ∧ (∀ k, choose s.pass.tick s.pass.movers = some (.evict k) → step s = .next { s.pass.bump with mem := s.pass.bump.mem.spread k })
    ∧ (∀ i l, choose s.pass.tick s.pass.movers = some .agenda → s.pass.bump.nextExternal = some (i, l) → Instr.hdr i = none →
      step s = exec i { s.pass.bump with agenda := l })

/-- R68, R69, R83–R94: worked words of the manual decode to the instructions they stand for. -/
def Obligations.WorkedWordsDecode : Prop :=
  (∃ h f, decode 0x208120020004004000800000 = some (.fmul h f) ∧ encode (.fmul h f) = some 0x208120020004004000800000)
  ∧ (∃ h f, decode 0x100000048027002000000000 = some (.iadd h f)) ∧ (∃ h f, decode 0x18000402A014000400000000 = some (.iaddI h f))
  ∧ (∃ h f, decode 0x008000000030000040012000 = some (.brc h f)) ∧ (∃ h f, decode 0x60000004200800C000080800 = some (.ld h f))
  ∧ (∃ h f, decode 0x80400404A010000000000001 = some (.bararv h f)) ∧ (∃ h f, decode 0x90000C002013200000000000 = some (.cpy h f))
  ∧ (∃ h f, decode 0xA00000102009006804000000 = some (.mma h f)) ∧ (∃ h f, decode 0xF04000050011028000000000 = some (.trapcall h f))
  ∧ (∃ h f, decode 0x028000000000000000003003 = some (.region h f))

/-- R68, R83–R94: the word of every instruction decodes to that instruction, every operand at every value its field admits; a well-formed
instruction has a word. -/
def Obligations.EveryInstructionDecodesFromItsWord : Prop :=
  ∀ i : Instr, Laws.RoundTrip.Statement i ∧ (i.WellFormed → ∃ w, encode i = some w ∧ decode w = some i)

/-- R68, R83–R94: no bit of a word is dropped or read twice: a word that decodes is the word of the instruction it decodes to, so that no two words
mean one instruction. -/
def Obligations.DecodingLosesNothing : Prop :=
  ∀ (w : BitVec 96) (i : Instr), decode w = some i → encode i = some w ∧ ∀ w', decode w' = some i → w' = w

/-- Every step keeps memory in its canonical form, whatever the step does. -/
def Obligations.EveryStepKeepsMemoryCanonical : Prop := ∀ s t : State, s.MemWf → step s = .next t → t.MemWf

/-- R100–R106: the machine never stops: from every state, a step has a next state; traps and ends of launches are states, not stops. -/
def Obligations.NoStepStopsTheMachine : Prop := ∀ s : State, Safe s

/-- R51, R488–R491: at reset nothing is resident, memory lists nothing and is canonical, no ring or drop count stands, the power cap and the clock
are at the values the log names (log entry 4), the epoch is 1 (log entry 5), and no signature is spent. -/
def Obligations.ResetLeavesNothingResident : Prop :=
  let s := State.reset
  s.MemWf ∧ s.mem = Memory.empty ∧ s.quires = [] ∧ s.gaths = [] ∧ s.vols = [] ∧ s.ctxs = [] ∧ s.queues = [] ∧ s.xfers = [] ∧ s.colls = [] ∧ s.retired = []
    ∧ s.mgReg 0x0028 = 0 ∧ s.mgReg 0x0030 = 0 ∧ s.mgReg 0x0038 = 0 ∧ s.mgReg 0x0000 = 0x100010384 ∧ s.power = 56 ∧ s.clockMode = 0 ∧ s.sigsLeft = 2 ^ 20
    ∧ s.agenda = []

/-- R14: the registers a quire of a compute launch starts with. -/
def Obligations.AQuireStartsAsTheManualSays : Prop :=
  ∀ (v : Volume) (role : Role) (lanes absent : LaneSet), v.render = none → v.pkt.inline.length = 7 →
    let r := v.startRegs role lanes absent
    (∀ n l, r.vget n l = 0) ∧ r.pget 0 = BitVec.allOnes 256 ∧ (∀ k, 1 ≤ k → r.pget k = 0) ∧ (∀ k l, r.xget k l = 0)
      ∧ r.sget 0 = BitVec.ofNat 64 v.pkt.param ∧ r.sget 1 = BitVec.ofNat 64 v.pkt.seq ∧ (∀ i, i < 7 → r.sget (8 + i) = v.pkt.inline.getD i 0)
      ∧ (∀ n, n ≠ 0 → n ≠ 1 → (n < 8 ∨ 14 < n) → r.sget n = 0) ∧ r.entry = 0 ∧ r.sig = 0 ∧ r.path = lanes ∧ r.absent = absent ∧ r.padding = 0
end

