-- ==== Sys2Proof/Laws/Tables.lean ====
section
/-! SUPPORT. Sparse tables and sorted sets: what reading finds after a write, and that every operation keeps the one canonical form. -/
namespace Sys2Proof.Machine

/-! ### Reading after writing -/

@[simp] theorem FMap.find_insert_self {α : Type} (m : FMap α) (k : Nat) (v : α) : FMap.find (FMap.insert m k v) k = some v := by
  induction m with
  | nil => simp [FMap.insert, FMap.find]
  | cons e m ih =>
    obtain ⟨k', v'⟩ := e
    unfold FMap.insert
    split
    · simp [FMap.find]
    · split
      · simp [FMap.find]
      · rw [FMap.find, if_neg (by omega), ih]

theorem FMap.find_insert_ne {α : Type} (m : FMap α) {k j : Nat} (v : α) (h : k ≠ j) : FMap.find (FMap.insert m k v) j = FMap.find m j := by
  induction m with
  | nil => simp [FMap.insert, FMap.find, h]
  | cons e m ih =>
    obtain ⟨k', v'⟩ := e
    unfold FMap.insert
    split
    · rw [FMap.find, if_neg h]
    · split
      · next hk => subst hk; simp [FMap.find, h]
      · rw [FMap.find, FMap.find, ih]

theorem FMap.find_remove_ne {α : Type} (m : FMap α) {k j : Nat} (h : k ≠ j) : FMap.find (FMap.remove m k) j = FMap.find m j := by
  induction m with
  | nil => rfl
  | cons e m ih =>
    obtain ⟨k', v'⟩ := e
    unfold FMap.remove
    split
    · next hk => rw [FMap.find, if_neg (by omega)]
    · rw [FMap.find, FMap.find, ih]

theorem FMap.find_modify {α : Type} (m : FMap α) (k : Nat) (f : α → α) : FMap.find (FMap.modify m k f) k = (FMap.find m k).map f := by
  unfold FMap.modify
  split <;> simp [*]

theorem FMap.find_modify_ne {α : Type} (m : FMap α) {k j : Nat} (f : α → α) (h : k ≠ j) : FMap.find (FMap.modify m k f) j = FMap.find m j := by
  unfold FMap.modify
  split
  · exact FMap.find_insert_ne _ _ h
  · rfl

theorem FMap.val_put_ne {α : Type} [DecidableEq α] (d : α) (m : FMap α) {k j : Nat} (v : α) (h : k ≠ j) :
    FMap.val d (FMap.put d m k v) j = FMap.val d m j := by
  unfold FMap.val FMap.put
  split
  · rw [FMap.find_remove_ne m h]
  · rw [FMap.find_insert_ne m v h]

/-! ### The canonical form -/

/-- Every key of the table is above `k`. -/
def FMap.above {α : Type} (m : FMap α) (k : Nat) : Prop := ∀ e ∈ m, k < e.1

theorem FMap.sorted_cons {α : Type} {m : FMap α} {k : Nat} {v : α} : FMap.sorted ((k, v) :: m) = true ↔ FMap.above m k ∧ FMap.sorted m = true := by
  induction m generalizing k v with
  | nil => simp [FMap.sorted, FMap.above]
  | cons e m ih =>
    obtain ⟨k', v'⟩ := e
    constructor
    · intro h
      simp only [FMap.sorted, Bool.and_eq_true, decide_eq_true_eq] at h
      refine ⟨?_, h.2⟩
      intro x hx
      rcases List.mem_cons.1 hx with rfl | hx
      · exact h.1
      · exact Nat.lt_trans h.1 ((ih.1 h.2).1 x hx)
    · rintro ⟨ha, hs⟩
      simp only [FMap.sorted, Bool.and_eq_true, decide_eq_true_eq]
      exact ⟨ha (k', v') (List.mem_cons_self ..), hs⟩

theorem FMap.insert_above {α : Type} {m : FMap α} {j k : Nat} {v : α} (h : FMap.above m j) (hk : j < k) : FMap.above (FMap.insert m k v) j := by
  induction m with
  | nil => intro e he; simp only [FMap.insert, List.mem_singleton] at he; subst he; exact hk
  | cons e m ih =>
    obtain ⟨k', v'⟩ := e
    have hm : FMap.above m j := fun x hx => h x (List.mem_cons_of_mem _ hx)
    have hk' : j < k' := h (k', v') (List.mem_cons_self ..)
    unfold FMap.insert
    split
    · intro x hx; rcases List.mem_cons.1 hx with rfl | hx
      · exact hk
      · exact h x hx
    · split
      · intro x hx; rcases List.mem_cons.1 hx with rfl | hx
        · exact hk
        · exact hm x hx
      · intro x hx; rcases List.mem_cons.1 hx with rfl | hx
        · exact hk'
        · exact ih hm x hx

theorem FMap.insert_sorted {α : Type} {m : FMap α} {k : Nat} {v : α} (h : FMap.sorted m = true) : FMap.sorted (FMap.insert m k v) = true := by
  induction m with
  | nil => rfl
  | cons e m ih =>
    obtain ⟨k', v'⟩ := e
    have hm := FMap.sorted_cons.1 h
    unfold FMap.insert
    split
    · next hlt =>
      refine FMap.sorted_cons.2 ⟨?_, h⟩
      intro x hx; rcases List.mem_cons.1 hx with rfl | hx
      · exact hlt
      · exact Nat.lt_trans hlt (hm.1 x hx)
    · split
      · next heq => subst heq; exact FMap.sorted_cons.2 hm
      · exact FMap.sorted_cons.2 ⟨FMap.insert_above hm.1 (by omega), ih hm.2⟩

theorem FMap.remove_mem {α : Type} {m : FMap α} {k : Nat} : ∀ e ∈ FMap.remove m k, e ∈ m := by
  induction m with
  | nil => intro e he; exact he
  | cons e m ih =>
    obtain ⟨k', v'⟩ := e
    unfold FMap.remove
    split
    · intro x hx; exact List.mem_cons_of_mem _ hx
    · intro x hx; rcases List.mem_cons.1 hx with rfl | hx
      · exact List.mem_cons_self ..
      · exact List.mem_cons_of_mem _ (ih x hx)

theorem FMap.remove_sorted {α : Type} {m : FMap α} {k : Nat} (h : FMap.sorted m = true) : FMap.sorted (FMap.remove m k) = true := by
  induction m with
  | nil => rfl
  | cons e m ih =>
    obtain ⟨k', v'⟩ := e
    have hm := FMap.sorted_cons.1 h
    unfold FMap.remove
    split
    · exact hm.2
    · exact FMap.sorted_cons.2 ⟨fun x hx => hm.1 x (FMap.remove_mem x hx), ih hm.2⟩

theorem FMap.put_sorted {α : Type} [DecidableEq α] {d : α} {m : FMap α} {k : Nat} {v : α} (h : FMap.sorted m = true) :
    FMap.sorted (FMap.put d m k v) = true := by
  unfold FMap.put
  split
  · exact FMap.remove_sorted h
  · exact FMap.insert_sorted h

theorem FMap.modify_sorted {α : Type} {m : FMap α} {k : Nat} {f : α → α} (h : FMap.sorted m = true) : FMap.sorted (FMap.modify m k f) = true := by
  unfold FMap.modify
  split
  · exact FMap.insert_sorted h
  · exact h

theorem FMap.find_above {α : Type} {m : FMap α} {k : Nat} (h : FMap.above m k) : FMap.find m k = none := by
  induction m with
  | nil => rfl
  | cons e m ih =>
    obtain ⟨k', v'⟩ := e
    have : k < k' := h (k', v') (List.mem_cons_self ..)
    rw [FMap.find, if_neg (by omega)]
    exact ih fun x hx => h x (List.mem_cons_of_mem _ hx)

theorem FMap.find_remove_self {α : Type} {m : FMap α} {k : Nat} (h : FMap.sorted m = true) : FMap.find (FMap.remove m k) k = none := by
  induction m with
  | nil => rfl
  | cons e m ih =>
    obtain ⟨k', v'⟩ := e
    have hm := FMap.sorted_cons.1 h
    unfold FMap.remove
    split
    · next hk => subst hk; exact FMap.find_above hm.1
    · next hk => rw [FMap.find, if_neg hk]; exact ih hm.2

theorem FMap.val_put_self {α : Type} [DecidableEq α] (d : α) {m : FMap α} (k : Nat) (v : α) (h : FMap.sorted m = true) :
    FMap.val d (FMap.put d m k v) k = v := by
  unfold FMap.val FMap.put
  split
  · next hv => rw [FMap.find_remove_self h]; exact hv.symm
  · simp

/-! ### Sorted sets -/

theorem setSorted_cons {a : Nat} {l : List Nat} : setSorted (a :: l) = true ↔ (∀ x ∈ l, a < x) ∧ setSorted l = true := by
  induction l generalizing a with
  | nil => simp [setSorted]
  | cons b l ih =>
    constructor
    · intro h
      simp only [setSorted, Bool.and_eq_true, decide_eq_true_eq] at h
      refine ⟨?_, h.2⟩
      intro x hx
      rcases List.mem_cons.1 hx with rfl | hx
      · exact h.1
      · exact Nat.lt_trans h.1 ((ih.1 h.2).1 x hx)
    · rintro ⟨ha, hs⟩
      simp only [setSorted, Bool.and_eq_true, decide_eq_true_eq]
      exact ⟨ha b (List.mem_cons_self ..), hs⟩

theorem mem_setIns {l : List Nat} {k x : Nat} : x ∈ setIns l k ↔ x = k ∨ x ∈ l := by
  induction l with
  | nil => simp [setIns]
  | cons b l ih =>
    unfold setIns
    split
    · simp
    · split
      · next h => subst h; simp
      · simp [ih, or_left_comm]

theorem setIns_sorted {l : List Nat} {k : Nat} (h : setSorted l = true) : setSorted (setIns l k) = true := by
  induction l with
  | nil => rfl
  | cons b l ih =>
    have hb := setSorted_cons.1 h
    unfold setIns
    split
    · next hlt =>
      refine setSorted_cons.2 ⟨?_, h⟩
      intro x hx
      rcases List.mem_cons.1 hx with rfl | hx
      · exact hlt
      · exact Nat.lt_trans hlt (hb.1 x hx)
    · split
      · exact h
      · refine setSorted_cons.2 ⟨?_, ih hb.2⟩
        intro x hx
        rcases mem_setIns.1 hx with rfl | hx
        · omega
        · exact hb.1 x hx

theorem mem_of_mem_setDel {l : List Nat} {k x : Nat} (h : x ∈ setDel l k) : x ∈ l := by
  induction l with
  | nil => exact h
  | cons b l ih =>
    unfold setDel at h
    split at h
    · exact List.mem_cons_of_mem _ h
    · rcases List.mem_cons.1 h with rfl | h
      · exact List.mem_cons_self ..
      · exact List.mem_cons_of_mem _ (ih h)

theorem setDel_sorted {l : List Nat} {k : Nat} (h : setSorted l = true) : setSorted (setDel l k) = true := by
  induction l with
  | nil => rfl
  | cons b l ih =>
    have hb := setSorted_cons.1 h
    unfold setDel
    split
    · exact hb.2
    · exact setSorted_cons.2 ⟨fun x hx => hb.1 x (mem_of_mem_setDel hx), ih hb.2⟩

theorem setPut_sorted {l : List Nat} {k : Nat} {b : Bool} (h : setSorted l = true) : setSorted (setPut l k b) = true := by
  unfold setPut
  split
  · exact setIns_sorted h
  · exact setDel_sorted h

theorem setSorted_filter {l : List Nat} (p : Nat → Bool) (h : setSorted l = true) : setSorted (l.filter p) = true := by
  induction l with
  | nil => rfl
  | cons b l ih =>
    have hb := setSorted_cons.1 h
    rw [List.filter_cons]
    split
    · exact setSorted_cons.2 ⟨fun x hx => hb.1 x ((List.mem_filter.1 hx).1), ih hb.2⟩
    · exact ih hb.2

@[simp] theorem setHas_setIns_self (l : List Nat) (k : Nat) : setHas (setIns l k) k = true := by
  simp [setHas, mem_setIns]

theorem setHas_setPut_ne {l : List Nat} {k j : Nat} {b : Bool} (h : j ≠ k) : setHas (setPut l k b) j = setHas l j := by
  unfold setPut
  split
  · simp [setHas, mem_setIns, h]
  · induction l with
    | nil => rfl
    | cons a l ih =>
      unfold setDel
      split
      · next ha => subst ha; simp [setHas, h]
      · have := ih; simp only [setHas, List.contains_cons] at this ⊢; rw [this]

theorem setHas_setDel_self {l : List Nat} {k : Nat} (h : setSorted l = true) : setHas (setDel l k) k = false := by
  induction l with
  | nil => rfl
  | cons a l ih =>
    have hb := setSorted_cons.1 h
    unfold setDel
    split
    · next ha =>
      subst ha
      simp only [setHas, List.contains_eq_mem, decide_eq_false_iff_not]
      intro hm
      exact absurd (hb.1 _ hm) (by omega)
    · next ha =>
      have := ih hb.2
      simp only [setHas, List.contains_cons, Bool.or_eq_false_iff, beq_eq_false_iff_ne] at this ⊢
      exact ⟨fun hk => ha hk.symm, this⟩

theorem setHas_setPut_self {l : List Nat} {k : Nat} (b : Bool) (h : setSorted l = true) : setHas (setPut l k b) k = b := by
  cases b
  · exact setHas_setDel_self h
  · simp [setPut]

end Sys2Proof.Machine
end

