-- ==== Sys2Proof/Laws/Execution.lean ====
section
/-! SUPPORT. What executing an instruction can come to: one law for the frame every instruction of a quire executes in. -/
namespace Sys2Proof.Machine

theorem State.envOf_quire {s : State} {id : Nat} {e : Env} (h : s.envOf id = some e) : FMap.find s.quires id = some e.q ∧ e.id = id := by
  unfold State.envOf at h
  split at h
  · cases h
  · split at h
    · cases h
    · split at h
      · cases h
      · split at h
        · cases h
        · cases h; exact ⟨by assumption, rfl⟩

theorem State.onQuire_env {s : State} {e : Env} (h : s.envOf s.cur = some e) (k : Env → Out) : s.onQuire k = k e := by
  unfold State.onQuire
  rw [(State.envOf_quire h).1, h]

/-- An instruction that comes to its own effect does what its description says. -/
theorem State.perform_executes {s : State} {e : Env} {i : Instr} (h : Executes s e i) (body : Env → State → Res State) :
    s.perform i body = match body e s with
      | .ok t => .next t
      | .error (x, t) => .next (t.halt e x) := by
  obtain ⟨he, hc, hr, hs⟩ := h
  unfold State.perform
  rw [State.onQuire_env he]
  simp only [hc, hr, hs]
  all_goals rfl

theorem State.perform_ok {s t : State} {e : Env} {i : Instr} (h : Executes s e i) {body : Env → State → Res State} (hb : body e s = .ok t) :
    s.perform i body = .next t := by
  rw [State.perform_executes h, hb]

theorem State.perform_halt {s t : State} {e : Env} {i : Instr} {x : Halt} (h : Executes s e i) {body : Env → State → Res State}
    (hb : body e s = .error (x, t)) : s.perform i body = .next (t.halt e x) := by
  rw [State.perform_executes h, hb]

theorem State.local_executes {s : State} {e : Env} {i : Instr} (h : Executes s e i) (f : Env → Quire → Quire) :
    s.local i f = .next (s.upd e (f e)) := State.perform_ok h rfl

/-- A failing check takes its trap. -/
theorem State.perform_trap {s : State} {e : Env} {i : Instr} {t : TrapInfo} (he : s.envOf s.cur = some e) (hc : e.check i = some t)
    (body : Env → State → Res State) : s.perform i body = .next (s.takeTrap e.id t false) := by
  unfold State.perform
  rw [State.onQuire_env he]
  simp only [hc]

/-- An instruction of a quire never stops the machine. -/
theorem State.perform_next {s : State} {e : Env} (he : s.envOf s.cur = some e) (i : Instr) (body : Env → State → Res State) :
    ∃ t, s.perform i body = .next t := by
  unfold State.perform
  rw [State.onQuire_env he]
  split
  · exact ⟨_, rfl⟩
  · split
    · exact ⟨_, rfl⟩
    · split
      · exact ⟨_, rfl⟩
      · split <;> exact ⟨_, rfl⟩

theorem State.find_upd {s : State} {e : Env} (h : FMap.find s.quires e.id = some e.q) (f : Quire → Quire) :
    FMap.find (s.upd e f).quires e.id = some (f e.q) := by
  rw [State.upd, State.modQuire, FMap.find_modify, h, Option.map_some]

theorem State.find_upd_ne (s : State) (e : Env) (f : Quire → Quire) {k : Nat} (h : e.id ≠ k) :
    FMap.find (s.upd e f).quires k = FMap.find s.quires k := FMap.find_modify_ne _ _ h

end Sys2Proof.Machine
end

