-- ==== Sys2Proof/Laws/Memory.lean ====
section
/-! SUPPORT. Memory: a read after a write (R2), a write leaves every other byte alone, and every operation on memory keeps its canonical
form. -/
namespace Sys2Proof.Machine

/-! ### One byte -/

theorem cellFind_put_ne (m : List Host.Cell) {k j : Nat} (b : W8) (h : k ≠ j) : cellFind (cellPut m k b) j = cellFind m j := by
  induction m with
  | nil =>
    unfold cellPut
    split
    · rfl
    · simp [cellFind, h]
  | cons e m ih =>
    obtain ⟨k', b'⟩ := e
    unfold cellPut
    split
    · split
      · rfl
      · rw [cellFind, if_neg h]
    · split
      · next hk =>
        subst hk
        split
        · rw [cellFind, if_neg h]
        · rw [cellFind, if_neg h, cellFind, if_neg h]
      · rw [cellFind, cellFind, ih]

/-- Every address of the list is above `k`. -/
def cellsAbove (m : List Host.Cell) (k : Nat) : Prop := ∀ e ∈ m, k < e.1

theorem cellsWf_cons {k : Nat} {b : W8} {m : List Host.Cell} : cellsWf ((k, b) :: m) = true ↔ b ≠ 0 ∧ cellsAbove m k ∧ cellsWf m = true := by
  induction m generalizing k b with
  | nil => simp [cellsWf, cellsAbove]
  | cons e m ih =>
    obtain ⟨k', b'⟩ := e
    constructor
    · intro h
      simp only [cellsWf, Bool.and_eq_true, decide_eq_true_eq] at h
      refine ⟨h.1.1, ?_, h.2⟩
      intro x hx
      rcases List.mem_cons.1 hx with rfl | hx
      · exact h.1.2
      · exact Nat.lt_trans h.1.2 ((ih.1 h.2).2.1 x hx)
    · rintro ⟨hb, ha, hs⟩
      simp only [cellsWf, Bool.and_eq_true, decide_eq_true_eq]
      exact ⟨⟨hb, ha (k', b') (List.mem_cons_self ..)⟩, hs⟩

theorem cellPut_above {m : List Host.Cell} {j k : Nat} {b : W8} (h : cellsAbove m j) (hk : j < k) : cellsAbove (cellPut m k b) j := by
  induction m with
  | nil =>
    unfold cellPut
    split
    · exact h
    · intro x hx; simp only [List.mem_singleton] at hx; subst hx; exact hk
  | cons e m ih =>
    obtain ⟨k', b'⟩ := e
    have hm : cellsAbove m j := fun x hx => h x (List.mem_cons_of_mem _ hx)
    have hk' : j < k' := h (k', b') (List.mem_cons_self ..)
    unfold cellPut
    split
    · split
      · exact h
      · intro x hx; rcases List.mem_cons.1 hx with rfl | hx
        · exact hk
        · exact h x hx
    · split
      · split
        · exact hm
        · intro x hx; rcases List.mem_cons.1 hx with rfl | hx
          · exact hk
          · exact hm x hx
      · intro x hx; rcases List.mem_cons.1 hx with rfl | hx
        · exact hk'
        · exact ih hm x hx

theorem cellPut_wf {m : List Host.Cell} {k : Nat} {b : W8} (h : cellsWf m = true) : cellsWf (cellPut m k b) = true := by
  induction m with
  | nil =>
    unfold cellPut
    split
    · rfl
    · next hb => exact cellsWf_cons.2 ⟨hb, fun _ hx => absurd hx (by simp), rfl⟩
  | cons e m ih =>
    obtain ⟨k', b'⟩ := e
    obtain ⟨hb', ha, hm⟩ := cellsWf_cons.1 h
    unfold cellPut
    split
    · next hlt =>
      split
      · exact h
      · next hb =>
        refine cellsWf_cons.2 ⟨hb, ?_, h⟩
        intro x hx; rcases List.mem_cons.1 hx with rfl | hx
        · exact hlt
        · exact Nat.lt_trans hlt (ha x hx)
    · split
      · next heq =>
        subst heq
        split
        · exact hm
        · next hb => exact cellsWf_cons.2 ⟨hb, ha, hm⟩
      · exact cellsWf_cons.2 ⟨hb', cellPut_above ha (by omega), ih hm⟩

theorem cellFind_above {m : List Host.Cell} {k : Nat} (h : cellsAbove m k) : cellFind m k = 0 := by
  induction m with
  | nil => rfl
  | cons e m ih =>
    obtain ⟨k', b'⟩ := e
    have : k < k' := h (k', b') (List.mem_cons_self ..)
    rw [cellFind, if_neg (by omega)]
    exact ih fun x hx => h x (List.mem_cons_of_mem _ hx)

theorem cellFind_put_self {m : List Host.Cell} {k : Nat} {b : W8} (h : cellsWf m = true) : cellFind (cellPut m k b) k = b := by
  induction m with
  | nil =>
    unfold cellPut
    split
    · next hb => rw [hb]; rfl
    · simp [cellFind]
  | cons e m ih =>
    obtain ⟨k', b'⟩ := e
    obtain ⟨_, ha, hm⟩ := cellsWf_cons.1 h
    unfold cellPut
    split
    · next hlt =>
      split
      · next hb =>
        rw [hb]
        refine cellFind_above ?_
        intro x hx; rcases List.mem_cons.1 hx with rfl | hx
        · exact hlt
        · exact Nat.lt_trans hlt (ha x hx)
      · simp [cellFind]
    · split
      · next heq =>
        subst heq
        split
        · next hb => rw [hb]; exact cellFind_above ha
        · simp [cellFind]
      · next hne => rw [cellFind, if_neg (by omega), ih hm]

theorem cellsWf_filter {m : List Host.Cell} (p : Host.Cell → Bool) (h : cellsWf m = true) : cellsWf (m.filter p) = true := by
  induction m with
  | nil => rfl
  | cons e m ih =>
    obtain ⟨k, b⟩ := e
    obtain ⟨hb, ha, hm⟩ := cellsWf_cons.1 h
    rw [List.filter_cons]
    split
    · exact cellsWf_cons.2 ⟨hb, fun x hx => ha x (List.mem_filter.1 hx).1, ih hm⟩
    · exact ih hm

/-! ### The canonical form is kept -/

theorem Memory.wf_iff {m : Memory} : m.wf = true ↔ cellsWf m.cells = true ∧ setSorted m.marks = true := by
  simp [Memory.wf]

theorem Memory.empty_wf : Memory.empty.wf = true := by decide

theorem Memory.setByte_wf {m : Memory} (k : Nat) (b : W8) (h : m.wf = true) : (m.setByte k b).wf = true := by
  rw [Memory.wf_iff] at *
  exact ⟨cellPut_wf h.1, h.2⟩

theorem Memory.setBad_wf {m : Memory} (k : Nat) (b : Bool) (h : m.wf = true) : (m.setBad k b).wf = true := by
  rw [Memory.wf_iff] at *
  exact ⟨h.1, setPut_sorted h.2⟩

theorem Memory.setBytes_wf {m : Memory} (k : Nat) (bs : List W8) (h : m.wf = true) : (m.setBytes k bs).wf = true := by
  induction bs generalizing m k with
  | nil => exact h
  | cons b bs ih => exact ih _ (Memory.setByte_wf _ _ h)

theorem Memory.setNum_wf {m : Memory} (k n v : Nat) (h : m.wf = true) : (m.setNum k n v).wf = true := Memory.setBytes_wf _ _ h

/-- What holds of a start and is kept by each step of a fold holds at its end. -/
theorem foldl_keeps {α β : Type} (P : β → Prop) (f : β → α → β) (hf : ∀ b a, P b → P (f b a)) (l : List α) {b : β} (h : P b) : P (l.foldl f b) := by
  induction l generalizing b with
  | nil => exact h
  | cons a l ih => exact ih (hf _ _ h)

theorem Memory.markWrite_wf {m : Memory} (k : Nat) (bad whole : Bool) (h : m.wf = true) : (m.markWrite k bad whole).wf = true := by
  unfold Memory.markWrite
  split
  · exact Memory.setBad_wf _ _ h
  · split
    · exact Memory.setBad_wf _ _ h
    · exact h

theorem Memory.spread_wf {m : Memory} (sector : Nat) (h : m.wf = true) : (m.spread sector).wf = true := by
  unfold Memory.spread
  split
  · exact foldl_keeps (fun m : Memory => m.wf = true) _ (fun _ _ h => Memory.setBad_wf _ _ h) _ h
  · exact h

theorem Memory.accept_wf {m : Memory} (r : StoreRec) (h : m.wf = true) : (m.accept r).wf = true :=
  foldl_keeps (fun m : Memory => m.wf = true) _ (fun _ _ h => Memory.markWrite_wf _ _ _ h) _ (Memory.setBytes_wf _ _ h)

theorem Memory.writeClean_wf {m : Memory} (k : Nat) (bs : List W8) (h : m.wf = true) : (m.writeClean k bs).wf = true := by
  have h := Memory.setBytes_wf k bs h
  rw [Memory.wf_iff] at h ⊢
  exact ⟨h.1, setSorted_filter _ h.2⟩

theorem Memory.writeMarked_wf {m : Memory} (k : Nat) (bs : List W8) (marks : List Nat) (h : m.wf = true) : (m.writeMarked k bs marks).wf = true :=
  foldl_keeps (fun m : Memory => m.wf = true) _ (fun _ _ h => Memory.markWrite_wf _ _ _ h) _ (Memory.writeClean_wf _ _ h)

theorem Memory.clear_wf {m : Memory} (k n : Nat) (h : m.wf = true) : (m.clear k n).wf = true := by
  rw [Memory.wf_iff] at *
  exact ⟨cellsWf_filter _ h.1, setSorted_filter _ h.2⟩

theorem Memory.only_wf {m : Memory} (p : Nat → Bool) (h : m.wf = true) : (m.only p).wf = true := by
  rw [Memory.wf_iff] at *
  exact ⟨cellsWf_filter _ h.1, setSorted_filter _ h.2⟩

theorem State.reset_mem : State.reset.mem = Memory.empty := rfl

/-! ### Reading after writing -/

theorem Memory.byte_setByte_self {m : Memory} (k : Nat) (b : W8) (h : m.wf = true) : (m.setByte k b).byte k = b :=
  cellFind_put_self (Memory.wf_iff.1 h).1
theorem Memory.byte_setByte_ne (m : Memory) {k j : Nat} (b : W8) (h : k ≠ j) : (m.setByte k b).byte j = m.byte j := cellFind_put_ne _ _ h
@[simp] theorem Memory.byte_setBad (m : Memory) (k j : Nat) (b : Bool) : (m.setBad k b).byte j = m.byte j := rfl
@[simp] theorem Memory.bad_setByte (m : Memory) (k j : Nat) (b : W8) : (m.setByte k b).bad j = m.bad j := rfl

theorem Memory.byte_setBytes_out {m : Memory} (k j : Nat) (bs : List W8) (h : j < k ∨ k + bs.length ≤ j) : (m.setBytes k bs).byte j = m.byte j := by
  induction bs generalizing m k with
  | nil => rfl
  | cons b bs ih =>
    rw [List.length_cons] at h
    rw [Memory.setBytes, ih _ (by omega), Memory.byte_setByte_ne _ _ (by omega)]

theorem Memory.byte_setBytes_in {m : Memory} (k i : Nat) (bs : List W8) (h : m.wf = true) (hi : i < bs.length) :
    (m.setBytes k bs).byte (k + i) = bs[i] := by
  induction bs generalizing m k i with
  | nil => exact absurd hi (by simp)
  | cons b bs ih =>
    rw [Memory.setBytes]
    cases i with
    | zero =>
      rw [Memory.byte_setBytes_out _ _ _ (by omega)]
      exact Memory.byte_setByte_self _ _ h
    | succ i =>
      rw [show k + (i + 1) = k + 1 + i by omega]
      exact ih (k + 1) i (Memory.setByte_wf _ _ h) (by simpa using hi)

theorem Memory.byte_markWrite (m : Memory) (k j : Nat) (bad whole : Bool) : (m.markWrite k bad whole).byte j = m.byte j := by
  unfold Memory.markWrite
  split
  · rfl
  · split <;> rfl

/-- A marked sector that leaves a cache keeps its bytes (R467). -/
theorem Memory.byte_spread (m : Memory) (sector j : Nat) : (m.spread sector).byte j = m.byte j := by
  unfold Memory.spread
  split
  · exact foldl_keeps (fun n : Memory => n.byte j = m.byte j) (fun n i => n.setBad (32 * sector + 4 * i) true) (fun _ _ h => h) _ rfl
  · rfl

/-- A store accepted whole (R354): its own bytes are there, every other byte is as it was. -/
theorem Memory.byte_accept (m : Memory) (r : StoreRec) (j : Nat) : (m.accept r).byte j = (m.setBytes r.key r.bytes).byte j :=
  foldl_keeps (fun n : Memory => n.byte j = (m.setBytes r.key r.bytes).byte j) _ (fun n w h => by rw [Memory.byte_markWrite]; exact h) _ rfl

theorem Memory.byte_writeClean_out {m : Memory} (k j : Nat) (bs : List W8) (h : j < k ∨ k + bs.length ≤ j) : (m.writeClean k bs).byte j = m.byte j :=
  Memory.byte_setBytes_out (m := m) k j bs h

theorem Memory.byte_writeClean_in {m : Memory} (k i : Nat) (bs : List W8) (h : m.wf = true) (hi : i < bs.length) :
    (m.writeClean k bs).byte (k + i) = bs[i] := Memory.byte_setBytes_in (m := m) k i bs h hi

end Sys2Proof.Machine
end

