-- ==== Sys2Proof/Laws/State.lean ====
section
/-! SUPPORT. What each update of the state leaves in each field. -/
namespace Sys2Proof.Machine

@[simp] theorem State.setQuire_mem (s : State) (id : Nat) (q : Quire) : (s.setQuire id q).mem = s.mem := rfl
@[simp] theorem State.setQuire_quires (s : State) (id : Nat) (q : Quire) : (s.setQuire id q).quires = FMap.insert s.quires id q := rfl
@[simp] theorem State.setQuire_gaths (s : State) (id : Nat) (q : Quire) : (s.setQuire id q).gaths = s.gaths := rfl
@[simp] theorem State.setQuire_vols (s : State) (id : Nat) (q : Quire) : (s.setQuire id q).vols = s.vols := rfl
@[simp] theorem State.setQuire_ctxs (s : State) (id : Nat) (q : Quire) : (s.setQuire id q).ctxs = s.ctxs := rfl
@[simp] theorem State.setQuire_queues (s : State) (id : Nat) (q : Quire) : (s.setQuire id q).queues = s.queues := rfl
@[simp] theorem State.setQuire_cores (s : State) (id : Nat) (q : Quire) : (s.setQuire id q).cores = s.cores := rfl
@[simp] theorem State.setQuire_tlb (s : State) (id : Nat) (q : Quire) : (s.setQuire id q).tlb = s.tlb := rfl
@[simp] theorem State.setQuire_xfers (s : State) (id : Nat) (q : Quire) : (s.setQuire id q).xfers = s.xfers := rfl
@[simp] theorem State.setQuire_mjobs (s : State) (id : Nat) (q : Quire) : (s.setQuire id q).mjobs = s.mjobs := rfl
@[simp] theorem State.setQuire_held (s : State) (id : Nat) (q : Quire) : (s.setQuire id q).held = s.held := rfl
@[simp] theorem State.setQuire_asq (s : State) (id : Nat) (q : Quire) : (s.setQuire id q).asq = s.asq := rfl
@[simp] theorem State.setQuire_trees (s : State) (id : Nat) (q : Quire) : (s.setQuire id q).trees = s.trees := rfl
@[simp] theorem State.setQuire_treqs (s : State) (id : Nat) (q : Quire) : (s.setQuire id q).treqs = s.treqs := rfl
@[simp] theorem State.setQuire_apps (s : State) (id : Nat) (q : Quire) : (s.setQuire id q).apps = s.apps := rfl
@[simp] theorem State.setQuire_accels (s : State) (id : Nat) (q : Quire) : (s.setQuire id q).accels = s.accels := rfl
@[simp] theorem State.setQuire_peers (s : State) (id : Nat) (q : Quire) : (s.setQuire id q).peers = s.peers := rfl
@[simp] theorem State.setQuire_losses (s : State) (id : Nat) (q : Quire) : (s.setQuire id q).losses = s.losses := rfl
@[simp] theorem State.setQuire_peerOut (s : State) (id : Nat) (q : Quire) : (s.setQuire id q).peerOut = s.peerOut := rfl
@[simp] theorem State.setQuire_windows (s : State) (id : Nat) (q : Quire) : (s.setQuire id q).windows = s.windows := rfl
@[simp] theorem State.setQuire_stations (s : State) (id : Nat) (q : Quire) : (s.setQuire id q).stations = s.stations := rfl
@[simp] theorem State.setQuire_fallen (s : State) (id : Nat) (q : Quire) : (s.setQuire id q).fallen = s.fallen := rfl
@[simp] theorem State.setQuire_flits (s : State) (id : Nat) (q : Quire) : (s.setQuire id q).flits = s.flits := rfl
@[simp] theorem State.setQuire_colls (s : State) (id : Nat) (q : Quire) : (s.setQuire id q).colls = s.colls := rfl
@[simp] theorem State.setQuire_ended (s : State) (id : Nat) (q : Quire) : (s.setQuire id q).ended = s.ended := rfl
@[simp] theorem State.setQuire_outbox (s : State) (id : Nat) (q : Quire) : (s.setQuire id q).outbox = s.outbox := rfl
@[simp] theorem State.setQuire_tables (s : State) (id : Nat) (q : Quire) : (s.setQuire id q).tables = s.tables := rfl
@[simp] theorem State.setQuire_spanMap (s : State) (id : Nat) (q : Quire) : (s.setQuire id q).spanMap = s.spanMap := rfl
@[simp] theorem State.setQuire_unavail (s : State) (id : Nat) (q : Quire) : (s.setQuire id q).unavail = s.unavail := rfl
@[simp] theorem State.setQuire_retired (s : State) (id : Nat) (q : Quire) : (s.setQuire id q).retired = s.retired := rfl
@[simp] theorem State.setQuire_lanes (s : State) (id : Nat) (q : Quire) : (s.setQuire id q).lanes = s.lanes := rfl
@[simp] theorem State.setQuire_ways (s : State) (id : Nat) (q : Quire) : (s.setQuire id q).ways = s.ways := rfl
@[simp] theorem State.setQuire_rowsOut (s : State) (id : Nat) (q : Quire) : (s.setQuire id q).rowsOut = s.rowsOut := rfl
@[simp] theorem State.setQuire_events (s : State) (id : Nat) (q : Quire) : (s.setQuire id q).events = s.events := rfl
@[simp] theorem State.setQuire_spare (s : State) (id : Nat) (q : Quire) : (s.setQuire id q).spare = s.spare := rfl
@[simp] theorem State.setQuire_spareNext (s : State) (id : Nat) (q : Quire) : (s.setQuire id q).spareNext = s.spareNext := rfl
@[simp] theorem State.setQuire_asqMoves (s : State) (id : Nat) (q : Quire) : (s.setQuire id q).asqMoves = s.asqMoves := rfl
@[simp] theorem State.setQuire_power (s : State) (id : Nat) (q : Quire) : (s.setQuire id q).power = s.power := rfl
@[simp] theorem State.setQuire_clockMode (s : State) (id : Nat) (q : Quire) : (s.setQuire id q).clockMode = s.clockMode := rfl
@[simp] theorem State.setQuire_clockStep (s : State) (id : Nat) (q : Quire) : (s.setQuire id q).clockStep = s.clockStep := rfl
@[simp] theorem State.setQuire_temps (s : State) (id : Nat) (q : Quire) : (s.setQuire id q).temps = s.temps := rfl
@[simp] theorem State.setQuire_inlet (s : State) (id : Nat) (q : Quire) : (s.setQuire id q).inlet = s.inlet := rfl
@[simp] theorem State.setQuire_evRing (s : State) (id : Nat) (q : Quire) : (s.setQuire id q).evRing = s.evRing := rfl
@[simp] theorem State.setQuire_evIx (s : State) (id : Nat) (q : Quire) : (s.setQuire id q).evIx = s.evIx := rfl
@[simp] theorem State.setQuire_erRing (s : State) (id : Nat) (q : Quire) : (s.setQuire id q).erRing = s.erRing := rfl
@[simp] theorem State.setQuire_erIx (s : State) (id : Nat) (q : Quire) : (s.setQuire id q).erIx = s.erIx := rfl
@[simp] theorem State.setQuire_evDrops (s : State) (id : Nat) (q : Quire) : (s.setQuire id q).evDrops = s.evDrops := rfl
@[simp] theorem State.setQuire_erDrops (s : State) (id : Nat) (q : Quire) : (s.setQuire id q).erDrops = s.erDrops := rfl
@[simp] theorem State.setQuire_interrupts (s : State) (id : Nat) (q : Quire) : (s.setQuire id q).interrupts = s.interrupts := rfl
@[simp] theorem State.setQuire_epoch (s : State) (id : Nat) (q : Quire) : (s.setQuire id q).epoch = s.epoch := rfl
@[simp] theorem State.setQuire_boot (s : State) (id : Nat) (q : Quire) : (s.setQuire id q).boot = s.boot := rfl
@[simp] theorem State.setQuire_linkHalf (s : State) (id : Nat) (q : Quire) : (s.setQuire id q).linkHalf = s.linkHalf := rfl
@[simp] theorem State.setQuire_linkUp (s : State) (id : Nat) (q : Quire) : (s.setQuire id q).linkUp = s.linkUp := rfl
@[simp] theorem State.setQuire_measures (s : State) (id : Nat) (q : Quire) : (s.setQuire id q).measures = s.measures := rfl
@[simp] theorem State.setQuire_sigsLeft (s : State) (id : Nat) (q : Quire) : (s.setQuire id q).sigsLeft = s.sigsLeft := rfl
@[simp] theorem State.setQuire_clock (s : State) (id : Nat) (q : Quire) : (s.setQuire id q).clock = s.clock := rfl
@[simp] theorem State.setQuire_ns (s : State) (id : Nat) (q : Quire) : (s.setQuire id q).ns = s.ns := rfl
@[simp] theorem State.setQuire_dieTlbMiss (s : State) (id : Nat) (q : Quire) : (s.setQuire id q).dieTlbMiss = s.dieTlbMiss := rfl
@[simp] theorem State.setQuire_lastReply (s : State) (id : Nat) (q : Quire) : (s.setQuire id q).lastReply = s.lastReply := rfl
@[simp] theorem State.setQuire_cur (s : State) (id : Nat) (q : Quire) : (s.setQuire id q).cur = s.cur := rfl
@[simp] theorem State.setQuire_agenda (s : State) (id : Nat) (q : Quire) : (s.setQuire id q).agenda = s.agenda := rfl
@[simp] theorem State.setQuire_cmd (s : State) (id : Nat) (q : Quire) : (s.setQuire id q).cmd = s.cmd := rfl
@[simp] theorem State.setQuire_nextId (s : State) (id : Nat) (q : Quire) : (s.setQuire id q).nextId = s.nextId := rfl
@[simp] theorem State.setQuire_tick (s : State) (id : Nat) (q : Quire) : (s.setQuire id q).tick = s.tick := rfl

@[simp] theorem State.modQuire_mem (s : State) (id : Nat) (f : Quire → Quire) : (s.modQuire id f).mem = s.mem := rfl
@[simp] theorem State.modQuire_quires (s : State) (id : Nat) (f : Quire → Quire) : (s.modQuire id f).quires = FMap.modify s.quires id f := rfl
@[simp] theorem State.modQuire_gaths (s : State) (id : Nat) (f : Quire → Quire) : (s.modQuire id f).gaths = s.gaths := rfl
@[simp] theorem State.modQuire_vols (s : State) (id : Nat) (f : Quire → Quire) : (s.modQuire id f).vols = s.vols := rfl
@[simp] theorem State.modQuire_ctxs (s : State) (id : Nat) (f : Quire → Quire) : (s.modQuire id f).ctxs = s.ctxs := rfl
@[simp] theorem State.modQuire_queues (s : State) (id : Nat) (f : Quire → Quire) : (s.modQuire id f).queues = s.queues := rfl
@[simp] theorem State.modQuire_cores (s : State) (id : Nat) (f : Quire → Quire) : (s.modQuire id f).cores = s.cores := rfl
@[simp] theorem State.modQuire_tlb (s : State) (id : Nat) (f : Quire → Quire) : (s.modQuire id f).tlb = s.tlb := rfl
@[simp] theorem State.modQuire_xfers (s : State) (id : Nat) (f : Quire → Quire) : (s.modQuire id f).xfers = s.xfers := rfl
@[simp] theorem State.modQuire_mjobs (s : State) (id : Nat) (f : Quire → Quire) : (s.modQuire id f).mjobs = s.mjobs := rfl
@[simp] theorem State.modQuire_held (s : State) (id : Nat) (f : Quire → Quire) : (s.modQuire id f).held = s.held := rfl
@[simp] theorem State.modQuire_asq (s : State) (id : Nat) (f : Quire → Quire) : (s.modQuire id f).asq = s.asq := rfl
@[simp] theorem State.modQuire_trees (s : State) (id : Nat) (f : Quire → Quire) : (s.modQuire id f).trees = s.trees := rfl
@[simp] theorem State.modQuire_treqs (s : State) (id : Nat) (f : Quire → Quire) : (s.modQuire id f).treqs = s.treqs := rfl
@[simp] theorem State.modQuire_apps (s : State) (id : Nat) (f : Quire → Quire) : (s.modQuire id f).apps = s.apps := rfl
@[simp] theorem State.modQuire_accels (s : State) (id : Nat) (f : Quire → Quire) : (s.modQuire id f).accels = s.accels := rfl
@[simp] theorem State.modQuire_peers (s : State) (id : Nat) (f : Quire → Quire) : (s.modQuire id f).peers = s.peers := rfl
@[simp] theorem State.modQuire_losses (s : State) (id : Nat) (f : Quire → Quire) : (s.modQuire id f).losses = s.losses := rfl
@[simp] theorem State.modQuire_peerOut (s : State) (id : Nat) (f : Quire → Quire) : (s.modQuire id f).peerOut = s.peerOut := rfl
@[simp] theorem State.modQuire_windows (s : State) (id : Nat) (f : Quire → Quire) : (s.modQuire id f).windows = s.windows := rfl
@[simp] theorem State.modQuire_stations (s : State) (id : Nat) (f : Quire → Quire) : (s.modQuire id f).stations = s.stations := rfl
@[simp] theorem State.modQuire_fallen (s : State) (id : Nat) (f : Quire → Quire) : (s.modQuire id f).fallen = s.fallen := rfl
@[simp] theorem State.modQuire_flits (s : State) (id : Nat) (f : Quire → Quire) : (s.modQuire id f).flits = s.flits := rfl
@[simp] theorem State.modQuire_colls (s : State) (id : Nat) (f : Quire → Quire) : (s.modQuire id f).colls = s.colls := rfl
@[simp] theorem State.modQuire_ended (s : State) (id : Nat) (f : Quire → Quire) : (s.modQuire id f).ended = s.ended := rfl
@[simp] theorem State.modQuire_outbox (s : State) (id : Nat) (f : Quire → Quire) : (s.modQuire id f).outbox = s.outbox := rfl
@[simp] theorem State.modQuire_tables (s : State) (id : Nat) (f : Quire → Quire) : (s.modQuire id f).tables = s.tables := rfl
@[simp] theorem State.modQuire_spanMap (s : State) (id : Nat) (f : Quire → Quire) : (s.modQuire id f).spanMap = s.spanMap := rfl
@[simp] theorem State.modQuire_unavail (s : State) (id : Nat) (f : Quire → Quire) : (s.modQuire id f).unavail = s.unavail := rfl
@[simp] theorem State.modQuire_retired (s : State) (id : Nat) (f : Quire → Quire) : (s.modQuire id f).retired = s.retired := rfl
@[simp] theorem State.modQuire_lanes (s : State) (id : Nat) (f : Quire → Quire) : (s.modQuire id f).lanes = s.lanes := rfl
@[simp] theorem State.modQuire_ways (s : State) (id : Nat) (f : Quire → Quire) : (s.modQuire id f).ways = s.ways := rfl
@[simp] theorem State.modQuire_rowsOut (s : State) (id : Nat) (f : Quire → Quire) : (s.modQuire id f).rowsOut = s.rowsOut := rfl
@[simp] theorem State.modQuire_events (s : State) (id : Nat) (f : Quire → Quire) : (s.modQuire id f).events = s.events := rfl
@[simp] theorem State.modQuire_spare (s : State) (id : Nat) (f : Quire → Quire) : (s.modQuire id f).spare = s.spare := rfl
@[simp] theorem State.modQuire_spareNext (s : State) (id : Nat) (f : Quire → Quire) : (s.modQuire id f).spareNext = s.spareNext := rfl
@[simp] theorem State.modQuire_asqMoves (s : State) (id : Nat) (f : Quire → Quire) : (s.modQuire id f).asqMoves = s.asqMoves := rfl
@[simp] theorem State.modQuire_power (s : State) (id : Nat) (f : Quire → Quire) : (s.modQuire id f).power = s.power := rfl
@[simp] theorem State.modQuire_clockMode (s : State) (id : Nat) (f : Quire → Quire) : (s.modQuire id f).clockMode = s.clockMode := rfl
@[simp] theorem State.modQuire_clockStep (s : State) (id : Nat) (f : Quire → Quire) : (s.modQuire id f).clockStep = s.clockStep := rfl
@[simp] theorem State.modQuire_temps (s : State) (id : Nat) (f : Quire → Quire) : (s.modQuire id f).temps = s.temps := rfl
@[simp] theorem State.modQuire_inlet (s : State) (id : Nat) (f : Quire → Quire) : (s.modQuire id f).inlet = s.inlet := rfl
@[simp] theorem State.modQuire_evRing (s : State) (id : Nat) (f : Quire → Quire) : (s.modQuire id f).evRing = s.evRing := rfl
@[simp] theorem State.modQuire_evIx (s : State) (id : Nat) (f : Quire → Quire) : (s.modQuire id f).evIx = s.evIx := rfl
@[simp] theorem State.modQuire_erRing (s : State) (id : Nat) (f : Quire → Quire) : (s.modQuire id f).erRing = s.erRing := rfl
@[simp] theorem State.modQuire_erIx (s : State) (id : Nat) (f : Quire → Quire) : (s.modQuire id f).erIx = s.erIx := rfl
@[simp] theorem State.modQuire_evDrops (s : State) (id : Nat) (f : Quire → Quire) : (s.modQuire id f).evDrops = s.evDrops := rfl
@[simp] theorem State.modQuire_erDrops (s : State) (id : Nat) (f : Quire → Quire) : (s.modQuire id f).erDrops = s.erDrops := rfl
@[simp] theorem State.modQuire_interrupts (s : State) (id : Nat) (f : Quire → Quire) : (s.modQuire id f).interrupts = s.interrupts := rfl
@[simp] theorem State.modQuire_epoch (s : State) (id : Nat) (f : Quire → Quire) : (s.modQuire id f).epoch = s.epoch := rfl
@[simp] theorem State.modQuire_boot (s : State) (id : Nat) (f : Quire → Quire) : (s.modQuire id f).boot = s.boot := rfl
@[simp] theorem State.modQuire_linkHalf (s : State) (id : Nat) (f : Quire → Quire) : (s.modQuire id f).linkHalf = s.linkHalf := rfl
@[simp] theorem State.modQuire_linkUp (s : State) (id : Nat) (f : Quire → Quire) : (s.modQuire id f).linkUp = s.linkUp := rfl
@[simp] theorem State.modQuire_measures (s : State) (id : Nat) (f : Quire → Quire) : (s.modQuire id f).measures = s.measures := rfl
@[simp] theorem State.modQuire_sigsLeft (s : State) (id : Nat) (f : Quire → Quire) : (s.modQuire id f).sigsLeft = s.sigsLeft := rfl
@[simp] theorem State.modQuire_clock (s : State) (id : Nat) (f : Quire → Quire) : (s.modQuire id f).clock = s.clock := rfl
@[simp] theorem State.modQuire_ns (s : State) (id : Nat) (f : Quire → Quire) : (s.modQuire id f).ns = s.ns := rfl
@[simp] theorem State.modQuire_dieTlbMiss (s : State) (id : Nat) (f : Quire → Quire) : (s.modQuire id f).dieTlbMiss = s.dieTlbMiss := rfl
@[simp] theorem State.modQuire_lastReply (s : State) (id : Nat) (f : Quire → Quire) : (s.modQuire id f).lastReply = s.lastReply := rfl
@[simp] theorem State.modQuire_cur (s : State) (id : Nat) (f : Quire → Quire) : (s.modQuire id f).cur = s.cur := rfl
@[simp] theorem State.modQuire_agenda (s : State) (id : Nat) (f : Quire → Quire) : (s.modQuire id f).agenda = s.agenda := rfl
@[simp] theorem State.modQuire_cmd (s : State) (id : Nat) (f : Quire → Quire) : (s.modQuire id f).cmd = s.cmd := rfl
@[simp] theorem State.modQuire_nextId (s : State) (id : Nat) (f : Quire → Quire) : (s.modQuire id f).nextId = s.nextId := rfl
@[simp] theorem State.modQuire_tick (s : State) (id : Nat) (f : Quire → Quire) : (s.modQuire id f).tick = s.tick := rfl

@[simp] theorem State.upd_mem (s : State) (e : Env) (f : Quire → Quire) : (s.upd e f).mem = s.mem := rfl
@[simp] theorem State.upd_quires (s : State) (e : Env) (f : Quire → Quire) : (s.upd e f).quires = FMap.modify s.quires e.id f := rfl
@[simp] theorem State.upd_gaths (s : State) (e : Env) (f : Quire → Quire) : (s.upd e f).gaths = s.gaths := rfl
@[simp] theorem State.upd_vols (s : State) (e : Env) (f : Quire → Quire) : (s.upd e f).vols = s.vols := rfl
@[simp] theorem State.upd_ctxs (s : State) (e : Env) (f : Quire → Quire) : (s.upd e f).ctxs = s.ctxs := rfl
@[simp] theorem State.upd_queues (s : State) (e : Env) (f : Quire → Quire) : (s.upd e f).queues = s.queues := rfl
@[simp] theorem State.upd_cores (s : State) (e : Env) (f : Quire → Quire) : (s.upd e f).cores = s.cores := rfl
@[simp] theorem State.upd_tlb (s : State) (e : Env) (f : Quire → Quire) : (s.upd e f).tlb = s.tlb := rfl
@[simp] theorem State.upd_xfers (s : State) (e : Env) (f : Quire → Quire) : (s.upd e f).xfers = s.xfers := rfl
@[simp] theorem State.upd_mjobs (s : State) (e : Env) (f : Quire → Quire) : (s.upd e f).mjobs = s.mjobs := rfl
@[simp] theorem State.upd_held (s : State) (e : Env) (f : Quire → Quire) : (s.upd e f).held = s.held := rfl
@[simp] theorem State.upd_asq (s : State) (e : Env) (f : Quire → Quire) : (s.upd e f).asq = s.asq := rfl
@[simp] theorem State.upd_trees (s : State) (e : Env) (f : Quire → Quire) : (s.upd e f).trees = s.trees := rfl
@[simp] theorem State.upd_treqs (s : State) (e : Env) (f : Quire → Quire) : (s.upd e f).treqs = s.treqs := rfl
@[simp] theorem State.upd_apps (s : State) (e : Env) (f : Quire → Quire) : (s.upd e f).apps = s.apps := rfl
@[simp] theorem State.upd_accels (s : State) (e : Env) (f : Quire → Quire) : (s.upd e f).accels = s.accels := rfl
@[simp] theorem State.upd_peers (s : State) (e : Env) (f : Quire → Quire) : (s.upd e f).peers = s.peers := rfl
@[simp] theorem State.upd_losses (s : State) (e : Env) (f : Quire → Quire) : (s.upd e f).losses = s.losses := rfl
@[simp] theorem State.upd_peerOut (s : State) (e : Env) (f : Quire → Quire) : (s.upd e f).peerOut = s.peerOut := rfl
@[simp] theorem State.upd_windows (s : State) (e : Env) (f : Quire → Quire) : (s.upd e f).windows = s.windows := rfl
@[simp] theorem State.upd_stations (s : State) (e : Env) (f : Quire → Quire) : (s.upd e f).stations = s.stations := rfl
@[simp] theorem State.upd_fallen (s : State) (e : Env) (f : Quire → Quire) : (s.upd e f).fallen = s.fallen := rfl
@[simp] theorem State.upd_flits (s : State) (e : Env) (f : Quire → Quire) : (s.upd e f).flits = s.flits := rfl
@[simp] theorem State.upd_colls (s : State) (e : Env) (f : Quire → Quire) : (s.upd e f).colls = s.colls := rfl
@[simp] theorem State.upd_ended (s : State) (e : Env) (f : Quire → Quire) : (s.upd e f).ended = s.ended := rfl
@[simp] theorem State.upd_outbox (s : State) (e : Env) (f : Quire → Quire) : (s.upd e f).outbox = s.outbox := rfl
@[simp] theorem State.upd_tables (s : State) (e : Env) (f : Quire → Quire) : (s.upd e f).tables = s.tables := rfl
@[simp] theorem State.upd_spanMap (s : State) (e : Env) (f : Quire → Quire) : (s.upd e f).spanMap = s.spanMap := rfl
@[simp] theorem State.upd_unavail (s : State) (e : Env) (f : Quire → Quire) : (s.upd e f).unavail = s.unavail := rfl
@[simp] theorem State.upd_retired (s : State) (e : Env) (f : Quire → Quire) : (s.upd e f).retired = s.retired := rfl
@[simp] theorem State.upd_lanes (s : State) (e : Env) (f : Quire → Quire) : (s.upd e f).lanes = s.lanes := rfl
@[simp] theorem State.upd_ways (s : State) (e : Env) (f : Quire → Quire) : (s.upd e f).ways = s.ways := rfl
@[simp] theorem State.upd_rowsOut (s : State) (e : Env) (f : Quire → Quire) : (s.upd e f).rowsOut = s.rowsOut := rfl
@[simp] theorem State.upd_events (s : State) (e : Env) (f : Quire → Quire) : (s.upd e f).events = s.events := rfl
@[simp] theorem State.upd_spare (s : State) (e : Env) (f : Quire → Quire) : (s.upd e f).spare = s.spare := rfl
@[simp] theorem State.upd_spareNext (s : State) (e : Env) (f : Quire → Quire) : (s.upd e f).spareNext = s.spareNext := rfl
@[simp] theorem State.upd_asqMoves (s : State) (e : Env) (f : Quire → Quire) : (s.upd e f).asqMoves = s.asqMoves := rfl
@[simp] theorem State.upd_power (s : State) (e : Env) (f : Quire → Quire) : (s.upd e f).power = s.power := rfl
@[simp] theorem State.upd_clockMode (s : State) (e : Env) (f : Quire → Quire) : (s.upd e f).clockMode = s.clockMode := rfl
@[simp] theorem State.upd_clockStep (s : State) (e : Env) (f : Quire → Quire) : (s.upd e f).clockStep = s.clockStep := rfl
@[simp] theorem State.upd_temps (s : State) (e : Env) (f : Quire → Quire) : (s.upd e f).temps = s.temps := rfl
@[simp] theorem State.upd_inlet (s : State) (e : Env) (f : Quire → Quire) : (s.upd e f).inlet = s.inlet := rfl
@[simp] theorem State.upd_evRing (s : State) (e : Env) (f : Quire → Quire) : (s.upd e f).evRing = s.evRing := rfl
@[simp] theorem State.upd_evIx (s : State) (e : Env) (f : Quire → Quire) : (s.upd e f).evIx = s.evIx := rfl
@[simp] theorem State.upd_erRing (s : State) (e : Env) (f : Quire → Quire) : (s.upd e f).erRing = s.erRing := rfl
@[simp] theorem State.upd_erIx (s : State) (e : Env) (f : Quire → Quire) : (s.upd e f).erIx = s.erIx := rfl
@[simp] theorem State.upd_evDrops (s : State) (e : Env) (f : Quire → Quire) : (s.upd e f).evDrops = s.evDrops := rfl
@[simp] theorem State.upd_erDrops (s : State) (e : Env) (f : Quire → Quire) : (s.upd e f).erDrops = s.erDrops := rfl
@[simp] theorem State.upd_interrupts (s : State) (e : Env) (f : Quire → Quire) : (s.upd e f).interrupts = s.interrupts := rfl
@[simp] theorem State.upd_epoch (s : State) (e : Env) (f : Quire → Quire) : (s.upd e f).epoch = s.epoch := rfl
@[simp] theorem State.upd_boot (s : State) (e : Env) (f : Quire → Quire) : (s.upd e f).boot = s.boot := rfl
@[simp] theorem State.upd_linkHalf (s : State) (e : Env) (f : Quire → Quire) : (s.upd e f).linkHalf = s.linkHalf := rfl
@[simp] theorem State.upd_linkUp (s : State) (e : Env) (f : Quire → Quire) : (s.upd e f).linkUp = s.linkUp := rfl
@[simp] theorem State.upd_measures (s : State) (e : Env) (f : Quire → Quire) : (s.upd e f).measures = s.measures := rfl
@[simp] theorem State.upd_sigsLeft (s : State) (e : Env) (f : Quire → Quire) : (s.upd e f).sigsLeft = s.sigsLeft := rfl
@[simp] theorem State.upd_clock (s : State) (e : Env) (f : Quire → Quire) : (s.upd e f).clock = s.clock := rfl
@[simp] theorem State.upd_ns (s : State) (e : Env) (f : Quire → Quire) : (s.upd e f).ns = s.ns := rfl
@[simp] theorem State.upd_dieTlbMiss (s : State) (e : Env) (f : Quire → Quire) : (s.upd e f).dieTlbMiss = s.dieTlbMiss := rfl
@[simp] theorem State.upd_lastReply (s : State) (e : Env) (f : Quire → Quire) : (s.upd e f).lastReply = s.lastReply := rfl
@[simp] theorem State.upd_cur (s : State) (e : Env) (f : Quire → Quire) : (s.upd e f).cur = s.cur := rfl
@[simp] theorem State.upd_agenda (s : State) (e : Env) (f : Quire → Quire) : (s.upd e f).agenda = s.agenda := rfl
@[simp] theorem State.upd_cmd (s : State) (e : Env) (f : Quire → Quire) : (s.upd e f).cmd = s.cmd := rfl
@[simp] theorem State.upd_nextId (s : State) (e : Env) (f : Quire → Quire) : (s.upd e f).nextId = s.nextId := rfl
@[simp] theorem State.upd_tick (s : State) (e : Env) (f : Quire → Quire) : (s.upd e f).tick = s.tick := rfl

@[simp] theorem State.setGath_mem (s : State) (id : Nat) (g : Gathering) : (s.setGath id g).mem = s.mem := rfl
@[simp] theorem State.setGath_quires (s : State) (id : Nat) (g : Gathering) : (s.setGath id g).quires = s.quires := rfl
@[simp] theorem State.setGath_gaths (s : State) (id : Nat) (g : Gathering) : (s.setGath id g).gaths = FMap.insert s.gaths id g := rfl
@[simp] theorem State.setGath_vols (s : State) (id : Nat) (g : Gathering) : (s.setGath id g).vols = s.vols := rfl
@[simp] theorem State.setGath_ctxs (s : State) (id : Nat) (g : Gathering) : (s.setGath id g).ctxs = s.ctxs := rfl
@[simp] theorem State.setGath_queues (s : State) (id : Nat) (g : Gathering) : (s.setGath id g).queues = s.queues := rfl
@[simp] theorem State.setGath_cores (s : State) (id : Nat) (g : Gathering) : (s.setGath id g).cores = s.cores := rfl
@[simp] theorem State.setGath_tlb (s : State) (id : Nat) (g : Gathering) : (s.setGath id g).tlb = s.tlb := rfl
@[simp] theorem State.setGath_xfers (s : State) (id : Nat) (g : Gathering) : (s.setGath id g).xfers = s.xfers := rfl
@[simp] theorem State.setGath_mjobs (s : State) (id : Nat) (g : Gathering) : (s.setGath id g).mjobs = s.mjobs := rfl
@[simp] theorem State.setGath_held (s : State) (id : Nat) (g : Gathering) : (s.setGath id g).held = s.held := rfl
@[simp] theorem State.setGath_asq (s : State) (id : Nat) (g : Gathering) : (s.setGath id g).asq = s.asq := rfl
@[simp] theorem State.setGath_trees (s : State) (id : Nat) (g : Gathering) : (s.setGath id g).trees = s.trees := rfl
@[simp] theorem State.setGath_treqs (s : State) (id : Nat) (g : Gathering) : (s.setGath id g).treqs = s.treqs := rfl
@[simp] theorem State.setGath_apps (s : State) (id : Nat) (g : Gathering) : (s.setGath id g).apps = s.apps := rfl
@[simp] theorem State.setGath_accels (s : State) (id : Nat) (g : Gathering) : (s.setGath id g).accels = s.accels := rfl
@[simp] theorem State.setGath_peers (s : State) (id : Nat) (g : Gathering) : (s.setGath id g).peers = s.peers := rfl
@[simp] theorem State.setGath_losses (s : State) (id : Nat) (g : Gathering) : (s.setGath id g).losses = s.losses := rfl
@[simp] theorem State.setGath_peerOut (s : State) (id : Nat) (g : Gathering) : (s.setGath id g).peerOut = s.peerOut := rfl
@[simp] theorem State.setGath_windows (s : State) (id : Nat) (g : Gathering) : (s.setGath id g).windows = s.windows := rfl
@[simp] theorem State.setGath_stations (s : State) (id : Nat) (g : Gathering) : (s.setGath id g).stations = s.stations := rfl
@[simp] theorem State.setGath_fallen (s : State) (id : Nat) (g : Gathering) : (s.setGath id g).fallen = s.fallen := rfl
@[simp] theorem State.setGath_flits (s : State) (id : Nat) (g : Gathering) : (s.setGath id g).flits = s.flits := rfl
@[simp] theorem State.setGath_colls (s : State) (id : Nat) (g : Gathering) : (s.setGath id g).colls = s.colls := rfl
@[simp] theorem State.setGath_ended (s : State) (id : Nat) (g : Gathering) : (s.setGath id g).ended = s.ended := rfl
@[simp] theorem State.setGath_outbox (s : State) (id : Nat) (g : Gathering) : (s.setGath id g).outbox = s.outbox := rfl
@[simp] theorem State.setGath_tables (s : State) (id : Nat) (g : Gathering) : (s.setGath id g).tables = s.tables := rfl
@[simp] theorem State.setGath_spanMap (s : State) (id : Nat) (g : Gathering) : (s.setGath id g).spanMap = s.spanMap := rfl
@[simp] theorem State.setGath_unavail (s : State) (id : Nat) (g : Gathering) : (s.setGath id g).unavail = s.unavail := rfl
@[simp] theorem State.setGath_retired (s : State) (id : Nat) (g : Gathering) : (s.setGath id g).retired = s.retired := rfl
@[simp] theorem State.setGath_lanes (s : State) (id : Nat) (g : Gathering) : (s.setGath id g).lanes = s.lanes := rfl
@[simp] theorem State.setGath_ways (s : State) (id : Nat) (g : Gathering) : (s.setGath id g).ways = s.ways := rfl
@[simp] theorem State.setGath_rowsOut (s : State) (id : Nat) (g : Gathering) : (s.setGath id g).rowsOut = s.rowsOut := rfl
@[simp] theorem State.setGath_events (s : State) (id : Nat) (g : Gathering) : (s.setGath id g).events = s.events := rfl
@[simp] theorem State.setGath_spare (s : State) (id : Nat) (g : Gathering) : (s.setGath id g).spare = s.spare := rfl
@[simp] theorem State.setGath_spareNext (s : State) (id : Nat) (g : Gathering) : (s.setGath id g).spareNext = s.spareNext := rfl
@[simp] theorem State.setGath_asqMoves (s : State) (id : Nat) (g : Gathering) : (s.setGath id g).asqMoves = s.asqMoves := rfl
@[simp] theorem State.setGath_power (s : State) (id : Nat) (g : Gathering) : (s.setGath id g).power = s.power := rfl
@[simp] theorem State.setGath_clockMode (s : State) (id : Nat) (g : Gathering) : (s.setGath id g).clockMode = s.clockMode := rfl
@[simp] theorem State.setGath_clockStep (s : State) (id : Nat) (g : Gathering) : (s.setGath id g).clockStep = s.clockStep := rfl
@[simp] theorem State.setGath_temps (s : State) (id : Nat) (g : Gathering) : (s.setGath id g).temps = s.temps := rfl
@[simp] theorem State.setGath_inlet (s : State) (id : Nat) (g : Gathering) : (s.setGath id g).inlet = s.inlet := rfl
@[simp] theorem State.setGath_evRing (s : State) (id : Nat) (g : Gathering) : (s.setGath id g).evRing = s.evRing := rfl
@[simp] theorem State.setGath_evIx (s : State) (id : Nat) (g : Gathering) : (s.setGath id g).evIx = s.evIx := rfl
@[simp] theorem State.setGath_erRing (s : State) (id : Nat) (g : Gathering) : (s.setGath id g).erRing = s.erRing := rfl
@[simp] theorem State.setGath_erIx (s : State) (id : Nat) (g : Gathering) : (s.setGath id g).erIx = s.erIx := rfl
@[simp] theorem State.setGath_evDrops (s : State) (id : Nat) (g : Gathering) : (s.setGath id g).evDrops = s.evDrops := rfl
@[simp] theorem State.setGath_erDrops (s : State) (id : Nat) (g : Gathering) : (s.setGath id g).erDrops = s.erDrops := rfl
@[simp] theorem State.setGath_interrupts (s : State) (id : Nat) (g : Gathering) : (s.setGath id g).interrupts = s.interrupts := rfl
@[simp] theorem State.setGath_epoch (s : State) (id : Nat) (g : Gathering) : (s.setGath id g).epoch = s.epoch := rfl
@[simp] theorem State.setGath_boot (s : State) (id : Nat) (g : Gathering) : (s.setGath id g).boot = s.boot := rfl
@[simp] theorem State.setGath_linkHalf (s : State) (id : Nat) (g : Gathering) : (s.setGath id g).linkHalf = s.linkHalf := rfl
@[simp] theorem State.setGath_linkUp (s : State) (id : Nat) (g : Gathering) : (s.setGath id g).linkUp = s.linkUp := rfl
@[simp] theorem State.setGath_measures (s : State) (id : Nat) (g : Gathering) : (s.setGath id g).measures = s.measures := rfl
@[simp] theorem State.setGath_sigsLeft (s : State) (id : Nat) (g : Gathering) : (s.setGath id g).sigsLeft = s.sigsLeft := rfl
@[simp] theorem State.setGath_clock (s : State) (id : Nat) (g : Gathering) : (s.setGath id g).clock = s.clock := rfl
@[simp] theorem State.setGath_ns (s : State) (id : Nat) (g : Gathering) : (s.setGath id g).ns = s.ns := rfl
@[simp] theorem State.setGath_dieTlbMiss (s : State) (id : Nat) (g : Gathering) : (s.setGath id g).dieTlbMiss = s.dieTlbMiss := rfl
@[simp] theorem State.setGath_lastReply (s : State) (id : Nat) (g : Gathering) : (s.setGath id g).lastReply = s.lastReply := rfl
@[simp] theorem State.setGath_cur (s : State) (id : Nat) (g : Gathering) : (s.setGath id g).cur = s.cur := rfl
@[simp] theorem State.setGath_agenda (s : State) (id : Nat) (g : Gathering) : (s.setGath id g).agenda = s.agenda := rfl
@[simp] theorem State.setGath_cmd (s : State) (id : Nat) (g : Gathering) : (s.setGath id g).cmd = s.cmd := rfl
@[simp] theorem State.setGath_nextId (s : State) (id : Nat) (g : Gathering) : (s.setGath id g).nextId = s.nextId := rfl
@[simp] theorem State.setGath_tick (s : State) (id : Nat) (g : Gathering) : (s.setGath id g).tick = s.tick := rfl

@[simp] theorem State.modGath_mem (s : State) (id : Nat) (f : Gathering → Gathering) : (s.modGath id f).mem = s.mem := rfl
@[simp] theorem State.modGath_quires (s : State) (id : Nat) (f : Gathering → Gathering) : (s.modGath id f).quires = s.quires := rfl
@[simp] theorem State.modGath_gaths (s : State) (id : Nat) (f : Gathering → Gathering) : (s.modGath id f).gaths = FMap.modify s.gaths id f := rfl
@[simp] theorem State.modGath_vols (s : State) (id : Nat) (f : Gathering → Gathering) : (s.modGath id f).vols = s.vols := rfl
@[simp] theorem State.modGath_ctxs (s : State) (id : Nat) (f : Gathering → Gathering) : (s.modGath id f).ctxs = s.ctxs := rfl
@[simp] theorem State.modGath_queues (s : State) (id : Nat) (f : Gathering → Gathering) : (s.modGath id f).queues = s.queues := rfl
@[simp] theorem State.modGath_cores (s : State) (id : Nat) (f : Gathering → Gathering) : (s.modGath id f).cores = s.cores := rfl
@[simp] theorem State.modGath_tlb (s : State) (id : Nat) (f : Gathering → Gathering) : (s.modGath id f).tlb = s.tlb := rfl
@[simp] theorem State.modGath_xfers (s : State) (id : Nat) (f : Gathering → Gathering) : (s.modGath id f).xfers = s.xfers := rfl
@[simp] theorem State.modGath_mjobs (s : State) (id : Nat) (f : Gathering → Gathering) : (s.modGath id f).mjobs = s.mjobs := rfl
@[simp] theorem State.modGath_held (s : State) (id : Nat) (f : Gathering → Gathering) : (s.modGath id f).held = s.held := rfl
@[simp] theorem State.modGath_asq (s : State) (id : Nat) (f : Gathering → Gathering) : (s.modGath id f).asq = s.asq := rfl
@[simp] theorem State.modGath_trees (s : State) (id : Nat) (f : Gathering → Gathering) : (s.modGath id f).trees = s.trees := rfl
@[simp] theorem State.modGath_treqs (s : State) (id : Nat) (f : Gathering → Gathering) : (s.modGath id f).treqs = s.treqs := rfl
@[simp] theorem State.modGath_apps (s : State) (id : Nat) (f : Gathering → Gathering) : (s.modGath id f).apps = s.apps := rfl
@[simp] theorem State.modGath_accels (s : State) (id : Nat) (f : Gathering → Gathering) : (s.modGath id f).accels = s.accels := rfl
@[simp] theorem State.modGath_peers (s : State) (id : Nat) (f : Gathering → Gathering) : (s.modGath id f).peers = s.peers := rfl
@[simp] theorem State.modGath_losses (s : State) (id : Nat) (f : Gathering → Gathering) : (s.modGath id f).losses = s.losses := rfl
@[simp] theorem State.modGath_peerOut (s : State) (id : Nat) (f : Gathering → Gathering) : (s.modGath id f).peerOut = s.peerOut := rfl
@[simp] theorem State.modGath_windows (s : State) (id : Nat) (f : Gathering → Gathering) : (s.modGath id f).windows = s.windows := rfl
@[simp] theorem State.modGath_stations (s : State) (id : Nat) (f : Gathering → Gathering) : (s.modGath id f).stations = s.stations := rfl
@[simp] theorem State.modGath_fallen (s : State) (id : Nat) (f : Gathering → Gathering) : (s.modGath id f).fallen = s.fallen := rfl
@[simp] theorem State.modGath_flits (s : State) (id : Nat) (f : Gathering → Gathering) : (s.modGath id f).flits = s.flits := rfl
@[simp] theorem State.modGath_colls (s : State) (id : Nat) (f : Gathering → Gathering) : (s.modGath id f).colls = s.colls := rfl
@[simp] theorem State.modGath_ended (s : State) (id : Nat) (f : Gathering → Gathering) : (s.modGath id f).ended = s.ended := rfl
@[simp] theorem State.modGath_outbox (s : State) (id : Nat) (f : Gathering → Gathering) : (s.modGath id f).outbox = s.outbox := rfl
@[simp] theorem State.modGath_tables (s : State) (id : Nat) (f : Gathering → Gathering) : (s.modGath id f).tables = s.tables := rfl
@[simp] theorem State.modGath_spanMap (s : State) (id : Nat) (f : Gathering → Gathering) : (s.modGath id f).spanMap = s.spanMap := rfl
@[simp] theorem State.modGath_unavail (s : State) (id : Nat) (f : Gathering → Gathering) : (s.modGath id f).unavail = s.unavail := rfl
@[simp] theorem State.modGath_retired (s : State) (id : Nat) (f : Gathering → Gathering) : (s.modGath id f).retired = s.retired := rfl
@[simp] theorem State.modGath_lanes (s : State) (id : Nat) (f : Gathering → Gathering) : (s.modGath id f).lanes = s.lanes := rfl
@[simp] theorem State.modGath_ways (s : State) (id : Nat) (f : Gathering → Gathering) : (s.modGath id f).ways = s.ways := rfl
@[simp] theorem State.modGath_rowsOut (s : State) (id : Nat) (f : Gathering → Gathering) : (s.modGath id f).rowsOut = s.rowsOut := rfl
@[simp] theorem State.modGath_events (s : State) (id : Nat) (f : Gathering → Gathering) : (s.modGath id f).events = s.events := rfl
@[simp] theorem State.modGath_spare (s : State) (id : Nat) (f : Gathering → Gathering) : (s.modGath id f).spare = s.spare := rfl
@[simp] theorem State.modGath_spareNext (s : State) (id : Nat) (f : Gathering → Gathering) : (s.modGath id f).spareNext = s.spareNext := rfl
@[simp] theorem State.modGath_asqMoves (s : State) (id : Nat) (f : Gathering → Gathering) : (s.modGath id f).asqMoves = s.asqMoves := rfl
@[simp] theorem State.modGath_power (s : State) (id : Nat) (f : Gathering → Gathering) : (s.modGath id f).power = s.power := rfl
@[simp] theorem State.modGath_clockMode (s : State) (id : Nat) (f : Gathering → Gathering) : (s.modGath id f).clockMode = s.clockMode := rfl
@[simp] theorem State.modGath_clockStep (s : State) (id : Nat) (f : Gathering → Gathering) : (s.modGath id f).clockStep = s.clockStep := rfl
@[simp] theorem State.modGath_temps (s : State) (id : Nat) (f : Gathering → Gathering) : (s.modGath id f).temps = s.temps := rfl
@[simp] theorem State.modGath_inlet (s : State) (id : Nat) (f : Gathering → Gathering) : (s.modGath id f).inlet = s.inlet := rfl
@[simp] theorem State.modGath_evRing (s : State) (id : Nat) (f : Gathering → Gathering) : (s.modGath id f).evRing = s.evRing := rfl
@[simp] theorem State.modGath_evIx (s : State) (id : Nat) (f : Gathering → Gathering) : (s.modGath id f).evIx = s.evIx := rfl
@[simp] theorem State.modGath_erRing (s : State) (id : Nat) (f : Gathering → Gathering) : (s.modGath id f).erRing = s.erRing := rfl
@[simp] theorem State.modGath_erIx (s : State) (id : Nat) (f : Gathering → Gathering) : (s.modGath id f).erIx = s.erIx := rfl
@[simp] theorem State.modGath_evDrops (s : State) (id : Nat) (f : Gathering → Gathering) : (s.modGath id f).evDrops = s.evDrops := rfl
@[simp] theorem State.modGath_erDrops (s : State) (id : Nat) (f : Gathering → Gathering) : (s.modGath id f).erDrops = s.erDrops := rfl
@[simp] theorem State.modGath_interrupts (s : State) (id : Nat) (f : Gathering → Gathering) : (s.modGath id f).interrupts = s.interrupts := rfl
@[simp] theorem State.modGath_epoch (s : State) (id : Nat) (f : Gathering → Gathering) : (s.modGath id f).epoch = s.epoch := rfl
@[simp] theorem State.modGath_boot (s : State) (id : Nat) (f : Gathering → Gathering) : (s.modGath id f).boot = s.boot := rfl
@[simp] theorem State.modGath_linkHalf (s : State) (id : Nat) (f : Gathering → Gathering) : (s.modGath id f).linkHalf = s.linkHalf := rfl
@[simp] theorem State.modGath_linkUp (s : State) (id : Nat) (f : Gathering → Gathering) : (s.modGath id f).linkUp = s.linkUp := rfl
@[simp] theorem State.modGath_measures (s : State) (id : Nat) (f : Gathering → Gathering) : (s.modGath id f).measures = s.measures := rfl
@[simp] theorem State.modGath_sigsLeft (s : State) (id : Nat) (f : Gathering → Gathering) : (s.modGath id f).sigsLeft = s.sigsLeft := rfl
@[simp] theorem State.modGath_clock (s : State) (id : Nat) (f : Gathering → Gathering) : (s.modGath id f).clock = s.clock := rfl
@[simp] theorem State.modGath_ns (s : State) (id : Nat) (f : Gathering → Gathering) : (s.modGath id f).ns = s.ns := rfl
@[simp] theorem State.modGath_dieTlbMiss (s : State) (id : Nat) (f : Gathering → Gathering) : (s.modGath id f).dieTlbMiss = s.dieTlbMiss := rfl
@[simp] theorem State.modGath_lastReply (s : State) (id : Nat) (f : Gathering → Gathering) : (s.modGath id f).lastReply = s.lastReply := rfl
@[simp] theorem State.modGath_cur (s : State) (id : Nat) (f : Gathering → Gathering) : (s.modGath id f).cur = s.cur := rfl
@[simp] theorem State.modGath_agenda (s : State) (id : Nat) (f : Gathering → Gathering) : (s.modGath id f).agenda = s.agenda := rfl
@[simp] theorem State.modGath_cmd (s : State) (id : Nat) (f : Gathering → Gathering) : (s.modGath id f).cmd = s.cmd := rfl
@[simp] theorem State.modGath_nextId (s : State) (id : Nat) (f : Gathering → Gathering) : (s.modGath id f).nextId = s.nextId := rfl
@[simp] theorem State.modGath_tick (s : State) (id : Nat) (f : Gathering → Gathering) : (s.modGath id f).tick = s.tick := rfl

@[simp] theorem State.setVol_mem (s : State) (id : Nat) (v : Volume) : (s.setVol id v).mem = s.mem := rfl
@[simp] theorem State.setVol_quires (s : State) (id : Nat) (v : Volume) : (s.setVol id v).quires = s.quires := rfl
@[simp] theorem State.setVol_gaths (s : State) (id : Nat) (v : Volume) : (s.setVol id v).gaths = s.gaths := rfl
@[simp] theorem State.setVol_vols (s : State) (id : Nat) (v : Volume) : (s.setVol id v).vols = FMap.insert s.vols id v := rfl
@[simp] theorem State.setVol_ctxs (s : State) (id : Nat) (v : Volume) : (s.setVol id v).ctxs = s.ctxs := rfl
@[simp] theorem State.setVol_queues (s : State) (id : Nat) (v : Volume) : (s.setVol id v).queues = s.queues := rfl
@[simp] theorem State.setVol_cores (s : State) (id : Nat) (v : Volume) : (s.setVol id v).cores = s.cores := rfl
@[simp] theorem State.setVol_tlb (s : State) (id : Nat) (v : Volume) : (s.setVol id v).tlb = s.tlb := rfl
@[simp] theorem State.setVol_xfers (s : State) (id : Nat) (v : Volume) : (s.setVol id v).xfers = s.xfers := rfl
@[simp] theorem State.setVol_mjobs (s : State) (id : Nat) (v : Volume) : (s.setVol id v).mjobs = s.mjobs := rfl
@[simp] theorem State.setVol_held (s : State) (id : Nat) (v : Volume) : (s.setVol id v).held = s.held := rfl
@[simp] theorem State.setVol_asq (s : State) (id : Nat) (v : Volume) : (s.setVol id v).asq = s.asq := rfl
@[simp] theorem State.setVol_trees (s : State) (id : Nat) (v : Volume) : (s.setVol id v).trees = s.trees := rfl
@[simp] theorem State.setVol_treqs (s : State) (id : Nat) (v : Volume) : (s.setVol id v).treqs = s.treqs := rfl
@[simp] theorem State.setVol_apps (s : State) (id : Nat) (v : Volume) : (s.setVol id v).apps = s.apps := rfl
@[simp] theorem State.setVol_accels (s : State) (id : Nat) (v : Volume) : (s.setVol id v).accels = s.accels := rfl
@[simp] theorem State.setVol_peers (s : State) (id : Nat) (v : Volume) : (s.setVol id v).peers = s.peers := rfl
@[simp] theorem State.setVol_losses (s : State) (id : Nat) (v : Volume) : (s.setVol id v).losses = s.losses := rfl
@[simp] theorem State.setVol_peerOut (s : State) (id : Nat) (v : Volume) : (s.setVol id v).peerOut = s.peerOut := rfl
@[simp] theorem State.setVol_windows (s : State) (id : Nat) (v : Volume) : (s.setVol id v).windows = s.windows := rfl
@[simp] theorem State.setVol_stations (s : State) (id : Nat) (v : Volume) : (s.setVol id v).stations = s.stations := rfl
@[simp] theorem State.setVol_fallen (s : State) (id : Nat) (v : Volume) : (s.setVol id v).fallen = s.fallen := rfl
@[simp] theorem State.setVol_flits (s : State) (id : Nat) (v : Volume) : (s.setVol id v).flits = s.flits := rfl
@[simp] theorem State.setVol_colls (s : State) (id : Nat) (v : Volume) : (s.setVol id v).colls = s.colls := rfl
@[simp] theorem State.setVol_ended (s : State) (id : Nat) (v : Volume) : (s.setVol id v).ended = s.ended := rfl
@[simp] theorem State.setVol_outbox (s : State) (id : Nat) (v : Volume) : (s.setVol id v).outbox = s.outbox := rfl
@[simp] theorem State.setVol_tables (s : State) (id : Nat) (v : Volume) : (s.setVol id v).tables = s.tables := rfl
@[simp] theorem State.setVol_spanMap (s : State) (id : Nat) (v : Volume) : (s.setVol id v).spanMap = s.spanMap := rfl
@[simp] theorem State.setVol_unavail (s : State) (id : Nat) (v : Volume) : (s.setVol id v).unavail = s.unavail := rfl
@[simp] theorem State.setVol_retired (s : State) (id : Nat) (v : Volume) : (s.setVol id v).retired = s.retired := rfl
@[simp] theorem State.setVol_lanes (s : State) (id : Nat) (v : Volume) : (s.setVol id v).lanes = s.lanes := rfl
@[simp] theorem State.setVol_ways (s : State) (id : Nat) (v : Volume) : (s.setVol id v).ways = s.ways := rfl
@[simp] theorem State.setVol_rowsOut (s : State) (id : Nat) (v : Volume) : (s.setVol id v).rowsOut = s.rowsOut := rfl
@[simp] theorem State.setVol_events (s : State) (id : Nat) (v : Volume) : (s.setVol id v).events = s.events := rfl
@[simp] theorem State.setVol_spare (s : State) (id : Nat) (v : Volume) : (s.setVol id v).spare = s.spare := rfl
@[simp] theorem State.setVol_spareNext (s : State) (id : Nat) (v : Volume) : (s.setVol id v).spareNext = s.spareNext := rfl
@[simp] theorem State.setVol_asqMoves (s : State) (id : Nat) (v : Volume) : (s.setVol id v).asqMoves = s.asqMoves := rfl
@[simp] theorem State.setVol_power (s : State) (id : Nat) (v : Volume) : (s.setVol id v).power = s.power := rfl
@[simp] theorem State.setVol_clockMode (s : State) (id : Nat) (v : Volume) : (s.setVol id v).clockMode = s.clockMode := rfl
@[simp] theorem State.setVol_clockStep (s : State) (id : Nat) (v : Volume) : (s.setVol id v).clockStep = s.clockStep := rfl
@[simp] theorem State.setVol_temps (s : State) (id : Nat) (v : Volume) : (s.setVol id v).temps = s.temps := rfl
@[simp] theorem State.setVol_inlet (s : State) (id : Nat) (v : Volume) : (s.setVol id v).inlet = s.inlet := rfl
@[simp] theorem State.setVol_evRing (s : State) (id : Nat) (v : Volume) : (s.setVol id v).evRing = s.evRing := rfl
@[simp] theorem State.setVol_evIx (s : State) (id : Nat) (v : Volume) : (s.setVol id v).evIx = s.evIx := rfl
@[simp] theorem State.setVol_erRing (s : State) (id : Nat) (v : Volume) : (s.setVol id v).erRing = s.erRing := rfl
@[simp] theorem State.setVol_erIx (s : State) (id : Nat) (v : Volume) : (s.setVol id v).erIx = s.erIx := rfl
@[simp] theorem State.setVol_evDrops (s : State) (id : Nat) (v : Volume) : (s.setVol id v).evDrops = s.evDrops := rfl
@[simp] theorem State.setVol_erDrops (s : State) (id : Nat) (v : Volume) : (s.setVol id v).erDrops = s.erDrops := rfl
@[simp] theorem State.setVol_interrupts (s : State) (id : Nat) (v : Volume) : (s.setVol id v).interrupts = s.interrupts := rfl
@[simp] theorem State.setVol_epoch (s : State) (id : Nat) (v : Volume) : (s.setVol id v).epoch = s.epoch := rfl
@[simp] theorem State.setVol_boot (s : State) (id : Nat) (v : Volume) : (s.setVol id v).boot = s.boot := rfl
@[simp] theorem State.setVol_linkHalf (s : State) (id : Nat) (v : Volume) : (s.setVol id v).linkHalf = s.linkHalf := rfl
@[simp] theorem State.setVol_linkUp (s : State) (id : Nat) (v : Volume) : (s.setVol id v).linkUp = s.linkUp := rfl
@[simp] theorem State.setVol_measures (s : State) (id : Nat) (v : Volume) : (s.setVol id v).measures = s.measures := rfl
@[simp] theorem State.setVol_sigsLeft (s : State) (id : Nat) (v : Volume) : (s.setVol id v).sigsLeft = s.sigsLeft := rfl
@[simp] theorem State.setVol_clock (s : State) (id : Nat) (v : Volume) : (s.setVol id v).clock = s.clock := rfl
@[simp] theorem State.setVol_ns (s : State) (id : Nat) (v : Volume) : (s.setVol id v).ns = s.ns := rfl
@[simp] theorem State.setVol_dieTlbMiss (s : State) (id : Nat) (v : Volume) : (s.setVol id v).dieTlbMiss = s.dieTlbMiss := rfl
@[simp] theorem State.setVol_lastReply (s : State) (id : Nat) (v : Volume) : (s.setVol id v).lastReply = s.lastReply := rfl
@[simp] theorem State.setVol_cur (s : State) (id : Nat) (v : Volume) : (s.setVol id v).cur = s.cur := rfl
@[simp] theorem State.setVol_agenda (s : State) (id : Nat) (v : Volume) : (s.setVol id v).agenda = s.agenda := rfl
@[simp] theorem State.setVol_cmd (s : State) (id : Nat) (v : Volume) : (s.setVol id v).cmd = s.cmd := rfl
@[simp] theorem State.setVol_nextId (s : State) (id : Nat) (v : Volume) : (s.setVol id v).nextId = s.nextId := rfl
@[simp] theorem State.setVol_tick (s : State) (id : Nat) (v : Volume) : (s.setVol id v).tick = s.tick := rfl

@[simp] theorem State.modVol_mem (s : State) (id : Nat) (f : Volume → Volume) : (s.modVol id f).mem = s.mem := rfl
@[simp] theorem State.modVol_quires (s : State) (id : Nat) (f : Volume → Volume) : (s.modVol id f).quires = s.quires := rfl
@[simp] theorem State.modVol_gaths (s : State) (id : Nat) (f : Volume → Volume) : (s.modVol id f).gaths = s.gaths := rfl
@[simp] theorem State.modVol_vols (s : State) (id : Nat) (f : Volume → Volume) : (s.modVol id f).vols = FMap.modify s.vols id f := rfl
@[simp] theorem State.modVol_ctxs (s : State) (id : Nat) (f : Volume → Volume) : (s.modVol id f).ctxs = s.ctxs := rfl
@[simp] theorem State.modVol_queues (s : State) (id : Nat) (f : Volume → Volume) : (s.modVol id f).queues = s.queues := rfl
@[simp] theorem State.modVol_cores (s : State) (id : Nat) (f : Volume → Volume) : (s.modVol id f).cores = s.cores := rfl
@[simp] theorem State.modVol_tlb (s : State) (id : Nat) (f : Volume → Volume) : (s.modVol id f).tlb = s.tlb := rfl
@[simp] theorem State.modVol_xfers (s : State) (id : Nat) (f : Volume → Volume) : (s.modVol id f).xfers = s.xfers := rfl
@[simp] theorem State.modVol_mjobs (s : State) (id : Nat) (f : Volume → Volume) : (s.modVol id f).mjobs = s.mjobs := rfl
@[simp] theorem State.modVol_held (s : State) (id : Nat) (f : Volume → Volume) : (s.modVol id f).held = s.held := rfl
@[simp] theorem State.modVol_asq (s : State) (id : Nat) (f : Volume → Volume) : (s.modVol id f).asq = s.asq := rfl
@[simp] theorem State.modVol_trees (s : State) (id : Nat) (f : Volume → Volume) : (s.modVol id f).trees = s.trees := rfl
@[simp] theorem State.modVol_treqs (s : State) (id : Nat) (f : Volume → Volume) : (s.modVol id f).treqs = s.treqs := rfl
@[simp] theorem State.modVol_apps (s : State) (id : Nat) (f : Volume → Volume) : (s.modVol id f).apps = s.apps := rfl
@[simp] theorem State.modVol_accels (s : State) (id : Nat) (f : Volume → Volume) : (s.modVol id f).accels = s.accels := rfl
@[simp] theorem State.modVol_peers (s : State) (id : Nat) (f : Volume → Volume) : (s.modVol id f).peers = s.peers := rfl
@[simp] theorem State.modVol_losses (s : State) (id : Nat) (f : Volume → Volume) : (s.modVol id f).losses = s.losses := rfl
@[simp] theorem State.modVol_peerOut (s : State) (id : Nat) (f : Volume → Volume) : (s.modVol id f).peerOut = s.peerOut := rfl
@[simp] theorem State.modVol_windows (s : State) (id : Nat) (f : Volume → Volume) : (s.modVol id f).windows = s.windows := rfl
@[simp] theorem State.modVol_stations (s : State) (id : Nat) (f : Volume → Volume) : (s.modVol id f).stations = s.stations := rfl
@[simp] theorem State.modVol_fallen (s : State) (id : Nat) (f : Volume → Volume) : (s.modVol id f).fallen = s.fallen := rfl
@[simp] theorem State.modVol_flits (s : State) (id : Nat) (f : Volume → Volume) : (s.modVol id f).flits = s.flits := rfl
@[simp] theorem State.modVol_colls (s : State) (id : Nat) (f : Volume → Volume) : (s.modVol id f).colls = s.colls := rfl
@[simp] theorem State.modVol_ended (s : State) (id : Nat) (f : Volume → Volume) : (s.modVol id f).ended = s.ended := rfl
@[simp] theorem State.modVol_outbox (s : State) (id : Nat) (f : Volume → Volume) : (s.modVol id f).outbox = s.outbox := rfl
@[simp] theorem State.modVol_tables (s : State) (id : Nat) (f : Volume → Volume) : (s.modVol id f).tables = s.tables := rfl
@[simp] theorem State.modVol_spanMap (s : State) (id : Nat) (f : Volume → Volume) : (s.modVol id f).spanMap = s.spanMap := rfl
@[simp] theorem State.modVol_unavail (s : State) (id : Nat) (f : Volume → Volume) : (s.modVol id f).unavail = s.unavail := rfl
@[simp] theorem State.modVol_retired (s : State) (id : Nat) (f : Volume → Volume) : (s.modVol id f).retired = s.retired := rfl
@[simp] theorem State.modVol_lanes (s : State) (id : Nat) (f : Volume → Volume) : (s.modVol id f).lanes = s.lanes := rfl
@[simp] theorem State.modVol_ways (s : State) (id : Nat) (f : Volume → Volume) : (s.modVol id f).ways = s.ways := rfl
@[simp] theorem State.modVol_rowsOut (s : State) (id : Nat) (f : Volume → Volume) : (s.modVol id f).rowsOut = s.rowsOut := rfl
@[simp] theorem State.modVol_events (s : State) (id : Nat) (f : Volume → Volume) : (s.modVol id f).events = s.events := rfl
@[simp] theorem State.modVol_spare (s : State) (id : Nat) (f : Volume → Volume) : (s.modVol id f).spare = s.spare := rfl
@[simp] theorem State.modVol_spareNext (s : State) (id : Nat) (f : Volume → Volume) : (s.modVol id f).spareNext = s.spareNext := rfl
@[simp] theorem State.modVol_asqMoves (s : State) (id : Nat) (f : Volume → Volume) : (s.modVol id f).asqMoves = s.asqMoves := rfl
@[simp] theorem State.modVol_power (s : State) (id : Nat) (f : Volume → Volume) : (s.modVol id f).power = s.power := rfl
@[simp] theorem State.modVol_clockMode (s : State) (id : Nat) (f : Volume → Volume) : (s.modVol id f).clockMode = s.clockMode := rfl
@[simp] theorem State.modVol_clockStep (s : State) (id : Nat) (f : Volume → Volume) : (s.modVol id f).clockStep = s.clockStep := rfl
@[simp] theorem State.modVol_temps (s : State) (id : Nat) (f : Volume → Volume) : (s.modVol id f).temps = s.temps := rfl
@[simp] theorem State.modVol_inlet (s : State) (id : Nat) (f : Volume → Volume) : (s.modVol id f).inlet = s.inlet := rfl
@[simp] theorem State.modVol_evRing (s : State) (id : Nat) (f : Volume → Volume) : (s.modVol id f).evRing = s.evRing := rfl
@[simp] theorem State.modVol_evIx (s : State) (id : Nat) (f : Volume → Volume) : (s.modVol id f).evIx = s.evIx := rfl
@[simp] theorem State.modVol_erRing (s : State) (id : Nat) (f : Volume → Volume) : (s.modVol id f).erRing = s.erRing := rfl
@[simp] theorem State.modVol_erIx (s : State) (id : Nat) (f : Volume → Volume) : (s.modVol id f).erIx = s.erIx := rfl
@[simp] theorem State.modVol_evDrops (s : State) (id : Nat) (f : Volume → Volume) : (s.modVol id f).evDrops = s.evDrops := rfl
@[simp] theorem State.modVol_erDrops (s : State) (id : Nat) (f : Volume → Volume) : (s.modVol id f).erDrops = s.erDrops := rfl
@[simp] theorem State.modVol_interrupts (s : State) (id : Nat) (f : Volume → Volume) : (s.modVol id f).interrupts = s.interrupts := rfl
@[simp] theorem State.modVol_epoch (s : State) (id : Nat) (f : Volume → Volume) : (s.modVol id f).epoch = s.epoch := rfl
@[simp] theorem State.modVol_boot (s : State) (id : Nat) (f : Volume → Volume) : (s.modVol id f).boot = s.boot := rfl
@[simp] theorem State.modVol_linkHalf (s : State) (id : Nat) (f : Volume → Volume) : (s.modVol id f).linkHalf = s.linkHalf := rfl
@[simp] theorem State.modVol_linkUp (s : State) (id : Nat) (f : Volume → Volume) : (s.modVol id f).linkUp = s.linkUp := rfl
@[simp] theorem State.modVol_measures (s : State) (id : Nat) (f : Volume → Volume) : (s.modVol id f).measures = s.measures := rfl
@[simp] theorem State.modVol_sigsLeft (s : State) (id : Nat) (f : Volume → Volume) : (s.modVol id f).sigsLeft = s.sigsLeft := rfl
@[simp] theorem State.modVol_clock (s : State) (id : Nat) (f : Volume → Volume) : (s.modVol id f).clock = s.clock := rfl
@[simp] theorem State.modVol_ns (s : State) (id : Nat) (f : Volume → Volume) : (s.modVol id f).ns = s.ns := rfl
@[simp] theorem State.modVol_dieTlbMiss (s : State) (id : Nat) (f : Volume → Volume) : (s.modVol id f).dieTlbMiss = s.dieTlbMiss := rfl
@[simp] theorem State.modVol_lastReply (s : State) (id : Nat) (f : Volume → Volume) : (s.modVol id f).lastReply = s.lastReply := rfl
@[simp] theorem State.modVol_cur (s : State) (id : Nat) (f : Volume → Volume) : (s.modVol id f).cur = s.cur := rfl
@[simp] theorem State.modVol_agenda (s : State) (id : Nat) (f : Volume → Volume) : (s.modVol id f).agenda = s.agenda := rfl
@[simp] theorem State.modVol_cmd (s : State) (id : Nat) (f : Volume → Volume) : (s.modVol id f).cmd = s.cmd := rfl
@[simp] theorem State.modVol_nextId (s : State) (id : Nat) (f : Volume → Volume) : (s.modVol id f).nextId = s.nextId := rfl
@[simp] theorem State.modVol_tick (s : State) (id : Nat) (f : Volume → Volume) : (s.modVol id f).tick = s.tick := rfl

@[simp] theorem State.setCtx_mem (s : State) (id : Nat) (c : Context) : (s.setCtx id c).mem = s.mem := rfl
@[simp] theorem State.setCtx_quires (s : State) (id : Nat) (c : Context) : (s.setCtx id c).quires = s.quires := rfl
@[simp] theorem State.setCtx_gaths (s : State) (id : Nat) (c : Context) : (s.setCtx id c).gaths = s.gaths := rfl
@[simp] theorem State.setCtx_vols (s : State) (id : Nat) (c : Context) : (s.setCtx id c).vols = s.vols := rfl
@[simp] theorem State.setCtx_ctxs (s : State) (id : Nat) (c : Context) : (s.setCtx id c).ctxs = FMap.insert s.ctxs id c := rfl
@[simp] theorem State.setCtx_queues (s : State) (id : Nat) (c : Context) : (s.setCtx id c).queues = s.queues := rfl
@[simp] theorem State.setCtx_cores (s : State) (id : Nat) (c : Context) : (s.setCtx id c).cores = s.cores := rfl
@[simp] theorem State.setCtx_tlb (s : State) (id : Nat) (c : Context) : (s.setCtx id c).tlb = s.tlb := rfl
@[simp] theorem State.setCtx_xfers (s : State) (id : Nat) (c : Context) : (s.setCtx id c).xfers = s.xfers := rfl
@[simp] theorem State.setCtx_mjobs (s : State) (id : Nat) (c : Context) : (s.setCtx id c).mjobs = s.mjobs := rfl
@[simp] theorem State.setCtx_held (s : State) (id : Nat) (c : Context) : (s.setCtx id c).held = s.held := rfl
@[simp] theorem State.setCtx_asq (s : State) (id : Nat) (c : Context) : (s.setCtx id c).asq = s.asq := rfl
@[simp] theorem State.setCtx_trees (s : State) (id : Nat) (c : Context) : (s.setCtx id c).trees = s.trees := rfl
@[simp] theorem State.setCtx_treqs (s : State) (id : Nat) (c : Context) : (s.setCtx id c).treqs = s.treqs := rfl
@[simp] theorem State.setCtx_apps (s : State) (id : Nat) (c : Context) : (s.setCtx id c).apps = s.apps := rfl
@[simp] theorem State.setCtx_accels (s : State) (id : Nat) (c : Context) : (s.setCtx id c).accels = s.accels := rfl
@[simp] theorem State.setCtx_peers (s : State) (id : Nat) (c : Context) : (s.setCtx id c).peers = s.peers := rfl
@[simp] theorem State.setCtx_losses (s : State) (id : Nat) (c : Context) : (s.setCtx id c).losses = s.losses := rfl
@[simp] theorem State.setCtx_peerOut (s : State) (id : Nat) (c : Context) : (s.setCtx id c).peerOut = s.peerOut := rfl
@[simp] theorem State.setCtx_windows (s : State) (id : Nat) (c : Context) : (s.setCtx id c).windows = s.windows := rfl
@[simp] theorem State.setCtx_stations (s : State) (id : Nat) (c : Context) : (s.setCtx id c).stations = s.stations := rfl
@[simp] theorem State.setCtx_fallen (s : State) (id : Nat) (c : Context) : (s.setCtx id c).fallen = s.fallen := rfl
@[simp] theorem State.setCtx_flits (s : State) (id : Nat) (c : Context) : (s.setCtx id c).flits = s.flits := rfl
@[simp] theorem State.setCtx_colls (s : State) (id : Nat) (c : Context) : (s.setCtx id c).colls = s.colls := rfl
@[simp] theorem State.setCtx_ended (s : State) (id : Nat) (c : Context) : (s.setCtx id c).ended = s.ended := rfl
@[simp] theorem State.setCtx_outbox (s : State) (id : Nat) (c : Context) : (s.setCtx id c).outbox = s.outbox := rfl
@[simp] theorem State.setCtx_tables (s : State) (id : Nat) (c : Context) : (s.setCtx id c).tables = s.tables := rfl
@[simp] theorem State.setCtx_spanMap (s : State) (id : Nat) (c : Context) : (s.setCtx id c).spanMap = s.spanMap := rfl
@[simp] theorem State.setCtx_unavail (s : State) (id : Nat) (c : Context) : (s.setCtx id c).unavail = s.unavail := rfl
@[simp] theorem State.setCtx_retired (s : State) (id : Nat) (c : Context) : (s.setCtx id c).retired = s.retired := rfl
@[simp] theorem State.setCtx_lanes (s : State) (id : Nat) (c : Context) : (s.setCtx id c).lanes = s.lanes := rfl
@[simp] theorem State.setCtx_ways (s : State) (id : Nat) (c : Context) : (s.setCtx id c).ways = s.ways := rfl
@[simp] theorem State.setCtx_rowsOut (s : State) (id : Nat) (c : Context) : (s.setCtx id c).rowsOut = s.rowsOut := rfl
@[simp] theorem State.setCtx_events (s : State) (id : Nat) (c : Context) : (s.setCtx id c).events = s.events := rfl
@[simp] theorem State.setCtx_spare (s : State) (id : Nat) (c : Context) : (s.setCtx id c).spare = s.spare := rfl
@[simp] theorem State.setCtx_spareNext (s : State) (id : Nat) (c : Context) : (s.setCtx id c).spareNext = s.spareNext := rfl
@[simp] theorem State.setCtx_asqMoves (s : State) (id : Nat) (c : Context) : (s.setCtx id c).asqMoves = s.asqMoves := rfl
@[simp] theorem State.setCtx_power (s : State) (id : Nat) (c : Context) : (s.setCtx id c).power = s.power := rfl
@[simp] theorem State.setCtx_clockMode (s : State) (id : Nat) (c : Context) : (s.setCtx id c).clockMode = s.clockMode := rfl
@[simp] theorem State.setCtx_clockStep (s : State) (id : Nat) (c : Context) : (s.setCtx id c).clockStep = s.clockStep := rfl
@[simp] theorem State.setCtx_temps (s : State) (id : Nat) (c : Context) : (s.setCtx id c).temps = s.temps := rfl
@[simp] theorem State.setCtx_inlet (s : State) (id : Nat) (c : Context) : (s.setCtx id c).inlet = s.inlet := rfl
@[simp] theorem State.setCtx_evRing (s : State) (id : Nat) (c : Context) : (s.setCtx id c).evRing = s.evRing := rfl
@[simp] theorem State.setCtx_evIx (s : State) (id : Nat) (c : Context) : (s.setCtx id c).evIx = s.evIx := rfl
@[simp] theorem State.setCtx_erRing (s : State) (id : Nat) (c : Context) : (s.setCtx id c).erRing = s.erRing := rfl
@[simp] theorem State.setCtx_erIx (s : State) (id : Nat) (c : Context) : (s.setCtx id c).erIx = s.erIx := rfl
@[simp] theorem State.setCtx_evDrops (s : State) (id : Nat) (c : Context) : (s.setCtx id c).evDrops = s.evDrops := rfl
@[simp] theorem State.setCtx_erDrops (s : State) (id : Nat) (c : Context) : (s.setCtx id c).erDrops = s.erDrops := rfl
@[simp] theorem State.setCtx_interrupts (s : State) (id : Nat) (c : Context) : (s.setCtx id c).interrupts = s.interrupts := rfl
@[simp] theorem State.setCtx_epoch (s : State) (id : Nat) (c : Context) : (s.setCtx id c).epoch = s.epoch := rfl
@[simp] theorem State.setCtx_boot (s : State) (id : Nat) (c : Context) : (s.setCtx id c).boot = s.boot := rfl
@[simp] theorem State.setCtx_linkHalf (s : State) (id : Nat) (c : Context) : (s.setCtx id c).linkHalf = s.linkHalf := rfl
@[simp] theorem State.setCtx_linkUp (s : State) (id : Nat) (c : Context) : (s.setCtx id c).linkUp = s.linkUp := rfl
@[simp] theorem State.setCtx_measures (s : State) (id : Nat) (c : Context) : (s.setCtx id c).measures = s.measures := rfl
@[simp] theorem State.setCtx_sigsLeft (s : State) (id : Nat) (c : Context) : (s.setCtx id c).sigsLeft = s.sigsLeft := rfl
@[simp] theorem State.setCtx_clock (s : State) (id : Nat) (c : Context) : (s.setCtx id c).clock = s.clock := rfl
@[simp] theorem State.setCtx_ns (s : State) (id : Nat) (c : Context) : (s.setCtx id c).ns = s.ns := rfl
@[simp] theorem State.setCtx_dieTlbMiss (s : State) (id : Nat) (c : Context) : (s.setCtx id c).dieTlbMiss = s.dieTlbMiss := rfl
@[simp] theorem State.setCtx_lastReply (s : State) (id : Nat) (c : Context) : (s.setCtx id c).lastReply = s.lastReply := rfl
@[simp] theorem State.setCtx_cur (s : State) (id : Nat) (c : Context) : (s.setCtx id c).cur = s.cur := rfl
@[simp] theorem State.setCtx_agenda (s : State) (id : Nat) (c : Context) : (s.setCtx id c).agenda = s.agenda := rfl
@[simp] theorem State.setCtx_cmd (s : State) (id : Nat) (c : Context) : (s.setCtx id c).cmd = s.cmd := rfl
@[simp] theorem State.setCtx_nextId (s : State) (id : Nat) (c : Context) : (s.setCtx id c).nextId = s.nextId := rfl
@[simp] theorem State.setCtx_tick (s : State) (id : Nat) (c : Context) : (s.setCtx id c).tick = s.tick := rfl

@[simp] theorem State.modCtx_mem (s : State) (id : Nat) (f : Context → Context) : (s.modCtx id f).mem = s.mem := rfl
@[simp] theorem State.modCtx_quires (s : State) (id : Nat) (f : Context → Context) : (s.modCtx id f).quires = s.quires := rfl
@[simp] theorem State.modCtx_gaths (s : State) (id : Nat) (f : Context → Context) : (s.modCtx id f).gaths = s.gaths := rfl
@[simp] theorem State.modCtx_vols (s : State) (id : Nat) (f : Context → Context) : (s.modCtx id f).vols = s.vols := rfl
@[simp] theorem State.modCtx_ctxs (s : State) (id : Nat) (f : Context → Context) : (s.modCtx id f).ctxs = FMap.modify s.ctxs id f := rfl
@[simp] theorem State.modCtx_queues (s : State) (id : Nat) (f : Context → Context) : (s.modCtx id f).queues = s.queues := rfl
@[simp] theorem State.modCtx_cores (s : State) (id : Nat) (f : Context → Context) : (s.modCtx id f).cores = s.cores := rfl
@[simp] theorem State.modCtx_tlb (s : State) (id : Nat) (f : Context → Context) : (s.modCtx id f).tlb = s.tlb := rfl
@[simp] theorem State.modCtx_xfers (s : State) (id : Nat) (f : Context → Context) : (s.modCtx id f).xfers = s.xfers := rfl
@[simp] theorem State.modCtx_mjobs (s : State) (id : Nat) (f : Context → Context) : (s.modCtx id f).mjobs = s.mjobs := rfl
@[simp] theorem State.modCtx_held (s : State) (id : Nat) (f : Context → Context) : (s.modCtx id f).held = s.held := rfl
@[simp] theorem State.modCtx_asq (s : State) (id : Nat) (f : Context → Context) : (s.modCtx id f).asq = s.asq := rfl
@[simp] theorem State.modCtx_trees (s : State) (id : Nat) (f : Context → Context) : (s.modCtx id f).trees = s.trees := rfl
@[simp] theorem State.modCtx_treqs (s : State) (id : Nat) (f : Context → Context) : (s.modCtx id f).treqs = s.treqs := rfl
@[simp] theorem State.modCtx_apps (s : State) (id : Nat) (f : Context → Context) : (s.modCtx id f).apps = s.apps := rfl
@[simp] theorem State.modCtx_accels (s : State) (id : Nat) (f : Context → Context) : (s.modCtx id f).accels = s.accels := rfl
@[simp] theorem State.modCtx_peers (s : State) (id : Nat) (f : Context → Context) : (s.modCtx id f).peers = s.peers := rfl
@[simp] theorem State.modCtx_losses (s : State) (id : Nat) (f : Context → Context) : (s.modCtx id f).losses = s.losses := rfl
@[simp] theorem State.modCtx_peerOut (s : State) (id : Nat) (f : Context → Context) : (s.modCtx id f).peerOut = s.peerOut := rfl
@[simp] theorem State.modCtx_windows (s : State) (id : Nat) (f : Context → Context) : (s.modCtx id f).windows = s.windows := rfl
@[simp] theorem State.modCtx_stations (s : State) (id : Nat) (f : Context → Context) : (s.modCtx id f).stations = s.stations := rfl
@[simp] theorem State.modCtx_fallen (s : State) (id : Nat) (f : Context → Context) : (s.modCtx id f).fallen = s.fallen := rfl
@[simp] theorem State.modCtx_flits (s : State) (id : Nat) (f : Context → Context) : (s.modCtx id f).flits = s.flits := rfl
@[simp] theorem State.modCtx_colls (s : State) (id : Nat) (f : Context → Context) : (s.modCtx id f).colls = s.colls := rfl
@[simp] theorem State.modCtx_ended (s : State) (id : Nat) (f : Context → Context) : (s.modCtx id f).ended = s.ended := rfl
@[simp] theorem State.modCtx_outbox (s : State) (id : Nat) (f : Context → Context) : (s.modCtx id f).outbox = s.outbox := rfl
@[simp] theorem State.modCtx_tables (s : State) (id : Nat) (f : Context → Context) : (s.modCtx id f).tables = s.tables := rfl
@[simp] theorem State.modCtx_spanMap (s : State) (id : Nat) (f : Context → Context) : (s.modCtx id f).spanMap = s.spanMap := rfl
@[simp] theorem State.modCtx_unavail (s : State) (id : Nat) (f : Context → Context) : (s.modCtx id f).unavail = s.unavail := rfl
@[simp] theorem State.modCtx_retired (s : State) (id : Nat) (f : Context → Context) : (s.modCtx id f).retired = s.retired := rfl
@[simp] theorem State.modCtx_lanes (s : State) (id : Nat) (f : Context → Context) : (s.modCtx id f).lanes = s.lanes := rfl
@[simp] theorem State.modCtx_ways (s : State) (id : Nat) (f : Context → Context) : (s.modCtx id f).ways = s.ways := rfl
@[simp] theorem State.modCtx_rowsOut (s : State) (id : Nat) (f : Context → Context) : (s.modCtx id f).rowsOut = s.rowsOut := rfl
@[simp] theorem State.modCtx_events (s : State) (id : Nat) (f : Context → Context) : (s.modCtx id f).events = s.events := rfl
@[simp] theorem State.modCtx_spare (s : State) (id : Nat) (f : Context → Context) : (s.modCtx id f).spare = s.spare := rfl
@[simp] theorem State.modCtx_spareNext (s : State) (id : Nat) (f : Context → Context) : (s.modCtx id f).spareNext = s.spareNext := rfl
@[simp] theorem State.modCtx_asqMoves (s : State) (id : Nat) (f : Context → Context) : (s.modCtx id f).asqMoves = s.asqMoves := rfl
@[simp] theorem State.modCtx_power (s : State) (id : Nat) (f : Context → Context) : (s.modCtx id f).power = s.power := rfl
@[simp] theorem State.modCtx_clockMode (s : State) (id : Nat) (f : Context → Context) : (s.modCtx id f).clockMode = s.clockMode := rfl
@[simp] theorem State.modCtx_clockStep (s : State) (id : Nat) (f : Context → Context) : (s.modCtx id f).clockStep = s.clockStep := rfl
@[simp] theorem State.modCtx_temps (s : State) (id : Nat) (f : Context → Context) : (s.modCtx id f).temps = s.temps := rfl
@[simp] theorem State.modCtx_inlet (s : State) (id : Nat) (f : Context → Context) : (s.modCtx id f).inlet = s.inlet := rfl
@[simp] theorem State.modCtx_evRing (s : State) (id : Nat) (f : Context → Context) : (s.modCtx id f).evRing = s.evRing := rfl
@[simp] theorem State.modCtx_evIx (s : State) (id : Nat) (f : Context → Context) : (s.modCtx id f).evIx = s.evIx := rfl
@[simp] theorem State.modCtx_erRing (s : State) (id : Nat) (f : Context → Context) : (s.modCtx id f).erRing = s.erRing := rfl
@[simp] theorem State.modCtx_erIx (s : State) (id : Nat) (f : Context → Context) : (s.modCtx id f).erIx = s.erIx := rfl
@[simp] theorem State.modCtx_evDrops (s : State) (id : Nat) (f : Context → Context) : (s.modCtx id f).evDrops = s.evDrops := rfl
@[simp] theorem State.modCtx_erDrops (s : State) (id : Nat) (f : Context → Context) : (s.modCtx id f).erDrops = s.erDrops := rfl
@[simp] theorem State.modCtx_interrupts (s : State) (id : Nat) (f : Context → Context) : (s.modCtx id f).interrupts = s.interrupts := rfl
@[simp] theorem State.modCtx_epoch (s : State) (id : Nat) (f : Context → Context) : (s.modCtx id f).epoch = s.epoch := rfl
@[simp] theorem State.modCtx_boot (s : State) (id : Nat) (f : Context → Context) : (s.modCtx id f).boot = s.boot := rfl
@[simp] theorem State.modCtx_linkHalf (s : State) (id : Nat) (f : Context → Context) : (s.modCtx id f).linkHalf = s.linkHalf := rfl
@[simp] theorem State.modCtx_linkUp (s : State) (id : Nat) (f : Context → Context) : (s.modCtx id f).linkUp = s.linkUp := rfl
@[simp] theorem State.modCtx_measures (s : State) (id : Nat) (f : Context → Context) : (s.modCtx id f).measures = s.measures := rfl
@[simp] theorem State.modCtx_sigsLeft (s : State) (id : Nat) (f : Context → Context) : (s.modCtx id f).sigsLeft = s.sigsLeft := rfl
@[simp] theorem State.modCtx_clock (s : State) (id : Nat) (f : Context → Context) : (s.modCtx id f).clock = s.clock := rfl
@[simp] theorem State.modCtx_ns (s : State) (id : Nat) (f : Context → Context) : (s.modCtx id f).ns = s.ns := rfl
@[simp] theorem State.modCtx_dieTlbMiss (s : State) (id : Nat) (f : Context → Context) : (s.modCtx id f).dieTlbMiss = s.dieTlbMiss := rfl
@[simp] theorem State.modCtx_lastReply (s : State) (id : Nat) (f : Context → Context) : (s.modCtx id f).lastReply = s.lastReply := rfl
@[simp] theorem State.modCtx_cur (s : State) (id : Nat) (f : Context → Context) : (s.modCtx id f).cur = s.cur := rfl
@[simp] theorem State.modCtx_agenda (s : State) (id : Nat) (f : Context → Context) : (s.modCtx id f).agenda = s.agenda := rfl
@[simp] theorem State.modCtx_cmd (s : State) (id : Nat) (f : Context → Context) : (s.modCtx id f).cmd = s.cmd := rfl
@[simp] theorem State.modCtx_nextId (s : State) (id : Nat) (f : Context → Context) : (s.modCtx id f).nextId = s.nextId := rfl
@[simp] theorem State.modCtx_tick (s : State) (id : Nat) (f : Context → Context) : (s.modCtx id f).tick = s.tick := rfl

@[simp] theorem State.setMem_mem (s : State) (m : Memory) : (s.setMem m).mem = m := rfl
@[simp] theorem State.setMem_quires (s : State) (m : Memory) : (s.setMem m).quires = s.quires := rfl
@[simp] theorem State.setMem_gaths (s : State) (m : Memory) : (s.setMem m).gaths = s.gaths := rfl
@[simp] theorem State.setMem_vols (s : State) (m : Memory) : (s.setMem m).vols = s.vols := rfl
@[simp] theorem State.setMem_ctxs (s : State) (m : Memory) : (s.setMem m).ctxs = s.ctxs := rfl
@[simp] theorem State.setMem_queues (s : State) (m : Memory) : (s.setMem m).queues = s.queues := rfl
@[simp] theorem State.setMem_cores (s : State) (m : Memory) : (s.setMem m).cores = s.cores := rfl
@[simp] theorem State.setMem_tlb (s : State) (m : Memory) : (s.setMem m).tlb = s.tlb := rfl
@[simp] theorem State.setMem_xfers (s : State) (m : Memory) : (s.setMem m).xfers = s.xfers := rfl
@[simp] theorem State.setMem_mjobs (s : State) (m : Memory) : (s.setMem m).mjobs = s.mjobs := rfl
@[simp] theorem State.setMem_held (s : State) (m : Memory) : (s.setMem m).held = s.held := rfl
@[simp] theorem State.setMem_asq (s : State) (m : Memory) : (s.setMem m).asq = s.asq := rfl
@[simp] theorem State.setMem_trees (s : State) (m : Memory) : (s.setMem m).trees = s.trees := rfl
@[simp] theorem State.setMem_treqs (s : State) (m : Memory) : (s.setMem m).treqs = s.treqs := rfl
@[simp] theorem State.setMem_apps (s : State) (m : Memory) : (s.setMem m).apps = s.apps := rfl
@[simp] theorem State.setMem_accels (s : State) (m : Memory) : (s.setMem m).accels = s.accels := rfl
@[simp] theorem State.setMem_peers (s : State) (m : Memory) : (s.setMem m).peers = s.peers := rfl
@[simp] theorem State.setMem_losses (s : State) (m : Memory) : (s.setMem m).losses = s.losses := rfl
@[simp] theorem State.setMem_peerOut (s : State) (m : Memory) : (s.setMem m).peerOut = s.peerOut := rfl
@[simp] theorem State.setMem_windows (s : State) (m : Memory) : (s.setMem m).windows = s.windows := rfl
@[simp] theorem State.setMem_stations (s : State) (m : Memory) : (s.setMem m).stations = s.stations := rfl
@[simp] theorem State.setMem_fallen (s : State) (m : Memory) : (s.setMem m).fallen = s.fallen := rfl
@[simp] theorem State.setMem_flits (s : State) (m : Memory) : (s.setMem m).flits = s.flits := rfl
@[simp] theorem State.setMem_colls (s : State) (m : Memory) : (s.setMem m).colls = s.colls := rfl
@[simp] theorem State.setMem_ended (s : State) (m : Memory) : (s.setMem m).ended = s.ended := rfl
@[simp] theorem State.setMem_outbox (s : State) (m : Memory) : (s.setMem m).outbox = s.outbox := rfl
@[simp] theorem State.setMem_tables (s : State) (m : Memory) : (s.setMem m).tables = s.tables := rfl
@[simp] theorem State.setMem_spanMap (s : State) (m : Memory) : (s.setMem m).spanMap = s.spanMap := rfl
@[simp] theorem State.setMem_unavail (s : State) (m : Memory) : (s.setMem m).unavail = s.unavail := rfl
@[simp] theorem State.setMem_retired (s : State) (m : Memory) : (s.setMem m).retired = s.retired := rfl
@[simp] theorem State.setMem_lanes (s : State) (m : Memory) : (s.setMem m).lanes = s.lanes := rfl
@[simp] theorem State.setMem_ways (s : State) (m : Memory) : (s.setMem m).ways = s.ways := rfl
@[simp] theorem State.setMem_rowsOut (s : State) (m : Memory) : (s.setMem m).rowsOut = s.rowsOut := rfl
@[simp] theorem State.setMem_events (s : State) (m : Memory) : (s.setMem m).events = s.events := rfl
@[simp] theorem State.setMem_spare (s : State) (m : Memory) : (s.setMem m).spare = s.spare := rfl
@[simp] theorem State.setMem_spareNext (s : State) (m : Memory) : (s.setMem m).spareNext = s.spareNext := rfl
@[simp] theorem State.setMem_asqMoves (s : State) (m : Memory) : (s.setMem m).asqMoves = s.asqMoves := rfl
@[simp] theorem State.setMem_power (s : State) (m : Memory) : (s.setMem m).power = s.power := rfl
@[simp] theorem State.setMem_clockMode (s : State) (m : Memory) : (s.setMem m).clockMode = s.clockMode := rfl
@[simp] theorem State.setMem_clockStep (s : State) (m : Memory) : (s.setMem m).clockStep = s.clockStep := rfl
@[simp] theorem State.setMem_temps (s : State) (m : Memory) : (s.setMem m).temps = s.temps := rfl
@[simp] theorem State.setMem_inlet (s : State) (m : Memory) : (s.setMem m).inlet = s.inlet := rfl
@[simp] theorem State.setMem_evRing (s : State) (m : Memory) : (s.setMem m).evRing = s.evRing := rfl
@[simp] theorem State.setMem_evIx (s : State) (m : Memory) : (s.setMem m).evIx = s.evIx := rfl
@[simp] theorem State.setMem_erRing (s : State) (m : Memory) : (s.setMem m).erRing = s.erRing := rfl
@[simp] theorem State.setMem_erIx (s : State) (m : Memory) : (s.setMem m).erIx = s.erIx := rfl
@[simp] theorem State.setMem_evDrops (s : State) (m : Memory) : (s.setMem m).evDrops = s.evDrops := rfl
@[simp] theorem State.setMem_erDrops (s : State) (m : Memory) : (s.setMem m).erDrops = s.erDrops := rfl
@[simp] theorem State.setMem_interrupts (s : State) (m : Memory) : (s.setMem m).interrupts = s.interrupts := rfl
@[simp] theorem State.setMem_epoch (s : State) (m : Memory) : (s.setMem m).epoch = s.epoch := rfl
@[simp] theorem State.setMem_boot (s : State) (m : Memory) : (s.setMem m).boot = s.boot := rfl
@[simp] theorem State.setMem_linkHalf (s : State) (m : Memory) : (s.setMem m).linkHalf = s.linkHalf := rfl
@[simp] theorem State.setMem_linkUp (s : State) (m : Memory) : (s.setMem m).linkUp = s.linkUp := rfl
@[simp] theorem State.setMem_measures (s : State) (m : Memory) : (s.setMem m).measures = s.measures := rfl
@[simp] theorem State.setMem_sigsLeft (s : State) (m : Memory) : (s.setMem m).sigsLeft = s.sigsLeft := rfl
@[simp] theorem State.setMem_clock (s : State) (m : Memory) : (s.setMem m).clock = s.clock := rfl
@[simp] theorem State.setMem_ns (s : State) (m : Memory) : (s.setMem m).ns = s.ns := rfl
@[simp] theorem State.setMem_dieTlbMiss (s : State) (m : Memory) : (s.setMem m).dieTlbMiss = s.dieTlbMiss := rfl
@[simp] theorem State.setMem_lastReply (s : State) (m : Memory) : (s.setMem m).lastReply = s.lastReply := rfl
@[simp] theorem State.setMem_cur (s : State) (m : Memory) : (s.setMem m).cur = s.cur := rfl
@[simp] theorem State.setMem_agenda (s : State) (m : Memory) : (s.setMem m).agenda = s.agenda := rfl
@[simp] theorem State.setMem_cmd (s : State) (m : Memory) : (s.setMem m).cmd = s.cmd := rfl
@[simp] theorem State.setMem_nextId (s : State) (m : Memory) : (s.setMem m).nextId = s.nextId := rfl
@[simp] theorem State.setMem_tick (s : State) (m : Memory) : (s.setMem m).tick = s.tick := rfl

@[simp] theorem State.setCore_mem (s : State) (c : Nat) (v : Core) : (s.setCore c v).mem = s.mem := rfl
@[simp] theorem State.setCore_quires (s : State) (c : Nat) (v : Core) : (s.setCore c v).quires = s.quires := rfl
@[simp] theorem State.setCore_gaths (s : State) (c : Nat) (v : Core) : (s.setCore c v).gaths = s.gaths := rfl
@[simp] theorem State.setCore_vols (s : State) (c : Nat) (v : Core) : (s.setCore c v).vols = s.vols := rfl
@[simp] theorem State.setCore_ctxs (s : State) (c : Nat) (v : Core) : (s.setCore c v).ctxs = s.ctxs := rfl
@[simp] theorem State.setCore_queues (s : State) (c : Nat) (v : Core) : (s.setCore c v).queues = s.queues := rfl
@[simp] theorem State.setCore_cores (s : State) (c : Nat) (v : Core) : (s.setCore c v).cores = FMap.put Core.fresh s.cores c v := rfl
@[simp] theorem State.setCore_tlb (s : State) (c : Nat) (v : Core) : (s.setCore c v).tlb = s.tlb := rfl
@[simp] theorem State.setCore_xfers (s : State) (c : Nat) (v : Core) : (s.setCore c v).xfers = s.xfers := rfl
@[simp] theorem State.setCore_mjobs (s : State) (c : Nat) (v : Core) : (s.setCore c v).mjobs = s.mjobs := rfl
@[simp] theorem State.setCore_held (s : State) (c : Nat) (v : Core) : (s.setCore c v).held = s.held := rfl
@[simp] theorem State.setCore_asq (s : State) (c : Nat) (v : Core) : (s.setCore c v).asq = s.asq := rfl
@[simp] theorem State.setCore_trees (s : State) (c : Nat) (v : Core) : (s.setCore c v).trees = s.trees := rfl
@[simp] theorem State.setCore_treqs (s : State) (c : Nat) (v : Core) : (s.setCore c v).treqs = s.treqs := rfl
@[simp] theorem State.setCore_apps (s : State) (c : Nat) (v : Core) : (s.setCore c v).apps = s.apps := rfl
@[simp] theorem State.setCore_accels (s : State) (c : Nat) (v : Core) : (s.setCore c v).accels = s.accels := rfl
@[simp] theorem State.setCore_peers (s : State) (c : Nat) (v : Core) : (s.setCore c v).peers = s.peers := rfl
@[simp] theorem State.setCore_losses (s : State) (c : Nat) (v : Core) : (s.setCore c v).losses = s.losses := rfl
@[simp] theorem State.setCore_peerOut (s : State) (c : Nat) (v : Core) : (s.setCore c v).peerOut = s.peerOut := rfl
@[simp] theorem State.setCore_windows (s : State) (c : Nat) (v : Core) : (s.setCore c v).windows = s.windows := rfl
@[simp] theorem State.setCore_stations (s : State) (c : Nat) (v : Core) : (s.setCore c v).stations = s.stations := rfl
@[simp] theorem State.setCore_fallen (s : State) (c : Nat) (v : Core) : (s.setCore c v).fallen = s.fallen := rfl
@[simp] theorem State.setCore_flits (s : State) (c : Nat) (v : Core) : (s.setCore c v).flits = s.flits := rfl
@[simp] theorem State.setCore_colls (s : State) (c : Nat) (v : Core) : (s.setCore c v).colls = s.colls := rfl
@[simp] theorem State.setCore_ended (s : State) (c : Nat) (v : Core) : (s.setCore c v).ended = s.ended := rfl
@[simp] theorem State.setCore_outbox (s : State) (c : Nat) (v : Core) : (s.setCore c v).outbox = s.outbox := rfl
@[simp] theorem State.setCore_tables (s : State) (c : Nat) (v : Core) : (s.setCore c v).tables = s.tables := rfl
@[simp] theorem State.setCore_spanMap (s : State) (c : Nat) (v : Core) : (s.setCore c v).spanMap = s.spanMap := rfl
@[simp] theorem State.setCore_unavail (s : State) (c : Nat) (v : Core) : (s.setCore c v).unavail = s.unavail := rfl
@[simp] theorem State.setCore_retired (s : State) (c : Nat) (v : Core) : (s.setCore c v).retired = s.retired := rfl
@[simp] theorem State.setCore_lanes (s : State) (c : Nat) (v : Core) : (s.setCore c v).lanes = s.lanes := rfl
@[simp] theorem State.setCore_ways (s : State) (c : Nat) (v : Core) : (s.setCore c v).ways = s.ways := rfl
@[simp] theorem State.setCore_rowsOut (s : State) (c : Nat) (v : Core) : (s.setCore c v).rowsOut = s.rowsOut := rfl
@[simp] theorem State.setCore_events (s : State) (c : Nat) (v : Core) : (s.setCore c v).events = s.events := rfl
@[simp] theorem State.setCore_spare (s : State) (c : Nat) (v : Core) : (s.setCore c v).spare = s.spare := rfl
@[simp] theorem State.setCore_spareNext (s : State) (c : Nat) (v : Core) : (s.setCore c v).spareNext = s.spareNext := rfl
@[simp] theorem State.setCore_asqMoves (s : State) (c : Nat) (v : Core) : (s.setCore c v).asqMoves = s.asqMoves := rfl
@[simp] theorem State.setCore_power (s : State) (c : Nat) (v : Core) : (s.setCore c v).power = s.power := rfl
@[simp] theorem State.setCore_clockMode (s : State) (c : Nat) (v : Core) : (s.setCore c v).clockMode = s.clockMode := rfl
@[simp] theorem State.setCore_clockStep (s : State) (c : Nat) (v : Core) : (s.setCore c v).clockStep = s.clockStep := rfl
@[simp] theorem State.setCore_temps (s : State) (c : Nat) (v : Core) : (s.setCore c v).temps = s.temps := rfl
@[simp] theorem State.setCore_inlet (s : State) (c : Nat) (v : Core) : (s.setCore c v).inlet = s.inlet := rfl
@[simp] theorem State.setCore_evRing (s : State) (c : Nat) (v : Core) : (s.setCore c v).evRing = s.evRing := rfl
@[simp] theorem State.setCore_evIx (s : State) (c : Nat) (v : Core) : (s.setCore c v).evIx = s.evIx := rfl
@[simp] theorem State.setCore_erRing (s : State) (c : Nat) (v : Core) : (s.setCore c v).erRing = s.erRing := rfl
@[simp] theorem State.setCore_erIx (s : State) (c : Nat) (v : Core) : (s.setCore c v).erIx = s.erIx := rfl
@[simp] theorem State.setCore_evDrops (s : State) (c : Nat) (v : Core) : (s.setCore c v).evDrops = s.evDrops := rfl
@[simp] theorem State.setCore_erDrops (s : State) (c : Nat) (v : Core) : (s.setCore c v).erDrops = s.erDrops := rfl
@[simp] theorem State.setCore_interrupts (s : State) (c : Nat) (v : Core) : (s.setCore c v).interrupts = s.interrupts := rfl
@[simp] theorem State.setCore_epoch (s : State) (c : Nat) (v : Core) : (s.setCore c v).epoch = s.epoch := rfl
@[simp] theorem State.setCore_boot (s : State) (c : Nat) (v : Core) : (s.setCore c v).boot = s.boot := rfl
@[simp] theorem State.setCore_linkHalf (s : State) (c : Nat) (v : Core) : (s.setCore c v).linkHalf = s.linkHalf := rfl
@[simp] theorem State.setCore_linkUp (s : State) (c : Nat) (v : Core) : (s.setCore c v).linkUp = s.linkUp := rfl
@[simp] theorem State.setCore_measures (s : State) (c : Nat) (v : Core) : (s.setCore c v).measures = s.measures := rfl
@[simp] theorem State.setCore_sigsLeft (s : State) (c : Nat) (v : Core) : (s.setCore c v).sigsLeft = s.sigsLeft := rfl
@[simp] theorem State.setCore_clock (s : State) (c : Nat) (v : Core) : (s.setCore c v).clock = s.clock := rfl
@[simp] theorem State.setCore_ns (s : State) (c : Nat) (v : Core) : (s.setCore c v).ns = s.ns := rfl
@[simp] theorem State.setCore_dieTlbMiss (s : State) (c : Nat) (v : Core) : (s.setCore c v).dieTlbMiss = s.dieTlbMiss := rfl
@[simp] theorem State.setCore_lastReply (s : State) (c : Nat) (v : Core) : (s.setCore c v).lastReply = s.lastReply := rfl
@[simp] theorem State.setCore_cur (s : State) (c : Nat) (v : Core) : (s.setCore c v).cur = s.cur := rfl
@[simp] theorem State.setCore_agenda (s : State) (c : Nat) (v : Core) : (s.setCore c v).agenda = s.agenda := rfl
@[simp] theorem State.setCore_cmd (s : State) (c : Nat) (v : Core) : (s.setCore c v).cmd = s.cmd := rfl
@[simp] theorem State.setCore_nextId (s : State) (c : Nat) (v : Core) : (s.setCore c v).nextId = s.nextId := rfl
@[simp] theorem State.setCore_tick (s : State) (c : Nat) (v : Core) : (s.setCore c v).tick = s.tick := rfl

@[simp] theorem State.modCore_mem (s : State) (c : Nat) (f : Core → Core) : (s.modCore c f).mem = s.mem := rfl
@[simp] theorem State.modCore_quires (s : State) (c : Nat) (f : Core → Core) : (s.modCore c f).quires = s.quires := rfl
@[simp] theorem State.modCore_gaths (s : State) (c : Nat) (f : Core → Core) : (s.modCore c f).gaths = s.gaths := rfl
@[simp] theorem State.modCore_vols (s : State) (c : Nat) (f : Core → Core) : (s.modCore c f).vols = s.vols := rfl
@[simp] theorem State.modCore_ctxs (s : State) (c : Nat) (f : Core → Core) : (s.modCore c f).ctxs = s.ctxs := rfl
@[simp] theorem State.modCore_queues (s : State) (c : Nat) (f : Core → Core) : (s.modCore c f).queues = s.queues := rfl
@[simp] theorem State.modCore_cores (s : State) (c : Nat) (f : Core → Core) : (s.modCore c f).cores = FMap.put Core.fresh s.cores c (f (s.core c)) := rfl
@[simp] theorem State.modCore_tlb (s : State) (c : Nat) (f : Core → Core) : (s.modCore c f).tlb = s.tlb := rfl
@[simp] theorem State.modCore_xfers (s : State) (c : Nat) (f : Core → Core) : (s.modCore c f).xfers = s.xfers := rfl
@[simp] theorem State.modCore_mjobs (s : State) (c : Nat) (f : Core → Core) : (s.modCore c f).mjobs = s.mjobs := rfl
@[simp] theorem State.modCore_held (s : State) (c : Nat) (f : Core → Core) : (s.modCore c f).held = s.held := rfl
@[simp] theorem State.modCore_asq (s : State) (c : Nat) (f : Core → Core) : (s.modCore c f).asq = s.asq := rfl
@[simp] theorem State.modCore_trees (s : State) (c : Nat) (f : Core → Core) : (s.modCore c f).trees = s.trees := rfl
@[simp] theorem State.modCore_treqs (s : State) (c : Nat) (f : Core → Core) : (s.modCore c f).treqs = s.treqs := rfl
@[simp] theorem State.modCore_apps (s : State) (c : Nat) (f : Core → Core) : (s.modCore c f).apps = s.apps := rfl
@[simp] theorem State.modCore_accels (s : State) (c : Nat) (f : Core → Core) : (s.modCore c f).accels = s.accels := rfl
@[simp] theorem State.modCore_peers (s : State) (c : Nat) (f : Core → Core) : (s.modCore c f).peers = s.peers := rfl
@[simp] theorem State.modCore_losses (s : State) (c : Nat) (f : Core → Core) : (s.modCore c f).losses = s.losses := rfl
@[simp] theorem State.modCore_peerOut (s : State) (c : Nat) (f : Core → Core) : (s.modCore c f).peerOut = s.peerOut := rfl
@[simp] theorem State.modCore_windows (s : State) (c : Nat) (f : Core → Core) : (s.modCore c f).windows = s.windows := rfl
@[simp] theorem State.modCore_stations (s : State) (c : Nat) (f : Core → Core) : (s.modCore c f).stations = s.stations := rfl
@[simp] theorem State.modCore_fallen (s : State) (c : Nat) (f : Core → Core) : (s.modCore c f).fallen = s.fallen := rfl
@[simp] theorem State.modCore_flits (s : State) (c : Nat) (f : Core → Core) : (s.modCore c f).flits = s.flits := rfl
@[simp] theorem State.modCore_colls (s : State) (c : Nat) (f : Core → Core) : (s.modCore c f).colls = s.colls := rfl
@[simp] theorem State.modCore_ended (s : State) (c : Nat) (f : Core → Core) : (s.modCore c f).ended = s.ended := rfl
@[simp] theorem State.modCore_outbox (s : State) (c : Nat) (f : Core → Core) : (s.modCore c f).outbox = s.outbox := rfl
@[simp] theorem State.modCore_tables (s : State) (c : Nat) (f : Core → Core) : (s.modCore c f).tables = s.tables := rfl
@[simp] theorem State.modCore_spanMap (s : State) (c : Nat) (f : Core → Core) : (s.modCore c f).spanMap = s.spanMap := rfl
@[simp] theorem State.modCore_unavail (s : State) (c : Nat) (f : Core → Core) : (s.modCore c f).unavail = s.unavail := rfl
@[simp] theorem State.modCore_retired (s : State) (c : Nat) (f : Core → Core) : (s.modCore c f).retired = s.retired := rfl
@[simp] theorem State.modCore_lanes (s : State) (c : Nat) (f : Core → Core) : (s.modCore c f).lanes = s.lanes := rfl
@[simp] theorem State.modCore_ways (s : State) (c : Nat) (f : Core → Core) : (s.modCore c f).ways = s.ways := rfl
@[simp] theorem State.modCore_rowsOut (s : State) (c : Nat) (f : Core → Core) : (s.modCore c f).rowsOut = s.rowsOut := rfl
@[simp] theorem State.modCore_events (s : State) (c : Nat) (f : Core → Core) : (s.modCore c f).events = s.events := rfl
@[simp] theorem State.modCore_spare (s : State) (c : Nat) (f : Core → Core) : (s.modCore c f).spare = s.spare := rfl
@[simp] theorem State.modCore_spareNext (s : State) (c : Nat) (f : Core → Core) : (s.modCore c f).spareNext = s.spareNext := rfl
@[simp] theorem State.modCore_asqMoves (s : State) (c : Nat) (f : Core → Core) : (s.modCore c f).asqMoves = s.asqMoves := rfl
@[simp] theorem State.modCore_power (s : State) (c : Nat) (f : Core → Core) : (s.modCore c f).power = s.power := rfl
@[simp] theorem State.modCore_clockMode (s : State) (c : Nat) (f : Core → Core) : (s.modCore c f).clockMode = s.clockMode := rfl
@[simp] theorem State.modCore_clockStep (s : State) (c : Nat) (f : Core → Core) : (s.modCore c f).clockStep = s.clockStep := rfl
@[simp] theorem State.modCore_temps (s : State) (c : Nat) (f : Core → Core) : (s.modCore c f).temps = s.temps := rfl
@[simp] theorem State.modCore_inlet (s : State) (c : Nat) (f : Core → Core) : (s.modCore c f).inlet = s.inlet := rfl
@[simp] theorem State.modCore_evRing (s : State) (c : Nat) (f : Core → Core) : (s.modCore c f).evRing = s.evRing := rfl
@[simp] theorem State.modCore_evIx (s : State) (c : Nat) (f : Core → Core) : (s.modCore c f).evIx = s.evIx := rfl
@[simp] theorem State.modCore_erRing (s : State) (c : Nat) (f : Core → Core) : (s.modCore c f).erRing = s.erRing := rfl
@[simp] theorem State.modCore_erIx (s : State) (c : Nat) (f : Core → Core) : (s.modCore c f).erIx = s.erIx := rfl
@[simp] theorem State.modCore_evDrops (s : State) (c : Nat) (f : Core → Core) : (s.modCore c f).evDrops = s.evDrops := rfl
@[simp] theorem State.modCore_erDrops (s : State) (c : Nat) (f : Core → Core) : (s.modCore c f).erDrops = s.erDrops := rfl
@[simp] theorem State.modCore_interrupts (s : State) (c : Nat) (f : Core → Core) : (s.modCore c f).interrupts = s.interrupts := rfl
@[simp] theorem State.modCore_epoch (s : State) (c : Nat) (f : Core → Core) : (s.modCore c f).epoch = s.epoch := rfl
@[simp] theorem State.modCore_boot (s : State) (c : Nat) (f : Core → Core) : (s.modCore c f).boot = s.boot := rfl
@[simp] theorem State.modCore_linkHalf (s : State) (c : Nat) (f : Core → Core) : (s.modCore c f).linkHalf = s.linkHalf := rfl
@[simp] theorem State.modCore_linkUp (s : State) (c : Nat) (f : Core → Core) : (s.modCore c f).linkUp = s.linkUp := rfl
@[simp] theorem State.modCore_measures (s : State) (c : Nat) (f : Core → Core) : (s.modCore c f).measures = s.measures := rfl
@[simp] theorem State.modCore_sigsLeft (s : State) (c : Nat) (f : Core → Core) : (s.modCore c f).sigsLeft = s.sigsLeft := rfl
@[simp] theorem State.modCore_clock (s : State) (c : Nat) (f : Core → Core) : (s.modCore c f).clock = s.clock := rfl
@[simp] theorem State.modCore_ns (s : State) (c : Nat) (f : Core → Core) : (s.modCore c f).ns = s.ns := rfl
@[simp] theorem State.modCore_dieTlbMiss (s : State) (c : Nat) (f : Core → Core) : (s.modCore c f).dieTlbMiss = s.dieTlbMiss := rfl
@[simp] theorem State.modCore_lastReply (s : State) (c : Nat) (f : Core → Core) : (s.modCore c f).lastReply = s.lastReply := rfl
@[simp] theorem State.modCore_cur (s : State) (c : Nat) (f : Core → Core) : (s.modCore c f).cur = s.cur := rfl
@[simp] theorem State.modCore_agenda (s : State) (c : Nat) (f : Core → Core) : (s.modCore c f).agenda = s.agenda := rfl
@[simp] theorem State.modCore_cmd (s : State) (c : Nat) (f : Core → Core) : (s.modCore c f).cmd = s.cmd := rfl
@[simp] theorem State.modCore_nextId (s : State) (c : Nat) (f : Core → Core) : (s.modCore c f).nextId = s.nextId := rfl
@[simp] theorem State.modCore_tick (s : State) (c : Nat) (f : Core → Core) : (s.modCore c f).tick = s.tick := rfl

@[simp] theorem State.bump_mem (s : State) : (s.bump).mem = s.mem := rfl
@[simp] theorem State.bump_quires (s : State) : (s.bump).quires = s.quires := rfl
@[simp] theorem State.bump_gaths (s : State) : (s.bump).gaths = s.gaths := rfl
@[simp] theorem State.bump_vols (s : State) : (s.bump).vols = s.vols := rfl
@[simp] theorem State.bump_ctxs (s : State) : (s.bump).ctxs = s.ctxs := rfl
@[simp] theorem State.bump_queues (s : State) : (s.bump).queues = s.queues := rfl
@[simp] theorem State.bump_cores (s : State) : (s.bump).cores = s.cores := rfl
@[simp] theorem State.bump_tlb (s : State) : (s.bump).tlb = s.tlb := rfl
@[simp] theorem State.bump_xfers (s : State) : (s.bump).xfers = s.xfers := rfl
@[simp] theorem State.bump_mjobs (s : State) : (s.bump).mjobs = s.mjobs := rfl
@[simp] theorem State.bump_held (s : State) : (s.bump).held = s.held := rfl
@[simp] theorem State.bump_asq (s : State) : (s.bump).asq = s.asq := rfl
@[simp] theorem State.bump_trees (s : State) : (s.bump).trees = s.trees := rfl
@[simp] theorem State.bump_treqs (s : State) : (s.bump).treqs = s.treqs := rfl
@[simp] theorem State.bump_apps (s : State) : (s.bump).apps = s.apps := rfl
@[simp] theorem State.bump_accels (s : State) : (s.bump).accels = s.accels := rfl
@[simp] theorem State.bump_peers (s : State) : (s.bump).peers = s.peers := rfl
@[simp] theorem State.bump_losses (s : State) : (s.bump).losses = s.losses := rfl
@[simp] theorem State.bump_peerOut (s : State) : (s.bump).peerOut = s.peerOut := rfl
@[simp] theorem State.bump_windows (s : State) : (s.bump).windows = s.windows := rfl
@[simp] theorem State.bump_stations (s : State) : (s.bump).stations = s.stations := rfl
@[simp] theorem State.bump_fallen (s : State) : (s.bump).fallen = s.fallen := rfl
@[simp] theorem State.bump_flits (s : State) : (s.bump).flits = s.flits := rfl
@[simp] theorem State.bump_colls (s : State) : (s.bump).colls = s.colls := rfl
@[simp] theorem State.bump_ended (s : State) : (s.bump).ended = s.ended := rfl
@[simp] theorem State.bump_outbox (s : State) : (s.bump).outbox = s.outbox := rfl
@[simp] theorem State.bump_tables (s : State) : (s.bump).tables = s.tables := rfl
@[simp] theorem State.bump_spanMap (s : State) : (s.bump).spanMap = s.spanMap := rfl
@[simp] theorem State.bump_unavail (s : State) : (s.bump).unavail = s.unavail := rfl
@[simp] theorem State.bump_retired (s : State) : (s.bump).retired = s.retired := rfl
@[simp] theorem State.bump_lanes (s : State) : (s.bump).lanes = s.lanes := rfl
@[simp] theorem State.bump_ways (s : State) : (s.bump).ways = s.ways := rfl
@[simp] theorem State.bump_rowsOut (s : State) : (s.bump).rowsOut = s.rowsOut := rfl
@[simp] theorem State.bump_events (s : State) : (s.bump).events = s.events := rfl
@[simp] theorem State.bump_spare (s : State) : (s.bump).spare = s.spare := rfl
@[simp] theorem State.bump_spareNext (s : State) : (s.bump).spareNext = s.spareNext := rfl
@[simp] theorem State.bump_asqMoves (s : State) : (s.bump).asqMoves = s.asqMoves := rfl
@[simp] theorem State.bump_power (s : State) : (s.bump).power = s.power := rfl
@[simp] theorem State.bump_clockMode (s : State) : (s.bump).clockMode = s.clockMode := rfl
@[simp] theorem State.bump_clockStep (s : State) : (s.bump).clockStep = s.clockStep := rfl
@[simp] theorem State.bump_temps (s : State) : (s.bump).temps = s.temps := rfl
@[simp] theorem State.bump_inlet (s : State) : (s.bump).inlet = s.inlet := rfl
@[simp] theorem State.bump_evRing (s : State) : (s.bump).evRing = s.evRing := rfl
@[simp] theorem State.bump_evIx (s : State) : (s.bump).evIx = s.evIx := rfl
@[simp] theorem State.bump_erRing (s : State) : (s.bump).erRing = s.erRing := rfl
@[simp] theorem State.bump_erIx (s : State) : (s.bump).erIx = s.erIx := rfl
@[simp] theorem State.bump_evDrops (s : State) : (s.bump).evDrops = s.evDrops := rfl
@[simp] theorem State.bump_erDrops (s : State) : (s.bump).erDrops = s.erDrops := rfl
@[simp] theorem State.bump_interrupts (s : State) : (s.bump).interrupts = s.interrupts := rfl
@[simp] theorem State.bump_epoch (s : State) : (s.bump).epoch = s.epoch := rfl
@[simp] theorem State.bump_boot (s : State) : (s.bump).boot = s.boot := rfl
@[simp] theorem State.bump_linkHalf (s : State) : (s.bump).linkHalf = s.linkHalf := rfl
@[simp] theorem State.bump_linkUp (s : State) : (s.bump).linkUp = s.linkUp := rfl
@[simp] theorem State.bump_measures (s : State) : (s.bump).measures = s.measures := rfl
@[simp] theorem State.bump_sigsLeft (s : State) : (s.bump).sigsLeft = s.sigsLeft := rfl
@[simp] theorem State.bump_clock (s : State) : (s.bump).clock = s.clock := rfl
@[simp] theorem State.bump_ns (s : State) : (s.bump).ns = s.ns := rfl
@[simp] theorem State.bump_dieTlbMiss (s : State) : (s.bump).dieTlbMiss = s.dieTlbMiss := rfl
@[simp] theorem State.bump_lastReply (s : State) : (s.bump).lastReply = s.lastReply := rfl
@[simp] theorem State.bump_cur (s : State) : (s.bump).cur = s.cur := rfl
@[simp] theorem State.bump_agenda (s : State) : (s.bump).agenda = s.agenda := rfl
@[simp] theorem State.bump_cmd (s : State) : (s.bump).cmd = s.cmd := rfl
@[simp] theorem State.bump_nextId (s : State) : (s.bump).nextId = s.nextId := rfl
@[simp] theorem State.bump_tick (s : State) : (s.bump).tick = s.tick + 1 := rfl

end Sys2Proof.Machine
end

