-- ==== Sys2Proof/Tests/Slice0.lean ====
section
/-! SUPPORT. The model's own tests. Words written out from the manual's encodings decode to the instructions they stand for; terms that check 5
of R106 refuses; worked values of the manual; and, for every statement with hypotheses, states and operands that meet them. -/
namespace Sys2Proof.Tests
open Sys2Proof.Machine Sys2Proof.Claims
-- One theorem at a time: each waits for the kernel, and a thread for every waiting one is more than the memory limit admits.
set_option Elab.async false

/-- Header 0: the guard is p0. -/
def h0 : Hdr := { neg := false, pred := 0, keep := false, lat := false, latch := 0, nowb := false }
def plain : NegAbs := { neg := false, abs := false }
def fa (ty : Ty) (d a b c : Opnd) (fn : Nat := 0) : FmtA :=
  { d := d, a := a, b := b, c := c, ty := ty, rnd := .rne, sat := false, na := plain, nb := plain, nc := plain, fn := BitVec.ofNat 10 fn }
def fi (ty : Ty) (d a : Opnd) (imm : W32) (fn : Nat := 0) : FmtI :=
  { d := d, a := a, imm := imm, ty := ty, rnd := .rne, sat := false, na := plain, fn := BitVec.ofNat 8 fn }
def fm (data base index : Opnd) (off : Nat := 0) (width : Width := .w32) (space : Space := .gen) (scope : Scope := .quire) (sel : BitVec 4 := 0) : FmtM :=
  { data := data, base := base, index := index, off := BitVec.ofNat 24 off, width := width, space := space, scope := scope, sel := sel }
def fe (d a b c : Opnd) (m : Nat := 0) : FmtE := { d := d, a := a, b := b, c := c, m := BitVec.ofNat 24 m }
def fc (t r : Nat) (a : Opnd) (m : Nat := 0) : FmtC :=
  { tdisp := BitVec.ofNat 24 t, rdisp := BitVec.ofNat 24 r, a := a, m := BitVec.ofNat 15 m }
def v (n : Nat) : Opnd := .v (BitVec.ofNat 11 n)
def sc (n : Nat) : Opnd := .s 0 (BitVec.ofNat 7 n)
def im (n : Int) : Opnd := .imm (BitVec.ofInt 10 n)
/-- No operand. -/
def z : Opnd := .v 0

/-! ### Words of the manual's worked cases -/

theorem test_word_brc : decode 0x008000000030000040012000 = some (.brc h0 (fc 3 4 (v 2) 0x2000)) := by decide +kernel
theorem test_word_region : decode 0x028000000000000000003003 = some (.region h0 (fc 0 0 z 0x3003)) := by decide +kernel
theorem test_word_iadd : decode 0x100000048027002000000000 = some (.iadd h0 (fa .i32 (v 9) (v 9) (im 1) z)) := by decide +kernel
theorem test_word_iaddI : decode 0x18000402A014000400000000 = some (.iaddI h0 (fi .i32 (sc 5) (sc 5) 0x10000)) := by decide +kernel
theorem test_word_fmul : decode 0x208120020004004000800000 =
    some (.fmul { h0 with lat := true, latch := 1 } (fa .f32 (v 4) (v 1) (v 2) z)) := by decide +kernel
theorem test_word_fadd : decode 0x20000002C004006000800000 = some (.fadd h0 (fa .f32 (v 5) (.l 0 1) (v 3) z)) := by decide +kernel
theorem test_word_fsub : decode 0x2040000DF003810000800000 = some (.fsub h0 (fa .f32 (v 27) (.x 0 0) (.x 0 8) z)) := by decide +kernel
theorem test_word_dfma : decode 0x30C000030013004002B00000 = some (.dfma h0 (fa .f64 (v 6) (v 4) (im 2) (v 2))) := by decide +kernel
/-- CVT.n32.to.f64 v8, s25, its word from R94, R99 and R197: opcode 0x100, type 1, function 0xB. -/
theorem test_word_cvt : decode 0x40000004206400000010000B = some (.cvt h0 (fa .n32 (v 8) (sc 25) z z 0xB)) := by decide +kernel
theorem test_word_redq : decode 0x510004020004000000800000 = some (.redq h0 (fa .f32 (sc 4) (v 1) z z)) := by decide +kernel
theorem test_word_xadd : decode 0x528000006FFC000000000000 = some (.xadd h0 (fa .i32 z (im (-1)) z z)) := by decide +kernel
theorem test_word_ld : decode 0x60000004200800C000080800 = some (.ld h0 (fm (v 8) (sc 2) (v 6) 64)) := by decide +kernel
theorem test_word_red : decode 0x7040040A206902A000000D8D = some (.red h0 (fm (sc 20) (sc 26) (sc 21) 0 .w64 .dspad .quire 0xD)) := by decide +kernel
theorem test_word_bararv : decode 0x80400404A010000000000001 = some (.bararv h0 (fe (sc 9) (sc 4) z z 1)) := by decide +kernel
theorem test_word_attach : decode 0x81800402E00502D800000000 = some (.attach h0 (fe (sc 5) (im 1) (sc 22) (im 0))) := by decide +kernel
theorem test_word_spawn : decode 0x82000000200C004000000018 = some (.spawn h0 (fe z (sc 3) (v 2) z 0x18)) := by decide +kernel
theorem test_word_cpy : decode 0x90000C002013200000000000 = some (.cpy h0 (fe (im 0) (sc 4) (im 256) z)) := by decide +kernel
theorem test_word_hwait : decode 0x91C00C1E0000000000000000 = some (.hwait h0 (fe (im 60) z z z)) := by decide +kernel
theorem test_word_mma : decode 0xA00000102009006804000000 = some (.mma h0 (fe (v 32) (sc 2) (sc 3) (sc 4))) := by decide +kernel
theorem test_word_mmar : decode 0xA08000100041013840220100 = some (.mmar h0 (fe (v 32) (v 16) (sc 9) (im 64) 0x220100)) := by decide +kernel
theorem test_word_mact : decode 0xA18000080081014000224000 = some (.mact h0 (fe (v 16) (v 32) (sc 10) z 0x224000)) := by decide +kernel
theorem test_word_hgfetch : decode 0xB1000014000900C000000000 = some (.hgfetch h0 (fe (v 40) (v 2) (sc 6) z)) := by decide +kernel
theorem test_word_tpay : decode 0xC00000006003021801000000 = some (.tpay h0 (fe z (im 0) (im 16) (im 1))) := by decide +kernel
theorem test_word_mprim : decode 0xC08800000000010802000000 = some (.mprim { h0 with pred := 2 } (fe z z (v 8) (sc 2))) := by decide +kernel
theorem test_word_pixout : decode 0xC18000000000010000000000 = some (.pixout h0 (fe z z (v 8) z)) := by decide +kernel
theorem test_word_rayq : decode 0xD0000000000100D800000000 = some (.rayq h0 (fe z z (sc 6) (im 0))) := by decide +kernel
theorem test_word_tsel : decode 0xE040000A2010000000000000 = some (.tsel h0 (fe (v 20) (sc 4) z z)) := by decide +kernel
theorem test_word_tleaf : decode 0xE104000E202C03001A000000 = some (.tleaf { h0 with pred := 1 } (fe (v 28) (sc 11) (v 24) (v 26))) := by decide +kernel
theorem test_word_coll : decode 0xE4000C02A020000000000000 = some (.coll h0 (fe (im 5) (sc 8) z z)) := by decide +kernel
theorem test_word_trapcall : decode 0xF04000050011028000000000 = some (.trapcall h0 (fe (v 10) (v 4) (sc 20) z)) := by decide +kernel
/-- R102: a function the table of opcodes leaves empty decodes to nothing. -/
theorem test_word_reserved : decode (BitVec.ofNat 96 (0x3FF * 2 ^ 86)) = none := by decide +kernel
/-- The host's numbering of a word's bits: bit 0 is the least significant of the first byte. -/
theorem test_table_word : decodeTableWord 96 0x100000048027002000000000 = some (.iadd h0 (fa .i32 (v 9) (v 9) (im 1) z)) := by decide +kernel

/-! ### Terms check 5 of R106 refuses: one for each thing it looks at -/

theorem test_wellformed : (Instr.iadd h0 (fa .i32 (v 9) (v 9) (im 1) z)).WellFormed := by constructor <;> decide +kernel
/-- R82: keep on an instruction that has none; a latch or no-writeback without a destination; a latch of a result above 64 bits. -/
theorem test_refused_header :
    (Instr.iadd { h0 with keep := true } (fa .i32 (v 1) (v 2) (v 3) z)).fault = some 0x03
    ∧ (Instr.st { h0 with nowb := true } (fm (v 1) (sc 2) (im 0))).fault = some 0x03
    ∧ (Instr.ld { h0 with lat := true } (fm (v 4) (sc 2) (im 0) 0 .w128)).fault = some 0x03 := by decide +kernel
/-- R87, R89, R499: a register past 1,535, reserved bits of a scalar, an odd pair, a destination that is inline. -/
theorem test_refused_specifier :
    (Instr.iadd h0 (fa .i32 (.v 1536) (v 2) (v 3) z)).fault = some 0x03 ∧ (Instr.iadd h0 (fa .i32 (v 1) (.s 1 2) (v 3) z)).fault = some 0x03
    ∧ (Instr.iadd h0 (fa .i64 (v 1) (v 2) (v 4) z)).fault = some 0x03 ∧ (Instr.iadd h0 (fa .i32 (im 1) (v 2) (v 3) z)).fault = some 0x03 := by decide +kernel
/-- R86: an operand the instruction does not read; R101: a rounding field on one that does not round; R178: saturate, a type, a function. -/
theorem test_refused_fields :
    (Instr.iadd h0 (fa .i32 (v 1) (v 2) (v 3) (v 4))).fault = some 0x03
    ∧ (Instr.iadd h0 { fa .i32 (v 1) (v 2) (v 3) z with rnd := .rtz }).fault = some 0x03
    ∧ (Instr.shl h0 { fa .i32 (v 1) (v 2) (v 3) z with sat := true }).fault = some 0x03
    ∧ (Instr.iadd h0 (fa .f32 (v 1) (v 2) (v 3) z)).fault = some 0x03
    ∧ (Instr.iadd h0 (fa .i32 (v 1) (v 2) (v 3) z 1)).fault = some 0x03
    ∧ (Instr.iadd h0 { fa .n32 (v 1) (v 2) (v 3) z with na := { neg := true, abs := false } }).fault = some 0x03
    ∧ (Instr.iadd h0 (fa .i32 (sc 1) (v 2) (v 3) z)).fault = some 0x03
    ∧ (Instr.fadd h0 (fa .f32 (v 1) (v 2) (im 300) z)).fault = none := by decide +kernel
/-- R97, R106: a space code above 4 is trap 0x0B, a width, a scope or a hint trap 0x03. -/
theorem test_refused_memory :
    (Instr.ld h0 (fm (v 1) (sc 2) (im 0) 0 .w32 .bad5)).fault = some 0x0B ∧ (Instr.ld h0 (fm (v 1) (sc 2) (im 0) 0 .bad6)).fault = some 0x03
    ∧ (Instr.ld h0 (fm (v 1) (sc 2) (im 0) 0 .w32 .gen .die)).fault = some 0x03
    ∧ (Instr.ld h0 (fm (v 1) (sc 2) (im 0) 0 .w32 .gen .quire 0xA)).fault = some 0x03 := by decide +kernel
/-- R137, R261, R274, R447: a modifier bit with no meaning in a form of each kind. -/
theorem test_refused_modifier :
    (Instr.bra h0 (fc 1 2 z 1)).fault = some 0x03 ∧ (Instr.hfree h0 (fe (im 3) z z z 1)).fault = some 0x03
    ∧ (Instr.mma h0 (fe (v 32) (sc 2) (sc 3) (sc 4) 0x010000)).fault = some 0x03 ∧ (Instr.trap h0 (fe z z z z 0x10000)).fault = some 0x03 := by decide +kernel

/-! ### Values -/

/-- R179: IADD.sat and ISUB.n32.sat clamp; IMIN of a negative number. -/
theorem test_saturation : intPut .i32 true (0x7FFFFFF0 + 0x20) = 0x7FFFFFFF ∧ intPut .n32 true (3 - 5) = 0 ∧ intPut .i32 false (0x7FFFFFFF + 1) = 0x80000000
    ∧ intSrc .i8x4 { neg := false, abs := true } 0x80 = -128 := by decide +kernel
/-- R180: the high word of −2^31 × 2. -/
theorem test_imulh : mulHigh (Alu.ofA h0 (fa .i32 z z z z)) { a := ⟨0x80000000, false⟩, b := ⟨2, false⟩, c := ⟨0, false⟩, d := ⟨0, false⟩ } = 0xFFFFFFFF := by
  decide +kernel
/-- R181: a count of the width or more. -/
theorem test_shifts : shiftRight 32 0x80000001 35 0 = 0 ∧ shiftArith 32 0x80000001 35 0 = 0xFFFFFFFF ∧ rotateLeft 32 0x80000001 33 0 = 3 := by decide +kernel
/-- R182: (a AND b) OR c is code 0xF8; the counts of nothing and of everything. -/
theorem test_logic : Machine.tril 0xE8 32 0xF0F0F0F0 0xFF00FF00 0xFFFF0000 = 0xFFF0F000 ∧ leadingZeros 32 0 0 0 = 32 ∧ popCount 64 (2 ^ 64 - 1) 0 0 = 64
    ∧ bitReverse 32 1 0 0 = 0x80000000 := by decide +kernel
/-- R183: four bits from bit 8 of 0x0F00 are −1; a field put over others. -/
theorem test_fields : fieldExtract true 32 0x0F00 0x0408 = 0xFFFFFFFF ∧ fieldInsert 32 0x5 0x0404 0xFFFFFFFF = 0xFFFFFF5F := by decide +kernel
/-- R155, R158: 1 + 2^−24 rounds to even, and is inexact. -/
theorem test_fadd : (fpAdd { mode := .rne, sat := false, ftz := false } .f32 0x3F800000 0x33800000 0).1 = 0x3F800000 := by decide +kernel
/-- R373, R381: the tracked word of the worked case, two quires expected, generation 1; it is what a release at two of two arrivals leaves. -/
theorem test_barrier_word : (Bar.of 0x0020000001010000).word = 0x0020000001010000 ∧ Bar.of 0x0020000001010000 = { expected := 2, arrived := 0, gen := 1, low := 0x10000 }
    ∧ (Bar.settle { expected := 2, arrived := 2, gen := 0, low := 0x10000 }).word = 0x0020000001010000 := by decide +kernel

/-! ### States the statements' hypotheses hold in -/

/-- One quire of 32 active lanes, before its one instruction, as `withFetchWord` makes it. -/
def base : State := State.reset.withFetchWord 96 0

/-- An instruction that executes in a state, what else is to hold of it there. -/
structure Case where
  s : State
  i : Instr
  p : Env → Bool

def Case.ok (c : Case) : Bool :=
  match c.s.envOf c.s.cur with
  | some e => (e.check c.i).isNone && e.recorded.isNone && (c.s.stallOf e 0 c.i).isNone && c.p e
  | none => false

theorem Case.of_ok {c : Case} (h : c.ok = true) : ∃ e, Executes c.s e c.i ∧ c.p e = true := by
  unfold Case.ok at h
  split at h
  · next e he =>
    simp only [Bool.and_eq_true, Option.isNone_iff_eq_none] at h
    exact ⟨e, ⟨he, h.1.1.1, h.1.1.2, h.1.2⟩, h.2⟩
  · cases h

/-- Every case is met: the instruction executes there, and the rest holds. -/
abbrev Met (l : List Case) : Prop := ∀ c ∈ l, ∃ e, Executes c.s e c.i ∧ c.p e = true
theorem cases_ok (l : List Case) (h : l.all Case.ok = true) : Met l :=
  fun c hc => Case.of_ok (List.all_eq_true.mp h c hc)

def yes (_ : Env) : Bool := true

/-- Vector word `n` in every lane; a scalar. -/
def State.vset (s : State) (n : Nat) (x : Nat) : State :=
  s.modQuire 1 fun q => { q with regs := (List.range 32).foldl (fun r l => r.vput n l (BitVec.ofNat 32 x) false) q.regs }
def withV (s : State) (n x : Nat) : State := s.modQuire 1 fun q => { q with regs := (List.range 32).foldl (fun r l => r.vput n l (BitVec.ofNat 32 x) false) q.regs }
def withS (s : State) (n x : Nat) : State := s.modQuire 1 fun q => { q with regs := q.regs.sput n (BitVec.ofNat 64 x) false }
/-- Lane 0 alone in a predicate. -/
def withP (s : State) (k : Nat) : State := s.modQuire 1 fun q => { q with regs := q.regs.pput k (LaneSet.below 32) 1 }
def withQ (s : State) (f : Quire → Quire) : State := s.modQuire 1 f
def h1 : Hdr := { h0 with pred := 1 }

/-! ### Instructions on registers -/

theorem untrapped {e : Env} {j : Job} (h : e.enables = 0) : Untrapped e j := fun l _ => by rw [h]; simp

theorem jobs_ok {α : Type} (f : Instr → Option α) (l : List Instr)
    (h : l.all (fun i => Case.ok ⟨base, i, fun e => (f i).isSome && e.enables == 0⟩) = true) :
    ∀ i ∈ l, ∃ e j, f i = some j ∧ Executes base e i ∧ ∀ k, Untrapped e k := by
  intro i hi
  obtain ⟨e, he, hp⟩ := Case.of_ok (List.all_eq_true.mp h i hi)
  simp only [Bool.and_eq_true, Option.isSome_iff_exists, beq_iff_eq] at hp
  obtain ⟨⟨j, hj⟩, hn⟩ := hp
  exact ⟨e, j, hj, he, fun k => untrapped hn⟩

def a1 : FmtA := fa .i32 (v 10) (v 2) z z
def a2 : FmtA := fa .i32 (v 10) (v 2) (v 4) z
def a3 : FmtA := fa .i32 (v 10) (v 2) (v 4) (v 6)
def i1 : FmtI := fi .i32 (v 10) (v 2) 7
def f1 : FmtA := fa .f32 (v 10) (v 2) z z
def f2 : FmtA := fa .f32 (v 10) (v 2) (v 4) z
def f3 : FmtA := fa .f32 (v 10) (v 2) (v 4) (v 6)
def fimm : FmtI := fi .f32 (v 10) (v 2) 0x3F800000
def d1 : FmtA := fa .f64 (v 10) (v 2) z z
def d2 : FmtA := fa .f64 (v 10) (v 2) (v 4) z
def d3 : FmtA := fa .f64 (v 10) (v 2) (v 4) (v 6)
def dimm : FmtI := fi .f64 (v 10) (v 2) 0x3F800000

theorem wit_arithmetic : ∀ i ∈ [Instr.iadd h0 a2, .iaddI h0 i1, .isub h0 a2, .isubI h0 i1, .imul h0 a2, .imulI h0 i1, .imad h0 a3, .imadI h0 i1,
      .imin h0 a2, .iminI h0 i1, .imax h0 a2, .imaxI h0 i1, .iabs h0 a1, .ineg h0 a1, .iadd3 h0 a3, .iadd3I h0 i1, .isad h0 a3, .isadI h0 i1,
      .iclamp h0 a3, .iclampI h0 i1],
    ∃ e j, intJob i = some j ∧ Executes base e i ∧ ∀ k, Untrapped e k := jobs_ok intJob _ (by decide +kernel)

theorem wit_words : ∀ i ∈ [Instr.imulh h0 a2, .imulhI h0 i1, .imadw h0 a3, .imadwI h0 i1, .shl h0 a2, .shlI h0 i1, .shr h0 a2, .shrI h0 i1, .sar h0 a2,
      .rotl h0 a2, .tril h0 { a3 with fn := 0xE8 }, .trilI h0 i1, .and h0 a2, .andI h0 i1, .or h0 a2, .orI h0 i1, .xor h0 a2, .xorI h0 i1, .not h0 a1,
      .popc h0 a1, .clz h0 a1, .brev h0 a1, .bfe h0 a2, .bfeI h0 i1, .bfi h0 a3, .bfiI h0 i1, .mov h0 a1, .movI h0 (fi .i32 (v 10) z 7),
      .lea h0 a2, .leaI h0 i1, .mov h0 (fa .i64 (sc 4) (sc 2) z z)],
    ∃ e j, bitJob i = some j ∧ Executes base e i ∧ ∀ k, Untrapped e k := jobs_ok bitJob _ (by decide +kernel)

theorem wit_float : ∀ i ∈ [Instr.fadd h0 f2, .faddI h0 fimm, .fsub h0 f2, .fsubI h0 fimm, .fmul h0 f2, .fmulI h0 fimm, .ffma h0 f3, .ffmaI h0 fimm,
      .fmin h0 f2, .fminI h0 fimm, .fmax h0 f2, .fmaxI h0 fimm, .fsqrt h0 f1, .frcp h0 f1, .frsq h0 f1, .fexp2 h0 f1, .flog2 h0 f1, .fsin h0 f1,
      .fcos h0 f1, .ftanh h0 f1, .fclass h0 f1, .fscale h0 f2, .fscaleI h0 fimm, .ffrc h0 f1, .frnd h0 f1, .fdot2 h0 { f3 with ty := .f16x2 },
      .fdot2I h0 { fimm with ty := .bf16x2 }],
    ∃ e j, floatJob i = some j ∧ Executes base e i ∧ ∀ k, Untrapped e k := jobs_ok floatJob _ (by decide +kernel)

theorem wit_double : ∀ i ∈ [Instr.dadd h0 d2, .daddI h0 dimm, .dsub h0 d2, .dsubI h0 dimm, .dmul h0 d2, .dmulI h0 dimm, .dfma h0 d3, .dmin h0 d2,
      .dminI h0 dimm, .dmax h0 d2, .dmaxI h0 dimm, .drcpa h0 d1, .drsqa h0 d1, .dsqrt h0 d1, .ddiv h0 d2, .ddivI h0 dimm, .dclass h0 d1, .dscale h0 d2,
      .dscaleI h0 dimm, .drnd h0 d1, .dfrc h0 d1],
    ∃ e j, doubleJob i = some j ∧ Executes base e i ∧ ∀ k, Untrapped e k := jobs_ok doubleJob _ (by decide +kernel)

theorem wit_convert : ∀ i ∈ [Instr.cvt h0 { a1 with fn := 8 }, .cvtp h0 { f2 with fn := 9 }, .deq h0 { a2 with ty := .i8x4 }, .b8dec h0 f1, .b8enc h0 f1,
      .bmux h0 { a3 with ty := .n32 }, .pack h0 a2],
    ∃ e j, convertJob i = some j ∧ Executes base e i ∧ ∀ k, Untrapped e k := jobs_ok convertJob _ (by decide +kernel)

theorem wit_compare : ∀ i ∈ [Instr.icmp h0 { a2 with d := z, fn := 8 }, .icmpI h0 { i1 with d := z, fn := 8 }, .fcmp h0 { f2 with fn := 0x90 },
      .fcmpI h0 { fimm with d := z, fn := 16 }, .dcmp h0 { d2 with d := z, fn := 16 }, .dcmpI h0 { dimm with d := z, fn := 16 }],
    ∃ e j, cmpJob i = some j ∧ Executes base e i ∧ ∀ k, Untrapped e k := jobs_ok cmpJob _ (by decide +kernel)

def selOnce : FmtA := fa .i32 (sc 1) (sc 2) (sc 4) z 1
/-- SEL in lanes, SEL once under a uniform and under a mixed predicate. -/
theorem wit_select : Met [⟨base, .sel h0 a2, yes⟩, ⟨base, .selI h0 i1, yes⟩,
    ⟨base, .sel h0 selOnce, fun e => decide (¬ Mixed e (Alu.ofA h0 selOnce))⟩,
    ⟨withP base 1, .sel h0 selOnce, fun e => (Alu.ofA h0 selOnce).once (specSel (Alu.ofA h0 selOnce)) && decide (Mixed e (Alu.ofA h0 selOnce))⟩] :=
  cases_ok _ (by decide +kernel)

def n1 : FmtA := fa .n32 (v 10) (v 2) z z
def n2 : FmtA := fa .n32 (v 10) (v 2) (v 4) z
/-- XLANE of each kind, SREAD, UBCAST from the lowest lane that takes effect, MASKRD of the four masks. -/
theorem wit_lanes : Met [⟨base, .xlane h0 n2, fun e => (e.segment 0).isSome⟩, ⟨base, .xlane h0 { n2 with fn := 1 + 4 * 5 }, fun e => (e.segment 5).isSome⟩,
    ⟨base, .sread h0 (fa .n32 (v 10) z z z), yes⟩, ⟨base, .ubcast h0 { n1 with d := sc 4 }, fun e => (LaneSet.lowest e.width (e.contrib h0)).isSome⟩,
    ⟨base, .maskrd h0 (fa .i32 (sc 4) z z z), fun e => decide (0 < e.words)⟩, ⟨base, .maskrd h0 (fa .i32 (v 10) z z z 3), fun e => decide (0 < e.words)⟩] :=
  cases_ok _ (by decide +kernel)

def wide : State := { base with vols := base.vols.map fun x => (x.1, { x.2 with pkt := { x.2.pkt with width := 3 }, desc := { x.2.desc with width := 3 } }) }
/-- The six forms of POLL; `.mask` into a scalar at 32 lanes and at 128. -/
theorem wit_poll : Met [⟨base, .poll h0 (fa .i32 z z z z 0x10), yes⟩, ⟨base, .poll h0 (fa .i32 z z z z 0x91), yes⟩, ⟨base, .poll h0 (fa .i32 z z z z 0x11F), yes⟩,
    ⟨base, .poll h0 (fa .i32 z z z z 0x190), yes⟩, ⟨base, .poll h0 (fa .i32 (v 10) z z z 0x200), yes⟩,
    ⟨base, .poll h0 (fa .i32 (sc 4) z z z 0x200), fun e => decide (e.width ≤ 64)⟩, ⟨wide, .poll h0 (fa .i32 (sc 4) z z z 0x200), fun e => decide (64 < e.width)⟩,
    ⟨base, .poll h0 (fa .i32 (sc 4) z z z 0x280), yes⟩] := cases_ok _ (by decide +kernel)

theorem wit_predicates : Met [⟨base, .plop h0 (fa .i32 z (im 3) (im 0x96) z 0x51), yes⟩, ⟨base, .pmov h0 (fa .i32 (v 10) z z z), yes⟩,
    ⟨base, .pmov h0 (fa .i32 z (v 2) z z 0x2FE), yes⟩] := cases_ok _ (by decide +kernel)

def zeroFlags (e : Env) (fl : List LaneFl) : Bool := (e.flagTrap fl).isNone
/-- Folds and scans without an enabled flag, a whole-quire fold into a scalar and one by segments; MATCH. -/
theorem wit_folds : Met [⟨base, .redq h0 (fa .i32 (sc 4) (v 2) z z), fun e => (e.segment 0).isSome && (e.segment 0).all fun size =>
      let x := Alu.ofA h0 (fa .i32 (sc 4) (v 2) z z)
      zeroFlags e (((List.range (e.width / size)).map fun k =>
        e.foldSegment x false (e.effect h0) (e.contrib h0) ((List.range size).map fun i => k * size + i)).flatMap Fold.fl)⟩,
    ⟨base, .scanq h0 (fa .i32 (v 10) (v 2) z z 0x28), fun e => (e.segment 5).isSome && (e.segment 5).all fun size =>
      let x := Alu.ofA h0 (fa .i32 (v 10) (v 2) z z 0x28)
      zeroFlags e (((List.range (e.width / size)).map fun k =>
        e.foldSegment x true (e.effect h0) (e.contrib h0) ((List.range size).map fun i => k * size + i)).flatMap Fold.fl)⟩,
    ⟨base, .matchQ h0 (fa .n32 (v 10) (v 2) z z 1), yes⟩] := cases_ok _ (by decide +kernel)

/-- A quire with 3 blocks in hand, and one with some of its lanes absent. -/
def blocks : State := withQ base fun q => { q with regs := { q.regs with reserve := 3 } }
def holes : State := withQ base fun q => { q with regs := { q.regs with absent := 0xFF00, path := 0xFFFF00FF } }
theorem wit_windows : Met [
    ⟨withS base 2 3, .swrite h0 (fa .i32 z (sc 2) z z 0x12), fun e =>
      decide (e.uniform h0 = .all ∧ Clean e h0 (sc 2) .i64 ∧ (e.readOnce h0 (sc 2) .i64).n % 8 < 5)⟩,
    ⟨base, .swrite h0 (fa .i32 z (sc 2) z z 0x13), fun e => decide (e.uniform h0 = .all ∧ Clean e h0 (sc 2) .i64)⟩,
    ⟨base, .xset h0 (fa .i32 z (v 2) z z 3), fun e => decide (CleanLanes e h0 (v 2) .i32)⟩,
    ⟨base, .xadd h0 (fa .i32 z (im (-1)) z z), fun e => decide (CleanLanes e h0 (im (-1)) .i32)⟩,
    ⟨base, .claim h0 (fa .i32 z (im 2) z z), fun e => decide (e.uniform h0 = .all ∧ Clean e h0 (im 2) .n32
      ∧ (e.readOnce h0 (im 2) .n32).n ≠ 0 ∧ e.q.regs.reserve + (e.readOnce h0 (im 2) .n32).n ≤ e.vol.pkt.alloc
      ∧ e.q.regs.reserve + (e.readOnce h0 (im 2) .n32).n ≤ 128 / e.words)⟩,
    ⟨blocks, .surr h0 (fa .i32 z (im 2) z z), fun e => decide (e.uniform h0 = .all ∧ Clean e h0 (im 2) .n32
      ∧ (e.readOnce h0 (im 2) .n32).n < e.q.regs.reserve)⟩,
    ⟨holes, .pad h0 (fa .i32 z z z z 1), fun e => decide (e.uniform h0 = .all) && (e.padWords 1).isSome && !e.view.stack.any StackEntry.isReconv⟩,
    ⟨holes, .unpad h0 (fa .i32 z z z z 0), fun e => decide (e.uniform h0 = .all) && (e.padWords 0).isSome⟩] := cases_ok _ (by decide +kernel)

theorem wit_blocks : Met [⟨base, .cvtq h0 (fa .f32 (v 10) (v 2) z z 0xC), fun e => zeroFlags e
      (((e.byWord (e.effect h0)).flatMap fun ls => cvtqBlock (tyOfCode 0xC) (e.mode .rne) (ls.map fun l => (l, (e.readTy (v 2) .f32 l).n))).filterMap fun r =>
        if r.2.2 = 0 then none else some { lane := r.1, fl := r.2.2 })⟩,
    ⟨base, .bppack h0 (fa .n32 (v 10) (v 2) (v 4) z 2), yes⟩, ⟨base, .bpunp h0 (fa .i32 (v 10) (v 2) z z 0xE), yes⟩] := cases_ok _ (by decide +kernel)

def trapOf (c : State × Instr) : Option Nat := (c.1.envOf c.1.cur).bind fun e => (e.check c.2).map TrapInfo.code
/-- A quire in handler mode, its record at 0x10_0400. -/
def handling : State := withQ base fun q => { q with regs := { q.regs with
  handler := some { bank := [], bad := [], fpmode := 0, record := 0x100400, held := none, latches := [], line := 0, groups := 0 }, stack := [.handler] } }
theorem wit_handle : (base.envOf 1).any (fun e => e.handleBad (.hfree h0 (fe (im 70) z z z)) h0 && !e.handleBad (.hfree h0 (fe (im 3) z z z)) h0) = true := by
  decide +kernel
/-- R106: one check of each kind that fails: privilege in handler mode and out of it, a field, a space, an odd base, a register past the allocation
(the last one of it stands), a latch nothing has written, a handle that
does not exist (R262). -/
theorem wit_checks : [(handling, Instr.region h0 (fc 0 0 z 0)), (base, .decsel h0 (fe (sc 2) (im 0) (sc 4) z)), (base, .iadd h0 { a2 with fn := 1 }),
      (base, .ld h0 (fm (v 1) (sc 2) (im 0) 0 .w32 .bad7)), (base, .iadd h0 { a2 with ty := .i64, a := .x 0 1 }), (base, .iadd h0 { a2 with d := .v 1535 }),
      (base, .iadd h0 { a2 with d := .v 1536 }), (base, .iadd h0 { a2 with a := .l 0 3 }),
      (base, .hfree h0 (fe (im 70) z z z))].map trapOf
    = [some 0x0D, some 0x0D, some 0x03, some 0x0B, some 0x03, none, some 0x03, some 0x05, some 0x03] := by decide +kernel
theorem wit_checks_bounds : trapOf ({ base with vols := base.vols.map fun x => (x.1, { x.2 with pkt := { x.2.pkt with alloc := 2 } }) },
    .iadd h0 { a2 with d := .v 32 }) = some 0x04 := by decide +kernel

/-! ### Control flow -/

def ok {α β : Type} : Except α β → Bool
  | .ok _ => true
  | .error _ => false
def okOf {α β γ : Type} (r : Except α β × γ) : Bool := ok r.1

/-- A stack of 1,024 call markers. -/
def deep : List StackEntry := List.replicate 1024 .call

/-- Guards all false, and not uniform, for an instruction of each kind that asks for a uniform one. -/
theorem wit_guards : Met ((([.call h1 (fc 1 0 z 3), .callx h1 (fc 0 0 (sc 2) 3), .ret h1 (fc 0 0 (sc 2)), .loop h1 (fc 1 2 (sc 2)), .swrite h1 (fa .i32 z (sc 2) z z 0x13),
      .claim h1 (fa .i32 z (im 1) z z), .surr h1 (fa .i32 z (im 1) z z), .pad h1 (fa .i32 z z z z), .unpad h1 (fa .i32 z z z z),
      .atoms h1 (fm (sc 4) (sc 2) (sc 3) 0 .w32 .gen .quire 0), .fence h1 (fm z z z 0 .w8 .gen .dev 0), .barinit h1 (fe z (sc 2) (im 3) z), .bararv h1 (fe (sc 4) (sc 2) z z),
      .barwait h1 (fe z (sc 2) (sc 3) z), .bartry h1 (fe z (sc 2) (sc 3) z 0x20), .trywait h1 (fe z (sc 2) (sc 3) (im 5) 0x200000), .msync h1 (fe z (im 1) z z),
      .attach h1 (fe (sc 4) (im 1) (sc 2) (im 0)), .detach h1 (fe z z z z), .qpush h1 (fe (sc 4) (im 1) (sc 2) z)] : List Instr).flatMap fun i =>
      [⟨base, i, fun e => uniformOnly i && decide (e.uniform h1 = .none)⟩, ⟨withP base 1, i, fun e => uniformOnly i && decide (e.uniform h1 = .mixed)⟩])) :=
  cases_ok _ (by decide +kernel)

def splits (s : State) (i : Instr) (p : Env → Branch → Bool) : Case :=
  ⟨s, i, fun e => match branchOf s e i with
    | some b => e.path != 0 && p e b
    | none => false⟩
def lane0 : State := withP base 1
def bra1 : FmtC := fc 2 4 z
/-- All lanes branch, none does, and every way of a split. -/
theorem wit_branches : Met [splits base (.bra h0 bra1) fun e b => decide (b.t = e.path), splits base (.brc h0 (fc 2 4 (v 2) 0x2000)) fun _ b => decide (b.t = 0),
    splits lane0 (.bra h1 (fc 2 0 z)) fun e b => decide (b.t ≠ e.path ∧ b.t ≠ 0 ∧ b.rdisp = 0),
    splits (withQ lane0 fun q => { q with fall := loadPc + 4, regs := { q.regs with stack := [.reconv (loadPc + 4) 0xFF none] } }) (.bra h1 bra1) fun e b =>
      decide (b.t ≠ e.path ∧ b.t ≠ 0 ∧ b.rdisp ≠ 0 ∧ waitsAt e (e.target b.rdisp) = true),
    splits (withQ lane0 fun q => { q with regs := { q.regs with stack := deep } }) (.bra h1 bra1) fun e b =>
      decide (b.t ≠ e.path ∧ b.t ≠ 0 ∧ b.rdisp ≠ 0 ∧ waitsAt e (e.target b.rdisp) = false ∧ 1024 ≤ e.q.regs.stack.length),
    splits (withQ lane0 fun q => { q with fall := loadPc + 4, regs := { q.regs with stack := deep.drop 1 } }) (.brx h1 (fc 0 4 (sc 2))) fun e b =>
      decide (b.t ≠ e.path ∧ b.t ≠ 0 ∧ b.rdisp ≠ 0 ∧ waitsAt e (e.target b.rdisp) = false ∧ e.q.regs.stack.length < 1024 ∧ e.q.fall = e.target b.rdisp),
    splits (withV lane0 2 1) (.loop h1 (fc 2 4 (v 2))) fun _ b => decide (b.t = 0),
    splits lane0 (.loop h1 (fc 2 4 (v 2))) fun e b =>
      decide (b.t ≠ e.path ∧ b.t ≠ 0 ∧ b.rdisp ≠ 0 ∧ waitsAt e (e.target b.rdisp) = false ∧ e.q.regs.stack.length < 1024 ∧ e.q.fall ≠ e.target b.rdisp)] :=
  cases_ok _ (by decide +kernel)

def calling : State := withQ base fun q => { q with regs := { q.regs with stack := [.call] } }
def all (e : Env) : Bool := decide (e.uniform h0 = .all)
theorem wit_calls : Met [⟨base, .call h0 (fc 2 0 z 3), fun e => all e && decide (e.q.regs.stack.length < 1024)⟩,
    ⟨base, .callx h0 (fc 0 0 (v 2) 3), fun e => all e && decide (e.q.regs.stack.length < 1024 ∧ e.poisoned (e.effect h0) (v 2) .n64 = 0
      ∧ e.lanes (e.effect h0) ≠ [] ∧ ∀ k ∈ e.lanes (e.effect h0), (e.readTy (v 2) .n64 k).n = 0)⟩,
    ⟨calling, .ret h0 (fc 0 0 (sc 3)), fun e => all e && decide (Fresh e h0 [e.readOnce h0 (sc 3) .n64] ∧ e.q.regs.stack = [.call])⟩,
    ⟨base, .ret h0 (fc 0 0 (sc 3)), fun e => all e && decide (Fresh e h0 [e.readOnce h0 (sc 3) .n64] ∧ e.q.regs.stack.head? ≠ some .call)⟩,
    ⟨withS base 2 1, .loop h0 (fc 2 4 (sc 2)), fun e => all e && decide (Fresh e h0 [e.readOnce h0 (sc 2) .n64])⟩] := cases_ok _ (by decide +kernel)

def debugged : State := { base with ctxs := base.ctxs.map fun x => (x.1, { x.2 with debugBkpt := true }) }
theorem wit_path : Met [⟨base, .nop h0 (fc 0 0 z), yes⟩, ⟨base, .reconv h0 (fc 0 0 z), yes⟩, ⟨base, .exit h1 (fc 0 0 z), fun e => e.effect h1 == 0⟩,
    ⟨base, .exit h0 (fc 0 0 z), fun e => e.effect h0 != 0⟩, ⟨base, .yield h0 (fc 0 0 z), yes⟩, ⟨base, .bkpt h1 (fc 0 0 z), fun e => e.effect h1 == 0⟩,
    ⟨base, .bkpt h0 (fc 0 0 z 5), fun e => e.effect h0 != 0 && !e.ctx.debugBkpt⟩,
    ⟨base, .sigck h0 (fc 0 0 z 1), fun e => !e.handlerMode⟩,
    ⟨withQ base fun q => { q with regs := { q.regs with latchedMask := LaneSet.below 32 } }, .sigck h0 (fc 0 0 z), fun e => !e.handlerMode
      && decide (e.q.regs.sig = 0 ∧ e.q.regs.path &&& ~~~e.q.regs.padding = e.q.regs.latchedMask)⟩] := cases_ok _ (by decide +kernel)

/-- A liveness entry at 0x10_0400 that keeps v0 to v15. -/
def lively : State :=
  let live := leBytes 2 0 ++ leBytes 2 16 ++ List.replicate 4 0 ++ List.replicate 24 0
  { base with mem := base.mem.setBytes 0x100400 live,
              vols := base.vols.map fun x => (x.1, { x.2 with desc := { x.2.desc with liveVa := 0x100400, liveN := 1 } }) }
theorem wit_region : Met [⟨lively, .region h0 (fc 0 0 z), fun e => decide (0 < e.desc.liveN) && e.q.queries.isEmpty &&
    match lively.xl (dieOfCore e.g.pcore) e.g.vol e.vol.ctx e.ctx.root (e.desc.liveVa + 32 * 0) .load with
    | (.ok x, t) => paKind x.pa != .peer && (livenessOf ((t.roRead e.g.pcore x.pa 32).1.map Prod.fst) e.names e.vol.portion).isSome
      && x.pa % 32 == 0 && (findRo (t.core e.g.pcore).ro (x.pa / 128)).isNone && (livenessOf (t.mem.bytes x.pa 32) e.names e.vol.portion).isSome
    | _ => false⟩] := cases_ok _ (by decide +kernel)

/-! ### Memory -/

/-- s2 and s4 are addresses in the mapped page, aligned to 256. -/
def aimed : State := withS (withS base 2 0x100400) 4 0x100800
def acts (h : Hdr) (e : Env) : Bool := e.effect h != 0
/-- No lane takes effect. -/
def noLane (e : Env) : Bool := e.effect h1 == 0
def ldG : FmtM := fm (v 8) (sc 2) (im 0)
def ldC : FmtM := { ldG with space := .cspad, width := .w128 }
/-- Every spot of the lanes an access names is found. -/
def reads (s : State) (f : FmtM) (e : Env) : Bool := acts h0 e && (e.privTrap f (e.lanes (e.effect h0))).isNone
  && (match e.spots s f (Wd f.width) 0 (bypassed f) .load (checked e h0) with
    | .ok (_, t) => decide (PadsReady t e f (e.lanes (e.effect h0 &&& e.view.padding)))
    | _ => false)
def readsOnce (s : State) (f : FmtM) (e : Env) : Bool := acts h0 e && e.contrib h0 != 0 && (LaneSet.lowest e.width (e.effect h0)).any fun l =>
  ok (e.spots s f (Wd f.width) (e.contrib h0) (bypassed f) .load [l])
def ldS : FmtM := { ldG with data := sc 8, width := .w64 }
/-- A state whose one true lane of p1 is padding. -/
def padded : State := withQ lane0 fun q => { q with regs := { q.regs with padding := 1 } }
theorem wit_loads : Met [⟨aimed, .ld h0 ldG, reads aimed ldG⟩, ⟨base, .ld h0 ldC, reads base ldC⟩, ⟨aimed, .lds h0 ldS, readsOnce aimed ldS⟩,
    ⟨padded, .lds h1 ldS, fun e => e.contrib h1 == 0 && (LaneSet.lowest e.width (e.effect h1)).any fun l => decide (PadsReady padded e ldS [l])⟩,
    ⟨aimed, .ldacq h0 ldG, reads aimed ldG⟩, ⟨aimed, .ldacq h0 ldS, readsOnce aimed ldS⟩,
    ⟨withP aimed 1, .ldro h1 ldG, fun e => acts h1 e && (e.addrTrap (withP aimed 1) ldG (Wd ldG.width) 0 (checked e h1)).isNone
      && ok (e.roLanes h1 ldG (checked e h1) (withP aimed 1))⟩,
    ⟨aimed, .ld h1 ldG, noLane⟩, ⟨aimed, .ldro h1 ldG, noLane⟩] :=
  cases_ok _ (by decide +kernel)

def stores (s : State) (f : FmtM) (e : Env) : Bool := acts h0 e && (e.privTrap f (e.lanes (e.effect h0))).isNone && ok (e.storePlan s f 0 (checked e h0))
def storesOnce (s : State) (f : FmtM) (e : Env) : Bool := acts h0 e && e.contrib h0 != 0
  && ok (e.storePlan s f (e.contrib h0) (LaneSet.lowest e.width (e.effect h0)).toList)
theorem wit_stores : Met [⟨aimed, .st h0 ldG, stores aimed ldG⟩, ⟨base, .st h0 ldC, stores base ldC⟩, ⟨aimed, .sts h0 ldS, storesOnce aimed ldS⟩,
    ⟨padded, .sts h1 ldS, fun e => e.contrib h1 == 0 && acts h1 e⟩, ⟨aimed, .strel h0 ldG, stores aimed ldG⟩,
    ⟨aimed, .st h1 ldG, noLane⟩, ⟨aimed, .sts h1 ldS, noLane⟩, ⟨aimed, .strel h1 ldG, noLane⟩] := cases_ok _ (by decide +kernel)

def cache (e : Env) (f : FmtM) : Bool := (LaneSet.lowest e.width (e.effect h0)).any fun l =>
  !(e.baseVal f l).bad && !(e.indexVal f l).bad && !(e.readOnce h0 f.data .n32).bad
def line : FmtM := fm z (sc 2) (im 0) 0 .w8
def lines (sel : BitVec 4) : FmtM := { line with data := im 2, sel := sel }
/-- No store of the core is on its way, before or after the lines are named. -/
def noneOut (s : State) (f : FmtM) (e : Env) : Bool := (s.core e.g.pcore).out.isEmpty && ((e.namedLines s h0 f).2.core e.g.pcore).out.isEmpty
theorem wit_cache : Met [⟨aimed, .pref h0 line, fun e => decide (Reachable e h0 line)⟩, ⟨aimed, .pref h1 line, fun e => decide (Reachable e h1 line)⟩,
    ⟨aimed, .cinv h0 (lines 0), fun e => cache e (lines 0) && decide (Reachable e h0 (lines 0)) && hintOf (lines 0) != 1⟩,
    ⟨aimed, .cinv h0 (lines 2), fun e => cache e (lines 2) && decide (Reachable e h0 (lines 2)) && hintOf (lines 2) == 1⟩,
    ⟨aimed, .cwb h0 (lines 0), fun e => cache e (lines 0) && decide (Reachable e h0 (lines 0)) && noneOut aimed (lines 0) e && hintOf (lines 0) != 1⟩,
    ⟨aimed, .cwb h0 (lines 2), fun e => cache e (lines 2) && decide (Reachable e h0 (lines 2)) && noneOut aimed (lines 2) e⟩,
    ⟨aimed, .cinv h1 (lines 0), fun e => (LaneSet.lowest e.width (e.effect h1)).isNone && decide (Reachable e h1 (lines 0))⟩,
    ⟨aimed, .cwb h1 (lines 0), fun e => (LaneSet.lowest e.width (e.effect h1)).isNone && decide (Reachable e h1 (lines 0)) && noneOut aimed (lines 0) e⟩] :=
  cases_ok _ (by decide +kernel)

def atomF : FmtM := { ldG with scope := .dev, sel := 0 }
def atomS : FmtM := { ldS with data := sc 6, sel := 0 }
def fenceF (n : Nat) : FmtM := { fm z z z 0 .w8 with scope := if n = 4 then .quire else .dev, sel := BitVec.ofNat 4 n }
theorem wit_atomics : Met ([⟨aimed, .atom h0 atomF, fun e => acts h0 e && ok (e.atomLanes aimed atomF 0 (checked e h0))⟩,
    ⟨aimed, .red h0 atomF, fun e => acts h0 e && ok (e.atomLanes aimed atomF 0 (checked e h0))⟩,
    ⟨aimed, .atoms h0 atomS, fun e => acts h0 e && all e && e.contrib h0 != 0
      && ok (e.atomLanes aimed atomS (e.contrib h0) (LaneSet.lowest e.width (e.effect h0)).toList)⟩,
    ⟨aimed, .atom h1 atomF, noLane⟩, ⟨aimed, .red h1 atomF, noLane⟩]
    ++ (List.range 5).map fun n => ⟨base, .fence h0 (fenceF n), fun e => acts h0 e && all e⟩) := cases_ok _ (by decide +kernel)

/-! ### Barriers, waits, quires -/

def bar (m : Nat) : FmtE := fe z (sc 2) (im 3) z m
def word (s : State) (f : FmtE) (acc : Acc) (e : Env) : Bool :=
  all e && decide (Fresh e h0 [e.readOnce h0 f.a .n64]) && ok (s.wordAt e (Machine.spaceOf (mSpace f.m)) (e.readOnce h0 f.a .n64).n 8 acc)
def generationIs (s : State) (f : FmtE) (b : Bool) (e : Env) : Bool :=
  match s.wordAt e (Machine.spaceOf (mSpace f.m)) (e.readOnce h0 f.a .n64).n 8 .load with
  | .ok (p, t) => word s f .load e && (t.generation e p.1 == (e.readOnce h0 f.b .i64).n) == b
  | _ => false
/-- BARINIT's word has room to be tracked, and no store of it is held back. -/
def inits (s : State) (f : FmtE) (e : Env) : Bool :=
  match s.wordAt e (Machine.spaceOf (mSpace f.m)) (e.readOnce h0 f.a .n64).n 8 .atomic with
  | .ok (p, t) => word s f .atomic e && decide (e.g.tracked.length < 8) && (t.commit e.id).cores.all fun c => !stuckIn c.2.quiet c.2.out p.1 8
  | _ => false
def arrive : FmtE := fe (sc 9) (sc 2) z z 1
/-- BARINIT of 3 in scratchpad, of 4,095 tracked in memory, of none enrolled; an arrival; a wait on a generation that has passed and on the present one. -/
theorem wit_barriers : Met [⟨base, .barinit h0 (bar 1), inits base (bar 1)⟩,
    ⟨withS aimed 5 4095, .barinit h0 { bar 8 with b := sc 5 }, fun e => inits aimed (bar 8) e && decide ((e.readOnce h0 (sc 5) .n32).n ≤ 4095)⟩,
    ⟨base, .barinit h0 { bar 0x11 with b := im 0 }, inits base (bar 0x11)⟩, ⟨base, .bararv h0 arrive, word base arrive .atomic⟩,
    ⟨base, .barwait h0 (bar 1), generationIs base (bar 1) false⟩, ⟨base, .barwait h0 { bar 1 with b := im 0 }, generationIs base { bar 1 with b := im 0 } true⟩,
    ⟨base, .bartry h0 (bar 0x21), generationIs base (bar 0x21) false⟩,
    ⟨base, .bartry h0 { bar 0x21 with b := im 0 }, generationIs base { bar 0x21 with b := im 0 } true⟩] := cases_ok _ (by decide +kernel)

def tryH : FmtE := fe (im 3) z z (im 9) 0x300000
def tryW : FmtE := fe z (sc 2) (im 3) (im 9) 0x200400
def syncE : FmtE := fe z (im 1) z z
def episode : State := base.modGath 1 fun g => { g with episodes := [{ mask := 1, arrived := 0 }] }
def syncs (e : Env) : Bool := all e && decide ((1 : Nat).testBit e.q.index = true ∧ e.lanes (e.effect h0) ≠ [] ∧
  (∀ l ∈ e.lanes (e.effect h0), (e.readTy (im 1) .n32 l).n = 1) ∧ ∀ l ∈ e.lanes (e.contrib h0), (e.readTy (im 1) .n32 l).bad = false)
theorem wit_waits : Met [⟨base, .trywait h0 tryH, fun e => all e && decide (Fresh e h0 [e.readOnce h0 tryH.d .n64, e.readOnce h0 tryH.c .n32]) && e.handleNamed 3⟩,
    ⟨base, .trywait h0 tryW, fun e => all e && decide (Fresh e h0 [e.readOnce h0 tryW.a .n64, e.readOnce h0 tryW.b .i64, e.readOnce h0 tryW.c .n32])
      && ok (base.wordAt e (Machine.spaceOf 1) (e.readOnce h0 tryW.a .n64).n 4 .load)⟩,
    ⟨base, .msync h0 syncE, fun e => syncs e && e.g.episodes.all (fun ep => ep.mask &&& 1 == 0) && decide (e.g.episodes.length < 4)⟩,
    ⟨episode, .msync h0 syncE, fun e => syncs e && e.g.episodes.any fun ep => ep.mask == 1⟩] := cases_ok _ (by decide +kernel)

/-- A device-side queue of four packets whose ring stands at 0x10_0800, and a packet at 0x10_0400. -/
def queued : State :=
  let Q : Queue :=
  { ring := 0x100800, n := 2, ceiling := 3, weight := 1, deviceSide := true, poisonAccept := false, tailVa := 0x100c00, progVa := 0x100c80,
    expected := 1, accepted := 0, completed := 0, submitted := 0, state := .running, fault := 0, blocked := none, open' := [], signals := [], parents := [],
    round := 0 }
  { aimed with queues := [(queueKey 0 1, Q)] }
def spawnE (drop : Bool) : FmtE := fe z (sc 3) (v 2) z (if drop then 0x19 else 0x18)
def spawns (e : Env) : Bool := decide (e.lanes (e.contrib h0) ≠ [] ∧ ∀ k ∈ e.lanes (e.contrib h0), (e.spawnEntry (spawnE false) k).n = 0)
  && (e.pick (e.contrib h0) fun k => (e.spawnEntry (spawnE false) k).bad || (e.spawnKey (spawnE false) k).bad) == 0
  && (e.enterLanes (spawnE false) 0 (e.lanes (e.contrib h0)) (base.commit e.id)).isSome
def pushE : FmtE := fe (sc 9) (im 1) (sc 2) z
def pushes (e : Env) : Bool :=
  all e && decide (Fresh e h0 [e.readOnce h0 pushE.a .n64, e.readOnce h0 pushE.b .n64] ∧ e.vol.depth < 10 ∧ (e.readOnce h0 pushE.b .n64).n % 128 = 0)
  && (FMap.find queued.queues (queueKey e.vol.ctx 1)).any (fun Q => Q.deviceSide && Q.state == .running)
  && match queued.wordAt e .gen (e.readOnce h0 pushE.b .n64).n 128 .load with
    | .ok (p, t) =>
      let r := t.readKeys e (runKeys p.1 128) true
      r.1.all (fun b => !b.2) && match ((r.2.commit e.id).release e.g.pcore e.id .dev false).pushTry e (queueKey e.vol.ctx 1) (r.1.map Prod.fst) pushE.d with
      | (.ok (some _), _) => true
      | _ => false
    | _ => false
theorem wit_quires : Met [⟨base, .attach h0 (fe (sc 9) (im 1) (sc 3) (im 0)), fun e => all e
      && decide (Fresh e h0 [e.readOnce h0 (im 1) .n32, e.readOnce h0 (sc 3) .n64, e.readOnce h0 (im 0) .i64])⟩,
    ⟨base, .attach h0 (fe (sc 9) (im 15) (sc 3) (im 0)), fun e => all e
      && decide (Fresh e h0 [e.readOnce h0 (im 15) .n32, e.readOnce h0 (sc 3) .n64, e.readOnce h0 (im 0) .i64])⟩,
    ⟨base, .detach h0 (fe z z z z), all⟩, ⟨base, .spawn h0 (spawnE false), spawns⟩, ⟨base, .spawn h0 (spawnE true), spawns⟩,
    ⟨queued, .qpush h0 pushE, pushes⟩] := cases_ok _ (by decide +kernel)

/-! ### Streamer, handles, matrix unit -/

def tune (s : State) (f : Gathering → Gathering) : State := s.modGath 1 f
/-- Handle 3, 1 KiB, in a state. -/
def handled (st : HState) (error : Nat := 0) : State :=
  tune aimed fun g => { g with handles := [(3, { fill := 0, size := 64, offset := 0, error := error, multicast := false, state := st })] }
def copying (f : FmtE) (others : List Val) (e : Env) : Bool := !e.ringSlot 3 && decide (Handles e h0 f.d true others 3)
/-- CPY and CPYOUT of 256 bytes from and to memory and of all the handle holds, CPY2D of 4 rows, CPYT, CPYFILL, CPYMC to itself, ASBUILD, COLL. -/
def cpyE (len : Opnd) : FmtE := fe (im 3) (sc 4) len z
def movable (f : FmtE) (e : Env) : Bool :=
  let a := e.readOnce h0 f.a .n64
  let b := e.readOnce h0 f.b .i64
  copying f [a, b] e && !e.countBad 3 b.n && decide (Reaches e (isDspad f) a.n b.n)
def rowsE : FmtE := fe (im 3) (sc 4) (sc 5) (im 0)
def rowsS : State := withS (handled .free) 5 (4 * 2 ^ 32 + 64)
def mcE : FmtE := fe (im 3) (sc 4) (im 256) (sc 5)
def mcS : State := withS (handled .free) 5 (2 ^ 24)
def buildE : FmtE := fe (im 3) (sc 4) (sc 4) (sc 4)
theorem wit_transfers : Met [⟨handled .free, .cpy h0 (cpyE (im 256)), movable (cpyE (im 256))⟩,
    ⟨withS (handled .full) 5 1024, .cpyout h0 (cpyE (sc 5)), movable (cpyE (sc 5))⟩,
    ⟨rowsS, .cpy2d h0 rowsE, fun e =>
      let b := e.readOnce h0 rowsE.b .i64
      copying rowsE [e.readOnce h0 rowsE.a .n64, b, e.readOnce h0 rowsE.c .i64] e && decide (bits b.n 47 32 ≠ 0 ∧ bits b.n 63 48 = 0 ∧ bits b.n 31 24 = 0)
        && !e.countBad 3 (bits b.n 47 32 * bits b.n 23 0) && decide (Reaches e false (e.readOnce h0 rowsE.a .n64).n 0)⟩,
    ⟨handled .free, .cpyt h0 (cpyE (im 0)), fun e => copying (cpyE (im 0)) [e.readOnce h0 (sc 4) .n64, e.readOnce h0 (im 0) .n64] e
      && decide ((e.readOnce h0 (sc 4) .n64).n % 64 = 0) && canonical (e.readOnce h0 (sc 4) .n64).n⟩,
    ⟨handled .free, .cpyfill h0 { cpyE (im 16) with a := im 5 }, fun e => copying (cpyE (im 16)) [e.readOnce h0 (im 5) .i64, e.readOnce h0 (im 16) .i64] e
      && !e.countBad 3 (e.readOnce h0 (im 16) .i64).n⟩,
    ⟨mcS, .cpymc h0 mcE, fun e =>
      let c := e.readOnce h0 mcE.c .i64
      copying mcE [e.readOnce h0 mcE.a .n64, e.readOnce h0 mcE.b .i64, c] e && decide (bits c.n 63 49 = 0) && (maskOffsets c.n).all (fun d => !e.offSpan d)
        && decide (maskOffsets c.n ≠ [] ∧ Reaches e false (e.readOnce h0 mcE.a .n64).n 0)⟩,
    ⟨handled .free, .asbuild h0 buildE, fun e => !e.ringSlot 3
      && decide (Handles e h0 buildE.d false [e.readOnce h0 (sc 4) .n64, e.readOnce h0 (sc 4) .n64, e.readOnce h0 (sc 4) .n64] 3)
      && decide ((e.readOnce h0 (sc 4) .n64).n % 256 = 0)⟩,
    ⟨handled .free, .coll h0 (fe (im 3) (sc 4) z z), fun e => !e.ringSlot 3 && decide (Handles e h0 (im 3) false [e.readOnce h0 (sc 4) .n64] 3)
      && decide ((e.readOnce h0 (sc 4) .n64).n % 64 = 0) && canonical (e.readOnce h0 (sc 4) .n64).n⟩] := cases_ok _ (by decide +kernel)

def setE : FmtE := fe (im 3) (im 0) (im 16) z
def handleE : FmtE := fe (im 3) z z z
def atState (s : State) (st : HState) (e : Env) : Bool := decide (Handles e h0 (im 3) false [] 3) && (s.handle e.q.gath 3).state == st
theorem wit_handles : Met [⟨base, .hset h0 setE, fun e => copying setE [e.readOnce h0 setE.a .i64, e.readOnce h0 setE.b .i64] e
      && decide ((e.readOnce h0 setE.a .i64).n + (e.readOnce h0 setE.b .i64).n ≤ e.g.size ∧ (e.g.handle 3).state = .free) && !base.heldOn e.q.gath 3⟩,
    ⟨handled .free, .hwait h0 handleE, atState (handled .free) .free⟩,
    ⟨handled .full, .hwait h0 { handleE with m := 2 }, fun e => atState (handled .full) .full e && ((handled .full).handle e.q.gath 3).error == 0⟩,
    ⟨handled .full 0x0C, .hwait h0 { handleE with m := 2 }, fun e => atState (handled .full 0x0C) .full e && ((handled .full 0x0C).handle e.q.gath 3).error != 0⟩,
    ⟨handled .filling, .hwait h0 handleE, atState (handled .filling) .filling⟩, ⟨handled .full, .hdrain h0 handleE, atState (handled .full) .full⟩,
    ⟨handled .draining, .hfree h0 handleE, atState (handled .draining) .draining⟩,
    ⟨handled .full, .hstat h0 { handleE with d := v 10, a := im 3 }, atState (handled .full) .full⟩] := cases_ok _ (by decide +kernel)

/-- The page of the line is not cached (R242): fewer effects of a read to follow. -/
def uncached (s : State) : State := { s with mem := s.mem.setBytes 0x5807 [1] }
/-- Operands at s2, s4; strides and scale bases from s8 on. -/
def tiles : State := uncached (withS (withS aimed 9 0x100800) 10 0x100800)
def products (s : State) (i : Instr) (e : Env) : Bool :=
  match matrixPlan e i with
  | some (h, f, x, vals, bases, scales, strides) => decide (MatrixReady e h vals bases scales strides)
    && (mmaCalc e f x (begun s e (((s.heldFor e (x.key f) x.scaled).map fun b => b.elems x.scaled).getD []))).2.1.fault.isNone
  | none => false
def mmaI : Instr := .mma h0 (fe (v 32) (sc 2) (sc 4) (im 0))
def mmasI : Instr := .mmas h0 (fe (v 32) (sc 2) (sc 4) (sc 8) 0x440040)
def mmarI : Instr := .mmar h0 (fe (v 32) (v 16) (sc 4) (im 0))
/-- The unit holds the B operand of the instruction for its quire, and all rows but the last are done. -/
def resuming (i : Instr) (r : Nat) : State :=
  match (tiles.envOf 1).bind fun e => matrixPlan e i with
  | some (_, f, x, _) =>
    { withQ tiles fun q => { q with keepB := true, regs := { q.regs with rowprog := BitVec.ofNat 64 (loadPc.toNat * 65536 + r) } } with
      held := [{ core := 0, part := 0, quire := 1, key := x.key f, vals := List.replicate (tileCols x.p.cls) (List.replicate (x.K f) (0, false)),
                  scales := List.replicate (tileCols x.p.cls) (List.replicate (x.blocks f) (0, false)) }] }
  | none => base
theorem wit_products : Met [⟨resuming mmaI 15, mmaI, products (resuming mmaI 15) mmaI⟩, ⟨resuming mmasI 31, mmasI, products (resuming mmasI 31) mmasI⟩,
    ⟨resuming mmarI 0, mmarI, products (resuming mmarI 0) mmarI⟩] := cases_ok _ (by decide +kernel)

def tileE (store : Bool) : FmtE := if store then fe z (sc 2) (im 0) (v 32) else fe (v 32) (sc 2) (im 0) z
def ready (f : FmtE) (e : Env) : Bool :=
  let st := e.readOnce h0 f.b .i64
  decide (MatrixReady e h0 [e.readOnce h0 f.a .n64, st] [(e.readOnce h0 f.a .n64).n] [] [strideOf (st.n % 2 ^ 32)])
def actE (b : Opnd) : FmtE := fe (v 64) (v 32) b z 0x224000
/-- All lanes but lane 0 are padding. -/
def lonely : State := withQ tiles fun q => { q with regs := { q.regs with padding := LaneSet.below 32 &&& ~~~1 } }
/-- No address of a lane is out of the canonical range. -/
def tileFits (e : Env) (l : List (Nat × Nat)) (size : Nat) : Bool :=
  (e.tileTrap l 0 fun x => rowVa (e.readOnce h0 (sc 2) .n64).n x.1 (strideOf 0) (x.2 * size)).isNone
theorem wit_fragments : Met [⟨tiles, .mldc h0 (tileE false), fun e => ready (tileE false) e
      && tileFits e (e.tile (mA (tileE false))) (elemBits (mB (tileE false)) / 8) && okOf (readList (fun i r => r.elem fun s =>
      s.rowElem e true 0 (rowVa (e.readOnce h0 (sc 2) .n64).n (i / tileCols 0) (strideOf 0) 0) (i % tileCols 0)) (List.range (e.tile 0).length) (begun tiles e []))⟩,
    ⟨lonely, .mstc h0 (tileE true), fun e => ready (tileE true) e && tileFits e (tileStored e (tileE true)) (elemBits (mB (tileE true)) / 8)
      && okOf ((lonely.dropHeld e).tilePlaces e ((tileStored e (tileE true)).map fun x =>
        rowVa (e.readOnce h0 (sc 2) .n64).n x.1 (strideOf 0) (x.2 * (elemBits (mB (tileE true)) / 8)))) && (tileStored e (tileE true)).all fun x => !(e.fragElem 0 32 x.1 x.2).2⟩,
    ⟨base, .mzero h0 (fe (v 32) z z z), fun e => decide (MatrixReady e h0 [] [] [] [])⟩,
    ⟨base, .mact h0 (actE Opnd.s127), fun e => decide (MatrixReady e h0 [e.readOnce h0 Opnd.s127 .n64] [] [] [])⟩,
    ⟨tiles, .mact h0 (actE (sc 2)), fun e => decide (MatrixReady e h0 [e.readOnce h0 (sc 2) .n64] [(e.readOnce h0 (sc 2) .n64).n] [] [])
      && (List.range 32).all (fun j => canonical ((e.readOnce h0 (sc 2) .n64).n + 4 * j))
      && okOf (readList (fun j r => r.elem fun s => s.operandBytes e false ((e.readOnce h0 (sc 2) .n64).n + 4 * j) 4) (List.range 32) (begun tiles e []))⟩] := cases_ok _ (by decide +kernel)

/-! ### Sampling -/

/-- Lane 0 alone: a 1 × 1 texture at 0x10_0400 (s2), a sampler at 0x10_0440 (s3), a grid of one level at 0x10_0480 (s4), a layer at 0x10_04C0 (s5). -/
def arts : State :=
  let tex := leBytes 8 0x100800 ++ [0, 2, 1, 0] ++ leBytes 2 1 ++ leBytes 2 1 ++ leBytes 2 1
  let grid := leBytes 8 0x100800 ++ leBytes 8 0x100900 ++ [2, 1, 0, 10] ++ List.replicate 12 0 ++ leBytes 2 1
  let net := leBytes 8 0x100480 ++ leBytes 8 0x100800 ++ leBytes 8 0x100c00 ++ List.replicate 16 0 ++ [1, 0]
  let s := uncached (withS (withS (withS (withS lane0 2 0x100400) 3 0x100440) 4 0x100480) 5 0x1004c0)
  { s with mem := ((s.mem.setBytes 0x100400 tex).setBytes 0x100480 grid).setBytes 0x1004c0 net }
def sample : FmtE := fe (v 10) (v 2) (sc 2) (sc 3)
def noSmp : FmtE := { sample with c := z }
def planned (gath : Bool) (e : Env) (p : List (Nat × Sampled) → State → Bool) : Bool :=
  match e.texPlan arts sample gath (e.lanes (e.effect h1)) with
  | (.ok xs, t) => xs.length == 1 && p xs t
  | _ => false
theorem wit_tex : Met [⟨arts, .tex h1 sample, fun e => acts h1 e && planned false e fun xs t =>
      okOf (eachLane Prod.fst (fun (x : Nat × Sampled) s => andThen (s.texLane e x.1 x.2) fun t s => (.ok (x.1, channelWords false t), s)) xs t)⟩] :=
  cases_ok _ (by decide +kernel)
theorem wit_tgath : Met [⟨arts, .tgath h1 sample, fun e => acts h1 e && planned true e fun xs t => xs.all (fun x => x.2.tex.kind == 2)
      && okOf (eachLane Prod.fst (fun (x : Nat × Sampled) s =>
        andThen (s.footprint e x.1 x.2.tex x.2.smp true (levelsOf x.2.tex x.2.smp x.2.lod).j0 x.2.layer x.2.u) fun l s =>
          (.ok (x.1, l.map fun c => (BitVec.ofNat 32 (c.1.ch.getD 0 0), c.1.bad)), s)) xs t)⟩] := cases_ok _ (by decide +kernel)
theorem wit_texels : Met [
    ⟨arts, .tld h1 noSmp, fun e => acts h1 e && (checked e h1).all (fun l => !(e.vaIn (sc 2) l).bad && (List.range 4).all fun i => !(e.regAt (v 2) i l).bad)
      && match e.readRecords arts 64 (e.recAt (sc 2) (e.lanes (e.effect h1))) texOf with
        | (.ok ts, t) => ts.length == 1 && okOf (eachLane Prod.fst (loadTexel e noSmp) (e.working ts) t)
        | _ => false⟩,
    ⟨arts, .tqry h1 { noSmp with a := im 0 }, fun e => acts h1 e && (checked e h1).all (fun l => !(e.vaIn (sc 2) l).bad)
      && okOf (e.readRecords arts 64 (e.recAt (sc 2) (e.lanes (e.effect h1))) texOf)⟩] := cases_ok _ (by decide +kernel)

def gridE : FmtE := fe (v 10) (v 2) (sc 4) z
def scatE : FmtE := fe z (v 2) (sc 4) (v 12)
def netE : FmtE := fe (v 10) (v 2) (sc 5) z
def clean (e : Env) (o : Opnd) : Bool := acts h1 e && (checked e h1).all fun l => !(e.vaIn o l).bad && !(e.regAt (v 2) 0 l).bad
theorem wit_grids : Met [⟨arts, .hgfetch h1 gridE, fun e => clean e (sc 4) && match e.readRecords arts 64 (e.recAt (sc 4) (e.lanes (e.effect h1))) (gridOf false) with
      | (.ok gs, t) => gs.length == 1 && (e.gridChecks (v 2) (fun g => [useN (v 10) g.regs 1 true]) gs (e.lanes (e.effect h1))).isNone
        && (match eachLane Prod.fst (fun (x : Nat × Grid) s => andThen (s.gridFeatures e x.1 x.2 (e.gridCoords (v 2) x.2 x.1)) fun l s => (.ok (x.1, pairWords l), s)) (e.working gs) t with
          | (.ok _, u) => u.resultRows e h1 (v 10) (gs.foldl (fun n g => max n g.2.regs) 1)
          | _ => false)
      | _ => false⟩,
    ⟨arts, .hgscat h1 scatE, fun e => clean e (sc 4) && match e.readRecords arts 64 (e.recAt (sc 4) (e.lanes (e.effect h1))) (gridOf true) with
      | (.ok gs, t) => gs.length == 1 && (e.gridChecks (v 2) (fun g => [useN (v 12) g.regs 1 false]) gs (e.lanes (e.effect h1))).isNone && !(e.regAt (v 12) 0 0).bad
        && okOf (eachLane (fun (p : Nat × Nat × Nat) => p.2.1) (fun p s => s.laneAt e p.2.1 p.1 .atomic fun x s =>
          (.ok { lane := 0, key := x.pa, v := BitVec.ofNat 64 p.2.2, c := 0, bad := false, portion := none : AsqLane }, s)) (e.gradSums scatE (e.working gs)) t)
      | _ => false⟩,
    ⟨arts, .ntex h1 netE, fun e => clean e (sc 5) && match e.readRecords arts 64 (e.recAt (sc 5) (e.lanes (e.effect h1))) neuralOf with
      | (.ok ns, t) => ns.length == 1 && (match e.readRecords t 64 (ns.map fun n => { lane := n.1, va := n.2.grid }) (gridOf false) with
        | (.ok gs, u) => (e.gridChecks (v 2) (fun _ => []) gs (e.lanes (e.effect h1))).isNone && okOf (eachLane Prod.fst (fun (x : Nat × Neural) s => match ofLane gs x.1 with
            | none => (.ok (x.1, []), s)
            | some g => andThen (s.ntexLane e netE x.1 x.2 g) fun r s => (.ok (x.1, r), s)) (e.working ns) u)
        | _ => false)
      | _ => false⟩] := cases_ok _ (by decide +kernel)

/-! ### Raster -/

def target : Target :=
  { va := 0x100800, format := 0, attrs := 1, flags := 0, width := 2, height := 2, geom := 0x100a00, capacity := 4, tileOff := 0, errMap := 0x100c00,
    payload := 64, clear := [0, 0, 0, 0] }
def render : Render :=
  { mesh := loadDescriptor, pixel := loadDescriptor, target := target, accept := true, nextSerial := 1, work := [], final := false, spawnCursor := 0, cores := [],
    clears := [], abandoned := none }
/-- A gathering of one kernel of a render launch; lane 0 alone has p1. -/
def drawing (role : Role) : State :=
  let s := tune lane0 fun g => { g with role := role }
  { s with vols := s.vols.map fun x => (x.1, { x.2 with render := some render }) }
def kernel (e : Env) (role : Role) : Bool := decide (Kernel e role render)
def payE : FmtE := fe z (im 0) (im 16) (im 1)
def full : State := tune (drawing .task) fun g =>
  { g with handles := (List.range 4).map fun i => (60 + i, { fill := 0, size := 4, offset := 0, error := 0, multicast := false, state := .full }) }
def pays (e : Env) : Bool := kernel e .task && all e && decide ((e.readOnce h0 (im 16) .n32).n ≤ render.target.payload ∧ 0 + 16 ≤ e.g.size)
def vtxE : FmtE := fe z (im 255) (v 2) (v 6)
def primE : FmtE := fe z (im 0) (im 1) (im 3)
/-- A render target without attributes. -/
def bare : State :=
  let s := drawing .mesh
  { s with vols := s.vols.map fun x => (x.1, { x.2 with render := some { render with target := { target with attrs := 0 } } }) }
/-- MVTX names an attribute base where the render target has none (R313). -/
theorem wit_checks_attributes : (bare.envOf 1).any (fun e => e.attrBad (.mvtx h0 vtxE) && !e.attrBad (.mvtx h0 { vtxE with c := z })) = true := by
  decide +kernel
theorem wit_meshes : Met [⟨drawing .task, .tpay h0 payE, fun e => pays e && e.g.freeSlot.isSome⟩, ⟨full, .tpay h0 payE, fun e => pays e && e.g.freeSlot.isNone⟩,
    ⟨drawing .mesh, .mvtx h1 vtxE, fun e => kernel e .mesh && !e.g.meshlet.closed && e.contrib h1 != 0
      && (checked e h1).all fun l => decide ((e.readTy (im 255) .n32 l).n < 256) && (vertexWords e vtxE 1 l).all fun w => !w.bad⟩,
    ⟨drawing .mesh, .mprim h1 primE, fun e => kernel e .mesh && !e.g.meshlet.closed && e.contrib h1 != 0
      && (checked e h1).all fun l => decide ((e.readTy (im 0) .n32 l).n < 256 ∧ (e.readTy (im 1) .n32 l).n < 2 ^ 24 ∧ (e.readTy (im 3) .n32 l).n < 2 ^ 16)⟩,
    ⟨drawing .mesh, .mdone h0 (fe (sc 4) (im 5) z z), fun e => kernel e .mesh && all e && e.contrib h0 != 0 && !e.g.meshlet.closed
      && decide ((e.readOnce h0 (im 5) .n32).n ≤ 0xFFFFE)⟩] := cases_ok _ (by decide +kernel)

def bary : FmtE := fe (v 10) (v 2) z z 1
def attrE : FmtE := fe (v 10) (v 2) (im 0) (im 1)
def outE : FmtE := fe z (im 0) (v 4) z
/-- The visibility word of lane 0 names serial 1. -/
def hit : State := withV (drawing .pixel) 2 1
def attrs (f : FmtE) (bary : Bool) (e : Env) : Bool :=
  let first := if bary then Val.zero else e.readOnce h1 f.b .n32
  let count := if bary then { n := 3, bad := false } else e.readOnce h1 f.c .n32
  kernel e .pixel && acts h1 e && (checked e h1).all (fun l => !(e.readTy f.a .n64 l).bad && decide ((e.readTy f.a .n64 l).n % 2 ^ 20 < target.capacity))
    && (bary || decide (1 ≤ count.n ∧ count.n ≤ 16 ∧ first.n + count.n ≤ target.attrs))
    && (e.boundsBy (fun _ => [useN f.d count.n 1 true]) (e.lanes (e.effect h1))).isNone
    && match eachLane (fun l : Nat => l) (attributes e f target first.n count.n) (checked e h1) hit with
      | (.ok _, t) => t.resultRows e h1 f.d count.n
      | _ => false
theorem wit_pixels : Met [⟨drawing .pixel, .visrd h1 (fe (v 10) (im 0) z z), fun e => kernel e .pixel && acts h1 e
      && (checked e h1).all fun l => target.holds (pixelOf (e.readTy (im 0) .n32 l).n)⟩,
    ⟨hit, .attr h1 bary, attrs bary true⟩, ⟨hit, .attr h1 attrE, attrs attrE false⟩,
    ⟨drawing .pixel, .pixout h1 outE, fun e => kernel e .pixel && acts h1 e && (checked e h1).all (fun l => target.holds (pixelOf (e.readTy (im 0) .n32 l).n))
      && okOf (eachLane (fun l : Nat => l) (pixelPlace e outE target fun _ => false) (checked e h1) (drawing .pixel))⟩] := cases_ok _ (by decide +kernel)

/-! ### Rays -/

/-- Lane 0 has an open query of the structure at 0x10_0400, which holds nothing. -/
def tracing : State :=
  let r : RayQuery :=
    { org := [0, 0, 0], dir := [0, 0, 0x3F800000], tmin := 0, tmax0 := 0x3F800000, tmax := 0x3F800000, flags := 0, root := 0x100400, bad := false, todo := none, since := 0,
      cand := none, hit := none, invalid := false, done := false }
  withQ arts fun q => { q with queries := [(0, r)] }
theorem wit_rays : Met [⟨arts, .rayq h1 (fe z (v 16) (sc 2) (im 0)), fun e => (checked e h1).all fun l =>
      !(e.vaIn (sc 2) l).bad && !(e.readTy (im 0) .n32 l).bad && !rayFlagsBad (e.readTy (im 0) .n32 l).n⟩,
    ⟨tracing, .raynext h1 (fe (v 10) z z z), fun e => acts h1 e && okOf (eachLane (fun l : Nat => l) (fun l s => s.rayNextLane e l) (checked e h1) tracing)⟩,
    ⟨tracing, .rayacc h1 (fe z z z z), yes⟩, ⟨tracing, .rayend h1 (fe (v 10) z z z), acts h1⟩, ⟨tracing, .rayget h1 (fe (v 10) z z z 8), acts h1⟩,
    ⟨arts, .asinfo h0 (fe (sc 8) (sc 2) z z), fun e => all e && e.contrib h0 != 0 && canonical (e.readOnce h0 (sc 2) .n64).n
      && okOf (arts.roAt e ((LaneSet.lowest e.width (e.effect h0)).getD 0) (e.readOnce h0 (sc 2) .n64).n 64)⟩] := cases_ok _ (by decide +kernel)

/-! ### Search trees, system -/

def sends (i : Instr) (e : Env) : Bool :=
  match treeJob e i with
  | some j => acts j.h e && (e.treeTrap j.f false (checked e j.h) j.poison j.list).isNone
  | none => false
def tree (i : Instr) : Case := ⟨aimed, i, sends i⟩
theorem wit_trees : Met [tree (.tsel h0 (fe (v 10) (sc 2) z z)), tree (.texp h0 (fe (v 10) (sc 2) (v 2) (v 4))), tree (.tback h0 (fe (v 10) (sc 2) (v 2) (v 4))),
    tree (.tleaf h0 (fe (v 10) (sc 2) (v 2) (v 4))), tree (.tread h0 (fe (v 10) (sc 2) (im 1) z)),
    ⟨aimed, .tinit h0 (fe (sc 8) (sc 2) z z), fun e => all e && e.contrib h0 != 0
      && (e.treeTrap (fe (sc 8) (sc 2) z z) true (LaneSet.lowest e.width (e.effect h0)).toList [] fun _ => none).isNone⟩,
    ⟨aimed, .treuse h0 (fe (sc 8) (sc 2) (im 1) z), fun e => all e && e.contrib h0 != 0
      && (e.treeTrap (fe (sc 8) (sc 2) (im 1) z) true (LaneSet.lowest e.width (e.effect h0)).toList [(8, fun l => (e.readTy (im 1) .n32 l).bad)]
        fun _ => none).isNone⟩] := cases_ok _ (by decide +kernel)

/-- A context that may load decode tables and whose call ring has 4 slots at 0x10_0800. -/
def served : State :=
  let s : State := { handling with ctxs := handling.ctxs.map fun x => (x.1, { x.2 with loadTables := true, callRing := 0x100800, callSize := 4 }) }
  withS s 2 0x100800
def callE : FmtE := fe (v 10) (v 4) (im 7) z
def active (e : Env) : Bool := all e && e.contrib h0 != 0
def pick (n : Nat) (a : Opnd) : FmtE := fe (sc 3) (im n) a z
theorem wit_system : Met [⟨base, .collinfo h0 (fe (sc 4) (im 255) z z 1), fun e => active e && !(e.readOnce h0 (im 255) .n64).bad && decide ((e.readOnce h0 (im 255) .n64).n ≤ 255)⟩,
    ⟨base, .collinfo h0 (fe (sc 4) (sc 2) z z), fun e => active e && !(e.readOnce h0 (sc 2) .n64).bad⟩,
    ⟨base, .trap h0 (fe z z z z 0x21), active⟩, ⟨base, .trapcall h0 callE, fun e => active e && !e.handlerMode⟩,
    ⟨served, .trapcall h0 callE, fun e => active e && e.handlerMode && e.q.call.isNone && okOf ((served.commit e.id).callSend e (e.callOf h0 callE))⟩,
    ⟨handling, .tret h0 (fe z z z z), fun e => active e && e.q.regs.handler.isSome && decide (e.q.regs.stack = [.handler])
      && match handling.numAt e ((LaneSet.lowest e.width (e.contrib h0)).getD 0) (0x100400 + 8) 8 with
        | (.ok (_, false), _) => true
        | _ => false⟩,
    ⟨base, .tret h0 (fe z z z z), fun e => active e && e.q.regs.handler.isNone⟩, ⟨base, .tkill h0 (fe z z z z 0x105), active⟩,
    ⟨base, .perf h0 (fe (sc 4) (im 11) z z), fun e => active e && (e.counter base (e.readOnce h0 (im 11) .n32).n).isSome⟩,
    ⟨served, .decsel h0 (pick 0 (sc 4)), fun e => active e && decide ((e.readOnce h0 (sc 4) .n64).n = 0)⟩,
    ⟨served, .decsel h0 (pick 0 (sc 2)), fun e => active e && decide ((e.readOnce h0 (sc 2) .n64).n ≠ 0)⟩] := cases_ok _ (by decide +kernel)
theorem wit_decsel : Met [⟨(uncached served), .decsel h0 (pick 3 (sc 2)), fun e => active e && decide ((e.readOnce h0 (sc 2) .n64).n ≠ 0) && !(uncached served).tableBusy 3
      && okOf (eachOf (fun p s => s.loadAt e ((LaneSet.lowest e.width (e.contrib h0)).getD 0) p.1 p.2) (cuts 2049 (e.readOnce h0 (sc 2) .n64).n 2048) (uncached served))⟩] :=
  cases_ok _ (by decide +kernel)

/-! ### Events -/

/-- A state whose quire 1 meets a condition. -/
structure Scene where
  s : State
  p : Env → Bool
def Scene.ok (c : Scene) : Bool := match c.s.envOf 1 with
  | some e => c.p e
  | none => false
abbrev Seen (l : List Scene) : Prop := ∀ c ∈ l, ∃ e, c.s.envOf 1 = some e ∧ c.p e = true
theorem scenes_ok (l : List Scene) (h : l.all Scene.ok = true) : Seen l := by
  intro c hc
  have hk := List.all_eq_true.mp h c hc
  unfold Scene.ok at hk
  split at hk
  · next e he => exact ⟨e, he, hk⟩
  · cases hk

def waiting (s : State) (w : Wait) : State := withQ s fun q => { q with wait := w }
def claims (n : Nat) : State := waiting base (.stall (.claim n 7))
def isClaim (n : Nat) (e : Env) : Bool := e.q.wait == .stall (.claim n 7)
def pushing (s : State) : State := waiting s (.stall (.qpush (queueKey 0 1) (List.replicate 128 0) (sc 9)))
/-- The ring holds four packets; the tail line is not mapped. -/
def crowded : State := { queued with mem := queued.mem.setNum 0x100c00 8 4 }
def tailless : State := { queued with queues := queued.queues.map fun x => (x.1, { x.2 with tailVa := 0 }) }
def pushAnswer (s : State) (e : Env) : Nat := match (pushing s).pushTry e (queueKey 0 1) (List.replicate 128 0) (sc 9) with
  | (.ok (some _), _) => 1
  | (.ok none, _) => 2
  | (.error _, _) => 3
/-- The next group reads v9, whose row is spilled. -/
def spilled : State := withQ base fun q => { q with spilled := [256 * 9], line := some (lineVa q.pc, loadLine (leBytes 12 0x100000048027002000000000)) }
def fetched (s : State) : State := withQ s fun q => { q with line := some (lineVa q.pc, loadLine (leBytes 12 0)) }
theorem wit_stalls : Seen [⟨claims 200, fun e => isClaim 200 e && decide ((claims 200).poolRows e.g.pcore e.q.part < (200 - e.q.claimed) * e.words * 16)⟩,
    ⟨claims 2, fun e => isClaim 2 e && !(claims 2).claimBefore e 7 && decide ((2 - e.q.claimed) * e.words * 16 ≤ (claims 2).poolRows e.g.pcore e.q.part)⟩,
    ⟨waiting full (.stall (.tpay 0 16 1)), fun e => e.q.wait == .stall (.tpay 0 16 1) && e.g.freeSlot.isNone⟩,
    ⟨waiting (drawing .task) (.stall (.tpay 0 16 1)), fun e => e.q.wait == .stall (.tpay 0 16 1) && e.g.freeSlot == some 0 && e.vol.render == some render⟩,
    ⟨pushing queued, fun e => pushAnswer queued e == 1⟩, ⟨pushing crowded, fun e => pushAnswer crowded e == 2⟩, ⟨pushing tailless, fun e => pushAnswer tailless e == 3⟩,
    ⟨spilled, fun e => e.rowWanted spilled == some (256 * 9) && (spilled.refill e.g.pcore e.q.part 1 (256 * 9)).isSome⟩, ⟨fetched base, fun e => !e.q.wantsLine⟩,
    ⟨base, fun e => e.q.wantsLine && (e.q.settled.bind fun r => (base.setQuire 1 r).envOf 1).any fun e => canonical (lineVa e.q.pc).toNat
      && (match (base.setQuire 1 e.q).xl (dieOfCore e.g.pcore) e.g.vol e.vol.ctx e.ctx.root (lineVa e.q.pc).toNat .fetch with
      | (.ok x, t) =>
        let r := (t.roCut e.g.pcore x.pa 64 1).1
        paKind x.pa != .peer && !r.any Prod.snd && lineParityOk (r.map Prod.fst) && (lineFault (r.map Prod.fst) (pcSlot e.q.pc) e.q.checked).isNone
      | _ => false)⟩] := scenes_ok _ (by decide +kernel)

def tryOn (value : W64) (limit : Nat) : TryWait :=
  { handle := none, key := 0x100800, cond := 0, wide := true, value := value, ext := true, scope := .dev, limit := limit, pd := 1, lanes := 1 }
def tries (c : W64) (n waited : Nat) : State := withQ (waiting base (.tryw (tryOn c n))) fun q => { q with waited := waited }
def isTry (c : W64) (n : Nat) (e : Env) : Bool := e.q.wait == .tryw (tryOn c n)
def calls (status : W8) (s : State := served) : State :=
  let c : CallWait := { vd := v 10, pad := [], reqs := [(0, 0)], todo := [], sent := [0], part := 1, call := 7, arg := 0, replies := [], slotPa := some 0x100800 }
  { withQ s fun q => { q with wait := .call, call := some c } with mem := s.mem.setBytes 0x100800 [status] }
def answered (s : State) (n : Nat) (e : Env) : Bool :=
  e.q.wait == .call && (e.q.call.any fun c => c.slotPa == some 0x100800 && c.todo.isEmpty) && (s.homeNum 0x100800 4).1 == n
def waitsFull (st : HState) : State := waiting (handled st) (.hwait 3 true)
theorem wit_wakes : Seen [⟨waiting base (.barwait 0x100800 0 .dev), fun e => e.q.wait == .barwait 0x100800 0 .dev && base.generation e 0x100800 == 0⟩,
    ⟨waiting base (.barwait 0x100800 0xFFFF .dev), fun e => e.q.wait == .barwait 0x100800 0xFFFF .dev && base.generation e 0x100800 != 0xFFFF⟩,
    ⟨tries 0 9 9, fun e => isTry 0 9 e && (tries 0 9 9).tryHolds e (tryOn 0 9) && decide (9 ≤ e.q.waited)⟩,
    ⟨tries 1 9 8, fun e => isTry 1 9 e && !(tries 1 9 8).tryHolds e (tryOn 1 9) && decide (e.q.waited < 9)⟩,
    ⟨waitsFull .free, fun e => e.q.wait == .hwait 3 true && ((waitsFull .free).handle e.q.gath 3).state != .full⟩,
    ⟨waitsFull .full, fun e => e.q.wait == .hwait 3 true && ((waitsFull .full).handle e.q.gath 3).state == .full && ok (e.handleReached (waitsFull .full) 3 true)⟩,
    ⟨calls 0, answered (calls 0) 0⟩, ⟨calls 1, answered (calls 1) 1⟩, ⟨calls 2, answered (calls 2) 2⟩] := scenes_ok _ (by decide +kernel)

def pending (k : PendKind) (acq : Option Scope := none) (ready : Bool := true) : Pending :=
  { kind := k, writes := [.scal 4 7 false], names := [2 ^ 20 + 4], ready := ready, req := 5, acq := acq, slot := none, old := false }
def owing (l : List Pending) (w : Wait := .none) : State := withQ (waiting base w) fun q => { q with pend := l }
def computing : State :=
  let s := owing [pending .matrix]
  { s with mjobs := (s.envOf 1).toList.map fun e =>
      { quire := 1, core := 0, part := 0, flags := 1, req := 5, ins := .mzero h0 (fe (v 32) z z z), view := e.q.regs, pc := loadPc, old := [], vol := 1, stores := [] } }
/-- A tile to be written at 0x10_0800, with a store of another core in the way or not. -/
def storingTile (held : Bool) : State :=
  let s := { computing with mjobs := computing.mjobs.map fun j => { j with stores := [(0x100800, [1])] } }
  if held then s.modCore 1 fun c => { c with out := [.token 1 3 true, .store 1 { key := 0x100800, bytes := [1], bad := false, evict := false, portion := none }], cnt := [(0, 1)] } else s
def tileIs (held : Bool) : Bool := (storingTile held).mjobs.any fun j => j.stores != [] && (storingTile held).tileHeld j == held
def landedOf (s : State) (e : Env) : State :=
  ((e.q.pend.filter fun p => p.kind == .asq && p.ready).filterMap Pending.acq).foldl (fun s sc => s.acquire e.g.pcore sc) (s.upd e Quire.landReplies)
def owed (s : State) (e : Env) : Bool := match FMap.find (landedOf s e).quires 1 with
  | some q => q.owesReply e.slot
  | none => false
def treeDone : State := owing [pending .tree (some .dev)] (.reply false)
theorem wit_landings : Seen [⟨owing [pending .matrix, pending .load], fun e => e.q.pend.findIdx? (fun x => x.kind == .load && x.ready) == some 1⟩,
    ⟨owing [pending .load (some .dev)], fun e => e.q.pend.findIdx? (fun x => x.kind == .load && x.ready) == some 0 && e.q.wait == .none⟩,
    ⟨owing [pending .load (some .dev)] (.reply false), fun e => e.q.pend.findIdx? (fun x => x.kind == .load && x.ready) == some 0 && e.q.wait == .reply false
      && !(e.q.pend.eraseIdx 0).any fun x => x.kind == .load && x.acq.isSome⟩,
    ⟨owing [pending .engine], fun e => e.q.pend.findIdx? (fun x => x.kind == .engine && x.ready) == some 0⟩,
    ⟨storingTile true, fun _ => tileIs true⟩, ⟨storingTile false, fun _ => tileIs false⟩,
    ⟨computing, fun e => (computing.mjobs.find? fun j => j.core == 0 && j.part == 0).any (fun j => j.stores.isEmpty)
      && (e.q.pend.find? fun p => p.kind == .matrix && p.req == 5).any fun p => !p.old⟩,
    ⟨owing [pending .asq (some .dev)] (.reply false), fun e => e.q.wait == .reply false && !owed (owing [pending .asq (some .dev)] (.reply false)) e⟩,
    ⟨owing [pending .asq (some .dev)] (.reply true), fun e => e.q.wait == .reply true && !owed (owing [pending .asq (some .dev)] (.reply true)) e⟩,
    ⟨owing [{ pending .asq (some .dev) false with slot := some 0 }] (.reply false), fun e => e.q.wait == .reply false
      && owed (owing [{ pending .asq (some .dev) false with slot := some 0 }] (.reply false)) e⟩,
    ⟨treeDone, fun e => e.q.wait == .reply false && e.q.pend.any (fun p => p.kind == .tree && p.ready)
      && (((treeDone.modQuire 1 Quire.landTrees).dropTrees 1).acquire e.g.pcore .dev).treqs.isEmpty⟩] := scenes_ok _ (by decide +kernel)

def withOut (l : List OutItem) : State := base.modCore 0 fun c => { c with out := l }
def st1 (key : Nat) : OutItem := .store 1 { key := key, bytes := [1], bad := false, evict := false, portion := none }
def due (s : State) (k : Nat) (p : StoreRec → Bool) : Bool := match (s.core 0).out[k]? with
  | some (.store _ r) => p r
  | _ => false
def atomic (sent : Bool) : AsqReq :=
  { id := 5, quire := some 1, vol := 1, core := 0, home := 0, op := .atom 0 false, lanes := [{ lane := 0, key := 0x100800, v := 1, c := 0, bad := false, portion := none }],
    dst := none, acq := none, sent := sent }
def withAsq (sent : Bool) : State := { base with asq := [atomic sent] }
def moving (st : HState) (kind : XferKind) : State :=
  { handled st with xfers := [(5, { gath := 1, handle := 3, kind := kind, bytes := 256, started := false, pieces := [], fault := none, ctx := 0, vol := 1, issuer := 1, tensor := none, got := [] })] }
def copy : XferKind := .cpy 0x100800 false
def xferDue (s : State) (k : XferKind) : Bool := match FMap.find s.xfers 5 with
  | some x => x.kind == k && ((FMap.find s.gaths x.gath).any fun g => g.saved.isNone)
    && (s.xfers.find? fun e => e.2.gath == x.gath && e.2.handle == x.handle && !e.2.started).map Prod.fst == some 5
  | none => false
def treeReq (faulted : Option Nat) : TreeReq :=
  { id := 6, ins := 5, quire := 1, gath := 1, vol := 1, ctx := 0, index := 0, lane := 0, pc := loadPc, desc := 0x100400, home := some 0x100400, op := .sel, dst := .v 10, prog := .fresh,
    faulted := faulted, faultVa := 0 }
def withTree (f : Option Nat) : State := { base with treqs := [treeReq f] }
def append : Append := { ctx := 0, tree := 0x100400, gath := 1, handle := 3, bytes := List.replicate 32 1, batch := 4, timer := 2 }
def appending : State := { handled .free with apps := [append] }
def batching (now : Nat) : State := { tune (handled .filling) fun g => { g with batches := [(3, 4, 2, 0)] } with ns := now }
def hasBatch (s : State) : Bool := (FMap.find s.gaths 1).any fun g => FMap.find g.batches 3 == some (4, 2, 0)
/-- R357, R363, R263, R400, R408: what is on its way, held back and not. -/
theorem wit_requests : [due (withOut [.token 1 3 true, st1 0x100800]) 1 fun _ => !outReady ((withOut [.token 1 3 true, st1 0x100800]).core 0).out 1,
    due (withOut [st1 (spadKey 0 0)]) 0 fun r => outReady ((withOut [st1 (spadKey 0 0)]).core 0).out 0 && !r.far,
    due (withOut [st1 (2 ^ 50)]) 0 fun r => outReady ((withOut [st1 (2 ^ 50)]).core 0).out 0 && r.far,
    (withAsq false).asq.find? (fun r => r.id == 5) == some (atomic false) && (withAsq false).asqReady (atomic false),
    (withAsq true).asq.find? (fun r => r.id == 5) == some (atomic true) && !(withAsq true).asqReady (atomic true),
    xferDue (moving .free copy) copy && ((moving .free copy).handle 1 3).state == .free, xferDue (moving .full copy) copy && ((moving .full copy).handle 1 3).state != .free,
    xferDue (moving .free (.build 0x100800 0 0 false)) (.build 0x100800 0 0 false), xferDue (moving .free (.coll 9)) (.coll 9),
    (withTree none).treqs.find? (fun r => r.id == 6) == some (treeReq none) && (withTree none).treeReady (treeReq none),
    !(withTree (some 2)).treeReady (treeReq (some 2)),
    appending.apps[0]? == some append && !(appending.apps.take 0).any (fun b => b.gath == 1 && b.handle == 3) && (FMap.find appending.gaths 1).any fun g =>
      !g.retired && g.saved.isNone && (g.handle 3).state == .free,
    hasBatch (batching 499) && decide ((batching 499).ns < 0 + 250 * 2), hasBatch (batching 500) && decide (0 + 250 * 2 ≤ (batching 500).ns)].all id = true := by
  decide +kernel

def ctx (s : State) (f : Context → Context) : State := s.modCtx 0 f
def stuck (n : Nat) : State := ctx (waiting base (.barwait 0x100800 0 .dev)) fun c => { c with stuck := n }
def outside (n : Nat) (asked : Option Nat := none) : State :=
  withQ (ctx (tune (waiting base .call) fun g => { g with asked := asked }) fun c => { c with extTimeout := 1 }) fun q => { q with watched := n }
def spending (n : Nat) : State := withQ { fetched base with vols := base.vols.map fun x => (x.1, { x.2 with pkt := { x.2.pkt with budget := 3 } }) } fun q => { q with budget := n }
def issues (s : State) (e : Env) : Bool :=
  (e.nextGroup s).any (fun l => (e.groupTrap l).isNone && e.scoreboardOk l) && e.q.mayIssue && e.q.grp.isNone && !e.handlerMode && e.vol.pkt.budget != 0
/-- R389, R390, R392 at their limits. -/
theorem wit_watchdogs : Seen [⟨stuck 49999999, fun e => e.ctx.watchdog && decide (e.ctx.stuck < 50000000)⟩,
    ⟨stuck 50000000, fun e => e.ctx.watchdog && decide (50000000 ≤ e.ctx.stuck) && (stuck 50000000).deadlocked 0⟩,
    ⟨outside 1000001, fun e => e.ctx.extTimeout != 0 && e.q.wait.outside && decide (1000000 * e.ctx.extTimeout < e.q.watched) && !(outside 1000001).ctxStopped e.vol.ctx && e.g.asked.isNone && (match e.q.wait with | .tryw _ => false | _ => true)⟩,
    ⟨outside 1000000, fun e => decide (e.q.watched ≤ 1000000 * e.ctx.extTimeout)⟩, ⟨outside 1000001 (some 0), fun e => e.g.asked.isSome⟩,
    ⟨spending 8, fun e => issues (spending 8) e && decide (2 ^ e.vol.pkt.budget < e.q.budget + 1)⟩,
    ⟨spending 7, fun e => issues (spending 7) e && decide (e.q.budget + 1 ≤ 2 ^ e.vol.pkt.budget)⟩] := scenes_ok _ (by decide +kernel)

def parkTrap : TrapInfo := { code := 0x0C, pc := loadPc, resume := loadPc, cls := 1, lane := 0, detail := 0, addr := 0x200000, lanes := 1 }
def entry (written : Bool) : FaultEnt :=
  { va := 0x200000, code := 0, access := 0, level := 0, seq := 1, core := 0, written := written, slot := 0, waiters := [.quire 1] }
def faulted (written : Bool) : State :=
  ctx (waiting base (.fault 1 parkTrap false)) fun c => { c with faultRing := 0x100800, faultSize := 4, faults := [(1, entry written)] }
def freed : State := (faulted true).setCtx 0 { (((faulted true).ctxs.head?).map Prod.snd).getD loadContext with faults := [] }
def resolves (t : State) : Bool := okOf (t.translate 0 0 0x1000 (0x100800 + 32 * 0) .ewrite)
/-- R248, R249: an entry not yet written, and each resolution of one whose quire is parked. -/
theorem wit_resolutions : ((FMap.find (faulted false).ctxs 0).any (fun c => (FMap.find c.faults 1).any fun f => !f.written)
    && (FMap.find (faulted true).ctxs 0).any (fun c => (FMap.find c.faults 1).any fun f => f.written && f.waiters == [.quire 1])
    && (freed.envOf 1).any (fun e => e.q.wait == .fault 1 parkTrap false)
    && resolves (freed.rollback 1) && resolves ((freed.modQuire 1 goesOn).takeTrap 1 parkTrap false) && resolves (freed.endLaunch 1 (.killed 0))
    && [1, 2, 3].all fun res => resolves ((entry true).waiters.foldl (fun s w => s.resolveWaiter 1 (entry true) (verdictOf res) w) freed)) = true := by decide +kernel

def asked (now : Nat) : State := { tune base fun g => { g with asked := some 0 } with ns := now }
def remapped (now : Nat) : State := { withQ base fun q => { q with oldLane := some (3, 0) } with ns := now }
theorem wit_points : Seen [⟨asked 100000, fun e => (asked 100000).pointDue e⟩, ⟨asked 99999, fun e => !(asked 99999).pointDue e⟩,
    ⟨remapped 100000, fun e => (remapped 100000).copyLate e.q⟩, ⟨remapped 99999, fun e => !(remapped 99999).copyLate e.q⟩] := scenes_ok _ (by decide +kernel)

/-- Gathering 1 is asked to leave and its quire has come to its save point; its core owes an acknowledgement; its pool has `pool` bytes. -/
def leaving (pool : Nat) (owes : Bool) : State :=
  let small : State := { asked 0 with vols := base.vols.map fun x => (x.1, { x.2 with pkt := { x.2.pkt with spad := 1 } }) }
  let s := withQ (ctx small fun c => { c with save := (0, pool) }) fun q => { q with save := .atPoint }
  if owes then s.modCore 0 fun c => { c with cnt := [(0, 1)] } else s
def readySave (s : State) (all : Bool) : Bool := s.drained (s.unitOf 1) && ((s.releaseCores [0]).releasedAll [0] == all)
def sizeOf (s : State) : Nat := match FMap.find s.gaths 1 with
  | some g => (s.releaseCores [0]).saveSize g ((s.releaseCores [0]).savedBytes g).length
  | none => 0
def away (bins : Nat) : State :=
  let b : Bin := { vol := 1, entry := 0, key := 0, join := false, lanes := [], full := false, opened := 0 }
  tune (withQ base fun q => { q with save := .saved }) fun g => { g with saved := some { bytes := [], off := 0, size := 0 }, bins := List.replicate bins b }
def held (since : Nat) (avoid : Option Nat := none) : State := { tune base fun g => { g with holdoff := some 0, avoid := avoid } with ns := since }
def contexts (n : Nat) (now : Nat) : State :=
  { base with ns := now, ctxs := ((List.range n).map fun i => (i, loadContext)) ++ [(n, { loadContext with resident := false, candidate := some 0 })] }
def enters (n now : Nat) : Bool := (FMap.find (contexts n now).ctxs n).any (fun c => !c.resident && c.candidate == some 0)
  && (contexts n now).ctxs.all fun x => !x.2.leaving
/-- R457, R461, R462, R464, R465. -/
theorem wit_units : [!base.drained (base.unitOf 1), readySave (leaving 65536 true) false, readySave (leaving 1048576 false) true && decide (sizeOf (leaving 1048576 false) ≤ 1048576),
    readySave (leaving 16 false) true && decide (16 < sizeOf (leaving 16 false)), ((away 0).returnPlan 1).any fun p => !(away 0).lacksRoom p,
    ((away 33).returnPlan 1).any fun p => (away 33).lacksRoom p, (FMap.find (held 999999).gaths 1).any fun g => g.holdoff == some 0 && decide ((held 999999).ns < 0 + 1000000),
    (FMap.find (held 1000000).gaths 1).any fun g => g.holdoff == some 0 && decide (0 + 1000000 ≤ (held 1000000).ns),
    (FMap.find (held 1000000 (some 0)).gaths 1).any (fun g => g.holdoff == some 0 && g.avoid.isSome), ((held 0).returnPlan 1).isNone,
    enters 63 0 && decide ((contexts 63 0).residents < 64), enters 64 0 && decide (64 ≤ (contexts 64 0).residents) && ((contexts 64 0).switchVictim 64 false).isSome,
    enters 63 10000000 && decide ((contexts 63 10000000).residents < 64), enters 64 10000000 && ((contexts 64 10000000).switchVictim 64 true).isSome].all id = true := by
  decide +kernel

def struck (n : Nat) : State := { base with events := [(laneKey 0 0 3, List.replicate n 0), (wayKey 0 0 0 2, List.replicate n 0)] }
def dram : Nat := 0x100800
/-- R466, R469, R474, R477, R478: the third event of a lane, of a way and of a row, and those before it. -/
theorem wit_errors : Seen [⟨base, fun e => e.q.save != .saved && decide (laneRetired (base.laneTable e.g.pcore e.q.part) 3 = false ∧ (base.countEvent (laneKey 0 0 3)).1 < 3)⟩,
    ⟨struck 2, fun e => e.q.save != .saved && decide (3 ≤ ((struck 2).countEvent (laneKey e.g.pcore e.q.part 3)).1)⟩, ⟨away 0, fun e => e.q.save == .saved⟩,
    ⟨base, fun _ => !(FMap.val 0 base.ways (wayKey 0 0 0 0)).testBit 2 && decide ((base.countEvent (wayKey 0 0 0 2)).1 < 3)⟩,
    ⟨{ base with ways := [(wayKey 0 0 0 0, 4)] }, fun _ => ({ base with ways := [(wayKey 0 0 0 0, 4)] } : State).wayRetired ⟨0, 0, 0, 2⟩⟩,
    ⟨struck 2, fun _ => !(struck 2).wayRetired ⟨0, 0, 0, 2⟩ && decide (3 ≤ ((struck 2).countEvent (wayKey 0 0 0 2)).1)⟩,
    ⟨owing [pending .engine], fun _ => (owing [pending .engine]).engineOwes 1 0 && !(owing [pending .engine]).engineOwes 1 1⟩,
    ⟨asked 0, fun e => e.g.asked.isSome⟩,
    ⟨base, fun _ => keyIsDram dram && decide ((base.countEvent (base.rowNow dram)).1 < 3)⟩] := scenes_ok _ (by decide +kernel)

/-! ### Launches -/

def Q1 (f : Queue → Queue) (s : State := queued) : State := s.modQueue (queueKey 0 1) f
def queue (s : State) (p : Queue → Context → Bool) : Bool := match FMap.find s.queues (queueKey 0 1), FMap.find s.ctxs 0 with
  | some q, some c => p q c
  | _, _ => false
def tailIs (n : Nat) : State := { queued with mem := queued.mem.setNum 0x100c00 8 n }
def tailOk (s : State) (fits : Bool) : Bool := queue s fun q c => c.resident && q.state == .running && match s.translate 0 0 c.root q.tailVa .eread with
  | (.ok x, t) => paKind x.pa != .peer && decide (seqDiff (t.mem.num x.pa 4 + 1) q.expected ≤ 2 ^ q.n) == fits
  | _ => false
def packet (type dep : Nat) : Packet := { loadPacket with type := type, depWord := dep, depVal := 1 }
def blocked (type dep : Nat) : State := Q1 fun q => { q with blocked := some (packet type dep), state := .waiting }
def depIs (type dep : Nat) (b : Bool) : Bool := queue (blocked type dep) fun q c => q.blocked == some (packet type dep)
  && ((blocked type dep).blockedHolds (queueKey 0 1) c.root (packet type dep)).1 == b && c.resident
def signals (seq : Nat) : State := Q1 fun q => { q with signals := [packet 3 0x100800], open' := [(seq, false)] }
/-- R34–R39 at the ring's bounds: a tail of all four packets, of five, a tail line that is not mapped; a dependency that holds and one that does not. -/
theorem wit_queues : [queue (ctx queued fun c => { c with resident := false }) fun _ c => !c.resident, queue (Q1 fun q => { q with state := .halted }) fun q c => c.resident
      && q.state == .halted, tailOk (tailIs 4) true, tailOk (tailIs 5) false,
    queue tailless fun q c => c.resident && !okOf (tailless.translate 0 0 c.root q.tailVa .eread), queue queued fun q _ => q.blocked.isNone,
    depIs 1 0x100800 false, depIs 1 0 true, depIs 3 0 true, queue (ctx (blocked 1 0) fun c => { c with resident := false }) (fun q c => q.blocked.isSome && !c.resident), queue (signals 2) fun q _ => q.open' == [(2, false)] && q.signals.length == 1,
    queue (signals 1) fun q c => q.open' == [(1, false)] && q.signals.length == 1 && c.resident && !(signals 1).flushAll.writesDue,
    queue (ctx (signals 1) fun c => { c with resident := false }) fun q c => q.signals.length == 1 && !c.resident].all id = true := by decide +kernel

def vol (f : Volume → Volume) (s : State := base) : State := { s with vols := s.vols.map fun x => (x.1, f x.2) }
/-- All gatherings placed and retired: nothing is left of the launch. -/
def emptied : State := { vol fun v => { v with live := 0, next := 1 } with quires := [], gaths := [] }
def volOf (s : State) (p : Volume → Bool) : Bool := (FMap.find s.vols 1).any p
/-- One gathering still to be placed, beside the one that is. -/
def toPlace : State := vol fun v => { v with next := 0 }
def bin (full join : Bool) : Bin :=
  { vol := 1, entry := loadPc, key := 0, join := join, lanes := [{ payload := [], gath := 1, quire := 0, x := 0, y := 0, z := 0, role := .main }], full := full, opened := 0 }
def binned (full join : Bool) (now : Nat := 0) : State := { base.modCore 0 fun c => { c with bins := [(4, bin full join)] } with ns := now }
def hasBin (s : State) (b : Bin) : Bool := FMap.find (s.core 0).bins 4 == some b && (FMap.find s.vols b.vol).isSome
def owingMesh : State := tune (drawing .task) fun g => { g with ringOrder := [0], owed := [(0, (1, 1))], handles :=
  [(60, { fill := 0, size := 4, offset := 0, error := 0, multicast := false, state := .full })] }
def wanting : State := tune base fun g => { g with wanted := [{ entry := loadPc, arg := 7, from' := 0 }] }
/-- Quires in all four partitions leave room for one more with its reservation of 16 rows; the bin's has 17 registers of payload. -/
def brimming : State :=
  let q := withQ base fun q => { q with regs := { q.regs with reserve := 127 } }
  let q : State := { q with quires := (List.range 4).flatMap fun k => q.quires.map fun x => (x.1 + k, { x.2 with part := k }) }
  (tune q fun g => { g with quires := [1, 2, 3, 4] }).modCore 0 fun c => { c with bins := [(4, { bin true false with
    lanes := (bin true false).lanes.map fun l => { l with payload := List.replicate 17 (0, false) } })] }
/-- The payload of the bin on core 0 of a state has its rows, or has not. -/
def bound (s : State) : Bool := match FMap.find (s.core 0).bins 4 with
  | none => false
  | some b => match s.binPlan 0 b, FMap.find s.vols b.vol with
    | some (none, part), some v =>
      let r := (s.modCore 0 fun c => { c with bins := FMap.remove c.bins 4 }).addGathering b.vol v b.role 0 0 0 (s.logicalOf 0) 0 none true
      ((r.2.addQuire r.1 0 part b.entry (b.regs v)).bindRows 0 part r.2.nextId b).isSome
    | _, _ => false
/-- R56, R63, R67, R317, R382, R386. -/
theorem wit_places : [volOf emptied fun v => emptied.volumeDue 1 v && !emptied.flushAll.writesDue, volOf base fun v => !base.volumeDue 1 v, (toPlace.placeClasses 4 0).isSome,
    (base.placeClasses 4 0).isNone, hasBin (binned false false) (bin false false) && (binned false false).binPlan 0 (bin false false) == none,
    hasBin (binned true false) (bin true false) && ((binned true false).binPlan 0 (bin true false)).any (fun r => r.1 == none),
    bound (binned true false), (FMap.find (brimming.core 0).bins 4).any (fun b => (brimming.binPlan 0 b).any fun r => r.1 == none) && !bound brimming,
    hasBin (binned true true) (bin true true) && ((binned true true).binPlan 0 (bin true true)).any (fun r => r.1 == some 1) && ((binned true true).join 1).isSome,
    (binned false false 1000000).binExpired (bin false false),
    !(binned true false).binExpired (bin true false), (FMap.find owingMesh.gaths 1).any fun g => (owingMesh.meshPlan g).isSome,
    (FMap.find wanting.gaths 1).any fun g => (wanting.pendingPlan 1 g).isSome && (wanting.join 1).isSome].all id = true := by decide +kernel

/-- A record of serial 1 whose triangle covers the target, and one whose triangle covers none of it. -/
def work (covers : Bool) : PrimWork :=
  let at' := fun (x y : Nat) => leBytes 4 x ++ leBytes 4 y ++ leBytes 8 0
  { serial := 1, gath := 1, core := 0, place := 0, record := List.replicate 8 0 ++ (if covers then at' 0 0 ++ at' 0x1000 0 ++ at' 0 0x1000 else List.replicate 48 0) ++ List.replicate 24 0,
    written := true, cursor := 0 }
def resolving (covers final : Bool) : State :=
  { drawing .pixel with vols := base.vols.map fun x => (x.1, { x.2 with render := some { render with work := [work covers], final := final } }) }
def tiles' (cursor : Nat) : State :=
  { emptied with vols := emptied.vols.map fun x => (x.1, { x.2 with render := some { render with work := [{ work true with cursor := cursor }] } }) }
def render' (s : State) (p : Volume → Render → Bool) : Bool := volOf s fun v => v.render.any (p v) && v.ending == .running && s.live v.ctx
theorem wit_pixels_final : [render' (resolving false false) fun _ r => r.work.find? (fun x => x.serial == 1) == some (work false)
      && (nextCovered target (recVertices (work false).record) 4 0).isNone,
    (nextCovered target (recVertices (work true).record) 4 0) == some (0, 0), render' (tiles' 4) fun v r => !r.final && (tiles' 4).tilesDone 1 v r,
    render' (tiles' 3) fun v r => !r.final && !(tiles' 3).tilesDone 1 v r, render' (resolving true true) fun _ r => r.final].all id = true := by decide +kernel

/-! ### Messages, management, commands -/

/-- The second of four ranks; its path to rank 2 has fallen. -/
def member (f : Coll → Coll := id) : Coll := f
  { ctx := 0, vol := 1, desc := 0x100400, kind := 0, op := 0, ty := 0, opened := true, n := 4, rank := 1, group := 0, ids := [10, 11, 12, 13], src := 0, dst := 0, count := 2,
    record := 0, maskVa := 0, seq := 1, root := 0, phase := .exchanging, lost := [], learnt := [], data := [], heard := [], sentAt := 0, round := none, views := [],
    mask := none, decided := false, status := 0, cls := 0, error := 0, written := false, settled := false, noMask := false, noRecord := false }
def joined (c : Coll) (now : Nat) : State :=
  { base with colls := [(5, c)], ns := now, fallen := 1, peers := [(0, BitVec.ofNat 64 (1 + 12 * 2 ^ 16 + 2 ^ 26)), (1, BitVec.ofNat 64 (1 + 13 * 2 ^ 16 + 2 ^ 27))],
              xfers := [(7, { gath := 1, handle := 3, kind := .coll 5, bytes := 0, started := true, pieces := [], fault := none, ctx := 0, vol := 1, issuer := 1, tensor := none, got := [] })] }
def isMember (s : State) (c : Coll) : Bool := FMap.find s.colls 5 == some c && c.opened && !c.settled && c.phase != .ended
def rounds (rank : Nat) (now : Nat) : Coll × Nat := (member fun c => { c with rank := rank, round := some 0, lost := if rank = 1 then [0] else [] }, now)
/-- R413, R417, R427–R429 at their times: 250 µs, 2 ms, 4 ms; a rank lost and one heard; the coordinator and another member. -/
theorem wit_collectives : [isMember (joined member 249999) member && (member).other 2 && decide (249999 < member.sentAt + 250000),
    decide (member.sentAt + 250000 ≤ (joined member 250000).ns), (joined member 2000000).mayDeclare member 2, !(joined member 2000000).mayDeclare member 3,
    !(joined member 1999999).mayDeclare member 2, (rounds 1 2000000).1.round == some 0 && (rounds 1 2000000).1.coordinates, !(rounds 2 2000000).1.coordinates,
    (rounds 1 4000000).1.mask.isNone, decide (({ member.params with count := 3 } : CollParams) ≠ member.params), (member fun c => { c with mask := some (0xF, 0) }).mask.isSome, (member fun c => { c with mask := some (0xF, 3) }).mask.any (fun m => decide (2 < m.2)),
    !(joined (rounds 2 3999999).1 3999999).maskDue (rounds 2 3999999).1, (joined (rounds 2 4000000).1 4000000).maskDue (rounds 2 4000000).1, (joined member 0).collXfer 5 == some 7].all id = true := by
  decide +kernel

def linked (now : Nat) (lost : Bool := false) : State :=
  { base with stations := 3, flits := [(1, [0, 5])], ns := now, peers := [(0, 1)], windows := [(0, { ctx := 0, va := 0x100800, len := 64, writable := true })], linkUp := true,
              peerOut := [{ id := 9, entry := 0, addr := 0, core := 0, data := [], marks := [], len := 4, sentAt := 0, lost := lost, use := .load 1 false [] }] }
def windowed (writable : Bool) : State := { linked 0 with windows := [(0, { ctx := 0, va := 0x100800, len := 64, writable := writable })] }
def inWindow (s : State) (r : PeerReq) : Bool :=
  let x := reqShape r
  (FMap.find s.windows (x.1 / 2 ^ 34 % 256)).any fun w => decide (x.1 % 2 ^ 34 + x.2.1 ≤ w.len) && (!x.2.2.writes || w.writable)
/-- R362, R413–R418: what is inside a window and what is not; stations, acknowledgements, requests at their time; the host's bytes. -/
theorem wit_peers : [(linked 0).stations.testBit 1, (linked 1000000).ackLate 1, !(linked 999999).ackLate 1, FMap.sorted (linked 0).flits,
    ((linked 0).peerOut.find? fun o => o.id == 9).any (fun o => !o.lost && decide ((linked 1999999).ns < o.sentAt + 2000000)),
    ((linked 0 true).peerOut.find? fun o => o.id == 9).any (·.lost), (linked 2000000).peerOut.any (fun o => decide (o.sentAt + 2000000 ≤ (linked 2000000).ns)),
    (FMap.find base.windows 0).isNone, inWindow (linked 0) (.write 60 [1, 2, 3, 4]) && (((linked 0).windowPas { ctx := 0, va := 0x100800, len := 64, writable := true } 0x1000
      .store 4 60).1).isSome, (((linked 0).windowPas { ctx := 0, va := 0x200000, len := 64, writable := true } 0x1000 .store 4 60).1).isNone, !inWindow (linked 0) (.read 61 4), !inWindow (windowed false) (.write 0 [1]),
    !(peerOp 0xD), (List.range 4).all fun i => (linked 0).hostMay (0x100800 + i), !base.hostMay 0x100800].all id = true := by decide +kernel

/-- Nothing registered. -/
def idle : State := State.reset
def warm (t : Nat) : State := { idle with temps := [(0, t)] }
/-- R489–R491 at 105 °C and 110 °C. -/
theorem wit_management : [idle.queues.isEmpty, decide (idle.clockMode = 0) && !idle.hot, (warm 105).hot, !(warm 104).hot,
    (FMap.put 0 idle.temps 1 105).any fun t => decide (105 ≤ t.2), !(FMap.put 0 idle.temps 1 104).any fun t => decide (105 ≤ t.2),
    ({ idle with clockMode := 1 } : State).clockMode == 1, idle.boot == 0, ({ idle with boot := 2 } : State).boot != 0].all id = true := by decide +kernel

/-- A context record at 0x10_0400 that names the tables of the mapped page. -/
def recorded (s : State) : State := { s with mem := (s.mem.setBytes 0x100400 (leBytes 8 0x1000 ++ leBytes 16 0 ++ [1, 0])) }
def contextIs (s : State) (slots window : Bool) : Bool :=
  let t := s.recallRange 0x100400 128
  (contextOf t.mem 0x100400).any fun c => ((List.range 255).find? fun k => (FMap.find t.ctxs k).isNone).isSome == slots && (t.freeWindow c.windowLen).isSome == window
def crowd : State := recorded { base with ctxs := (List.range 255).map fun i => (i, loadContext) }
def ringed : State :=
  let s := ctx base fun c => { c with qcount := 2, qtable := 0x100400 }
  { s with mem := s.mem.setBytes (0x100400 + 64) (leBytes 8 0x100000 ++ [4, 3, 1, 2] ++ leBytes 4 0 ++ leBytes 8 0x100c00 ++ leBytes 8 0x100c40 ++ leBytes 4 1) }
def enables (s : State) (ok mapped : Bool) : Bool := (FMap.find s.ctxs 0).any fun c => decide (1 < c.qcount) && match s.translate 0 0 c.root (c.qtable + 64 * 1) .eread with
  | (.ok x, t) =>
    let u := t.recallRange x.pa 64
    let bs := u.mem.bytes x.pa 64
    queueOk bs == ok && mappedAll u.mem c.root (leValue (bs.take 8)) (128 * 2 ^ leValue ((bs.drop 8).take 1)) == mapped
  | _ => false
def ringedTo (va : Nat) : State := { ringed with mem := ringed.mem.setBytes (0x100400 + 64) (leBytes 8 va) }
def storing : State := withQ base fun q => { q with store := [{ key := 0x100800, bytes := [1], bad := false, evict := false, portion := none }] }
/-- R31, R247, R414, R418, R495: a record that stands and one that does not, room and none; a queue that can be enabled, a bad one, one off the map. -/
theorem wit_commands : [(contextOf (base.recallRange 0x100400 128).mem 0x100400).isNone, contextIs (recorded idle) true true, contextIs crowd false true,
    (FMap.find base.ctxs 0).isSome && (FMap.find base.ctxs 9).isNone, enables ringed true true, enables (ringedTo 0x100008) false true, enables (ringedTo 0x200000) true false,
    storing.storesHeld 0, !base.storesHeld 0 && !base.accessesDue 0, base.boot == 0, (FMap.find queued.queues (queueKey 0 1)).isSome && (FMap.find queued.queues (queueKey 0 2)).isNone,
    idle.sigsLeft != 0].all id = true := by decide +kernel

def stopped : State := withQ base fun q => { q with stopped := true }
def still (s : State) : Bool := (s.dbgQuires (.quire 1)).all fun id => match FMap.find s.quires id with
  | some q => q.stopped && !s.resultsDue id q
  | none => true
theorem wit_debug : Seen [⟨stopped, fun e => e.q.stopped && stopped.dbgQuires (.quire 1) == [1] && stopped.dbgQuires (.quire 2) == []⟩,
    ⟨base, fun e => !e.q.stopped && still (base.modQuire 1 fun q => if q.stopped then q else q.askStop)⟩,
    ⟨owing [pending .load], fun _ => !still ((owing [pending .load]).modQuire 1 fun q => if q.stopped then q else q.askStop)⟩,
    ⟨stopped, fun e => (e.dbgPut (.scalar 126) 5).isSome && (e.dbgPut (.scalar 127) 5).isNone && (e.dbgPut (.vec 1535 31) 5).isSome && (e.dbgPut (.vec 1536 0) 5).isNone⟩,
    ⟨stopped, fun e => e.q.stopped && (stopped.dbgMemory e .gen 0x100400 0 0 0).1.isSome && (stopped.dbgMemory e .gen 0x200000 0 0 0).1.isNone
      && (stopped.dbgMemory e .cspad 64 0 0 0).1.isSome && (stopped.dbgMemory e .cspad 65536 0 0 0).1.isNone⟩,
    ⟨base, fun e => !e.g.retired && e.g.saved.isNone⟩, ⟨away 0, fun e => e.g.saved.isSome⟩] := scenes_ok _ (by decide +kernel)

/-! ### Steps, delivery, frames -/

/-- The state in which the quire's turn comes to its one instruction, a NOP. -/
def turn : State := base.pass.bump.prepare 1
def nop : Instr := .nop h0 (fc 0 0 z)
def entered : State := turn.enterMember 1 { slot := 0, word := 0, ins := nop }
theorem wit_step_turn : choose base.pass.tick base.pass.movers = some (.quire 1) := by decide +kernel
theorem wit_step_member : ((turn.envOf 1).any fun e => (e.q.grp.any fun g => g.slots[g.done]? == some 0)
    && (e.q.line.any fun l => decodeUnder (e.table turn) (lineSlot l.2 0) == some nop) && e.q.wait == .none && !e.q.stopped) = true := by decide +kernel
/-- The NOP executes, and completes its group. -/
theorem wit_step_group : (match exec nop entered with
    | .next t => (FMap.find t.quires 1).any fun q => q.wait == .none && !q.stepping && q.grp.any fun g => decide (g.slots.length ≤ g.done) && g.owed.isNone && !g.committed && decide (q.regs.stack.length ≤ 32)
    | _ => false) = true := by decide +kernel
/-- An internal event that is the only thing due; an event from outside. -/
def resetting : State := { State.reset with agenda := [.deviceReset] }
/-- One word of a sector of DRAM is marked, and nothing else is due. -/
def tainted : State := { State.reset with mem := State.reset.mem.setBad 0x100800 true }
def acknowledged : State := { State.reset with cores := [(0, ⟨[], [], [], [], [], [0], []⟩)] }
theorem wit_step_events : choose resetting.pass.tick resetting.pass.movers = some .agenda
    ∧ choose acknowledged.pass.tick acknowledged.pass.movers = some (.event (.storeAcknowledge 0 0))
    ∧ choose tainted.pass.tick tainted.pass.movers = some (.evict (0x100800 / 32)) := by decide +kernel

theorem wit_memory : base.mem.wf = true ∧ State.reset.mem.wf = true := by decide +kernel

/-- A context with a handler, its trap area in the mapped page. -/
def trapping : State := ctx base fun c => { c with handler := loadPc, trapArea := 0x100800 }
/-- The trap area of a sealed launch's quire, in a page that the launch has shadowed. -/
def shadowing : State := vol (fun v => { v with sealedOn := true, shadow := [{ page := 0x100, slot := some 0, copy := 0x300000, sectors := [], lo := 0, hi := 0 }] }) trapping
/-- A record can be delivered, and where no core holds a store its two places are one or do not meet. -/
def delivers (s : State) (e : Env) : Bool := e.ctx.handler != 0 && match s.translate (dieOfCore e.g.pcore) e.vol.ctx e.ctx.root e.recordVa .store with
  | (.ok x, t) => paKind x.pa != .peer && t.mem.wf && t.cores.all (fun c => c.2.out.isEmpty) && [t, t.finishGroup 1].all fun v => (v.envOf 1).any fun d =>
      let copy := v.shadowed d.g.vol x.pa
      d.q.regs.handler.isNone && (copy == x.pa || decide (x.pa + 64 ≤ copy))
  | _ => false
def someTrap : TrapInfo := { code := 0x12, pc := loadPc, resume := loadPc, cls := 0, lane := 0, detail := 5, addr := 0, lanes := 1 }
theorem wit_delivery : Seen [⟨base, fun e => e.ctx.handler == 0⟩, ⟨handling, fun e => e.handlerMode⟩,
    ⟨trapping, delivers trapping⟩, ⟨shadowing, delivers shadowing⟩] := scenes_ok _ (by decide +kernel)

/-- Lane 0 stores a word at byte 64 of its scratchpad, and loads it. -/
def spot : FmtM := { fm (v 8) (sc 2) (im 0) 64 with space := .cspad }
theorem wit_scratchpad : Met [⟨lane0, .st h1 spot, fun e => acts h1 e && (e.privTrap spot (e.lanes (e.effect h1))).isNone
      && (e.addrTrap lane0 spot (Wd spot.width) 0 (checked e h1)).isNone && (checked e h1).all (fun l => !(e.datum spot l).2)
      && decide ((storeLines e.q.store).length ≤ 32 ∧ e.q.spadEntries + e.words * wordEntries spot.width ≤ 256)
      && (keysOf lane0 e spot 0).length == 4 && decide (e.firstWord ≤ 0)⟩, ⟨lane0, .ld h1 spot, fun e => acts h1 e
      && (match e.spots lane0 spot (Wd spot.width) 0 (bypassed spot) .load (checked e h1) with
        | .ok (_, t) => decide (PadsReady t e spot (e.lanes (e.effect h1 &&& e.view.padding)))
        | _ => false)⟩] := cases_ok _ (by decide +kernel)

/-- R14: the launch of `base` has no render side; its packet is given seven inline parameters. -/
theorem wit_start : (volOf (vol fun v => { v with pkt := { v.pkt with inline := [1, 2, 3, 4, 5, 6, 7] } }) fun v => v.render.isNone && v.pkt.inline.length == 7) = true := by
  decide +kernel

/-- R490, R51: what reset leaves. -/
theorem test_reset : State.reset.power = 56 ∧ State.reset.mem = Memory.empty ∧ (State.reset.mgReg 0x0028) = 0 := by decide +kernel
end Sys2Proof.Tests
end

/-! PROOFS. The registers a quire starts with (R14): reads of a table after a run of writes, then what each read of `Regs.start` gives. -/
namespace Sys2Proof.Machine

/-! ### Reading after writes at consecutive keys -/

/-- The table after the values `f 0`, …, `f (n - 1)` are put at the keys from `b` on, as `Regs.start` puts the inline words. -/
abbrev FMap.putRange {α : Type} [DecidableEq α] (d : α) (m : FMap α) (b n : Nat) (f : Nat → α) : FMap α :=
  (List.range n).foldl (fun m i => FMap.put d m (b + i) (f i)) m

theorem FMap.putRange_succ {α : Type} [DecidableEq α] (d : α) (m : FMap α) (b n : Nat) (f : Nat → α) :
    FMap.putRange d m b (n + 1) f = FMap.put d (FMap.putRange d m b n f) (b + n) (f n) := by
  simp [FMap.putRange, List.range_succ]

theorem FMap.putRange_sorted {α : Type} [DecidableEq α] {d : α} {m : FMap α} (b n : Nat) (f : Nat → α) (h : FMap.sorted m = true) :
    FMap.sorted (FMap.putRange d m b n f) = true := by
  induction n with
  | zero => exact h
  | succ n ih => rw [FMap.putRange_succ]; exact FMap.put_sorted ih

theorem FMap.val_putRange_outside {α : Type} [DecidableEq α] (d : α) (m : FMap α) {b n j : Nat} (f : Nat → α) (h : j < b ∨ b + n ≤ j) :
    FMap.val d (FMap.putRange d m b n f) j = FMap.val d m j := by
  induction n with
  | zero => rfl
  | succ n ih => rw [FMap.putRange_succ, FMap.val_put_ne d _ _ (by omega), ih (by omega)]

theorem FMap.val_putRange_inside {α : Type} [DecidableEq α] {d : α} {m : FMap α} {b n i : Nat} (f : Nat → α) (h : FMap.sorted m = true) (hi : i < n) :
    FMap.val d (FMap.putRange d m b n f) (b + i) = f i := by
  induction n with
  | zero => omega
  | succ n ih =>
    rw [FMap.putRange_succ]
    rcases Nat.lt_succ_iff_lt_or_eq.1 hi with hlt | rfl
    · rw [FMap.val_put_ne d _ _ (by omega), ih hlt]
    · exact FMap.val_put_self d _ _ (FMap.putRange_sorted b i f h)

/-! ### Scalars at the start -/

/-- The scalars that every launch gives: the parameter block in s0, the sequence number in s1. -/
def launchScalars (param seq : W64) : FMap W64 := FMap.put 0 (FMap.put 0 [] 0 param) 1 seq

theorem launchScalars_sorted (param seq : W64) : FMap.sorted (launchScalars param seq) = true := FMap.put_sorted (FMap.put_sorted rfl)

theorem launchScalars_zero (param seq : W64) : FMap.val 0 (launchScalars param seq) 0 = param := by
  rw [launchScalars, FMap.val_put_ne _ _ _ (by decide), FMap.val_put_self _ _ _ rfl]

theorem launchScalars_one (param seq : W64) : FMap.val 0 (launchScalars param seq) 1 = seq :=
  FMap.val_put_self _ _ _ (FMap.put_sorted rfl)

theorem launchScalars_other (param seq : W64) {n : Nat} (h0 : n ≠ 0) (h1 : n ≠ 1) : FMap.val 0 (launchScalars param seq) n = 0 := by
  rw [launchScalars, FMap.val_put_ne _ _ _ h1.symm, FMap.val_put_ne _ _ _ h0.symm]
  rfl

section
variable (lanes absent : LaneSet) (reserve : Nat) (param seq : W64) (inline : List W64)

/-- A quire starts outside handler mode, so a scalar other than s127 is read from the one table that `Regs.start` fills. -/
theorem Regs.start_sget {n : Nat} (h : n ≠ 127) : (Regs.start lanes absent reserve param seq inline).sget n =
    FMap.val 0 (FMap.putRange 0 (launchScalars param seq) 8 inline.length (inline.getD · 0)) n := by
  rw [Regs.sget, if_neg h]
  rfl

@[simp] theorem Regs.start_sget_param : (Regs.start lanes absent reserve param seq inline).sget 0 = param := by
  rw [Regs.start_sget _ _ _ _ _ _ (by decide), FMap.val_putRange_outside _ _ _ (.inl (by decide)), launchScalars_zero]

@[simp] theorem Regs.start_sget_seq : (Regs.start lanes absent reserve param seq inline).sget 1 = seq := by
  rw [Regs.start_sget _ _ _ _ _ _ (by decide), FMap.val_putRange_outside _ _ _ (.inl (by decide)), launchScalars_one]

theorem Regs.start_sget_inline {i : Nat} (hi : i < inline.length) (hs : 8 + i < 127) :
    (Regs.start lanes absent reserve param seq inline).sget (8 + i) = inline.getD i 0 := by
  rw [Regs.start_sget _ _ _ _ _ _ (by omega), FMap.val_putRange_inside _ (launchScalars_sorted param seq) hi]

theorem Regs.start_sget_other {n : Nat} (h0 : n ≠ 0) (h1 : n ≠ 1) (h : n < 8 ∨ 8 + inline.length ≤ n) :
    (Regs.start lanes absent reserve param seq inline).sget n = 0 := by
  by_cases h127 : n = 127
  · rw [Regs.sget, if_pos h127]
  · rw [Regs.start_sget _ _ _ _ _ _ h127, FMap.val_putRange_outside _ _ _ h, launchScalars_other _ _ h0 h1]

/-! ### Vectors, predicates and index registers at the start -/

@[simp] theorem Regs.start_vget (n l : Nat) : (Regs.start lanes absent reserve param seq inline).vget n l = 0 := rfl

@[simp] theorem Regs.start_xget (k l : Nat) : (Regs.start lanes absent reserve param seq inline).xget k l = 0 := rfl

theorem Regs.start_pget {k : Nat} (h : 1 ≤ k) : (Regs.start lanes absent reserve param seq inline).pget k = 0 := by
  rw [Regs.pget, if_neg (by omega)]
  rfl
end

/-- p0 is true in every lane of any register file (R80). -/
@[simp] theorem Regs.pget_zero (r : Regs) : r.pget 0 = BitVec.allOnes 256 := rfl

/-- A launch without a render side passes its inline words on whole (R14, R26). -/
theorem Volume.inlineWords_compute {v : Volume} (h : v.render = none) (role : Role) : v.inlineWords role = v.pkt.inline := by
  simp only [Volume.inlineWords, h]

theorem Volume.startRegs_compute {v : Volume} (h : v.render = none) (role : Role) (lanes absent : LaneSet) :
    v.startRegs role lanes absent =
      Regs.start lanes absent v.pkt.reserve (BitVec.ofNat 64 v.pkt.param) (BitVec.ofNat 64 v.pkt.seq) v.pkt.inline := by
  rw [Volume.startRegs, Volume.inlineWords_compute h]

end Sys2Proof.Machine

namespace Sys2Proof.Claims
open Sys2Proof.Machine

/-- Settles O60: each conjunct is one read of `Regs.start`; with seven inline words the scalars written are s0, s1 and s8–s14. -/
theorem aQuireStartsAsTheManualSays : Obligations.AQuireStartsAsTheManualSays := by
  intro v role lanes absent hcompute hinline
  rw [Volume.startRegs_compute hcompute]
  refine ⟨fun n l => Regs.start_vget .., Regs.pget_zero _, fun k hk => Regs.start_pget _ _ _ _ _ _ hk, fun k l => Regs.start_xget ..,
    Regs.start_sget_param .., Regs.start_sget_seq .., fun i hi => ?inline, fun n h0 h1 hn => ?other, rfl, rfl, rfl, rfl, rfl⟩
  case inline => exact Regs.start_sget_inline _ _ _ _ _ _ (by omega) (by omega)
  case other => exact Regs.start_sget_other _ _ _ _ _ _ h0 h1 (by omega)

end Sys2Proof.Claims

/-! PROOFS. What stores on their way, translations, map changes, boot and clocks leave alone (R54, R234, R245, R487, R491). -/
namespace Sys2Proof.Machine

/-! ### What the memory system leaves alone

`State.rest` blanks what stores on their way, translations, map changes, boot and clocks change. Two states with one rest agree in every other
field. -/

/-- A state without memory, cores, TLBs, span maps, boot state, clock step and tick. -/
def State.rest (s : State) : State :=
  { s with mem := Memory.empty, cores := [], tlb := [], dieTlbMiss := [], spanMap := [], unavail := [], boot := 0, linkUp := false, clockStep := 0,
           spareNext := false, tick := 0 }

/-- States with one rest agree in every field that the rest holds. -/
theorem State.eq_of_rest {α : Type} {s t : State} (h : t.rest = s.rest) (field : State → α) (hold : ∀ u, field u.rest = field u) : field t = field s := by
  rw [← hold t, h, hold]

section
variable (s : State)

@[simp] theorem State.rest_bump : s.bump.rest = s.rest := rfl

@[simp] theorem State.rest_modCore (c : Nat) (f : Core → Core) : (s.modCore c f).rest = s.rest := rfl

@[simp] theorem State.rest_mirror (k n : Nat) : (s.mirror k n).rest = s.rest := by
  unfold State.mirror
  split <;> rfl

@[simp] theorem State.rest_takeStore (r : StoreRec) : (s.takeStore r).rest = s.rest := by
  unfold State.takeStore
  split
  · rfl
  · exact State.rest_mirror _ _ _

@[simp] theorem State.rest_drainOut (p : StoreRec → Bool) (quiet : Bool) (kept out : List OutItem) :
    (State.drainOut p quiet kept out s).2.rest = s.rest := by
  induction out generalizing kept s with
  | nil => rfl
  | cons it out ih =>
    cases it with
    | store o r =>
      unfold State.drainOut
      split
      · rw [ih, State.rest_takeStore]
      · exact ih _ _
    | token o sc f => exact ih _ _
    | atom o id rel l => exact ih _ _

@[simp] theorem State.rest_recallCore (c : Nat) (p : StoreRec → Bool) : (s.recallCore c p).rest = s.rest := by
  unfold State.recallCore
  split
  · rw [State.rest_modCore, State.rest_drainOut]
  · rfl

@[simp] theorem State.rest_drainCore (c : Nat) : (s.drainCore c).rest = s.rest := by
  unfold State.drainCore
  split
  · rfl
  · rw [State.rest_modCore, State.rest_drainOut]

/-- A fold whose every step keeps the rest keeps it. -/
theorem State.rest_foldl {α : Type} {f : State → α → State} (h : ∀ t a, (f t a).rest = t.rest) (l : List α) : (l.foldl f s).rest = s.rest :=
  foldl_keeps (fun t => t.rest = s.rest) f (fun t a ht => (h t a).trans ht) l rfl

@[simp] theorem State.rest_recallRange (k n : Nat) : (s.recallRange k n).rest = s.rest := by
  unfold State.recallRange
  exact State.rest_foldl _ (fun t e => State.rest_recallCore ..) _

@[simp] theorem State.rest_copyBytes (src dst n : Nat) : (s.copyBytes src dst n).rest = s.rest := by
  have h : ((s.recallRange src n).recallRange dst n).rest = s.rest := by simp
  exact h

@[simp] theorem State.rest_refreshCopy (p : ShadowPage) : (s.refreshCopy p).rest = s.rest := by
  unfold State.refreshCopy
  rw [State.rest_copyBytes, State.rest_copyBytes]
  exact State.rest_recallRange _ _ _

/-! ### Translation (R242–R247) -/

@[simp] theorem State.rest_countMiss (die : Nat) : (s.countMiss die).rest = s.rest := rfl

@[simp] theorem State.rest_orEntry (pa : Nat) (b : W8) : (s.orEntry pa b).rest = s.rest := by
  simp only [State.orEntry]
  split <;> exact State.rest_recallRange _ _ _

@[simp] theorem State.rest_tlbMiss (die ctx vpn : Nat) (l : Leaf) (write : Bool) : (s.tlbMiss die ctx vpn l write).rest = s.rest := by
  have h : ((s.countMiss die).orEntry l.entry (if write then 0x60 else 0x20)).rest = s.rest := by simp
  exact h

@[simp] theorem State.rest_tlbStale (t : TlbEnt) (va vpn : Nat) (acc : Acc) : (s.tlbStale t va vpn acc).2.rest = s.rest := by
  simp only [State.tlbStale]
  split
  · exact State.rest_orEntry _ _ _
  · rfl

@[simp] theorem State.rest_tlbHit (t : TlbEnt) (l : Leaf) (write : Bool) : (s.tlbHit t l write).rest = s.rest := by
  unfold State.tlbHit
  extract_lets b again _ counted filled _
  have hfilled : filled.rest = s.rest := by
    simp only [filled]
    split
    · exact State.rest_orEntry _ _ _
    · rfl
  split
  · exact (State.rest_orEntry _ _ _).trans hfilled
  · exact hfilled

@[simp] theorem State.rest_translateHere (die ctx root va : Nat) (acc : Acc) : (s.translateHere die ctx root va acc).2.rest = s.rest := by
  simp only [State.translateHere]
  split
  · rfl
  · split
    · split
      · exact State.rest_tlbMiss ..
      · split
        · exact State.rest_tlbHit ..
        · split
          · exact State.rest_tlbStale ..
          · exact State.rest_tlbMiss ..
    · split
      · rfl
      · split
        · exact State.rest_tlbStale ..
        · rfl

@[simp] theorem State.rest_translate (die ctx root va : Nat) (acc : Acc) : (s.translate die ctx root va acc).2.rest = s.rest :=
  State.rest_translateHere ..

/-- A read for an engine opens no version of a page (R46): it writes nothing but the copy of parameters it goes to. -/
@[simp] theorem State.rest_xl_eread (die vid cid root va : Nat) : (s.xl die vid cid root va .eread).2.rest = s.rest := by
  have h := s.rest_translate die cid root va .eread
  unfold State.xl
  split
  · next heq => rw [heq] at h; exact h
  · next t heq =>
    rw [heq] at h
    rw [if_neg (by simp [Acc.writes])]
    split
    · split
      · exact h
      · exact (State.rest_refreshCopy _ _).trans h
    · exact h

/-! ### Maps, images and clocks (R53, R54, R487, R491) -/

@[simp] theorem State.rest_mapEntry (l : Nat) (dest : Option Nat) : (s.mapEntry l dest).rest = s.rest := by
  unfold State.mapEntry
  split
  · rfl
  · split
    · rfl
    · split <;> rfl

@[simp] theorem State.rest_mapChange (m : List (Nat × Option Nat)) : (s.mapChange m).rest = s.rest := by
  unfold State.mapChange
  exact State.rest_foldl _ (fun t e => State.rest_mapEntry ..) _

@[simp] theorem State.rest_verifyImage : s.verifyImage.rest = s.rest := by
  unfold State.verifyImage
  split <;> rfl

@[simp] theorem State.rest_setClock : s.setClock.rest = s.rest := by
  unfold State.setClock
  split
  · rfl
  · split <;> rfl

@[simp] theorem State.rest_outAtReset : s.outAtReset.rest = s.rest := by
  unfold State.outAtReset
  split
  · rfl
  · rw [State.rest_bump]
    exact State.rest_foldl _ (fun t e => State.rest_drainCore ..) _

end

end Sys2Proof.Machine

/-! PROOFS. The management window, clocks and heat, and resets (R51, R487, R489–R492). -/
namespace Sys2Proof.Machine
open Sys2Proof.Claims (driverAsks)

/-! ### What the driver asks of the firmware (R487) -/

theorem State.managed_booted {s : State} (h : s.boot = 0) (t : State) : s.managed t = t := if_pos h

theorem State.managed_refused {s : State} (h : s.boot ≠ 0) (t : State) : s.managed t = s := if_neg h

theorem State.managed_self (s : State) : s.managed s = s := ite_self _

/-- Every request of the driver goes through the firmware. -/
theorem exec_driverAsks {i : Instr} (hi : driverAsks i = true) (s : State) : ∃ t, exec i s = .next (s.managed t) := by
  unfold driverAsks at hi
  split at hi <;> cases hi <;> exact ⟨_, rfl⟩

section
variable (s : State) (v : W64)

theorem exec_mgPower : exec (.mgPower v) s = .next (s.managed (s.writePower v)) := rfl
theorem exec_mgClock : exec (.mgClock v) s = .next (s.managed (s.writeClock v)) := rfl
theorem exec_mgEvents : exec (.mgEvents v) s = .next (s.managed (s.writeEvents v)) := rfl
theorem exec_mgErrors : exec (.mgErrors v) s = .next (s.managed (s.writeErrors v)) := rfl
theorem exec_mgRegisterWrite (off : Nat) : exec (.mgRegisterWrite off v) s = .next (s.managed (s.writeMg off v)) := rfl
theorem exec_clockModeFallback : exec .clockModeFallback s = .next s.fallBack := rfl
theorem exec_adaptiveClockStep (n : Nat) : exec (.adaptiveClockStep n) s = .next (s.adapt n) := rfl
theorem exec_thermalThrottle (die celsius : Nat) : exec (.thermalThrottle die celsius) s = .next (s.heat die celsius) := rfl
theorem exec_thermalReset (die celsius : Nat) : exec (.thermalReset die celsius) s = .next (s.overheat die celsius) := rfl
theorem exec_deviceReset : exec .deviceReset s = .next s.resetDevice := rfl
theorem exec_controlProcessorRestart : exec .controlProcessorRestart s = .next s.restartFirmware := rfl

/-! ### The registers of the window (R489, R490) -/

theorem State.writePower_eq : s.writePower v = { s with power := if v.toNat % 64 ≤ 56 then v.toNat % 64 else s.power } := by
  unfold State.writePower
  split <;> rfl

theorem State.writeEvents_taken (hlo : 4 ≤ v.toNat % 64) (hhi : v.toNat % 64 ≤ 16) :
    s.writeEvents v = { s with evRing := ringBits v, evIx := 0 } := if_pos ⟨hlo, hhi⟩

theorem State.writeEvents_ignored (h : v.toNat % 64 < 4 ∨ 16 < v.toNat % 64) : s.writeEvents v = s :=
  if_neg fun ⟨hlo, hhi⟩ => by unfold ringLog at hlo hhi; omega

/-- A register without a behaviour ignores what is written to it. -/
theorem State.writeMg_other {off : Nat} (h8 : off ≠ 0x0008) (h10 : off ≠ 0x0010) (h28 : off ≠ 0x0028) (h30 : off ≠ 0x0030) : s.writeMg off v = s := by
  unfold State.writeMg
  split
  · exact absurd rfl h8
  · exact absurd rfl h10
  · exact absurd rfl h28
  · exact absurd rfl h30
  · rfl

/-! ### Clocks and heat (R491, R492) -/

theorem State.setClock_lowest (h : s.hot = true ∨ s.clockMode = 2) : s.setClock = { s with clockStep := 0 } :=
  if_pos (by simpa using h)

theorem State.setClock_fixed (hcool : s.hot = false) (h : s.clockMode = 1) : s.setClock = { s with clockStep := 14 } := by
  rw [State.setClock, if_neg (by simp [hcool, h]), if_pos h]

theorem State.setClock_adaptive (hcool : s.hot = false) (h : s.clockMode = 0) : s.setClock = s := by
  rw [State.setClock, if_neg (by simp [hcool, h]), if_neg (by omega)]

theorem State.writeClock_reserved (h : v.toNat % 4 = 3) : s.writeClock v = s := if_pos h

theorem State.writeClock_taken (h : v.toNat % 4 ≠ 3) : s.writeClock v = ({ s with clockMode := v.toNat % 4 } : State).setClock := if_neg h

/-- Mode 0 leaves the step where it is, mode 1 sets it to 1.40 GHz. -/
theorem State.writeClock_cool (hcool : s.hot = false) (h : v.toNat % 4 ≤ 1) :
    s.writeClock v = { s with clockMode := v.toNat % 4, clockStep := if v.toNat % 4 = 1 then 14 else s.clockStep } := by
  rw [State.writeClock_taken _ _ (by omega)]
  rcases Nat.le_one_iff_eq_zero_or_eq_one.1 h with h | h
  · rw [h]
    exact State.setClock_adaptive _ hcool rfl
  · rw [h]
    exact State.setClock_fixed _ hcool rfl

theorem State.writeClock_lowest (hn : v.toNat % 4 ≠ 3) (h : v.toNat % 4 = 2 ∨ s.hot = true) :
    s.writeClock v = { s with clockMode := v.toNat % 4, clockStep := 0 } := by
  rw [State.writeClock_taken _ _ hn, State.setClock_lowest _ h.symm]

theorem State.adapt_taken {n : Nat} (hmode : s.clockMode = 0) (hn : n ≤ 14) (hcool : s.hot = false) : s.adapt n = { s with clockStep := n } :=
  if_pos ⟨hmode, hn, by rw [hcool]; rfl⟩

theorem State.adapt_ignored {n : Nat} (h : s.clockMode ≠ 0 ∨ 14 < n ∨ s.hot = true) : s.adapt n = s := by
  refine if_neg fun ⟨hmode, hn, hcool⟩ => ?_
  rcases h with h | h | h
  · exact h hmode
  · omega
  · rw [h] at hcool; cases hcool

theorem State.heat_hot {die celsius : Nat} (h : (FMap.put 0 s.temps die celsius).any (fun t => decide (105 ≤ t.2)) = true) :
    s.heat die celsius = { s with temps := FMap.put 0 s.temps die celsius, clockStep := 0 } :=
  State.setClock_lowest _ (.inl h)

theorem State.heat_cool {die celsius : Nat} (h : (FMap.put 0 s.temps die celsius).any (fun t => decide (105 ≤ t.2)) = false)
    (hmode : s.clockMode = 0) : s.heat die celsius = { s with temps := FMap.put 0 s.temps die celsius } :=
  State.setClock_adaptive _ h hmode

theorem State.overheat_below {die celsius : Nat} (h : celsius < 110) : s.overheat die celsius = s.heat die celsius := if_neg (by omega)

theorem State.overheat_resets {die celsius : Nat} (h : 110 ≤ celsius) :
    s.overheat die celsius = ((s.heat die celsius).hostEvent 5 0xFF 0).resetDevice := if_pos h

end

/-! ### Resets (R51) -/

theorem State.progressAll_none {s : State} (h : s.queues = []) : s.progressAll = s := by
  rw [State.progressAll, h]
  rfl

/-- A map change writes no queue. -/
theorem State.mapChange_queues (s : State) (m : List (Nat × Option Nat)) : (s.mapChange m).queues = s.queues :=
  State.eq_of_rest (s.rest_mapChange m) State.queues fun _ => rfl

theorem State.verifyImage_queues (s : State) : s.verifyImage.queues = s.queues := State.eq_of_rest s.rest_verifyImage State.queues fun _ => rfl

/-- With no queue to tell, a device reset leaves the reset state but for what it keeps, and for what the boot and the maps settle. -/
theorem State.resetDevice_leaves {s : State} (h : s.queues = []) :
    ∃ t, s.resetDevice = t ∧ t.epoch = s.epoch + 1 ∧ t.quires = [] ∧ t.gaths = [] ∧ t.vols = [] ∧ t.xfers = [] ∧ t.colls = [] ∧ t.asq = []
      ∧ t.power = State.reset.power ∧ t.clockMode = State.reset.clockMode ∧ t.evRing = 0 ∧ t.erRing = 0 ∧ t.cmd = none ∧ t.retired = s.retired
      ∧ t.temps = s.temps := by
  refine ⟨_, rfl, ?_⟩
  generalize ht : s.resetDevice = t
  unfold State.resetDevice at ht
  extract_lets out r blank booted ready at ht
  have hout : ∀ {α : Type} (field : State → α), (∀ u, field u.rest = field u) → field out = field s := fun field => State.eq_of_rest s.rest_outAtReset field
  have hready : ready.rest = blank.rest := by
    simp only [ready]
    split <;> exact State.rest_verifyImage _
  have hqueues : ready.queues = [] := by
    have hblank : blank.queues = [] := by simp only [blank, hout State.queues fun _ => rfl, h, List.map_nil]
    exact (State.eq_of_rest hready State.queues fun _ => rfl).trans hblank
  have hrest : t.rest = blank.rest := by
    rw [← ht, State.rest_bump, State.rest_setClock, State.progressAll_none ((State.mapChange_queues _ _).trans hqueues), State.rest_mapChange, hready]
  have hkept : ∀ {α : Type} (field : State → α), (∀ u, field u.rest = field u) → field t = field blank := fun field => State.eq_of_rest hrest field
  refine ⟨?epoch, hkept State.quires fun _ => rfl, hkept State.gaths fun _ => rfl, hkept State.vols fun _ => rfl, hkept State.xfers fun _ => rfl,
    hkept State.colls fun _ => rfl, hkept State.asq fun _ => rfl, hkept State.power fun _ => rfl, hkept State.clockMode fun _ => rfl,
    hkept State.evRing fun _ => rfl, hkept State.erRing fun _ => rfl, hkept State.cmd fun _ => rfl, ?retired, ?temps⟩
  case epoch => exact (hkept State.epoch fun _ => rfl).trans (congrArg (· + 1) (hout State.epoch fun _ => rfl))
  case retired => exact (hkept State.retired fun _ => rfl).trans (hout State.retired fun _ => rfl)
  case temps => exact (hkept State.temps fun _ => rfl).trans (hout State.temps fun _ => rfl)

theorem State.restartFirmware_booted {s : State} (h : s.queues = []) (hb : s.verifyImage.boot = 0) :
    let u := s.verifyImage
    let booted : State := { u with epoch := u.epoch + 1, measures := Config.measures, spareNext := Config.spareLanes u.tick }
    s.restartFirmware = (booted.mapChange (Config.spanChange u.tick)).bump.hostEvent 7 0xFF 0 := by
  intro u booted
  have hq : (booted.mapChange (Config.spanChange u.tick)).bump.queues = [] :=
    (State.mapChange_queues _ _).trans (s.verifyImage_queues.trans h)
  exact (if_pos hb).trans (congrArg (State.hostEvent · 7 0xFF 0) (State.progressAll_none hq))

theorem State.restartFirmware_refused {s : State} (hb : s.verifyImage.boot ≠ 0) : s.restartFirmware = s.verifyImage.bump := if_neg hb

end Sys2Proof.Machine

namespace Sys2Proof.Claims
open Sys2Proof.Machine

/-- Settles O44: the window's registers and the clocks case by case; a reset rebuilds the state, and its boot, maps and clock change only what
`State.rest` blanks. -/
theorem managementActs : Obligations.ManagementActs := by
  intro s
  refine ⟨?refused, ?power, ?clock, ?fallback, ?noFallback, ?adaptive, ?heat, ?events, ?errors, ?other, ?reset, ?restart⟩
  case refused =>
    intro hboot i hi
    obtain ⟨t, ht⟩ := exec_driverAsks hi s
    rw [ht, State.managed_refused hboot]
  case power =>
    intro hboot v n
    exact ⟨by rw [exec_mgPower, State.managed_booted hboot, State.writePower_eq], rfl⟩
  case clock =>
    intro hboot v n
    rw [exec_mgClock, State.managed_booted hboot]
    exact ⟨fun hn => congrArg _ (State.writeClock_reserved s v hn), fun hn hcool => congrArg _ (State.writeClock_cool s v hcool hn),
      fun hn h => congrArg _ (State.writeClock_lowest s v hn h), by rw [exec_mgRegisterWrite, State.managed_booted hboot]; rfl⟩
  case fallback =>
    rw [exec_clockModeFallback]
    exact fun h => congrArg _ (if_pos h)
  case noFallback =>
    rw [exec_clockModeFallback]
    exact fun h => congrArg _ (if_neg h)
  case adaptive =>
    intro n
    rw [exec_adaptiveClockStep]
    exact ⟨fun hmode hn hcool => congrArg _ (State.adapt_taken s hmode hn hcool), fun h => congrArg _ (State.adapt_ignored s h)⟩
  case heat =>
    intro die celsius temps
    refine ⟨fun hhot => ⟨?_, fun hlow => ?_, fun hhigh => ?_⟩, fun hcool hmode => ?_⟩
    · rw [exec_thermalThrottle, State.heat_hot s hhot]
    · rw [exec_thermalReset, State.overheat_below s hlow, State.heat_hot s hhot]
    · rw [exec_thermalReset, State.overheat_resets s hhigh, State.heat_hot s hhot, exec_deviceReset]
    · rw [exec_thermalThrottle, State.heat_cool s hcool hmode]
  case events =>
    intro hboot v n
    rw [exec_mgEvents, State.managed_booted hboot]
    exact ⟨fun hlo hhi => congrArg _ (State.writeEvents_taken s v hlo hhi), fun h => congrArg _ (State.writeEvents_ignored s v h),
      by rw [exec_mgRegisterWrite, State.managed_booted hboot]; rfl⟩
  case errors =>
    intro hboot v
    rw [exec_mgErrors, State.managed_booted hboot]
    exact ⟨rfl, by rw [exec_mgRegisterWrite, State.managed_booted hboot]; rfl⟩
  case other =>
    intro off v h8 h10 h28 h30
    rw [exec_mgRegisterWrite, State.writeMg_other s v h8 h10 h28 h30, State.managed_self]
  case reset =>
    intro h
    rw [exec_deviceReset]
    obtain ⟨t, ht, hleft⟩ := State.resetDevice_leaves h
    exact ⟨t, congrArg _ ht, hleft⟩
  case restart =>
    intro h u booted
    rw [exec_controlProcessorRestart]
    exact ⟨fun hb => congrArg _ (State.restartFirmware_booted h hb), fun hb => congrArg _ (State.restartFirmware_refused hb)⟩

/-- Settles O59: each field of `State.reset` is the one stated. -/
theorem resetLeavesNothingResident : Obligations.ResetLeavesNothingResident :=
  ⟨Memory.empty_wf, State.reset_mem, rfl, rfl, rfl, rfl, rfl, rfl, rfl, rfl, rfl, rfl, rfl, by decide, rfl, rfl, rfl, rfl⟩

end Sys2Proof.Claims

/-! PROOFS. The driver's commands (R31, R227, R247, R413, R414, R418, R488, R494, R495). -/
namespace Sys2Proof.Machine

/-! ### The commands of a module that has booted (R487) -/

section
variable {s : State} (h : s.boot = 0) (blk : Nat)
include h

theorem exec_registerContext (rec : Nat) : exec (.registerContext blk rec) s = .next (s.register blk rec) :=
  congrArg Host.Outcome.next (State.managed_booted h _)
theorem exec_releaseContext (cid : Nat) : exec (.releaseContext blk cid) s = .next (s.releaseCtx blk cid) := congrArg Host.Outcome.next (State.managed_booted h _)
theorem exec_enableQueue (cid q : Nat) : exec (.enableQueue blk cid q) s = .next (s.enable blk cid q) := congrArg Host.Outcome.next (State.managed_booted h _)
theorem exec_disableQueue (cid q : Nat) : exec (.disableQueue blk cid q) s = .next (s.disable blk cid q) := congrArg Host.Outcome.next (State.managed_booted h _)
theorem exec_invalidate (cid : Nat) (va : W64) (n : Nat) : exec (.invalidate blk cid va n) s = .next (s.invalidatePages blk cid va n) :=
  congrArg Host.Outcome.next (State.managed_booted h _)
theorem exec_peerEntry (i : Nat) (v : W64) : exec (.peerEntry blk i v) s = .next (s.writePeer blk i v) := congrArg Host.Outcome.next (State.managed_booted h _)
theorem exec_inboundWindow (i cid : Nat) (va : W64) (len : Nat) (w : Bool) :
    exec (.inboundWindow blk i cid va len w) s = .next (s.writeWindow blk i cid va len w) := congrArg Host.Outcome.next (State.managed_booted h _)
theorem exec_stationUp (mask : Nat) : exec (.stationUp blk mask) s = .next (s.raiseStations blk mask) := congrArg Host.Outcome.next (State.managed_booted h _)
theorem exec_attest (nonce : List W8) (pa : Nat) : exec (.attest blk nonce pa) s = .next (s.attestTo blk nonce pa) :=
  congrArg Host.Outcome.next (State.managed_booted h _)
theorem exec_readRemap (t : RemapSel) : exec (.readRemap blk t) s = .next (s.readTable blk t) := congrArg Host.Outcome.next (State.managed_booted h _)
theorem exec_unknownCommand (code : Nat) :
    exec (.unknownCommand blk code) s = .next (if 1 ≤ code ∧ code ≤ 0x0B then s else s.finishCmd blk 2) := congrArg Host.Outcome.next (State.managed_booted h _)

end

/-! ### Contexts (R495) -/

section
variable {s : State} {blk rec cid : Nat} {c : Context}

theorem State.register_malformed (h : contextOf (s.recallRange rec 128).mem rec = none) :
    s.register blk rec = (s.recallRange rec 128).finishCmd blk 1 := by
  unfold State.register
  extract_lets t
  rw [h]

/-- A context taken in has the lowest free number, a window of zeros on every die, and a slot when one is free (R227, R464). -/
theorem State.register_taken {slot base : Nat} (h : contextOf (s.recallRange rec 128).mem rec = some c)
    (hslot : (List.range 255).find? (fun k => (FMap.find (s.recallRange rec 128).ctxs k).isNone) = some slot)
    (hbase : (s.recallRange rec 128).freeWindow c.windowLen = some base) :
    let t := s.recallRange rec 128
    let placed : State := { t with mem := (List.range 4).foldl (fun (m : Memory) d => m.clear (dspadKey d base) c.windowLen) t.mem, linkUp := true }
    let c' := { c with windowBase := base, resident := decide (t.residents < 64), residentSince := t.ns, busyAt := t.ns }
    s.register blk rec = ((placed.setCtx slot c').putHome (blk + 8) (leBytes 4 slot ++ leBytes 4 base)).finishCmd blk 0 := by
  unfold State.register
  extract_lets t
  rw [h]
  dsimp only
  rw [hslot, hbase]

theorem State.register_exhausted (h : contextOf (s.recallRange rec 128).mem rec = some c)
    (hfull : (List.range 255).find? (fun k => (FMap.find (s.recallRange rec 128).ctxs k).isNone) = none
      ∨ (s.recallRange rec 128).freeWindow c.windowLen = none) :
    s.register blk rec = (s.recallRange rec 128).finishCmd blk 3 := by
  unfold State.register
  extract_lets t
  rw [h]
  dsimp only
  split
  · next hslot hbase =>
    rcases hfull with hnone | hnone
    · cases hnone.symm.trans hslot
    · cases hnone.symm.trans hbase
  · rfl

/-- The state of a release once its launches have been told to end and those that can have completed (R494). -/
def State.afterRelease (s : State) (cid : Nat) : State :=
  let ended := (s.launchesOf cid).foldl (fun s v => s.endLaunch v (.killed 0)) s
  (ended.launchesOf cid).reverse.foldl (fun s v => s.completeVolume v) ended

theorem State.releaseCtx_unknown (h : FMap.find s.ctxs cid = none) : s.releaseCtx blk cid = s.finishCmd blk 1 := by
  rw [State.releaseCtx, h]

theorem State.releaseCtx_waits (h : FMap.find s.ctxs cid = some c) (hw : (s.afterRelease cid).worksFor cid = true) :
    s.releaseCtx blk cid = { s.afterRelease cid with cmd := some (.release blk cid) } := by
  rw [State.releaseCtx, h]
  exact if_pos hw

theorem State.releaseCtx_done (h : FMap.find s.ctxs cid = some c) (hw : (s.afterRelease cid).worksFor cid = false) :
    s.releaseCtx blk cid = ((s.afterRelease cid).forget cid).finishCmd blk 0 := by
  rw [State.releaseCtx, h]
  exact if_neg (ne_true_of_eq_false hw)

end

/-! ### Queues (R31, R51) -/

/-- Queues enabled beside one (R31). -/
def State.otherQueues (s : State) (qk : Nat) : FMap Queue := s.queues.filter fun e => e.1 != qk && e.2.state != .disabled

/-- Every page of the ring that a queue descriptor's bytes name is mapped (R31). -/
def ringMapped (m : Memory) (root : Nat) (bs : List W8) : Bool := mappedAll m root (leValue (bs.take 8)) (128 * 2 ^ leValue ((bs.drop 8).take 1))

section
variable {s t : State} {blk cid q : Nat} {c : Context} {x : Xlated}

theorem State.enable_unknown (h : FMap.find s.ctxs cid = none) : s.enable blk cid q = s.finishCmd blk 1 := by
  unfold State.enable
  rw [h]

theorem State.enable_beyond (hc : FMap.find s.ctxs cid = some c) (hq : c.qcount ≤ q) : s.enable blk cid q = s.finishCmd blk 1 := by
  unfold State.enable
  rw [hc]
  exact if_pos hq

section
variable (hc : FMap.find s.ctxs cid = some c) (hq : q < c.qcount)
  (htr : s.translate 0 cid c.root (c.qtable + 64 * q) .eread = (.ok x, t))
include hc hq htr

/-- A queue of the context whose descriptor can be read is judged by what the descriptor says. -/
theorem State.enable_read :
    let u := t.recallRange x.pa 64
    let bs := u.mem.bytes x.pa 64
    s.enable blk cid q =
      if !queueOk bs ∨ !ringMapped u.mem c.root bs then u.finishCmd blk 1
      else if 4096 ≤ (u.otherQueues (queueKey cid q)).length then u.finishCmd blk 3
      else
        let Q := queueFrom (FMap.find u.queues (queueKey cid q)) bs
        (({ u with queues := FMap.insert u.queues (queueKey cid q) Q } : State).progress (queueKey cid q)).finishCmd blk 0 := by
  unfold State.enable
  rw [hc]
  dsimp only
  rw [if_neg (Nat.not_le.2 hq), htr]
  rfl

theorem State.enable_malformed (h : queueOk ((t.recallRange x.pa 64).mem.bytes x.pa 64) = false
      ∨ ringMapped (t.recallRange x.pa 64).mem c.root ((t.recallRange x.pa 64).mem.bytes x.pa 64) = false) :
    s.enable blk cid q = (t.recallRange x.pa 64).finishCmd blk 1 :=
  (State.enable_read hc hq htr).trans (if_pos (by simpa using h))

variable (hok : queueOk ((t.recallRange x.pa 64).mem.bytes x.pa 64) = true)
  (hring : ringMapped (t.recallRange x.pa 64).mem c.root ((t.recallRange x.pa 64).mem.bytes x.pa 64) = true)
include hok hring

theorem State.enable_exhausted (h : 4096 ≤ ((t.recallRange x.pa 64).otherQueues (queueKey cid q)).length) :
    s.enable blk cid q = (t.recallRange x.pa 64).finishCmd blk 3 :=
  (State.enable_read hc hq htr).trans ((if_neg (by simp [hok, hring])).trans (if_pos h))

theorem State.enable_taken (h : ((t.recallRange x.pa 64).otherQueues (queueKey cid q)).length < 4096) :
    let u := t.recallRange x.pa 64
    let Q := queueFrom (FMap.find u.queues (queueKey cid q)) (u.mem.bytes x.pa 64)
    s.enable blk cid q = (({ u with queues := FMap.insert u.queues (queueKey cid q) Q } : State).progress (queueKey cid q)).finishCmd blk 0 :=
  (State.enable_read hc hq htr).trans ((if_neg (by simp [hok, hring])).trans (if_neg (Nat.not_le.2 h)))

end

theorem State.disable_unknown (h : FMap.find s.queues (queueKey cid q) = none) : s.disable blk cid q = s.finishCmd blk 1 := by
  rw [State.disable, h]

theorem State.disable_known {Q : Queue} (h : FMap.find s.queues (queueKey cid q) = some Q) :
    s.disable blk cid q = ((s.modQueue (queueKey cid q) fun Q => { Q with state := .disabled }).progress (queueKey cid q)).finishCmd blk 0 := by
  rw [State.disable, h]

/-! ### Translations, peers, windows (R247, R413, R414, R418) -/

theorem State.invalidatePages_unknown {va : W64} {n : Nat} (h : FMap.find s.ctxs cid = none) : s.invalidatePages blk cid va n = s.finishCmd blk 1 := by
  unfold State.invalidatePages
  rw [h]

theorem State.invalidatePages_waits {va : W64} {n : Nat} (hc : FMap.find s.ctxs cid = some c) (h : (s.storesHeld cid || s.accessesDue cid) = true) :
    s.invalidatePages blk cid va n = { s with cmd := some (.invalidate blk cid va n) } := by
  unfold State.invalidatePages
  rw [hc]
  exact if_pos h

theorem State.invalidatePages_done {va : W64} {n : Nat} (hc : FMap.find s.ctxs cid = some c) (h : (s.storesHeld cid || s.accessesDue cid) = false) :
    let hit := fun (t : TlbEnt) => t.ctx == cid && (n == 0 || runsMeet t.vpn t.pages (va.toNat % 2 ^ 57 / 2 ^ 12) n)
    s.invalidatePages blk cid va n = (({ s with tlb := s.tlb.filter fun t => !hit t } : State).retryFaults cid).finishCmd blk 0 := by
  unfold State.invalidatePages
  rw [hc]
  exact if_neg (ne_true_of_eq_false h)

theorem State.writeWindow_refused {i len : Nat} {va : W64} {w : Bool} (h : 255 < i ∨ FMap.find s.ctxs cid = none ∨ 2 ^ 34 < len) :
    s.writeWindow blk i cid va len w = s.finishCmd blk 1 :=
  if_pos (by simpa only [Option.isNone_iff_eq_none] using h)

theorem State.writeWindow_taken {i len : Nat} {va : W64} {w : Bool} (hi : i ≤ 255) (hc : (FMap.find s.ctxs cid).isSome = true) (hl : len ≤ 2 ^ 34) :
    s.writeWindow blk i cid va len w =
      ({ s with windows := FMap.insert s.windows i { ctx := cid, va := va, len := len, writable := w } } : State).finishCmd blk 0 :=
  if_neg (by
    rintro (h | h | h)
    · omega
    · rw [Option.isNone_iff_eq_none.1 h] at hc; cases hc
    · omega)

/-! ### Reports and remap tables (R475, R488) -/

theorem State.attestTo_malformed {nonce : List W8} {pa : Nat} (h : nonce.length ≠ 32) : s.attestTo blk nonce pa = s.finishCmd blk 1 := if_pos h

theorem State.attestTo_exhausted {nonce : List W8} {pa : Nat} (hn : nonce.length = 32) (h : s.sigsLeft = 0) :
    s.attestTo blk nonce pa = s.finishCmd blk 3 :=
  (if_neg (fun hne => hne hn)).trans (if_pos h)

theorem State.attestTo_signed {nonce : List W8} {pa : Nat} (hn : nonce.length = 32) (h : s.sigsLeft ≠ 0) :
    s.attestTo blk nonce pa = (({ s with sigsLeft := s.sigsLeft - 1 } : State).putHome pa
      (Config.attest nonce s.measures s.epoch (s.sigsLeft - 1))).finishCmd blk 0 :=
  (if_neg (fun hne => hne hn)).trans (if_neg h)

theorem State.readTable_lane {die p part : Nat} (hp : p < 384) (hdie : dieOfCore p = die) (hpart : part < 4) :
    s.readTable blk (.lane die p part) = ({ s with lastReply := some (leBytes 8 (s.laneTable p part).toNat) } : State).finishCmd blk 0 := by
  rw [State.readTable, State.remapTable, if_pos ⟨hp, hdie, hpart⟩]

theorem State.readTable_noLane {die p part : Nat} (h : 384 ≤ p ∨ dieOfCore p ≠ die ∨ 4 ≤ part) :
    s.readTable blk (.lane die p part) = s.finishCmd blk 1 := by
  rw [State.readTable, State.remapTable, if_neg (by omega)]

end

end Sys2Proof.Machine

namespace Sys2Proof.Claims
open Sys2Proof.Machine

/-- Settles O45: each command by the checks it makes, in their order. -/
theorem commandsAct : Obligations.CommandsAct := by
  intro s blk hboot
  refine ⟨?register, ?unknown, ?known, ?disable, ?peer, ?window, ?station, ?attest, ?lane, ?noLane, ?code⟩
  case register =>
    intro rec t
    rw [exec_registerContext hboot]
    exact ⟨fun h => congrArg _ (State.register_malformed h), fun c slot base h hslot hbase => congrArg _ (State.register_taken h hslot hbase),
      fun c h hfull => congrArg _ (State.register_exhausted h hfull)⟩
  case unknown =>
    intro cid h
    exact ⟨by rw [exec_releaseContext hboot, State.releaseCtx_unknown h], fun q => by rw [exec_enableQueue hboot, State.enable_unknown h],
      fun va n => by rw [exec_invalidate hboot, State.invalidatePages_unknown h]⟩
  case known =>
    intro cid c hc ended done
    rw [exec_releaseContext hboot]
    refine ⟨fun h => congrArg _ (State.releaseCtx_waits hc h), fun h => congrArg _ (State.releaseCtx_done hc h), fun q hq => ?_, ?_, ?_⟩
    · rw [exec_enableQueue hboot, State.enable_beyond hc hq]
    · intro q x t hq htr u bs others mapped
      rw [exec_enableQueue hboot]
      exact ⟨fun h => congrArg _ (State.enable_malformed hc hq htr h), fun hok hring h => congrArg _ (State.enable_exhausted hc hq htr hok hring h),
        fun hok hring h => congrArg _ (State.enable_taken hc hq htr hok hring h)⟩
    · intro va n first hit held
      rw [exec_invalidate hboot]
      exact ⟨fun h => congrArg _ (State.invalidatePages_waits hc h), fun h => congrArg _ (State.invalidatePages_done hc h)⟩
  case disable =>
    intro cid q
    rw [exec_disableQueue hboot]
    exact ⟨fun h => congrArg _ (State.disable_unknown h), fun Q h => congrArg _ (State.disable_known h)⟩
  case peer =>
    intro i v
    rw [exec_peerEntry hboot]
    exact ⟨fun h => congrArg _ (if_pos h), fun h => congrArg _ (if_neg (Nat.not_lt.2 h))⟩
  case window =>
    intro i cid va len w
    rw [exec_inboundWindow hboot]
    exact ⟨fun h => congrArg _ (State.writeWindow_refused h), fun hi hc hl => congrArg _ (State.writeWindow_taken hi hc hl)⟩
  case station => exact fun mask => exec_stationUp hboot blk mask
  case attest =>
    intro nonce pa
    rw [exec_attest hboot]
    exact ⟨fun h => congrArg _ (State.attestTo_malformed h), fun hn h => congrArg _ (State.attestTo_exhausted hn h),
      fun hn h => congrArg _ (State.attestTo_signed hn h)⟩
  case lane =>
    intro die p part hp hdie hpart
    rw [exec_readRemap hboot, State.readTable_lane hp hdie hpart]
  case noLane =>
    intro die p part h
    rw [exec_readRemap hboot, State.readTable_noLane h]
  case code =>
    intro code h
    rw [exec_unknownCommand hboot, if_neg (by omega)]

end Sys2Proof.Claims

/-! PROOFS. The debugger's commands and the driver's pre-emption (R42, R453, R454). -/
namespace Sys2Proof.Machine

section
variable {s : State} (h : s.boot = 0) (blk : Nat)
include h

theorem exec_debugStop (d : DbgTarget) : exec (.debugStop blk d) s = .next (s.stop blk d) :=
  congrArg Host.Outcome.next (State.managed_booted h _)
theorem exec_debugResume (d : DbgTarget) : exec (.debugResume blk d) s = .next (s.resume blk d false) :=
  congrArg Host.Outcome.next (State.managed_booted h _)
theorem exec_debugStep (d : DbgTarget) : exec (.debugStep blk d) s = .next (s.resume blk d true) :=
  congrArg Host.Outcome.next (State.managed_booted h _)
theorem exec_debugRead (id : Nat) (r : DbgReg) : exec (.debugRead blk id r) s = .next (s.debugRead blk id r) :=
  congrArg Host.Outcome.next (State.managed_booted h _)
theorem exec_debugWrite (id : Nat) (r : DbgReg) (v : Nat) : exec (.debugWrite blk id r v) s = .next (s.debugWrite blk id r v) :=
  congrArg Host.Outcome.next (State.managed_booted h _)

/-- A gathering that stands is asked to leave its core with its unit (R42). -/
theorem exec_driverPreemptionRequest {gid : Nat} {g : Gathering} (hg : FMap.find s.gaths gid = some g) (hr : g.retired = false) (hs : g.saved = none) :
    exec (.driverPreemptionRequest blk gid) s = .next ((s.requestPreemption gid none).finishCmd blk 0) := by
  refine congrArg Host.Outcome.next ((State.managed_booted h _).trans ?_)
  rw [hg]
  exact if_neg (by simp [hr, hs])

theorem exec_driverPreemptionRequest_refused {gid : Nat}
    (hno : ∀ g, FMap.find s.gaths gid = some g → g.retired = true ∨ g.saved.isSome = true) :
    exec (.driverPreemptionRequest blk gid) s = .next (s.finishCmd blk 1) := by
  refine congrArg Host.Outcome.next ((State.managed_booted h _).trans ?_)
  split
  · next g hg => exact if_pos (by simpa using hno g hg)
  · rfl

end

/-! ### Stopping and going on (R453) -/

section
variable {s : State} {blk id : Nat} {d : DbgTarget} {l : List Nat}

/-- Every quire named is stopped, or will be at the end of its group. -/
def State.askStops (s : State) (l : List Nat) : State := l.foldl (fun s id => s.modQuire id fun q => if q.stopped then q else q.askStop) s

/-- Every quire named stands still and nothing is owed to it. -/
def State.standStill (s : State) (l : List Nat) : Bool :=
  l.all fun id => match FMap.find s.quires id with
    | some q => q.stopped && !s.resultsDue id q
    | none => true

/-- Every quire named that is stopped goes on, for one group under `step`. -/
def State.letGo (s : State) (l : List Nat) (step : Bool) : State :=
  l.foldl (fun s id => s.modQuire id fun q => if q.stopped then { q with stopped := false, stepping := step } else q) s

theorem State.stop_nothing (h : s.dbgQuires d = []) : s.stop blk d = s.finishCmd blk 1 := by
  rw [State.stop, h]
  rfl

theorem State.stop_eq (h : s.dbgQuires d = id :: l) :
    s.stop blk d = if (s.askStops (id :: l)).standStill (id :: l) then (s.askStops (id :: l)).finishCmd blk 0
      else (s.askStops (id :: l)).unfinished (.stop blk d) := by
  rw [State.stop, h]
  rfl

theorem State.resume_nothing {step : Bool} (h : s.dbgQuires d = []) : s.resume blk d step = s.finishCmd blk 1 := by
  rw [State.resume, h]
  rfl

theorem State.resume_some {step : Bool} (h : s.dbgQuires d = id :: l) : s.resume blk d step = (s.letGo (id :: l) step).finishCmd blk 0 := by
  rw [State.resume, h]
  rfl

end

/-! ### Registers of a stopped quire (R454) -/

/-- A debugger's write of a register other than the PC: where it may be written and its rows can be had. -/
def State.debugPut (s : State) (e : Env) (blk id : Nat) (r : DbgReg) (v : Nat) : State :=
  match e.dbgPut r v with
  | none => s.finishCmd blk 1
  | some f => match State.mapNames e.g.pcore e.q.part id (debugRows r) s with
    | none => s.finishCmd blk 3
    | some t => (t.modQuire id fun q => { q with regs := f q.regs, snap := q.snap.map f, latches := latchesAfterDebug r q.latches }).finishCmd blk 0

section
variable {s t : State} {e : Env} {blk id : Nat} (he : s.envOf id = some e)
include he

theorem State.debugRead_running (h : e.q.stopped = false) (r : DbgReg) : s.debugRead blk id r = s.finishCmd blk 1 := by
  rw [State.debugRead, he]
  exact if_pos (by rw [h]; rfl)

theorem State.debugWrite_running (h : e.q.stopped = false) (r : DbgReg) (v : Nat) : s.debugWrite blk id r v = s.finishCmd blk 1 := by
  rw [State.debugWrite, he]
  exact if_pos (by rw [h]; rfl)

section
variable (h : e.q.stopped = true)
include h

/-- What a register holds goes back to the debugger. -/
theorem State.debugRead_register {r : DbgReg} {bs : List W8} (hr : e.dbgRead s r = some bs) :
    s.debugRead blk id r = ({ s with lastReply := some bs } : State).finishCmd blk 0 := by
  unfold State.debugRead
  rw [he]
  dsimp only
  rw [if_neg (by simp [h])]
  cases r
  case memory => cases hr
  all_goals
    dsimp only
    rw [hr]

theorem State.debugRead_memory {sp : Space} {ea base index lane : Nat} {bs : List W8} (hm : s.dbgMemory e sp ea base index lane = (some bs, t)) :
    s.debugRead blk id (.memory sp ea base index lane) = ({ t with lastReply := some bs } : State).finishCmd blk 0 := by
  unfold State.debugRead
  rw [he]
  dsimp only
  rw [if_neg (by simp [h]), hm]

theorem State.debugRead_noMemory {sp : Space} {ea base index lane : Nat} (hm : s.dbgMemory e sp ea base index lane = (none, t)) :
    s.debugRead blk id (.memory sp ea base index lane) = t.finishCmd blk 1 := by
  unfold State.debugRead
  rw [he]
  dsimp only
  rw [if_neg (by simp [h]), hm]

theorem State.debugWrite_pc (v : Nat) : s.debugWrite blk id .pc v =
    (s.modQuire id fun q => ({ q with wait := .none, grp := none, snap := none } : Quire).jump (BitVec.ofNat 64 v) true).finishCmd blk 0 := by
  unfold State.debugWrite
  rw [he]
  exact if_neg (by simp [h])

theorem State.debugWrite_other {r : DbgReg} (hpc : r ≠ .pc) (v : Nat) : s.debugWrite blk id r v = s.debugPut e blk id r v := by
  unfold State.debugWrite
  rw [he]
  dsimp only
  rw [if_neg (by simp [h])]
  split
  · exact absurd rfl hpc
  · rfl

end
end

section
variable {e : Env} {s t : State} {blk id v : Nat} {r : DbgReg} {f : Regs → Regs}

theorem State.debugPut_refused (h : e.dbgPut r v = none) : s.debugPut e blk id r v = s.finishCmd blk 1 := by
  rw [State.debugPut, h]

theorem State.debugPut_exhausted (h : e.dbgPut r v = some f) (hrows : State.mapNames e.g.pcore e.q.part id (debugRows r) s = none) :
    s.debugPut e blk id r v = s.finishCmd blk 3 := by
  simp only [State.debugPut, h, hrows]

theorem State.debugPut_written (h : e.dbgPut r v = some f) (hrows : State.mapNames e.g.pcore e.q.part id (debugRows r) s = some t) :
    s.debugPut e blk id r v =
      (t.modQuire id fun q => { q with regs := f q.regs, snap := q.snap.map f, latches := latchesAfterDebug r q.latches }).finishCmd blk 0 := by
  simp only [State.debugPut, h, hrows]

theorem Env.dbgRead_scalar {n : Nat} (h : n < 127) : e.dbgRead s (.scalar n) = some (leBytes 8 (FMap.val 0 e.q.regs.s n).toNat) := by
  rw [Env.dbgRead, if_pos (by omega), if_neg (by omega)]

theorem Env.dbgRead_scalar127 : e.dbgRead s (.scalar 127) = some (leBytes 8 0) := rfl

theorem Env.dbgRead_vec {n l : Nat} (hn : n < e.names) (hl : l < e.width) :
    e.dbgRead s (.vec n l) = some (leBytes 4 (e.q.regs.vget n l).toNat) := if_pos ⟨hn, hl⟩

theorem Env.dbgRead_pc : e.dbgRead s .pc = some (leBytes 8 e.q.pc.toNat) := rfl

end

end Sys2Proof.Machine

namespace Sys2Proof.Claims
open Sys2Proof.Machine

/-- Settles O46: a stop, a resume and a step by the quires they name, a read and a write by the register, a pre-emption by the gathering. -/
theorem debugAndPreemptionCommandsAct : Obligations.DebugAndPreemptionCommandsAct := by
  intro s blk hboot
  refine ⟨?nothing, ?named, ?stopped, ?running, fun gid g hg hr hs => exec_driverPreemptionRequest hboot blk hg hr hs,
    fun gid hno => exec_driverPreemptionRequest_refused hboot blk hno⟩
  case nothing =>
    intro d h
    exact ⟨by rw [exec_debugStop hboot, State.stop_nothing h], by rw [exec_debugResume hboot, State.resume_nothing h],
      by rw [exec_debugStep hboot, State.resume_nothing h]⟩
  case named =>
    intro d id more h asked still freed
    rw [exec_debugStop hboot, exec_debugResume hboot, exec_debugStep hboot]
    exact ⟨fun hs => congrArg _ ((State.stop_eq h).trans (if_pos hs)), fun hs => congrArg _ ((State.stop_eq h).trans (if_neg (ne_true_of_eq_false hs))),
      congrArg _ (State.resume_some h), congrArg _ (State.resume_some h)⟩
  case stopped =>
    intro id e he h
    have reads : ∀ {r bs}, e.dbgRead s r = some bs → exec (.debugRead blk id r) s = .next (({ s with lastReply := some bs } : State).finishCmd blk 0) :=
      fun hr => (exec_debugRead hboot ..).trans (congrArg _ (State.debugRead_register he h hr))
    have writes : ∀ {r v}, r ≠ .pc → exec (.debugWrite blk id r v) s = .next (s.debugPut e blk id r v) :=
      fun hpc => (exec_debugWrite hboot ..).trans (congrArg _ (State.debugWrite_other he h hpc _))
    refine ⟨fun n hn => reads (Env.dbgRead_scalar hn), reads Env.dbgRead_scalar127, fun n l hn hl => reads (Env.dbgRead_vec hn hl), ?memory, ?noMemory,
      reads Env.dbgRead_pc, ?pc, ?written, ?exhausted, ?refused⟩
    case memory =>
      intro sp ea base index lane bs t hm
      rw [exec_debugRead hboot, State.debugRead_memory he h hm]
    case noMemory =>
      intro sp ea base index lane t hm
      rw [exec_debugRead hboot, State.debugRead_noMemory he h hm]
    case pc =>
      intro v
      rw [exec_debugWrite hboot, State.debugWrite_pc he h]
    case written => exact fun r v f t hpc hput hrows => (writes hpc).trans (congrArg _ (State.debugPut_written hput hrows))
    case exhausted => exact fun r v f hpc hput hrows => (writes hpc).trans (congrArg _ (State.debugPut_exhausted hput hrows))
    case refused => exact fun r v hpc hput => (writes hpc).trans (congrArg _ (State.debugPut_refused hput))
  case running =>
    intro id e he h
    exact ⟨fun r => by rw [exec_debugRead hboot, State.debugRead_running he h], fun r v => by rw [exec_debugWrite hboot, State.debugWrite_running he h]⟩

end Sys2Proof.Claims

/-! PROOFS. Queues accept, launches are placed and complete (R33–R44, R63–R67, R317, R321–R324, R382, R386). -/
namespace Sys2Proof.Machine

theorem queueKey_ctx {cid q : Nat} (h : q < 4096) : queueKey cid q / 4096 = cid := by
  unfold queueKey
  omega

/-- A context that asks for a slot keeps the time since which it asks (R464). -/
theorem State.modCtx_found {s : State} {cid : Nat} {c : Context} (hc : FMap.find s.ctxs cid = some c) (f : Context → Context) :
    s.modCtx cid f = s.setCtx cid (f c) := by
  rw [State.modCtx, FMap.modify, hc]
  rfl

/-! ### Reading a dependency word takes no time -/

theorem State.rest_depHolds (s : State) (cid vid root : Nat) (p : Packet) : (s.depHolds cid vid root p).2.rest = s.rest := by
  have h := s.rest_xl_eread 0 vid cid root p.depWord
  unfold State.depHolds
  split
  · rfl
  · split <;> next heq => rw [heq] at h; exact h

theorem State.blockedHolds_ns {s t : State} {qk root : Nat} {p : Packet} {ok : Bool} (h : s.blockedHolds qk root p = (ok, t)) : t.ns = s.ns := by
  have hrest : (s.blockedHolds qk root p).2.rest = s.rest := State.rest_depHolds ..
  rw [h] at hrest
  exact State.eq_of_rest hrest State.ns fun _ => rfl

/-! ### A wake (R33, R34) -/

/-- A queue whose tail has been read: its progress line says so where the tail has moved (R34). -/
def State.tellTail (s : State) (qk : Nat) (Q : Queue) (tail : Nat) : State :=
  let told := s.modQueue qk fun Q => { Q with submitted := tail }
  if tail = Q.submitted then told else told.progress qk

/-- A queue that runs or waits reads its tail: it halts where it cannot, or where the tail is beyond its ring, and else accepts what is pending. -/
def State.readTail (s : State) (qk cid : Nat) (Q : Queue) (c : Context) : State :=
  match s.translate 0 cid c.root Q.tailVa .eread with
  | (.error _, t) => t.haltQueue qk 3
  | (.ok x, t) =>
    if paKind x.pa == .peer then t.haltQueue qk 3
    else
      let tail := t.mem.num x.pa 4
      if 2 ^ Q.n < seqDiff (tail + 1) Q.expected then (t.tellTail qk Q tail).haltQueue qk 2
      else State.acceptAll qk (seqDiff (tail + 1) Q.expected) (t.tellTail qk Q tail)

section
variable {s t : State} {qk cid : Nat} {Q : Queue} {c : Context} {x : Xlated}

theorem State.readTail_faults {f : XFault} (h : s.translate 0 cid c.root Q.tailVa .eread = (.error f, t)) : s.readTail qk cid Q c = t.haltQueue qk 3 := by
  rw [State.readTail, h]

section
variable (htr : s.translate 0 cid c.root Q.tailVa .eread = (.ok x, t))
include htr

theorem State.readTail_peer (h : paKind x.pa = .peer) : s.readTail qk cid Q c = t.haltQueue qk 3 := by
  rw [State.readTail, htr]
  exact if_pos (beq_iff_eq.2 h)

theorem State.readTail_beyond (h : paKind x.pa ≠ .peer) (hn : 2 ^ Q.n < seqDiff (t.mem.num x.pa 4 + 1) Q.expected) :
    s.readTail qk cid Q c = (t.tellTail qk Q (t.mem.num x.pa 4)).haltQueue qk 2 := by
  rw [State.readTail, htr]
  exact (if_neg (by simpa using h)).trans (if_pos hn)

theorem State.readTail_accepts (h : paKind x.pa ≠ .peer) (hn : seqDiff (t.mem.num x.pa 4 + 1) Q.expected ≤ 2 ^ Q.n) :
    s.readTail qk cid Q c = State.acceptAll qk (seqDiff (t.mem.num x.pa 4 + 1) Q.expected) (t.tellTail qk Q (t.mem.num x.pa 4)) := by
  rw [State.readTail, htr]
  exact (if_neg (by simpa using h)).trans (if_neg (Nat.not_lt.2 hn))

end
end

section
variable {s t : State} {qk cid : Nat} {Q : Queue} {c : Context} {p : Packet}
  (hQ : FMap.find s.queues qk = some Q) (hk : qk / 4096 = cid) (hc : FMap.find s.ctxs cid = some c)
include hQ hk hc

theorem State.wakeQueue_notResident (h : c.resident = false) : s.wakeQueue qk = s.setCtx cid { c with candidate := c.candidate.or (some s.ns) } := by
  subst hk
  rw [State.wakeQueue, hQ, hc]
  exact if_pos (by rw [h]; rfl)

theorem State.wakeQueue_stopped (h : c.resident = true) (hst : Q.state = .halted ∨ Q.state = .disabled) : s.wakeQueue qk = s := by
  subst hk
  rw [State.wakeQueue, hQ, hc]
  exact (if_neg (by simp [h])).trans (if_pos (by simpa using hst))

theorem State.wakeQueue_reads (h : c.resident = true) (hst : Q.state = .running ∨ Q.state = .waiting) : s.wakeQueue qk = s.readTail qk cid Q c := by
  subst hk
  have hrun : ¬(Q.state == .halted || Q.state == .disabled) = true := by
    rcases hst with hst | hst <;> rw [hst] <;> decide
  unfold State.wakeQueue
  rw [hQ, hc]
  dsimp only
  rw [if_neg (by simp [h]), if_neg hrun]
  rfl

/-! ### A queue that waits on a dependency word (R37, R38) -/

theorem State.tryUnblock_free (h : Q.blocked = none) : s.tryUnblock qk = s := by
  subst hk
  rw [State.tryUnblock, hQ, hc]
  dsimp only
  rw [h]

section
variable (hp : Q.blocked = some p)
include hp

theorem State.tryUnblock_fails (hr : s.blockedHolds qk c.root p = (false, t)) : s.tryUnblock qk = t := by
  subst hk
  rw [State.tryUnblock, hQ, hc]
  dsimp only
  rw [hp]
  dsimp only
  rw [hr]
  rfl

theorem State.tryUnblock_holds (hr : s.blockedHolds qk c.root p = (true, t)) : s.tryUnblock qk =
    if c.resident = true then
      (if p.type = 3 then (t.modQueue qk Queue.unblock).closePacket qk p ((t.modQueue qk Queue.unblock).parentOf qk p.seq) false 0 0
        else t.modQueue qk Queue.unblock).progress qk
    else t.modCtx (qk / 4096) fun c => { c with candidate := c.candidate.or (some t.ns) } := by
  subst hk
  unfold State.tryUnblock
  rw [hQ, hc]
  dsimp only
  rw [hp]
  dsimp only
  rw [hr, State.blockedHolds_ns hr]
  cases c.resident <;> rfl

end

end

/-! ### The signal at the head of a queue (R39) -/

/-- What a signal packet stores in its word, and the packet closed. -/
def State.signalActs (s : State) (qk : Nat) (p : Packet) (rest : List Packet) : State :=
  let sent := if p.depWord = 0 then s
    else s.engineStore (qk / 4096) ((s.parentOf qk p.seq).getD 0) p.depWord (leBytes 7 p.depVal ++ [BitVec.ofNat 8 p.depCmp])
  (sent.modQueue qk fun Q => { Q with signals := rest }).closePacket qk p (sent.parentOf qk p.seq) false 0 0

section
variable {s : State} {qk cid seq : Nat} {Q : Queue} {c : Context} {p : Packet} {rest : List Packet} {done : Bool} {more : List (Nat × Bool)}
  (hQ : FMap.find s.queues qk = some Q) (hk : qk / 4096 = cid) (hc : FMap.find s.ctxs cid = some c)
  (hS : Q.signals = p :: rest) (hO : Q.open' = (seq, done) :: more)
include hQ hk hc hS hO

theorem State.actSignal_eq : s.actSignal qk =
    if p.seq ≠ seq then s
    else if c.resident = false then s.setCtx cid { c with candidate := c.candidate.or (some s.ns) }
    else if s.flushAll.writesDue then s.flushAll
    else s.flushAll.signalActs qk p rest := by
  subst hk
  unfold State.actSignal
  rw [hQ, hc]
  dsimp only
  rw [hS, hO]
  dsimp only
  rw [State.modCtx_found hc]
  cases c.resident <;> rfl

theorem State.actSignal_early (h : p.seq ≠ seq) : s.actSignal qk = s :=
  (State.actSignal_eq hQ hk hc hS hO).trans (if_pos h)

section
variable (hseq : p.seq = seq)
include hseq

theorem State.actSignal_notResident (h : c.resident = false) : s.actSignal qk = s.setCtx cid { c with candidate := c.candidate.or (some s.ns) } :=
  (State.actSignal_eq hQ hk hc hS hO).trans ((if_neg (fun hne => hne hseq)).trans (if_pos h))

theorem State.actSignal_waits (h : c.resident = true) (hd : s.flushAll.writesDue = true) : s.actSignal qk = s.flushAll :=
  (State.actSignal_eq hQ hk hc hS hO).trans ((if_neg (fun hne => hne hseq)).trans ((if_neg (by simp [h])).trans (if_pos hd)))

theorem State.actSignal_acts (h : c.resident = true) (hd : s.flushAll.writesDue = false) : s.actSignal qk = s.flushAll.signalActs qk p rest :=
  (State.actSignal_eq hQ hk hc hS hO).trans ((if_neg (fun hne => hne hseq)).trans ((if_neg (by simp [h])).trans (if_neg (ne_true_of_eq_false hd))))

end
end

/-! ### A launch completes (R44, R482–R485) -/

/-- What a completed launch leaves before its queue goes on: its shadow pages settled, its record written, its parent's count, its place in the queue. -/
def State.closed (s : State) (vid : Nat) (v : Volume) : State :=
  let sealed := s.sealEnd vid v
  let mask : W64 := if v.outcome.1 = 3 then v.collMask.getD 0 else 0
  let told := if v.ending == .silent then sealed
    else sealed.writeRecordOf v.ctx vid v.pkt v.outcome.1 v.outcome.2 (v.usedMode (sealed.policyCap v.ctx)) mask
  let closed := (told.childGone v.parent).finishPacket (queueKey v.ctx v.queue) v.pkt.seq
  { closed with vols := FMap.remove closed.vols vid }

/-- A queue blocked on packet `seq` goes on (R38). -/
def State.unblockFor (s : State) (qk seq : Nat) : State :=
  match (FMap.find s.queues qk).bind Queue.blocked with
  | some p => if p.seq = seq then (s.modQueue qk Queue.unblock).progress qk else s
  | none => s

theorem State.unblockFor_own {s : State} {qk seq : Nat} (h : ∃ p, (FMap.find s.queues qk).bind Queue.blocked = some p ∧ p.seq = seq) :
    s.unblockFor qk seq = (s.modQueue qk Queue.unblock).progress qk := by
  obtain ⟨p, hp, hseq⟩ := h
  rw [State.unblockFor, hp]
  exact if_pos hseq

theorem State.unblockFor_other {s : State} {qk seq : Nat} (h : ∀ p, (FMap.find s.queues qk).bind Queue.blocked = some p → p.seq ≠ seq) :
    s.unblockFor qk seq = s := by
  unfold State.unblockFor
  split
  · next p hp => exact if_neg (h p hp)
  · rfl

section
variable {s : State} {vid : Nat} {v : Volume} (hv : FMap.find s.vols vid = some v)
include hv

theorem State.completeVolume_early (h : s.volumeDue vid v = false) : s.completeVolume vid = s := by
  rw [State.completeVolume, hv]
  exact if_pos (by rw [h]; rfl)

theorem State.completeVolume_waits (h : s.volumeDue vid v = true) (hd : s.flushAll.writesDue = true) : s.completeVolume vid = s.flushAll := by
  rw [State.completeVolume, hv]
  exact (if_neg (by simp [h])).trans (if_pos hd)

theorem State.completeVolume_done (h : s.volumeDue vid v = true) (hd : s.flushAll.writesDue = false) :
    s.completeVolume vid = (s.flushAll.closed vid v).unblockFor (queueKey v.ctx v.queue) v.pkt.seq := by
  unfold State.completeVolume
  rw [hv]
  dsimp only
  rw [if_neg (by simp [h]), if_neg (ne_true_of_eq_false hd)]
  rfl

end

/-! ### Placement (R42, R63) -/

theorem State.placeNext_placed {s t : State} (h : s.placeClasses 4 0 = some t) : s.placeNext = t := by
  rw [State.placeNext, h]

theorem State.placeNext_asks {s : State} (h : s.placeClasses 4 0 = none) : s.placeNext = s.askAll := by
  rw [State.placeNext, h]

/-! ### Quires of bins (R67, R386, R387) -/

/-- A core without one of its bins. -/
def State.dropBin (s : State) (p n : Nat) : State := s.modCore p fun c => { c with bins := FMap.remove c.bins n }

/-- The gathering of its own that a bin's quire is launched in. -/
def State.binGathering (s : State) (p n : Nat) (b : Bin) (v : Volume) (f : BinLane) : Nat × State :=
  (s.dropBin p n).addGathering b.vol v b.role f.x f.y f.z (s.logicalOf p) p none true

/-- The quire launched in it, where rows can be had for its payload. -/
def State.binAlone (s : State) (p n : Nat) (b : Bin) (v : Volume) (f : BinLane) (part : Nat) : Option State :=
  let r := s.binGathering p n b v f
  (r.2.addQuire r.1 0 part b.entry (b.regs v)).bindRows p part r.2.nextId b

section
variable {s : State} {p n : Nat} {b : Bin} {v : Volume} {f : BinLane} {more : List BinLane}
  (hb : FMap.find (s.core p).bins n = some b)
include hb

theorem State.expireBin_early (h : s.binExpired b = false) : s.expireBin p n = s := by
  rw [State.expireBin, hb]
  exact if_neg (ne_true_of_eq_false h)

theorem State.expireBin_due (h : s.binExpired b = true) :
    s.expireBin p n = (s.modCore p fun c => { c with bins := FMap.insert c.bins n { b with full := true } }).placeBin p n := by
  rw [State.expireBin, hb]
  exact if_pos h

variable (hv : FMap.find s.vols b.vol = some v)
include hv

theorem State.placeBin_waits (h : s.binPlan p b = none) : s.placeBin p n = s := by
  unfold State.placeBin
  rw [hb]
  dsimp only
  rw [hv, h]

variable (hl : b.lanes = f :: more)
include hl

section
variable {part : Nat} (h : s.binPlan p b = some (none, part))
include h

theorem State.placeBin_noRows (hr : s.binAlone p n b v f part = none) : s.placeBin p n = s := by
  unfold State.placeBin
  rw [hb]
  dsimp only
  rw [hv, h, hl]
  dsimp only
  split
  · rfl
  · next u hu => cases hr.symm.trans hu

theorem State.placeBin_alone {u : State} (hr : s.binAlone p n b v f part = some u) :
    s.placeBin p n = if u.retired.contains p then u.requestPreemption (s.binGathering p n b v f).1 (some (clusterOf p)) else u := by
  unfold State.placeBin
  rw [hb]
  dsimp only
  rw [hv, h, hl]
  dsimp only
  split
  · next hn => cases hr.symm.trans hn
  · next w hw => cases hr.symm.trans hw; rfl

end

theorem State.placeBin_joins {gid part : Nat} {g : Gathering} {t : State} (h : s.binPlan p b = some (some gid, part))
    (hg : FMap.find s.gaths gid = some g) (hj : (s.dropBin p n).join gid = some t) :
    let joined := ((b.regs v).sput 2 0 false).sput 3 (BitVec.ofNat 64 f.quire) false
    s.placeBin p n = (((t.addQuire gid (s.freeIndex g) part b.entry joined).bindRows p part t.nextId b).getD s) := by
  unfold State.placeBin
  rw [hb]
  dsimp only
  rw [hv, h, hl]
  dsimp only
  rw [State.dropBin] at hj
  rw [hj, hg]

end

/-! ### Mesh gatherings and pending quires (R317, R382) -/

section
variable {s : State} {gid : Nat} {g : Gathering} {v : Volume} (hg : FMap.find s.gaths gid = some g) (hv : FMap.find s.vols g.vol = some v)
include hg hv

theorem State.createPending_created {w : PendingQuire} {k : Nat} {t : State} (hw : s.pendingPlan gid g = some (w, k)) (hj : s.join gid = some t) :
    let r := ((v.startRegs g.role (LaneSet.below (v.laneCount g.role)) 0).sput 2 w.arg false).sput 3 (BitVec.ofNat 64 w.from') false
    s.createPending gid = (t.modGath gid fun g => { g with wanted := g.wanted.drop 1 }).addQuire gid (s.freeIndex g) k w.entry r := by
  unfold State.createPending
  rw [hg]
  dsimp only
  rw [hw, hv, hj]

theorem State.placeMesh_placed {slot owed n : Nat} {parts : List Nat} {m : Gathering} (hp : s.meshPlan g = some (slot, owed, n, parts)) :
    let r := s.addGathering g.vol v .mesh (n - owed) 0 0 g.core g.pcore (some (gid, slot)) false
    let t := r.2.addQuires r.1 v .mesh parts
    FMap.find t.gaths r.1 = some m →
      s.placeMesh gid = ((t.copyBytes (spadKey g.pcore (g.base + g.size + slot * v.payload)) (spadKey m.pcore m.base) v.payload).modGath gid fun g =>
        { g.setHandle (60 + slot) { g.handle (60 + slot) with state := .draining } with
          owed := FMap.put (0, 0) g.owed slot (if owed ≤ 1 then (0, 0) else (owed - 1, n)),
          running := FMap.put 0 g.running slot (FMap.val 0 g.running slot + 1),
          ringOrder := if owed ≤ 1 then g.ringOrder.drop 1 else g.ringOrder }).reap gid := by
  intro r t hm
  unfold State.placeMesh
  rw [hg]
  dsimp only
  rw [hp, hv]
  dsimp only
  split
  · next m' hm' => cases hm.symm.trans hm'; rfl
  · next hn => cases hm.symm.trans hn

end

/-! ### Pixels and tiles (R323, R324) -/

/-- A primitive's cursor in a launch's work list moves on (R323). -/
def State.moveCursor (s : State) (vid serial n : Nat) : State :=
  s.modVol vid fun v => { v with render := v.render.map fun r =>
    { r with work := r.work.map fun x => if x.serial = serial then { x with cursor := n } else x } }

section
variable {s : State} {vid : Nat} {v : Volume} {c : Context} {r : Render}
  (hv : FMap.find s.vols vid = some v) (hc : FMap.find s.ctxs v.ctx = some c) (hr : v.render = some r)
include hv hc hr

section
variable {serial : Nat} {w : PrimWork} (hw : r.work.find? (fun x => x.serial == serial && c.resident) = some w)
include hw

theorem State.resolvePixel_done
    (h : nextCovered r.target (recVertices w.record) (r.target.width * r.target.height - w.cursor) w.cursor = none) :
    s.resolvePixel vid serial = s.moveCursor vid serial (r.target.width * r.target.height) := by
  unfold State.resolvePixel
  rw [hv]
  dsimp only
  rw [hr, hc]
  dsimp only
  rw [hw]
  dsimp only
  rw [h]
  rfl

theorem State.resolvePixel_covered {p d old : Nat} {u : State}
    (h : nextCovered r.target (recVertices w.record) (r.target.width * r.target.height - w.cursor) w.cursor = some (p, d)) :
    let k := pixelKey c r.target (p % r.target.width) (p / r.target.width)
    s.homeNum k 8 = (old, u) →
    s.resolvePixel vid serial = (u.putMarked k 8 (min old (visWord d (recNum w.record 4 4) serial)) (u.mem.anyBad k 8)).moveCursor vid serial (p + 1) := by
  intro k hk
  unfold State.resolvePixel
  rw [hv]
  dsimp only
  rw [hr, hc]
  dsimp only
  rw [hw]
  dsimp only
  rw [h]
  dsimp only
  rw [hk]
  rfl

end

variable (he : v.ending = .running) (hl : s.live v.ctx = true)
include he hl

theorem State.finality_eq : s.finality vid =
    if r.final = true then (s.clearPixel vid v c r).spawnPixel vid v c r
    else if s.tilesDone vid v r = true then s.makeFinal vid c r else s := by
  unfold State.finality
  rw [hv]
  dsimp only
  rw [hr, hc]
  dsimp only
  rw [if_neg (by simp [he, hl])]
  cases r.final <;> rfl

end

/-! ### What the events do -/

section
variable (s : State)

theorem exec_queueWake (cid q : Nat) : exec (.queueWake cid q) s = .next (s.wakeQueue (queueKey cid q)) := rfl
theorem exec_dependencyWordWrite (cid q : Nat) : exec (.dependencyWordWrite cid q) s = .next (s.tryUnblock (queueKey cid q)) := rfl
theorem exec_signalPacketEffect (cid q : Nat) : exec (.signalPacketEffect cid q) s = .next (s.actSignal (queueKey cid q)) := rfl
theorem exec_volumeCompletion (vid : Nat) : exec (.volumeCompletion vid) s = .next (s.completeVolume vid) := rfl
theorem exec_gatheringPlacement : exec .gatheringPlacement s = .next s.placeNext := rfl
theorem exec_binQuirePlacement (p n : Nat) : exec (.binQuirePlacement p n) s = .next (s.placeBin p n) := rfl
theorem exec_binTimerExpiry (p n : Nat) : exec (.binTimerExpiry p n) s = .next (s.expireBin p n) := rfl
theorem exec_meshGatheringPlacement (gid : Nat) : exec (.meshGatheringPlacement gid) s = .next (s.placeMesh gid) := rfl
theorem exec_pendingQuireCreation (gid : Nat) : exec (.pendingQuireCreation gid) s = .next (s.createPending gid) := rfl
theorem exec_visibilityResolve (vid serial : Nat) : exec (.visibilityResolve vid serial) s = .next (s.resolvePixel vid serial) := rfl
theorem exec_tileFinality (vid : Nat) : exec (.tileFinality vid) s = .next (s.finality vid) := rfl

end

end Sys2Proof.Machine

namespace Sys2Proof.Claims
open Sys2Proof.Machine

/-- Settles O42: each event by the cases of the function it runs; a dependency word is read without time passing, so that a context becomes a
candidate at the time of the write. -/
theorem launchesComeAndGo : Obligations.LaunchesComeAndGo := by
  intro s
  refine ⟨?queue, ?volume, ⟨fun t h => ?placed, fun h => ?asks⟩, ?bin, ?mesh, ?pending, ?pixel, ?tile⟩
  case queue =>
    intro cid q Q c hq hQ hc
    have hk : queueKey cid q / 4096 = cid := queueKey_ctx hq
    rw [exec_queueWake, exec_dependencyWordWrite, exec_signalPacketEffect]
    refine ⟨fun h => congrArg _ (State.wakeQueue_notResident hQ hk hc h), fun h hst => congrArg _ (State.wakeQueue_stopped hQ hk hc h hst), ?tail,
      fun h => congrArg _ (State.tryUnblock_free hQ hk hc h), ?dependency, ?signal⟩
    case tail =>
      intro x t f h hst
      rw [State.wakeQueue_reads hQ hk hc h hst]
      refine ⟨fun htr => congrArg _ (State.readTail_faults htr), fun htr hx => congrArg _ (State.readTail_peer htr hx), fun htr hx => ?_⟩
      exact ⟨fun hn => congrArg _ (State.readTail_beyond htr hx hn), fun hn => congrArg _ (State.readTail_accepts htr hx hn)⟩
    case dependency =>
      intro p t ok hp hr freed
      refine ⟨fun hok => ?_, fun hok h => ?_, fun hok h h3 => ?_, fun hok h h3 => ?_⟩ <;> subst hok
      · rw [State.tryUnblock_fails hQ hk hc hp hr]
      · rw [State.tryUnblock_holds hQ hk hc hp hr, if_neg (ne_true_of_eq_false h)]
      · rw [State.tryUnblock_holds hQ hk hc hp hr, if_pos h, if_neg h3]
      · rw [State.tryUnblock_holds hQ hk hc hp hr, if_pos h, if_pos h3]
    case signal =>
      intro p rest seq done more hS hO drained
      exact ⟨fun h => congrArg _ (State.actSignal_early hQ hk hc hS hO h), fun hseq h => congrArg _ (State.actSignal_notResident hQ hk hc hS hO hseq h),
        fun hseq h hd => congrArg _ (State.actSignal_waits hQ hk hc hS hO hseq h hd),
        fun hseq h hd => congrArg _ (State.actSignal_acts hQ hk hc hS hO hseq h hd)⟩
  case volume =>
    intro vid v hv drained
    rw [exec_volumeCompletion]
    refine ⟨fun h => congrArg _ (State.completeVolume_early hv h), fun h hd => congrArg _ (State.completeVolume_waits hv h hd), fun h hd => ?_⟩
    rw [State.completeVolume_done hv h hd]
    exact ⟨fun hp => congrArg _ (State.unblockFor_own hp), fun hp => congrArg _ (State.unblockFor_other hp)⟩
  case placed => rw [exec_gatheringPlacement, State.placeNext_placed h]
  case asks =>
    rw [exec_gatheringPlacement, State.placeNext_asks h]
    rfl
  case bin =>
    intro p n b v part f more hb hv hl gone
    rw [exec_binQuirePlacement, exec_binTimerExpiry]
    refine ⟨fun h => congrArg _ (State.placeBin_waits hb hv h), ?own, ?join, fun h => congrArg _ (State.expireBin_early hb h),
      fun h => congrArg _ (State.expireBin_due hb h)⟩
    case own =>
      intro h r bound
      exact ⟨fun hr => congrArg _ (State.placeBin_noRows hb hv hl h hr), fun u hr => congrArg _ (State.placeBin_alone hb hv hl h hr)⟩
    case join => exact fun gid g t h hg hj => congrArg _ (State.placeBin_joins hb hv hl h hg hj)
  case mesh =>
    intro gid g v slot owed n parts m hg hv hp r t hm
    rw [exec_meshGatheringPlacement]
    exact congrArg _ (State.placeMesh_placed hg hv hp hm)
  case pending =>
    intro gid g v w k t hg hv hw hj
    rw [exec_pendingQuireCreation]
    exact congrArg _ (State.createPending_created hg hv hw hj)
  case pixel =>
    intro vid v c r w hv hc hr _ hw t move
    rw [exec_visibilityResolve]
    refine ⟨fun h => congrArg _ (State.resolvePixel_done hv hc hr hw h), ?_⟩
    intro p d old u h k hk
    exact congrArg _ (State.resolvePixel_covered hv hc hr hw h hk)
  case tile =>
    intro vid v c r hv hc hr he hl
    rw [exec_tileFinality, State.finality_eq hv hc hr he hl]
    exact ⟨fun hf ht => congrArg _ ((if_neg (ne_true_of_eq_false hf)).trans (if_pos ht)),
      fun hf ht => congrArg _ ((if_neg (ne_true_of_eq_false hf)).trans (if_neg (ne_true_of_eq_false ht))), fun hf => congrArg _ (if_pos hf)⟩

end Sys2Proof.Claims

/-! PROOFS. Decoding and encoding are each other's inverse (R68, R80, R83, R87, R102): the decoder's fields come back from the encoder unchanged, and
the table of opcodes is read the same way in both directions. -/
namespace Sys2Proof.Laws

/-! ### A word from its fields -/

/-- A field above the low bits continues them. -/
theorem extract_append_low {n : Nat} (w : BitVec n) (lo len : Nat) : w.extractLsb' lo len ++ w.setWidth lo = w.setWidth (len + lo) := by
  ext i hi
  simp only [BitVec.getElem_append, BitVec.getElem_setWidth, BitVec.getElem_extractLsb']
  split
  · rfl
  · rw [Nat.add_sub_cancel' (by omega)]

theorem bit_getLsbD {n : Nat} (w : BitVec n) (lo : Nat) : bit (w.getLsbD lo) = w.extractLsb' lo 1 := by
  ext i hi
  obtain rfl : i = 0 := by omega
  simp [bit]

theorem bit_append_low {n : Nat} (w : BitVec n) (lo : Nat) : bit (w.getLsbD lo) ++ w.setWidth lo = w.setWidth (1 + lo) := by
  rw [bit_getLsbD, extract_append_low]

/-! ### Codes -/

@[simp] theorem code_tyOf (c : BitVec 4) : (tyOf c).code = c := by revert c; decide
@[simp] theorem code_rndOf (c : BitVec 3) : (rndOf c).code = c := by revert c; decide
@[simp] theorem code_widthOf (c : BitVec 3) : (widthOf c).code = c := by revert c; decide
@[simp] theorem code_spaceOf (c : BitVec 3) : (spaceOf c).code = c := by revert c; decide
@[simp] theorem code_scopeOf (c : BitVec 3) : (scopeOf c).code = c := by revert c; decide
@[simp] theorem code_negAbsOf (c : BitVec 2) : (negAbsOf c).code = c := by revert c; decide

/-- The number field of a specifier whose kind is an index register or an inline integer. -/
theorem indexed_or_inline (n : BitVec 11) :
    (if n.getLsbD 10 then Opnd.x (n.extractLsb' 8 2) (n.setWidth 8) else .imm (n.setWidth 10)).code = (3 : BitVec 2) ++ n := by
  have low : n.extractLsb' 8 2 ++ n.setWidth 8 = n.setWidth 10 := extract_append_low n 8 2
  have whole : bit (n.getLsbD 10) ++ n.setWidth 10 = n := (bit_append_low n 10).trans (low_all n)
  split
  next h => rw [h, ← low] at whole; exact congrArg ((3 : BitVec 2) ++ ·) whole
  next h => rw [Bool.not_eq_true] at h; rw [h] at whole; exact congrArg ((3 : BitVec 2) ++ ·) whole

@[simp] theorem code_opndOf (w : BitVec 13) : (opndOf w).code = w := by
  obtain ⟨k, n, rfl⟩ : ∃ (k : BitVec 2) (n : BitVec 11), w = k ++ n :=
    ⟨w.extractLsb' 11 2, w.setWidth 11, ((extract_append_low w 11 2).trans (low_all w)).symm⟩
  rw [opnd_split]
  split
  next h => rw [h]; rfl
  split
  next h => rw [h]; exact congrArg ((1 : BitVec 2) ++ ·) ((extract_append_low n 7 4).trans (low_all n))
  split
  next h => rw [h]; exact congrArg ((2 : BitVec 2) ++ ·) ((extract_append_low n 3 8).trans (low_all n))
  next h0 h1 h2 =>
    have h3 : k = 3 := by revert k; decide
    rw [h3]
    exact indexed_or_inline n

/-! ### Header and formats -/

@[simp] theorem code_hdrOf (w : BitVec 10) : (hdrOf w).code = w := by
  have h0 : bit (w.getLsbD 0) = w.setWidth 1 := (bit_getLsbD w 0).trans (by ext i hi; simp)
  simp only [hdrOf, Hdr.code, h0, extract_append_low w 1 3, bit_append_low w 4, bit_append_low w 5, extract_append_low w 6 3, bit_append_low w 9]
  exact low_all w

@[simp] theorem code_fmtAOf (w : BitVec 76) : (fmtAOf w).code = w := by
  simp only [fmtAOf, FmtA.code, code_opndOf, code_tyOf, code_rndOf, code_negAbsOf, extract_append_low w 10 2, extract_append_low w 12 2,
    extract_append_low w 14 2, bit_append_low w 16, extract_append_low w 17 3, extract_append_low w 20 4, extract_append_low w 24 13,
    extract_append_low w 37 13, extract_append_low w 50 13, extract_append_low w 63 13]
  exact low_all w

@[simp] theorem code_fmtIOf (w : BitVec 76) : (fmtIOf w).code = w := by
  simp only [fmtIOf, FmtI.code, code_opndOf, code_tyOf, code_rndOf, code_negAbsOf, extract_append_low w 8 2, bit_append_low w 10,
    extract_append_low w 11 3, extract_append_low w 14 4, extract_append_low w 18 32, extract_append_low w 50 13, extract_append_low w 63 13]
  exact low_all w

@[simp] theorem code_fmtMOf (w : BitVec 76) : (fmtMOf w).code = w := by
  simp only [fmtMOf, FmtM.code, code_opndOf, code_widthOf, code_spaceOf, code_scopeOf, extract_append_low w 4 3, extract_append_low w 7 3,
    extract_append_low w 10 3, extract_append_low w 13 24, extract_append_low w 37 13, extract_append_low w 50 13, extract_append_low w 63 13]
  exact low_all w

@[simp] theorem code_fmtEOf (w : BitVec 76) : (fmtEOf w).code = w := by
  simp only [fmtEOf, FmtE.code, code_opndOf, extract_append_low w 24 13, extract_append_low w 37 13, extract_append_low w 50 13,
    extract_append_low w 63 13]
  exact low_all w

@[simp] theorem code_fmtCOf (w : BitVec 76) : (fmtCOf w).code = w := by
  simp only [fmtCOf, FmtC.code, code_opndOf, extract_append_low w 15 13, extract_append_low w 28 24, extract_append_low w 52 24]
  exact low_all w

/-- The word of its opcode, header and fields. -/
theorem assemble_fields (w : BitVec 96) : assemble (opcodeOf w) (headerOf w) (payloadOf w) = w := by
  have low : headerOf w ++ payloadOf w = w.setWidth 86 := extract_append_low w 76 10
  rw [assemble, low]
  exact (extract_append_low w 86 10).trans (low_all w)

/-! ### The table of opcodes (R102) -/

/-- The opcode that `parts` gives an instruction builds it again. -/
theorem build_of_parts {i : Instr} {op : BitVec 10} {h : Hdr} {w : BitVec 76} (hp : parts i = some (op, h, w)) : build op.toNat h w = some i := by
  cases i <;> cases hp
  all_goals
    change some _ = some _
    simp only [fmtA_code, fmtI_code, fmtM_code, fmtE_code, fmtC_code]

/-- The instruction that an opcode builds has that opcode, that header and those fields: each group's functions, one by one. -/
theorem parts_of_build {op : Nat} {i : Instr} {h : Hdr} {w : BitVec 76} (hb : build op h w = some i) : parts i = some (BitVec.ofNat 10 op, h, w) := by
  rw [← Nat.div_add_mod op 64]
  unfold build at hb
  generalize op / 64 = g at hb ⊢
  generalize op % 64 = fn at hb ⊢
  split at hb
  case h_17 => cases hb
  all_goals
    simp only [group0, group1, group2, group3, group4, group5, group6, group7, group8, group9, groupA, groupB, groupC, groupD, groupE, groupF] at hb
    split at hb <;> cases hb
    all_goals simp only [parts, code_fmtAOf, code_fmtIOf, code_fmtMOf, code_fmtEOf, code_fmtCOf]
    all_goals rfl

/-- The word of an instruction decodes to it. -/
theorem decode_encode {i : Instr} {w : BitVec 96} (he : encode i = some w) : decode w = some i := by
  obtain ⟨⟨op, h, f⟩, hp, _⟩ := Option.map_eq_some_iff.1 he
  exact RoundTrip.of_build hp (build_of_parts hp) w he

/-- A word that decodes is the word of the instruction it decodes to. -/
theorem encode_decode {i : Instr} {w : BitVec 96} (hd : decode w = some i) : encode i = some w := by
  rw [encode, parts_of_build hd, Option.map_some, code_hdrOf, BitVec.ofNat_toNat, BitVec.setWidth_eq, assemble_fields]

end Sys2Proof.Laws

namespace Sys2Proof.Claims
open Sys2Proof.Laws

/-- Settles O55: an instruction's parts build it again, whatever its fields hold; a well-formed one has parts. -/
theorem everyInstructionDecodesFromItsWord : Obligations.EveryInstructionDecodesFromItsWord := by
  intro i
  refine ⟨fun w he => decode_encode he, fun hwf => ?_⟩
  obtain ⟨p, hp⟩ := Option.isSome_iff_exists.1 hwf.1
  have he : encode i = some (assemble p.1 p.2.1.code p.2.2) := congrArg _ hp
  exact ⟨_, he, decode_encode he⟩

/-- Settles O56: every field of a word is the code of what the decoder reads in it, so the encoder gives the word back, and one instruction has one word. -/
theorem decodingLosesNothing : Obligations.DecodingLosesNothing := by
  intro w i hd
  refine ⟨encode_decode hd, fun w' hd' => ?_⟩
  exact Option.some.inj ((encode_decode hd').symm.trans (encode_decode hd))

/-- Settles O54: each word's decoding, computed. -/
theorem workedWordsDecode : Obligations.WorkedWordsDecode :=
  ⟨⟨_, _, rfl, rfl⟩, ⟨_, _, rfl⟩, ⟨_, _, rfl⟩, ⟨_, _, rfl⟩, ⟨_, _, rfl⟩, ⟨_, _, rfl⟩, ⟨_, _, rfl⟩, ⟨_, _, rfl⟩, ⟨_, _, rfl⟩, ⟨_, _, rfl⟩⟩

end Sys2Proof.Claims

/-! PROOFS. What executing comes to: an instruction of a quire goes through the frame of R106, an event has its next state, and so every step has one
(R100–R106, R442). -/
namespace Sys2Proof.Machine
open Sys2Proof.Claims (Job intJob bitJob floatJob doubleJob convertJob cmpJob)

/-! ### Instructions and events -/

/-- The job of an instruction on registers alone. -/
def jobOf (i : Instr) : Option Job := (intJob i).or ((bitJob i).or ((floatJob i).or ((doubleJob i).or (convertJob i))))

/-- An instruction on registers alone computes its job. -/
theorem exec_of_job {i : Instr} {j : Job} (hj : jobOf i = some j) (s : State) : exec i s = s.aluOp i j.x j.p j.f := by
  cases i <;> cases hj <;> rfl

/-- A comparison computes its job and writes its predicate. -/
theorem exec_of_cmpJob {i : Instr} {j : Job} {pd : Nat} (hj : cmpJob i = some (j, pd)) (s : State) :
    exec i s = s.perform i fun e s => e.alu s j.x j.p (some pd) (fun _ => Srcs.bad) fun _ => j.f e := by
  cases i <;> cases hj <;> rfl

theorem State.local_performs (s : State) (i : Instr) (f : Env → Quire → Quire) : s.local i f = s.perform i fun e s => .ok (s.upd e (f e)) := rfl

/-- Every instruction of a quire executes in the one frame of checks and stalls. -/
theorem exec_performs {i : Instr} {h : Hdr} (hi : Instr.hdr i = some h) (s : State) : ∃ body, exec i s = s.perform i body := by
  cases hj : jobOf i with
  | some j => exact ⟨_, exec_of_job hj s⟩
  | none =>
  cases hc : cmpJob i with
  | some c => exact ⟨_, exec_of_cmpJob hc s⟩
  | none =>
  cases i
  case nop => unfold exec; exact ⟨_, State.local_performs ..⟩
  case plop => unfold exec; exact ⟨_, State.local_performs ..⟩
  case reconv => unfold exec; exact ⟨_, State.local_performs ..⟩
  case sel => unfold exec execSel; exact ⟨_, rfl⟩
  case selI => unfold exec execSelI; exact ⟨_, rfl⟩
  all_goals cases hi
  all_goals cases hj
  all_goals cases hc
  all_goals
    unfold exec
    exact ⟨_, rfl⟩

theorem exec_event_next {i : Instr} (hi : Instr.hdr i = none) (s : State) : ∃ t, exec i s = .next t := by
  cases i <;> cases hi <;> exact ⟨_, rfl⟩

/-- In a state whose current quire has its gathering, launch and context, everything has a next state. -/
theorem exec_next {s : State} {e : Env} (he : s.envOf s.cur = some e) (i : Instr) : ∃ t, exec i s = .next t := by
  cases hi : Instr.hdr i with
  | none => exact exec_event_next hi s
  | some h =>
    obtain ⟨body, hb⟩ := exec_performs hi s
    rw [hb]
    exact State.perform_next he i body

theorem exec_trap {s : State} {e : Env} {i : Instr} {h : Hdr} {t : TrapInfo} (hi : Instr.hdr i = some h) (he : s.envOf s.cur = some e)
    (hc : e.check i = some t) : exec i s = .next (s.takeTrap e.id t false) := by
  obtain ⟨body, hb⟩ := exec_performs hi s
  rw [hb, State.perform_trap he hc]

theorem Event.run_next (ev : Event) (s : State) : ∃ t, ev.run s = .next t := by
  cases ev <;> exact ⟨_, rfl⟩

/-! ### A quire's turn -/

/-- The environment of quire `id` in a state that holds its gathering, launch and context. -/
theorem State.envOf_eq {s : State} {id : Nat} {q : Quire} {g : Gathering} {v : Volume} {c : Context} (hq : FMap.find s.quires id = some q)
    (hg : FMap.find s.gaths q.gath = some g) (hv : FMap.find s.vols g.vol = some v) (hc : FMap.find s.ctxs v.ctx = some c) :
    s.envOf id = some { id := id, q := q, g := g, vol := v, ctx := c } := by
  simp only [State.envOf, hq, hg, hv, hc]

theorem State.envOf_parts {s : State} {id : Nat} {e : Env} (h : s.envOf id = some e) :
    e.id = id ∧ FMap.find s.quires id = some e.q ∧ FMap.find s.gaths e.q.gath = some e.g ∧ FMap.find s.vols e.g.vol = some e.vol
      ∧ FMap.find s.ctxs e.vol.ctx = some e.ctx := by
  unfold State.envOf at h
  split at h
  · cases h
  split at h
  · cases h
  split at h
  · cases h
  split at h
  · cases h
  cases h
  exact ⟨rfl, by assumption, by assumption, by assumption, by assumption⟩

/-- A quire as it is once one of its members has begun. -/
def Quire.entering (q : Quire) (m : Member) : Quire :=
  { q with selfPc := pcOf (lineVa q.pc) m.slot, grp := q.grp.map fun g => { g with done := g.done + 1 } }

theorem State.find_enterMember {s : State} {id : Nat} {q : Quire} (h : FMap.find s.quires id = some q) (m : Member) :
    FMap.find (s.enterMember id m).quires id = some (q.entering m) := by
  rw [State.enterMember, State.modQuire_quires, FMap.find_modify, h]
  rfl

@[simp] theorem State.enterMember_cur (s : State) (id : Nat) (m : Member) : (s.enterMember id m).cur = id := rfl

theorem State.envOf_enterMember {s : State} {id : Nat} {e : Env} (h : s.envOf id = some e) (m : Member) :
    (s.enterMember id m).envOf id = some { e with q := e.q.entering m } := by
  obtain ⟨rfl, hq, hg, hv, hc⟩ := State.envOf_parts h
  exact State.envOf_eq (State.find_enterMember hq m) hg hv hc

theorem State.nextMember_env {s : State} {id : Nat} {m : Member} (h : s.nextMember id = some m) : ∃ e, s.envOf id = some e := by
  unfold State.nextMember at h
  split at h
  · cases h
  · exact ⟨_, by assumption⟩

theorem finishMember_next {r : Out} {t : State} (h : r = .next t) (id : Nat) : finishMember id r = .next (t.afterMember id) := by
  rw [h]
  rfl

theorem State.turn_next (s : State) (id : Nat) : ∃ t, s.turn id = .next t := by
  unfold State.turn
  dsimp only
  split
  · exact ⟨_, rfl⟩
  next m hm =>
    obtain ⟨e, he⟩ := State.nextMember_env hm
    obtain ⟨t, ht⟩ := exec_next (s := (s.prepare id).enterMember id m) (State.envOf_enterMember he m) m.ins
    exact ⟨_, finishMember_next ht id⟩

theorem State.external_next (s : State) : ∃ t, s.external = .next t := by
  unfold State.external
  split
  · exact ⟨_, rfl⟩
  split
  · exact ⟨_, rfl⟩
  · exact exec_event_next (by assumption) _

end Sys2Proof.Machine

namespace Sys2Proof.Claims
open Sys2Proof.Machine

/-- Settles O58: whatever moves has its next state; a member is executed in a quire whose environment the turn has found. -/
theorem noStepStopsTheMachine : Obligations.NoStepStopsTheMachine := by
  intro s
  unfold Safe step
  dsimp only
  split
  case h_1 => exact ⟨_, rfl⟩
  case h_2 id _ => exact State.turn_next _ id
  case h_3 ev _ => exact Event.run_next ev _
  case h_4 => exact ⟨_, rfl⟩
  case h_5 => exact ⟨_, rfl⟩
  case h_6 => exact State.external_next _

end Sys2Proof.Claims

/-! PROOFS. The checks of R106 on one instruction, in their order. -/
namespace Sys2Proof.Machine

section
variable {e : Env} {i : Instr}

theorem Env.check_unprivileged (hp : e.privileged i = false) : e.check i = some (e.trapAll 0x0D 0) := by
  simp [Env.check, Env.check4, hp]

theorem Env.check_privileged (hp : e.privileged i = true) : e.check i = (e.check5 i).or ((e.check6 i).or (e.check7 i)) := by
  simp only [Env.check, Env.check4, hp, if_pos]
  cases e.check5 i with
  | some t => rfl
  | none => cases e.check6 i <;> rfl

variable {h : Hdr} (hi : Instr.hdr i = some h)
include hi

theorem Env.check5_word {code : Nat} (hw : (Instr.form i).trap h = some code) : e.check5 i = some (e.trapAll code 0) := by
  simp only [Env.check5, hi, hw]

theorem Env.check5_handle (hw : (Instr.form i).trap h = none) (hb : (e.handleBad i h || e.attrBad i) = true) :
    e.check5 i = some (e.trapAll 0x03 0) := by
  simp only [Env.check5, hi, hw, hb, if_pos]

theorem Env.check5_bases (hw : (Instr.form i).trap h = none) (hb : (e.handleBad i h || e.attrBad i) = false) :
    e.check5 i =
      let odd := (e.lanes (e.effect h)).filter (e.misaligned (Instr.form i).uses)
      if odd.isEmpty then none else some (e.trapLanes 0x03 0 0 (odd.foldl (fun m l => m ||| LaneSet.one l) 0)) := by
  simp only [Env.check5, hi, hw, hb]
  rfl

theorem Env.check6_hdr : e.check6 i = e.bounds (e.uses i) (e.lanes (e.effect h)) := by
  simp only [Env.check6, hi]

end

@[simp] theorem Env.trapLanes_code (e : Env) (code detail addr : Nat) (bad : LaneSet) : (e.trapLanes code detail addr bad).code = code := by
  unfold Env.trapLanes
  split <;> rfl

theorem Env.bounds_code {e : Env} {us : List Use} {lanes : List Nat} {t : TrapInfo} (h : e.bounds us lanes = some t) : t.code = 0x04 := by
  unfold Env.bounds at h
  dsimp only at h
  split at h
  · cases h
  · cases h
    exact Env.trapLanes_code ..

end Sys2Proof.Machine

namespace Sys2Proof.Claims
open Sys2Proof.Machine

/-- Settles O51: the checks run in their order, each where those before it pass, and the first that fails is what `exec` takes. -/
theorem failedChecksTakeTheirTraps : Obligations.FailedChecksTakeTheirTraps := by
  intro s e i h hi he trap odd
  have take : ∀ {t}, e.check i = some t → trap t := fun hc => exec_trap hi he hc
  refine ⟨fun hp => take (Env.check_unprivileged hp), fun hp code hw => take ?word, fun hp hw hb => take ?handle, fun hp hw hb hodd => take ?bases,
    fun hp hw hb hodd => ?rest, exec_next he i⟩
  case word => rw [Env.check_privileged hp, Env.check5_word hi hw, Option.some_or]
  case handle => rw [Env.check_privileged hp, Env.check5_handle hi hw hb, Option.some_or]
  case bases =>
    rw [Env.check_privileged hp, Env.check5_bases hi hw hb]
    exact (congrArg (Option.or · _) (if_neg (mt List.isEmpty_iff.1 hodd))).trans Option.some_or
  case rest =>
    have h5 : e.check5 i = none := (Env.check5_bases hi hw hb).trans (if_pos (List.isEmpty_iff.2 hodd))
    have hc : e.check i = (e.bounds (e.uses i) (e.lanes (e.effect h))).or (e.check7 i) := by
      rw [Env.check_privileged hp, h5, Option.none_or, Env.check6_hdr hi]
    refine ⟨fun t ht => ⟨Env.bounds_code ht, take (hc.trans ?_)⟩, fun hn => ⟨fun hl => take (hc.trans ?_), fun hl => hc.trans ?_⟩⟩
    · rw [ht, Option.some_or]
    · rw [hn, Option.none_or, Env.check7, if_neg (by simp [hl])]
    · rw [hn, Option.none_or, Env.check7, if_pos hl]

end Sys2Proof.Claims

/-! PROOFS. What a step is: the mover that was chosen, and a group that is complete (R70, R76, R93, R117). -/
namespace Sys2Proof.Machine

/-! ### The chosen mover -/

section
variable {s : State}

theorem step_quire {id : Nat} (h : choose s.pass.tick s.pass.movers = some (.quire id)) : step s = s.pass.bump.turn id := by
  simp only [step, h]

theorem step_event {ev : Event} (h : choose s.pass.tick s.pass.movers = some (.event ev)) : step s = ev.run s.pass.bump := by
  simp only [step, h]

theorem step_evict {k : Nat} (h : choose s.pass.tick s.pass.movers = some (.evict k)) :
    step s = .next { s.pass.bump with mem := s.pass.bump.mem.spread k } := by
  simp only [step, h, State.bump_mem]

theorem step_agenda (h : choose s.pass.tick s.pass.movers = some .agenda) : step s = s.pass.bump.external := by
  simp only [step, h]

/-- An external event is its row of the table. -/
theorem State.external_row {i : Instr} {l : List Instr} (h : s.nextExternal = some (i, l)) (hi : Instr.hdr i = none) :
    s.external = exec i { s with agenda := l } := by
  simp only [State.external, h, hi]

end

/-- A due event is its row of the table. -/
theorem Event.run_row {ev : Event} {i : Instr} (h : Claims.RowOf i ev) (s : State) : ev.run s = exec i s := by
  cases ev <;> cases h <;> rfl

/-! ### The next member -/

section
variable {s : State} {id : Nat}

theorem State.nextMember_slot {e : Env} {g : Group} {va : W64} {bs : List W8} {k : Nat} {i : Instr} (he : s.envOf id = some e) (hg : e.q.grp = some g)
    (hl : e.q.line = some (va, bs)) (hw : e.q.wait = .none) (hs : e.q.stopped = false) (hk : g.slots[g.done]? = some k)
    (hd : decodeUnder (e.table s) (lineSlot bs k) = some i) : s.nextMember id = some { slot := k, word := lineSlot bs k, ins := i } := by
  simp [State.nextMember, he, hg, hl, hw, hs, hk, hd]

theorem State.turn_member {m : Member} (h : (s.prepare id).nextMember id = some m) :
    s.turn id = finishMember id (exec m.ins ((s.prepare id).enterMember id m)) := by
  simp only [State.turn, h]

/-! ### A completed group -/

variable {q : Quire} {g : Group} (hq : FMap.find s.quires id = some q) (hg : q.grp = some g) (hc : g.committed = false)
include hq hg hc

/-- A group without a commit point leaves its quire at the next group, its registers as they stand. -/
theorem State.finishGroup_uncommitted : ∃ q', s.finishGroup id = s.setQuire id q' ∧ q'.pc = q.npc ∧ q'.grp = none ∧ q'.regs = q.regs := by
  simp only [State.finishGroup, hq, hg, hc, Bool.false_eq_true, if_false]
  refine ⟨_, rfl, ?_⟩
  cases q.resumed with
  | none => cases q.stopped <;> exact ⟨rfl, rfl, rfl⟩
  | some r =>
    dsimp only
    cases lineVa q.npc == r.2.1 <;> cases q.stopped <;> exact ⟨rfl, rfl, rfl⟩

theorem State.afterMember_finishes (hw : q.wait = .none) (hd : g.slots.length ≤ g.done) (ho : g.owed = none) (hstep : q.stepping = false)
    (hstack : q.regs.stack.length ≤ 32) : s.afterMember id = s.finishGroup id := by
  simp [State.afterMember, hq, hg, hc, hw, hd, ho, hstep, Nat.not_lt.2 hstack]

end

end Sys2Proof.Machine

namespace Sys2Proof.Claims
open Sys2Proof.Machine

/-- Settles O53: a step is what its chosen mover does; a quire's turn comes to the member of its next slot, and a group that is complete after it leaves
the PC at the next. -/
theorem aStepRunsTheDecodedInstruction : Obligations.AStepRunsTheDecodedInstruction := by
  intro s
  refine ⟨?quire, fun ev i h hrow => (step_event h).trans (Event.run_row hrow _), fun k h => step_evict h,
    fun i l h hn hi => (step_agenda h).trans (State.external_row hn hi)⟩
  intro id e g va bs k i h u m he hg hl hw hs hk hd
  have hstep : step s = finishMember id (exec i (u.enterMember id m)) :=
    (step_quire h).trans (State.turn_member (State.nextMember_slot he hg hl hw hs hk hd))
  refine ⟨hstep, State.enterMember_cur u id m, ⟨e.q.entering m, State.find_enterMember (State.envOf_quire he).1 m, rfl, ?_, rfl, rfl, rfl⟩, ?_⟩
  · rw [Quire.entering, hg]
    rfl
  intro t q g' ht hq hgrp hwait hdone howed hcommitted hstepping hstack
  obtain ⟨q', hfin, hpc, hnone, hregs⟩ := State.finishGroup_uncommitted hq hgrp hcommitted
  have hafter : t.afterMember id = t.setQuire id q' :=
    (State.afterMember_finishes hq hgrp hcommitted hwait hdone howed hstepping hstack).trans hfin
  refine ⟨t.setQuire id q', q', ?_, ?_, hpc, hnone, hregs, rfl⟩
  · rw [hstep, finishMember_next ht, hafter]
  · exact FMap.find_insert_self _ _ _

end Sys2Proof.Claims

/-! PROOFS. What a register write changes in a register file, and what the delivery of results leaves alone (R78, R81, R87, R91). -/
namespace Sys2Proof.Machine

/-! ### Register writes -/

/-- A scalar write changes the scalars, the handler's bank and their marks. -/
theorem Regs.sput_eq (r : Regs) (n : Nat) (x : W64) (bad : Bool) :
    ∃ t marks bank p, r.sput n x bad = { r with s := t, sbad := marks, handler := bank, poison := p } := by
  unfold Regs.sput
  split
  · exact ⟨_, _, _, _, rfl⟩
  split
  · split <;> exact ⟨_, _, _, _, rfl⟩
  · exact ⟨_, _, _, _, rfl⟩

theorem Regs.pput_eq (r : Regs) (k : Nat) (lanes val : LaneSet) : ∃ t, r.pput k lanes val = { r with p := t } := by
  unfold Regs.pput
  split <;> exact ⟨_, rfl⟩

theorem Regs.sget_sput_ne (r : Regs) {k n : Nat} (x : W64) (bad : Bool) (h : k ≠ n) : (r.sput k x bad).sget n = r.sget n := by
  unfold Regs.sput
  split
  · rfl
  split
  next b hb => split <;> simp only [Regs.sget, hb, FMap.val_put_ne _ _ _ h]
  next hb => simp only [Regs.sget, hb, FMap.val_put_ne _ _ _ h]

theorem Regs.pget_pput_ne (r : Regs) {k n : Nat} (lanes val : LaneSet) (h : k ≠ n) : (r.pput k lanes val).pget n = r.pget n := by
  unfold Regs.pput
  split
  · rfl
  · simp only [Regs.pget, FMap.val_put_ne _ _ _ h]

/-- The key of the vector word that a write changes. -/
def RegWrite.vecKey : RegWrite → Option Nat
  | .vec key _ _ => some key
  | _ => none

/-- The scalar that a write changes. -/
def RegWrite.scalar : RegWrite → Option Nat
  | .scal n _ _ => some n
  | _ => none

/-- The predicate that a write changes. -/
def RegWrite.predicate : RegWrite → Option Nat
  | .pred k _ _ => some k
  | _ => none

section
variable (r : Regs) {w : RegWrite}

theorem Regs.vec_apply {n l : Nat} (h : w.vecKey ≠ some (vKey n l)) : ((r.apply w).vget n l, (r.apply w).vbadAt n l) = (r.vget n l, r.vbadAt n l) := by
  cases w with
  | vec key val bad =>
    have hk : key ≠ vKey n l := fun hk => h (congrArg some hk)
    exact Prod.ext (FMap.val_put_ne _ _ _ hk) (setHas_setPut_ne hk.symm)
  | scal k val bad => obtain ⟨_, _, _, _, he⟩ := r.sput_eq k val bad; rw [Regs.apply, he]; rfl
  | pred k lanes val => obtain ⟨_, he⟩ := r.pput_eq k lanes val; rw [Regs.apply, he]; rfl
  | lat => rfl

theorem Regs.sget_apply {n : Nat} (h : w.scalar ≠ some n) : (r.apply w).sget n = r.sget n := by
  cases w with
  | vec => rfl
  | scal k val bad => exact r.sget_sput_ne val bad fun hk => h (congrArg some hk)
  | pred k lanes val => obtain ⟨_, he⟩ := r.pput_eq k lanes val; rw [Regs.apply, he]; rfl
  | lat => rfl

theorem Regs.p_apply (h : w.predicate = none) : (r.apply w).p = r.p := by
  cases w with
  | vec => rfl
  | scal k val bad => obtain ⟨_, _, _, _, he⟩ := r.sput_eq k val bad; rw [Regs.apply, he]
  | pred => cases h
  | lat => rfl

theorem Regs.pget_apply {k : Nat} (h : w.predicate ≠ some k) : (r.apply w).pget k = r.pget k := by
  cases hw : w.predicate with
  | none => rw [Regs.pget, Regs.p_apply r hw, Regs.pget]
  | some n =>
    cases w with
    | pred n' lanes val => exact r.pget_pput_ne lanes val fun hk => h (congrArg some hk)
    | _ => cases hw

/-- A register write changes vectors, scalars, predicates and poison, nothing else of a register file. -/
theorem Regs.apply_eq (w : RegWrite) :
    ∃ v vb s sb p bank m, r.apply w = { r with v := v, vbad := vb, s := s, sbad := sb, p := p, handler := bank, poison := m } := by
  cases w with
  | vec => exact ⟨_, _, _, _, _, _, _, rfl⟩
  | scal k val bad => obtain ⟨_, _, _, _, he⟩ := r.sput_eq k val bad; exact ⟨_, _, _, _, _, _, _, he⟩
  | pred k lanes val => obtain ⟨_, he⟩ := r.pput_eq k lanes val; exact ⟨_, _, _, _, _, _, _, he⟩
  | lat => exact ⟨_, _, _, _, _, _, _, rfl⟩

theorem Regs.applyAll_eq (ws : List RegWrite) :
    ∃ v vb s sb p bank m, r.applyAll ws = { r with v := v, vbad := vb, s := s, sbad := sb, p := p, handler := bank, poison := m } := by
  induction ws generalizing r with
  | nil => exact ⟨_, _, _, _, _, _, _, rfl⟩
  | cons w ws ih =>
    obtain ⟨_, _, _, _, _, _, _, hw⟩ := r.apply_eq w
    obtain ⟨_, _, _, _, _, _, _, hws⟩ := ih (r.apply w)
    exact ⟨_, _, _, _, _, _, _, hws.trans (by rw [hw])⟩

/-- What each of some writes leaves as it was, all of them do. -/
theorem Regs.applyAll_keeps {α : Type} (field : Regs → α) {ws : List RegWrite} (h : ∀ w ∈ ws, ∀ r, field (r.apply w) = field r) :
    field (r.applyAll ws) = field r := by
  induction ws generalizing r with
  | nil => rfl
  | cons w ws ih =>
    have hws : ∀ w ∈ ws, ∀ r, field (r.apply w) = field r := fun w' hw' => h w' (List.mem_cons_of_mem _ hw')
    exact (ih (r.apply w) hws).trans (h w List.mem_cons_self r)

end

/-! ### The writes of a delivery -/

theorem vKey_inj {n m l k : Nat} (hl : l < 256) (hk : k < 256) (h : vKey n l = vKey m k) : n = m ∧ l = k := by
  unfold vKey at h
  omega

theorem LaneSet.mem_list {width l : Nat} {m : LaneSet} : l ∈ LaneSet.list width m ↔ l < width ∧ m.has l = true := by
  simp [LaneSet.list]

theorem LaneSet.has_lt {m : LaneSet} {l : Nat} (h : m.has l = true) : l < 256 := BitVec.lt_of_getLsbD h

/-- A lane's result goes to `words` registers from `n`. -/
theorem mem_vecWrites {n words : Nat} {r : LaneOut} {w : RegWrite} (hwords : words = 1 ∨ words = 2) (h : w ∈ vecWrites n words r) :
    ∃ m, n ≤ m ∧ m < n + words ∧ w.vecKey = some (vKey m r.lane) ∧ w.scalar = none ∧ w.predicate = none := by
  rcases hwords with rfl | rfl
  · obtain rfl := List.mem_singleton.1 h
    exact ⟨n, Nat.le_refl _, by omega, rfl, rfl, rfl⟩
  · rcases List.mem_cons.1 h with rfl | h
    · exact ⟨n, Nat.le_refl _, by omega, rfl, rfl, rfl⟩
    · obtain rfl := List.mem_singleton.1 h
      exact ⟨n + 1, by omega, by omega, rfl, rfl, rfl⟩

/-- A write of a delivery is to a vector destination, in a lane with a result, or to the scalar destination. -/
theorem Env.mem_destWrites {e : Env} {d : Opnd} {words : Nat} {signed : Bool} {rs : List LaneOut} {w : RegWrite} (hwords : words = 1 ∨ words = 2)
    (h : w ∈ e.destWrites d words signed rs) :
    (d.isVec = true ∧ ∃ r ∈ rs, ∃ m, e.firstReg d r.lane ≤ m ∧ m < e.firstReg d r.lane + words
        ∧ w.vecKey = some (vKey m r.lane) ∧ w.scalar = none ∧ w.predicate = none)
      ∨ ∃ hi n, d = .s hi n ∧ w.scalar = some n.toNat ∧ w.vecKey = none ∧ w.predicate = none := by
  cases d with
  | v n =>
    obtain ⟨r, hr, hw⟩ := List.mem_flatMap.1 h
    exact .inl ⟨rfl, r, hr, mem_vecWrites hwords hw⟩
  | x k off =>
    obtain ⟨r, hr, hw⟩ := List.mem_flatMap.1 h
    exact .inl ⟨rfl, r, hr, mem_vecWrites hwords hw⟩
  | s hi n =>
    cases rs with
    | nil => cases h
    | cons r rs =>
      obtain rfl := List.mem_singleton.1 h
      exact .inr ⟨hi, n, rfl, rfl, rfl, rfl⟩
  | l hi n => cases h
  | imm i => cases h

theorem Ty.words_cases (t : Ty) : t.words = 1 ∨ t.words = 2 := by cases t <;> decide

end Sys2Proof.Machine

/-! PROOFS. What a job on registers leaves: its results delivered, its flags raised, its predicate written, and nothing else (R78, R81, R166, R175). -/
namespace Sys2Proof.Machine
open Sys2Proof.Claims

/-! ### The lanes of a job -/

section
variable (e : Env) (j : Job)

/-- Once per quire, every lane has what the lowest that takes effect computes. -/
theorem Env.aluLanes_eq : e.aluLanes j.x j.p (fun _ => j.f e) =
    (e.lanes (e.effect j.x.h)).map fun l => (l, e.srcs j.x j.p (srcLane e j l), lane e j l) := by
  unfold Env.aluLanes lane srcLane
  dsimp only
  split
  next ho =>
    have hlow : LaneSet.lowest e.width (e.effect j.x.h) = (e.lanes (e.effect j.x.h)).head? := rfl
    rw [hlow]
    cases e.lanes (e.effect j.x.h) <;> rfl
  · rfl

/-- The flags that the lanes raise, none of a padding or poisoned lane. -/
def raisedFlags : List LaneFl :=
  (((e.lanes (e.effect j.x.h)).map fun l => (l, e.srcs j.x j.p (srcLane e j l), lane e j l)).filter fun r =>
    !e.view.padding.has r.1 && !r.2.1.bad && r.2.2.fl != 0).map fun r => { lane := r.1, fl := r.2.2.fl }

theorem raisedFlags_fl {x : LaneFl} (h : x ∈ raisedFlags e j) : ∃ l ∈ e.lanes (e.effect j.x.h), x.fl = laneFlags e j l := by
  simp only [raisedFlags, List.mem_map, List.mem_filter, Bool.and_eq_true, Bool.not_eq_true'] at h
  obtain ⟨_, ⟨⟨l, hl, rfl⟩, ⟨hpad, hbad⟩, _⟩, rfl⟩ := h
  refine ⟨l, hl, ?_⟩
  rw [laneFlags, hpad, poisoned, hbad]
  rfl

theorem flUnion_raisedFlags : flUnion (raisedFlags e j) = flags e j := by
  unfold flUnion raisedFlags flags
  rw [List.foldl_map, List.foldl_filter, List.foldl_map]
  congr
  funext a l
  unfold laneFlags poisoned
  rw [← Bool.not_or]
  cases e.view.padding.has l || (e.srcs j.x j.p (srcLane e j l)).bad with
  | true => simp
  | false =>
    by_cases h : (lane e j l).fl = 0
    · simp [h]
    · exact if_pos (bne_iff_ne.2 h)

end

theorem Env.flagTrap_none {e : Env} {l : List LaneFl} (h : ∀ x ∈ l, x.fl &&& e.enables = 0) : e.flagTrap l = none := by
  have hbad : ∀ m : LaneSet, l.foldl (fun m x => if x.fl &&& e.enables = 0 then m else m ||| LaneSet.one x.lane) m = m := by
    induction l with
    | nil => exact fun m => rfl
    | cons x l ih =>
      intro m
      rw [List.foldl_cons, if_pos (h x List.mem_cons_self)]
      exact ih (fun y hy => h y (List.mem_cons_of_mem _ hy)) m
  unfold Env.flagTrap
  rw [hbad 0]
  rfl

@[simp] theorem Quire.raise_zero (q : Quire) : q.raise 0 = q := by simp [Quire.raise]

/-- The quire after a job: its flags raised, the predicate of a comparison written, its results delivered where it has a destination. -/
def computed (e : Env) (j : Job) (pd : Option Nat) (q : Quire) : Quire :=
  let q := q.raise (flags e j)
  let q := match pd with
    | some k => { q with regs := q.regs.pput k (e.effect j.x.h) (hits e j) }
    | none => q
  if j.p.td.isSome then e.deliver j.x.h j.x.d (words j.p) (j.p.td == some .i32) (outs e j) q else q

/-- A job that raises no trapped flag computes. -/
theorem Env.alu_untrapped {e : Env} {j : Job} (h : Untrapped e j) (s : State) (pd : Option Nat) :
    e.alu s j.x j.p pd (fun _ => Srcs.bad) (fun _ => j.f e) = .ok (s.upd e (computed e j pd)) := by
  have hnone : e.flagTrap (raisedFlags e j) = none := Env.flagTrap_none fun x hx => by
    obtain ⟨l, hl, hfl⟩ := raisedFlags_fl e j hx
    rw [hfl, h l hl]
  have hraise : ∀ q : Quire, (if flags e j = 0 then q else q.raise (flags e j)) = q.raise (flags e j) := fun q => by
    split
    next h0 => rw [h0, Quire.raise_zero]
    · rfl
  unfold Env.alu
  rw [Env.aluLanes_eq]
  extract_lets m rs fl width out
  have hfl : fl = raisedFlags e j := rfl
  have hpick : rs.foldl (fun (acc : LaneSet) r => if r.2.2.p then acc ||| LaneSet.one r.1 else acc) 0 = hits e j := List.foldl_map
  have hout : out = outs e j := List.map_map
  have hwidth : width = Claims.words j.p := by
    unfold width Claims.words
    cases j.p.td <;> rfl
  rw [hfl, hnone]
  refine congrArg (fun f => Except.ok (s.upd e f)) (funext fun q => ?_)
  rw [flUnion_raisedFlags, hraise, hpick, hout, hwidth]
  unfold computed
  cases pd <;> cases j.p.td <;> rfl

/-! ### The writes of a job -/

/-- The register writes of a job: the predicate of a comparison, then its results, where it has a destination and writes back. -/
def jobWrites (e : Env) (j : Job) (pd : Option Nat) : List RegWrite :=
  (pd.map fun k => RegWrite.pred k (e.effect j.x.h) (hits e j)).toList
    ++ if j.p.td.isSome && !j.x.h.nowb then e.destWrites j.x.d (words j.p) (j.p.td == some .i32) (outs e j) else []

theorem Regs.applyAll_append (r : Regs) (ws ws' : List RegWrite) : r.applyAll (ws ++ ws') = (r.applyAll ws).applyAll ws' := List.foldl_append

/-- A job changes registers and latches of its quire, latches only where its form has one. -/
theorem computed_eq (e : Env) (j : Job) (pd : Option Nat) (q : Quire) :
    ∃ l, computed e j pd q = { q with regs := (q.raise (flags e j)).regs.applyAll (jobWrites e j pd), latches := l }
      ∧ (j.x.h.lat = false → l = q.latches) := by
  unfold computed jobWrites Env.deliver
  rw [Regs.applyAll_append]
  cases j.x.h.lat with
  | false => cases pd <;> cases j.p.td <;> cases j.x.h.nowb <;> exact ⟨_, rfl, fun _ => rfl⟩
  | true => cases pd <;> cases j.p.td <;> cases j.x.h.nowb <;> exact ⟨_, rfl, fun h => nomatch h⟩

section
variable {e : Env} {j : Job} {pd : Option Nat} {w : RegWrite}

theorem mem_jobWrites (h : w ∈ jobWrites e j pd) :
    (∃ k, pd = some k ∧ w.predicate = some k ∧ w.vecKey = none ∧ w.scalar = none)
      ∨ j.x.h.nowb = false ∧ w ∈ e.destWrites j.x.d (words j.p) (j.p.td == some .i32) (outs e j) := by
  rcases List.mem_append.1 h with hp | hd
  · obtain ⟨k, hk, rfl⟩ := Option.map_eq_some_iff.1 (Option.mem_toList.1 hp)
    exact .inl ⟨k, hk, rfl, rfl, rfl⟩
  · split at hd
    next hc => exact .inr ⟨by simpa using (Bool.and_eq_true_iff.1 hc).2, hd⟩
    · cases hd

theorem words_cases (p : AluSpec) : words p = 1 ∨ words p = 2 := by
  unfold words
  cases p.td with
  | none => exact .inl rfl
  | some t => exact Ty.words_cases t

theorem named_of_firstReg {n l : Nat} (hwb : j.x.h.nowb = false) (hv : j.x.d.isVec = true) (hl : l ∈ e.lanes (e.effect j.x.h))
    (h1 : e.firstReg j.x.d l ≤ n) (h2 : n < e.firstReg j.x.d l + words j.p) : named e j n l = true := by
  obtain ⟨hlt, heff⟩ := LaneSet.mem_list.1 hl
  unfold named
  unfold Env.firstReg at h1 h2
  rw [hwb, heff, decide_eq_true hlt]
  cases hd : j.x.d with
  | v k => rw [hd] at h1 h2; exact decide_eq_true ⟨h1, h2⟩
  | x k off => rw [hd] at h1 h2; exact decide_eq_true ⟨h1, h2⟩
  | _ => rw [hd] at hv; cases hv

theorem jobWrites_vecKey {n l : Nat} (hl : l < 256) (hn : named e j n l = false) (h : w ∈ jobWrites e j pd) : w.vecKey ≠ some (vKey n l) := by
  intro hkey
  rcases mem_jobWrites h with ⟨k, _, _, hv, _⟩ | ⟨hwb, hw⟩
  · rw [hv] at hkey
    cases hkey
  rcases Env.mem_destWrites (words_cases j.p) hw with ⟨hv, r, hr, m, h1, h2, hm, _⟩ | ⟨_, _, _, _, hv, _⟩
  · obtain ⟨k, hk, rfl⟩ := List.mem_map.1 hr
    obtain ⟨rfl, rfl⟩ := vKey_inj (LaneSet.has_lt (LaneSet.mem_list.1 hk).2) hl (Option.some.inj (hm.symm.trans hkey))
    rw [named_of_firstReg hwb hv hk h1 h2] at hn
    cases hn
  · rw [hv] at hkey
    cases hkey

theorem jobWrites_scalar {n : Nat} (hn : namedScalar j n = false) (h : w ∈ jobWrites e j pd) : w.scalar ≠ some n := by
  intro hkey
  rcases mem_jobWrites h with ⟨k, _, _, _, hs⟩ | ⟨hwb, hw⟩
  · rw [hs] at hkey
    cases hkey
  rcases Env.mem_destWrites (words_cases j.p) hw with ⟨_, _, _, _, _, _, _, hs, _⟩ | ⟨hi, k, hd, hs, _⟩
  · rw [hs] at hkey
    cases hkey
  · simp [namedScalar, hwb, hd, Option.some.inj (hs.symm.trans hkey)] at hn

theorem jobWrites_predicate (h : w ∈ jobWrites e j pd) {k : Nat} (hk : w.predicate = some k) : pd = some k := by
  rcases mem_jobWrites h with ⟨k', hpd, hp, _⟩ | ⟨_, hw⟩
  · exact hpd.trans (hp.symm.trans hk)
  · rcases Env.mem_destWrites (words_cases j.p) hw with ⟨_, _, _, _, _, _, _, _, hp⟩ | ⟨_, _, _, _, _, hp⟩ <;> exact absurd (hp.symm.trans hk) (by simp)

end

/-! ### The frame -/

/-- No instruction on registers alone is a comparison. -/
theorem cmpJob_of_jobOf {i : Instr} {j : Job} (hj : jobOf i = some j) : cmpJob i = none := by
  cases i <;> cases hj <;> rfl

theorem jobOf_of_job {i : Instr} {j : Job}
    (hj : intJob i = some j ∨ bitJob i = some j ∨ floatJob i = some j ∨ doubleJob i = some j ∨ convertJob i = some j) : jobOf i = some j := by
  rcases hj with h | h | h | h | h <;> cases i <;> cases h <;> rfl

theorem State.upd_onlyQuire (s : State) (e : Env) (f : Quire → Quire) : OnlyQuire s (s.upd e f) e.id :=
  ⟨fun _ hk => State.find_upd_ne s e f hk.symm, rfl, rfl, rfl, rfl, rfl, rfl, rfl, rfl⟩

/-- An instruction on registers or a comparison comes to its computation. -/
theorem exec_computes {s : State} {e : Env} {i : Instr} {j : Job} (hj : jobOf i = some j ∨ ∃ pd, cmpJob i = some (j, pd)) (hex : Executes s e i)
    (hun : Untrapped e j) : exec i s = .next (s.upd e (computed e j ((cmpJob i).map Prod.snd))) := by
  rcases hj with hj | ⟨pd, hj⟩
  · rw [exec_of_job hj, cmpJob_of_jobOf hj]
    exact State.perform_ok hex (Env.alu_untrapped hun s none)
  · rw [exec_of_cmpJob hj, hj]
    exact State.perform_ok hex (Env.alu_untrapped hun s (some pd))

end Sys2Proof.Machine

namespace Sys2Proof.Claims
open Sys2Proof.Machine

/-- Settles O49: the quire's registers are those of before with the flags raised, then the job's writes, each of which leaves what it does not name. -/
theorem registerInstructionsFrame : Obligations.RegisterInstructionsFrame := by
  intro s t e i j hj hex hun ht
  have hjob : jobOf i = some j ∨ ∃ pd, cmpJob i = some (j, pd) := by
    rcases hj with h | h | h | h | h | h
    · exact .inl (jobOf_of_job (.inl h))
    · exact .inl (jobOf_of_job (.inr (.inl h)))
    · exact .inl (jobOf_of_job (.inr (.inr (.inl h))))
    · exact .inl (jobOf_of_job (.inr (.inr (.inr (.inl h)))))
    · exact .inl (jobOf_of_job (.inr (.inr (.inr (.inr h)))))
    · exact .inr h
  cases (exec_computes hjob hex hun).symm.trans ht
  generalize hpd : (cmpJob i).map Prod.snd = pd
  obtain ⟨l, hq, hl⟩ := computed_eq e j pd e.q
  have hr : (computed e j pd e.q).regs = (e.q.raise (flags e j)).regs.applyAll (jobWrites e j pd) := by rw [hq]
  have hfind : FMap.find s.quires e.id = some e.q := by
    obtain ⟨hfind, hid⟩ := State.envOf_quire hex.1
    rwa [hid]
  refine ⟨State.upd_onlyQuire s e _, computed e j pd e.q, State.find_upd hfind _, ?frame, fun n k hk hn => ?vec, fun n hn => ?scal,
    ?flags, fun hc => ?p, fun k n hc hn => ?pget, fun hlat => ?lat⟩
  case frame =>
    obtain ⟨_, _, _, _, _, _, _, ha⟩ := Regs.applyAll_eq (e.q.raise (flags e j)).regs (jobWrites e j pd)
    rw [hq, ha]
    exact ⟨rfl, rfl, rfl, rfl, rfl, rfl, rfl, rfl, rfl, rfl, rfl, rfl, rfl, rfl, rfl, rfl, rfl, rfl, rfl⟩
  case vec =>
    rw [hr]
    exact Prod.mk.inj (Regs.applyAll_keeps _ (fun r => (r.vget n k, r.vbadAt n k)) fun w hw r => r.vec_apply (jobWrites_vecKey hk hn hw))
  case scal =>
    rw [hr]
    exact Regs.applyAll_keeps _ (·.sget n) fun w hw r => r.sget_apply (jobWrites_scalar hn hw)
  case flags =>
    obtain ⟨_, _, _, _, _, _, _, ha⟩ := Regs.applyAll_eq (e.q.raise (flags e j)).regs (jobWrites e j pd)
    rw [hr, ha]
    rfl
  case p =>
    rw [hc] at hpd
    rw [hr]
    refine Regs.applyAll_keeps _ (·.p) fun w hw r => r.p_apply ?_
    cases hk : w.predicate with
    | none => rfl
    | some k => cases hpd.trans (jobWrites_predicate hw hk)
  case pget =>
    rw [hc] at hpd
    rw [hr]
    refine Regs.applyAll_keeps _ (·.pget n) fun w hw r => r.pget_apply fun hk => ?_
    exact hn (Option.some.inj (hpd.trans (jobWrites_predicate hw hk))).symm
  case lat => rw [hq]; exact hl hlat

end Sys2Proof.Claims

/-! PROOFS. How the lanes of the path split, and what calls, returns and the other instructions of group 0x0 do (R130, R134, R139–R149, R440). -/
namespace Sys2Proof.Machine
open Sys2Proof.Claims (Branch branchOf waitsAt diverged Fresh)

/-- A computation that traps takes its trap. -/
theorem State.perform_trapRes {s u : State} {e : Env} {i : Instr} {code detail : Nat} (hex : Executes s e i) {body : Env → State → Res State}
    (hb : body e s = e.trapRes u code detail) : s.perform i body = .next (u.takeTrap e.id (e.trapAll code detail) false) :=
  State.perform_halt hex hb

/-! ### The split of R130 -/

section
variable {e : Env} {s : State} {taken : LaneSet} {pc : W64} {rdisp : BitVec 24}

theorem Env.split_whole (ht : taken = e.path) : e.split s taken pc rdisp = .ok (s.upd e fun q => q.goto pc true) := if_pos ht

theorem Env.split_none (hp : e.path ≠ 0) (ht : taken = 0) : e.split s taken pc rdisp = .ok s := by
  subst ht
  exact (if_neg hp.symm).trans (if_pos rfl)

section
variable (hall : taken ≠ e.path) (hnone : taken ≠ 0)
include hall hnone

theorem Env.split_noReconvergence (hr : rdisp = 0) : e.split s taken pc rdisp = e.trapRes s 0x06 1 :=
  (if_neg hall).trans ((if_neg hnone).trans (if_pos hr))

variable (hr : rdisp ≠ 0)
include hr

theorem Env.split_waiting (hw : waitsAt e (e.target rdisp) = true) :
    e.split s taken pc rdisp = .ok (s.upd e (diverged ⟨s, taken, pc, rdisp⟩ [])) :=
  (if_neg hall).trans ((if_neg hnone).trans ((if_neg hr).trans (if_pos hw)))

variable (hw : waitsAt e (e.target rdisp) = false)
include hw

theorem Env.split_pushing : e.split s taken pc rdisp =
    if 1024 ≤ e.q.regs.stack.length then e.trapRes s 0x06 4
    else if e.q.fall = e.target rdisp then .ok (s.upd e fun q => diverged ⟨s, taken, pc, rdisp⟩ [.reconv (e.target rdisp) q.regs.path none] q)
    else .ok (s.upd e fun q =>
      diverged ⟨s, taken, pc, rdisp⟩ [.reconv (e.target rdisp) q.regs.path (some (e.q.fall, q.regs.path &&& ~~~taken))] q) :=
  (if_neg hall).trans ((if_neg hnone).trans ((if_neg hr).trans (if_neg (ne_true_of_eq_false hw))))

theorem Env.split_full (hlen : 1024 ≤ e.q.regs.stack.length) : e.split s taken pc rdisp = e.trapRes s 0x06 4 :=
  (Env.split_pushing hall hnone hr hw).trans (if_pos hlen)

variable (hlen : e.q.regs.stack.length < 1024)
include hlen

theorem Env.split_fallsThere (hf : e.q.fall = e.target rdisp) : e.split s taken pc rdisp =
    .ok (s.upd e fun q => diverged ⟨s, taken, pc, rdisp⟩ [.reconv (e.target rdisp) q.regs.path none] q) :=
  (Env.split_pushing hall hnone hr hw).trans ((if_neg (Nat.not_le.2 hlen)).trans (if_pos hf))

theorem Env.split_fallsElsewhere (hf : e.q.fall ≠ e.target rdisp) : e.split s taken pc rdisp = .ok (s.upd e fun q =>
    diverged ⟨s, taken, pc, rdisp⟩ [.reconv (e.target rdisp) q.regs.path (some (e.q.fall, q.regs.path &&& ~~~taken))] q) :=
  (Env.split_pushing hall hnone hr hw).trans ((if_neg (Nat.not_le.2 hlen)).trans (if_neg hf))

end
end

/-! ### Which instructions split -/

/-- The one PC that the lanes of a set hold, none of them poisoned. -/
theorem Env.pcOperand_same {e : Env} {m : LaneSet} {o : Opnd} {l : Nat} {ls : List Nat} (hp : e.poisoned m o .n64 = 0) (hl : e.lanes m = l :: ls)
    (hall : (ls.all fun k => (e.readTy o .n64 k).n == (e.readTy o .n64 l).n) = true) (s : State) :
    e.pcOperand s m o = .ok (BitVec.ofNat 64 (e.readTy o .n64 l).n) := by
  unfold Env.pcOperand
  simp only [hp, hl]
  exact if_pos hall

/-- No lane in which the operand is read. -/
theorem Env.pcOperand_noLane {e : Env} {m : LaneSet} {o : Opnd} (hp : e.poisoned m o .n64 = 0) (hl : e.lanes m = []) (s : State) :
    e.pcOperand s m o = .ok 0 := by
  unfold Env.pcOperand
  simp only [hp, hl]
  rfl

theorem Env.brx_target {e : Env} {s : State} {h : Hdr} {f : FmtC} {pc : W64} (hp : e.path ≠ 0)
    (hpc : e.pcOperand s (e.effect h) f.a = .ok pc) : e.brx s h f = e.split s (e.effect h) pc f.rdisp := by
  unfold Env.brx
  dsimp only
  split
  next h0 => exact (Env.split_none hp h0).symm
  next => rw [hpc]

theorem Env.brc_clean {e : Env} {h : Hdr} {f : FmtC} {t : Ty} (ht : brcType f.m = some t) (hp : e.poisoned (e.effect h) f.a t = 0) (s : State) :
    e.brc s h f = e.split s (e.pick (e.effect h) fun l => !(e.readTy f.a t l).bad && brcHolds t (f.m.toNat / 4096) (e.readTy f.a t l).n)
      (e.target f.tdisp) f.rdisp := by
  unfold Env.brc Env.brcTaken
  simp only [ht, hp]
  rfl

theorem Env.loop_vector {e : Env} {h : Hdr} {f : FmtC} (hv : f.a.isScal = false) (hp : e.poisoned (e.effect h) f.a .n32 = 0) (s : State) :
    e.loop s h f = e.split (s.upd e fun q => { q with regs := q.regs.applyAll (e.destWrites f.a 1 false (e.loopCounts h f)) }) (e.loopTaken h f)
      (e.target f.tdisp) f.rdisp := by
  unfold Env.loop
  dsimp only
  split
  next hs => rw [hs] at hv; cases hv
  next => exact if_neg fun hne => hne hp

/-- BRA, BRC, BRX and the vector LOOP are the split of their lanes. -/
theorem exec_branch {s : State} {e : Env} {i : Instr} {b : Branch} (hb : branchOf s e i = some b) (hp : e.path ≠ 0) :
    ∃ body, exec i s = s.perform i body ∧ body e s = e.split b.from' b.t b.pc b.rdisp := by
  unfold branchOf at hb
  split at hb
  case h_1 h f =>
    cases hb
    exact ⟨fun e s => e.split s (e.effect h) (e.target f.tdisp) f.rdisp, rfl, rfl⟩
  case h_2 h f =>
    obtain ⟨t, ht, hb⟩ := Option.bind_eq_some_iff.1 hb
    split at hb
    next hclean => cases hb; exact ⟨fun e s => e.brc s h f, rfl, Env.brc_clean ht hclean s⟩
    next => cases hb
  case h_3 h f =>
    split at hb
    next hclean =>
      split at hb
      next hl => cases hb; exact ⟨fun e s => e.brx s h f, rfl, Env.brx_target hp (Env.pcOperand_noLane hclean hl s)⟩
      next l ls hl =>
        split at hb
        next hall => cases hb; exact ⟨fun e s => e.brx s h f, rfl, Env.brx_target hp (Env.pcOperand_same hclean hl hall s)⟩
        next => cases hb
    next => cases hb
  case h_4 h f =>
    split at hb
    next hc => cases hb; exact ⟨fun e s => e.loop s h f, rfl, Env.loop_vector hc.1 hc.2 s⟩
    next => cases hb
  case h_5 => cases hb

end Sys2Proof.Machine

namespace Sys2Proof.Claims
open Sys2Proof.Machine

/-- Settles O12: each of the four instructions is the split of its lanes, and each case of the statement is one case of the split. -/
theorem branchesSplitTheLanes : Obligations.BranchesSplitTheLanes := by
  intro s e i b hb hex hpath rpc
  obtain ⟨body, hexec, hsplit⟩ := exec_branch hb hpath
  have goes : ∀ {t}, e.split b.from' b.t b.pc b.rdisp = .ok t → exec i s = .next t := fun ht =>
    hexec.trans (State.perform_ok hex (hsplit.trans ht))
  have traps : ∀ {d}, e.split b.from' b.t b.pc b.rdisp = e.trapRes b.from' 0x06 d →
      exec i s = .next (b.from'.takeTrap e.id (e.trapAll 0x06 d) false) := fun ht => hexec.trans (State.perform_trapRes hex (hsplit.trans ht))
  exact ⟨fun hall => goes (Env.split_whole hall), fun hnone => goes (Env.split_none hpath hnone), fun hall hnone =>
    ⟨fun hr => traps (Env.split_noReconvergence hall hnone hr), fun hr hw => goes (Env.split_waiting hall hnone hr hw),
      fun hr hw hlen => traps (Env.split_full hall hnone hr hw hlen), fun hr hw hlen hf => goes (Env.split_fallsThere hall hnone hr hw hlen hf),
      fun hr hw hlen hf => goes (Env.split_fallsElsewhere hall hnone hr hw hlen hf)⟩⟩

end Sys2Proof.Claims

namespace Sys2Proof.Machine
open Sys2Proof.Claims (Fresh)

/-! ### Once per quire, under a guard that is true in every lane -/

/-- One operand that is fresh is not poisoned where a lane contributes. -/
theorem Env.poisoned_false {e : Env} {h : Hdr} {v : Val} (hv : Fresh e h [v]) : (v.bad && e.contrib h != 0) = false := by
  rw [Bool.and_comm, ← hv, Env.poisonOnce, List.any_cons, List.any_nil, Bool.or_false]

section
variable {e : Env} {s : State} {h : Hdr} {f : FmtC} (hall : e.uniform h = .all)
include hall

theorem Env.onceUniform_all (k : Res State) : e.onceUniform s h k = k := by
  rw [Env.onceUniform, hall]

theorem Env.callx_same {l : Nat} {ls : List Nat} (hp : e.poisoned (e.effect h) f.a .n64 = 0) (hl : e.lanes (e.effect h) = l :: ls)
    (hsame : ∀ k ∈ ls, (e.readTy f.a .n64 k).n = (e.readTy f.a .n64 l).n) :
    e.callx s h f = e.callTo s f (BitVec.ofNat 64 (e.readTy f.a .n64 l).n) := by
  rw [Env.callx, Env.onceUniform_all hall, Env.pcOperand_same hp hl (List.all_eq_true.2 fun k hk => beq_iff_eq.2 (hsame k hk))]

section
variable (hfresh : Fresh e h [e.readOnce h f.a .n64])
include hfresh

/-- Without poison, RET looks at the top of the stack alone. -/
theorem Env.ret_fresh : e.ret s h f = match e.q.regs.stack with
    | .call :: l => .ok (s.upd e fun q =>
        ({ q with regs := { q.regs with stack := l } } : Quire).goto (BitVec.ofNat 64 (e.readOnce h f.a .n64).n) false)
    | _ => e.trapRes s 0x06 3 := by
  rw [Env.ret, Env.onceUniform_all hall]
  exact if_neg (ne_true_of_eq_false (Env.poisoned_false hfresh))

theorem Env.ret_call {l : List StackEntry} (hs : e.q.regs.stack = .call :: l) : e.ret s h f =
    .ok (s.upd e fun q => ({ q with regs := { q.regs with stack := l } } : Quire).goto (BitVec.ofNat 64 (e.readOnce h f.a .n64).n) false) := by
  rw [Env.ret_fresh hall hfresh, hs]

theorem Env.ret_noCall (hs : e.q.regs.stack.head? ≠ some .call) : e.ret s h f = e.trapRes s 0x06 3 := by
  rw [Env.ret_fresh hall hfresh]
  split
  next l hl => rw [hl] at hs; exact absurd rfl hs
  next => rfl

theorem Env.loop_scalar {w : BitVec 4} {n : BitVec 7} (ha : f.a = .s w n) : e.loop s h f =
    .ok (s.upd e fun q =>
      let count := BitVec.ofNat 64 (e.readOnce h f.a .n64).n - 1
      let q := { q with regs := q.regs.sput n.toNat count (e.readOnce h f.a .n64).bad }
      if count ≠ 0 ∧ (e.readOnce h f.a .n64).bad = false then q.goto (e.target f.tdisp) true else q) := by
  unfold Env.loop
  rw [ha] at hfresh ⊢
  dsimp only
  rw [Env.onceUniform_all hall]
  simp only [← Bool.not_eq_true']
  exact if_neg (ne_true_of_eq_false (Env.poisoned_false hfresh))

end
end

theorem Env.callTo_room {e : Env} {s : State} {f : FmtC} {pc : W64} (hlen : e.q.regs.stack.length < 1024) : e.callTo s f pc =
    .ok (s.upd e fun q =>
      ({ q with regs := { (q.regs.sput (f.m.toNat % 128) e.q.fall false) with stack := .call :: q.regs.stack } } : Quire).goto pc true) :=
  if_neg (Nat.not_le.2 hlen)

end Sys2Proof.Machine

namespace Sys2Proof.Claims
open Sys2Proof.Machine

/-- Settles O13: under a uniform guard each instruction is its own computation, whose one path the hypotheses choose. -/
theorem callsReturnsAndCountedLoops : Obligations.CallsReturnsAndCountedLoops := by
  intro s e h f hall
  refine ⟨fun hex hlen => State.perform_ok (body := fun e s => e.onceUniform s h (e.callTo s f (e.target f.tdisp))) hex
      ((Env.onceUniform_all hall _).trans (Env.callTo_room hlen)),
    fun hex hlen hp l ls hl hsame => State.perform_ok (body := fun e s => e.callx s h f) hex
      ((Env.callx_same hall hp hl hsame).trans (Env.callTo_room hlen)),
    fun l hex hfresh hs => State.perform_ok (body := fun e s => e.ret s h f) hex (Env.ret_call hall hfresh hs),
    fun hex hfresh hs => State.perform_trapRes (body := fun e s => e.ret s h f) hex (Env.ret_noCall hall hfresh hs),
    fun w n hex hfresh ha => State.perform_ok (body := fun e s => e.loop s h f) hex (Env.loop_scalar hall hfresh ha)⟩

end Sys2Proof.Claims

namespace Sys2Proof.Machine

/-! ### EXIT, BKPT and SIGCK -/

section
variable {e : Env} {s : State}

theorem Env.exit_eq (h : Hdr) : e.exit s h = .ok (if e.effect h = 0 then s else (s.commit e.id).upd e fun q =>
    { q with regs := q.regs.dropLanes (e.effect h), queries := q.queries.filter fun r => !(e.effect h).has r.1 }) := by
  unfold Env.exit
  dsimp only
  split <;> rfl

theorem exec_yield {h : Hdr} {f : FmtC} (hex : Executes s e (.yield h f)) :
    exec (.yield h f) s = .next (if e.effect h = 0 then s else s.upd e fun q =>
      { q with age := s.clock, passed := 0, promoted := none, yielded := some s.clock, sealing := none }) := by
  unfold exec execYield
  exact State.perform_ok hex rfl

theorem Env.bkpt_noLane {h : Hdr} (f : FmtC) (h0 : e.effect h = 0) : e.bkpt s h f = .ok s := if_pos h0

theorem Env.bkpt_trap {h : Hdr} (f : FmtC) (h0 : e.effect h ≠ 0) (hd : e.ctx.debugBkpt = false) :
    e.bkpt s h f = e.trapRes s 0x19 (f.m.toNat % 256) :=
  (if_neg h0).trans (if_neg (ne_true_of_eq_false hd))

/-- SIGCK that only clears, or that finds signature and mask as they should be, starts both anew. -/
theorem Env.sigck_passes {f : FmtC} (hm : e.handlerMode = false)
    (hc : f.m.getLsbD 0 = true ∨
      (e.q.regs.sig = f.tdisp ++ f.rdisp.extractLsb' 16 8 ∧ e.q.regs.path &&& ~~~e.q.regs.padding = e.q.regs.latchedMask)) :
    e.sigck s f = .ok (s.upd e fun q =>
      { q with regs := { q.regs with sig := 0, latchedMask := e.q.regs.path &&& ~~~e.q.regs.padding },
               sigFails := if q.sigFails.2 == (q.selfPc, e.q.regs.entry) then (0, 0, 0) else q.sigFails }) := by
  refine (if_neg (ne_true_of_eq_false hm)).trans (if_neg ?_)
  rcases hc with hc | ⟨hsig, hmask⟩
  · rw [hc]
    exact Bool.false_ne_true
  · rw [if_pos hsig, if_pos hmask, Bool.and_eq_true]
    exact fun h => Bool.false_ne_true h.2

end
end Sys2Proof.Machine

namespace Sys2Proof.Claims
open Sys2Proof.Machine

/-- Settles O14: NOP and RECONV are updates of their quire; each of the others is its own computation, whose one path the hypotheses choose. -/
theorem pathInstructionsAct : Obligations.PathInstructionsAct := by
  intro s e h f
  exact ⟨fun hex => State.local_executes hex _, fun hex => State.local_executes hex _,
    fun hex => State.perform_ok (body := fun e s => e.exit s h) hex (Env.exit_eq h),
    exec_yield, fun hex h0 => State.perform_ok (body := fun e s => e.bkpt s h f) hex (Env.bkpt_noLane f h0),
    fun hex h0 hd => State.perform_trapRes (body := fun e s => e.bkpt s h f) hex (Env.bkpt_trap f h0 hd),
    fun hex hm hc => State.perform_ok (body := fun e s => e.sigck s f) hex (Env.sigck_passes hm hc)⟩

end Sys2Proof.Claims

/-! PROOFS. What lets a stalled quire go on (R73, R119, R126, R219, R316, R388). -/
namespace Sys2Proof.Machine

theorem State.forQuire_env {s : State} {id : Nat} {e : Env} (he : s.envOf id = some e) (k : Env → State) : s.forQuire id k = k e := by
  rw [State.forQuire, he]

section
variable {s t u : State} {id : Nat} {e : Env} (he : s.envOf id = some e)
include he

/-! ### CLAIM (R219) -/

section
variable {n seq : Nat} (hw : e.q.wait = .stall (.claim n seq))
include hw

theorem State.grantClaim_eq : s.grantClaim id =
    if s.claimBefore e seq = true ∨ s.poolRows e.g.pcore e.q.part < (n - e.q.claimed) * e.words * 16 then s
    else s.upd e fun q => { q with wait := .none, claimed := n } := by
  rw [State.grantClaim, State.forQuire_env he, hw]

theorem State.grantClaim_stalls (h : s.claimBefore e seq = true ∨ s.poolRows e.g.pcore e.q.part < (n - e.q.claimed) * e.words * 16) :
    s.grantClaim id = s :=
  (State.grantClaim_eq he hw).trans (if_pos h)

theorem State.grantClaim_grants (hb : s.claimBefore e seq = false) (hr : (n - e.q.claimed) * e.words * 16 ≤ s.poolRows e.g.pcore e.q.part) :
    s.grantClaim id = s.upd e fun q => { q with wait := .none, claimed := n } :=
  (State.grantClaim_eq he hw).trans (if_neg fun h => h.elim (ne_true_of_eq_false hb) (Nat.not_lt.2 hr))

end

/-! ### TPAY (R316) -/

section
variable {off bytes n : Nat} (hw : e.q.wait = .stall (.tpay off bytes n))
include hw

theorem State.slotForTpay_stalls (hf : e.g.freeSlot = none) : s.slotForTpay id = s := by
  rw [State.slotForTpay, State.forQuire_env he, hw, hf]
  cases e.vol.render <;> rfl

theorem State.slotForTpay_takes {k : Nat} {r : Render} (hf : e.g.freeSlot = some k) (hr : e.vol.render = some r) :
    s.slotForTpay id = (s.takeSlot id k off bytes n r.target.payload).wake id := by
  rw [State.slotForTpay, State.forQuire_env he, hw, hf, hr]

end

/-! ### QPUSH (R388) -/

section
variable {qk : Nat} {pkt : List W8} {sd : Opnd} (hw : e.q.wait = .stall (.qpush qk pkt sd))
include hw

theorem State.roomForPush_pushes (hp : s.pushTry e qk pkt sd = (.ok (some t), u)) : s.roomForPush id = t := by
  rw [State.roomForPush, State.forQuire_env he, hw]
  dsimp only
  rw [hp]

theorem State.roomForPush_stalls (hp : s.pushTry e qk pkt sd = (.ok none, t)) : s.roomForPush id = t := by
  rw [State.roomForPush, State.forQuire_env he, hw]
  dsimp only
  rw [hp]

theorem State.roomForPush_faults {f : XFault} (hp : s.pushTry e qk pkt sd = (.error f, t)) : s.roomForPush id = t.parkFault e f false := by
  rw [State.roomForPush, State.forQuire_env he, hw]
  dsimp only
  rw [hp]

end

/-! ### A spilled row (R126) -/

theorem State.refillRow_none (h : e.rowWanted s = none) : s.refillRow id = s := by
  rw [State.refillRow, State.forQuire_env he, h]

theorem State.refillRow_some {n : Nat} (h : e.rowWanted s = some n) : s.refillRow id = (s.refill e.g.pcore e.q.part id n).getD s := by
  rw [State.refillRow, State.forQuire_env he, h]

/-! ### The line of a quire (R73, R76) -/

theorem State.lineArrives_none (h : e.q.wantsLine = false) : s.lineArrives id = s := by
  rw [State.lineArrives, State.forQuire_env he, h]

theorem State.lineArrives_settled {r : Quire} (h : e.q.wantsLine = true) (hr : e.q.settled = some r) :
    s.lineArrives id = (s.setQuire id r).fetchLine id := by
  rw [State.lineArrives, State.forQuire_env he, h, hr]

/-- A line that is translated, at no peer, whole and in order, stands in its quire. -/
theorem State.fetchLine_stands {x : Xlated} {rest : List (W8 × Bool)} (hc : canonical (lineVa e.q.pc).toNat = true)
    (hx : s.xl (dieOfCore e.g.pcore) e.g.vol e.vol.ctx e.ctx.root (lineVa e.q.pc).toNat .fetch = (.ok x, t)) (hpeer : paKind x.pa ≠ .peer)
    (hcut : t.roCut e.g.pcore x.pa 64 1 = (rest, u)) (hbad : rest.any Prod.snd = false) (hpar : lineParityOk (rest.map Prod.fst) = true)
    (hfault : lineFault (rest.map Prod.fst) (pcSlot e.q.pc) e.q.checked = none) :
    s.fetchLine id = u.modQuire id fun q =>
      { q with line := some (lineVa e.q.pc, rest.map Prod.fst), checked := false, refetch := q.refetch.filter (· != lineVa e.q.pc),
               sealing := if lineSealed (lineWord (rest.map Prod.fst)) then some false else none } := by
  have hpeer' : (paKind x.pa == .peer) = false := beq_eq_false_iff_ne.2 hpeer
  unfold State.fetchLine
  simp only [he, hc, hx, hpeer', hcut, hbad, hpar, hfault, Bool.not_true, Bool.false_eq_true, if_false]

end
end Sys2Proof.Machine

namespace Sys2Proof.Claims
open Sys2Proof.Machine

/-- Settles O35: each event is one look at its quire's environment, and each case of the statement is one case of that look. -/
theorem stalledQuiresGoOn : Obligations.StalledQuiresGoOn := by
  intro s t u id e he
  have next : ∀ {v w : State}, v = w → (Host.Outcome.next v : Out) = .next w := congrArg _
  refine ⟨fun n seq hw => ⟨fun h => next (State.grantClaim_stalls he hw h), fun hb hr => next (State.grantClaim_grants he hw hb hr)⟩,
    fun off bytes n hw => ⟨fun hf => next (State.slotForTpay_stalls he hw hf), fun k r hf hr => next (State.slotForTpay_takes he hw hf hr)⟩,
    fun qk pkt sd hw => ⟨fun hp => next (State.roomForPush_pushes he hw hp), fun hp => next (State.roomForPush_stalls he hw hp),
      fun f hp => next (State.roomForPush_faults he hw hp)⟩,
    fun h => next (State.refillRow_none he h), fun n h => ⟨fun hr => next ?back, fun hr => next ?spilled⟩,
    ?line, fun h => next (State.lineArrives_none he h)⟩
  case back => rw [State.refillRow_some he h, hr, Option.getD_some]
  case spilled => rw [State.refillRow_some he h, hr, Option.getD_none]
  case line =>
    intro hwant r e' x rest hset he' pc hc hx hpeer hcut hbad hpar hfault
    refine next ?_
    rw [State.lineArrives_settled he hwant hset]
    exact State.fetchLine_stands he' hc hx hpeer hcut hbad hpar hfault

end Sys2Proof.Claims

/-! PROOFS. What results that land leave: of loads, engines, the matrix unit, atomics and tree engines (R122, R281, R286, R292, R350, R360, R364,
R401). -/
namespace Sys2Proof.Machine
open Sys2Proof.Claims (goesOn)

/-! ### What an arrival and an acquire leave alone -/

@[simp] theorem State.acquire_quires (s : State) (c : Nat) (sc : Scope) : (s.acquire c sc).quires = s.quires := by cases sc <;> rfl

theorem State.acquire_clean {s : State} (h : FMap.sorted s.cores = true) (c : Nat) : ((s.acquire c .dev).core c).clean = [] :=
  congrArg Core.clean (FMap.val_put_self Core.fresh c { s.core c with clean := [] } h)

@[simp] theorem Quire.landFor_pend (q : Quire) (handler : Bool) (ws : List RegWrite) : (q.landFor handler ws).pend = q.pend := by
  unfold Quire.landFor
  dsimp only
  split
  · split <;> rfl
  · split <;> rfl

@[simp] theorem Quire.arrive_pend (q : Quire) (p : Pending) : (q.arrive p).pend = q.pend := by
  unfold Quire.arrive
  dsimp only
  split
  · exact Quire.landFor_pend ..
  · cases q.grp with
    | none => rfl
    | some g => exact Quire.landFor_pend ..

/-- Updates that agree on the quire as it stands agree. -/
theorem State.upd_congr {s : State} {e : Env} (hq : FMap.find s.quires e.id = some e.q) {f g : Quire → Quire} (hfg : f e.q = g e.q) :
    s.upd e f = s.upd e g := by
  simp only [State.upd, State.modQuire, FMap.modify, hq, hfg]

/-! ### The first ready result of a kind -/

section
variable {q : Quire} {k : PendKind} {i : Nat} {p : Pending}
  (hi : q.pend.findIdx? (fun x => x.kind == k && x.ready) = some i) (hp : q.pend[i]? = some p)
include hi hp

theorem Quire.find_firstReady : q.pend.find? (fun x => x.kind == k && x.ready) = some p := by
  obtain ⟨hlt, hready, hfirst⟩ := List.findIdx?_eq_some_iff_getElem.1 hi
  obtain ⟨_, rfl⟩ := List.getElem?_eq_some_iff.1 hp
  exact List.find?_eq_some_iff_getElem.2 ⟨hready, i, hlt, rfl, fun j hj => by simpa only [Bool.not_eq_true', Bool.not_eq_true] using hfirst j hj⟩

theorem Quire.landFirst_eq : q.landFirst k = ({ q with pend := q.pend.eraseIdx i } : Quire).arrive p := by
  simp only [Quire.landFirst, hi, hp]

end

/-! ### Loads and engines -/

theorem State.find_landed {s : State} {id : Nat} {e : Env} (he : s.envOf id = some e) (i : Nat) (p : Pending) (sc : Scope) :
    FMap.find ((s.upd e fun q => ({ q with pend := q.pend.eraseIdx i } : Quire).arrive p).acquire e.g.pcore sc).quires id =
    some (({ e.q with pend := e.q.pend.eraseIdx i } : Quire).arrive p) := by
  obtain ⟨hq, rfl⟩ := State.envOf_quire he
  rw [State.acquire_quires]
  exact State.find_upd hq _

section
variable {s : State} {id i : Nat} {e : Env} {p : Pending} (he : s.envOf id = some e) (hp : e.q.pend[i]? = some p)
include he hp

theorem State.upd_landFirst {k : PendKind} (hi : e.q.pend.findIdx? (fun x => x.kind == k && x.ready) = some i) :
    (s.upd e fun q => q.landFirst k) = s.upd e fun q => ({ q with pend := q.pend.eraseIdx i } : Quire).arrive p := by
  obtain ⟨hq, rfl⟩ := State.envOf_quire he
  exact State.upd_congr hq (Quire.landFirst_eq hi hp)

section
variable (hi : e.q.pend.findIdx? (fun x => x.kind == .load && x.ready) = some i)
include hi

theorem State.landLoad_plain (ha : p.acq = none) :
    s.landLoad id = s.upd e fun q => ({ q with pend := q.pend.eraseIdx i } : Quire).arrive p := by
  rw [State.landLoad, State.forQuire_env he]
  simp only [Quire.find_firstReady hi hp, Option.bind_some, ha]
  exact State.upd_landFirst he hp hi

variable {sc : Scope} (ha : p.acq = some sc)
include ha

theorem State.landLoad_unawaited (hw : ∀ refused, e.q.wait ≠ .reply refused) :
    s.landLoad id = (s.upd e fun q => ({ q with pend := q.pend.eraseIdx i } : Quire).arrive p).acquire e.g.pcore sc := by
  rw [State.landLoad, State.forQuire_env he]
  dsimp only
  rw [Quire.find_firstReady hi hp, Option.bind_some, ha, State.upd_landFirst he hp hi]
  dsimp only
  split
  next refused h => exact absurd h (hw refused)
  next => rfl

/-- A quire that waits for replies goes on when no acquiring load is left (R350). -/
theorem State.landLoad_last {refused : Bool} (hw : e.q.wait = .reply refused)
    (hlast : (e.q.pend.eraseIdx i).any (fun x => x.kind == .load && x.acq.isSome) = false) :
    s.landLoad id = ((s.upd e fun q => ({ q with pend := q.pend.eraseIdx i } : Quire).arrive p).acquire e.g.pcore sc).wake id := by
  rw [State.landLoad, State.forQuire_env he]
  dsimp only
  rw [Quire.find_firstReady hi hp, Option.bind_some, ha, State.upd_landFirst he hp hi]
  dsimp only
  rw [State.find_landed he i p sc, hw]
  have hnone : (({ e.q with pend := e.q.pend.eraseIdx i } : Quire).arrive p).pend.any (fun x => x.kind == .load && x.acq.isSome) = false := by
    rw [Quire.arrive_pend]
    exact hlast
  exact if_neg (ne_true_of_eq_false hnone)

end

theorem State.engineLands_first (hi : e.q.pend.findIdx? (fun x => x.kind == .engine && x.ready) = some i) :
    s.engineLands id = (s.acquire e.g.pcore .dev).upd e fun q => ({ q with pend := q.pend.eraseIdx i } : Quire).arrive p := by
  have hfound := Quire.find_firstReady hi hp
  have hany : e.q.pend.any (fun x => x.kind == .engine && x.ready) = true :=
    List.any_eq_true.2 (List.find?_isSome.1 (Option.isSome_of_eq_some hfound))
  rw [State.engineLands, State.forQuire_env he, if_pos hany]
  obtain ⟨hq, rfl⟩ := State.envOf_quire he
  exact State.upd_congr (by rw [State.acquire_quires]; exact hq) (Quire.landFirst_eq hi hp)

end

/-! ### The matrix unit -/

/-- The tile of a job is computed without a change of the state but of the count of its free choices. -/
theorem State.landTile_tick (s : State) (j : MatrixJob) : ∃ k, (s.landTile j).2 = { s with tick := k } := by
  unfold State.landTile
  split
  · exact ⟨_, rfl⟩
  dsimp only
  split
  -- MMA, MMAS and MMAR: no plan, a fault, the tile
  iterate 3
    · split
      · exact ⟨_, rfl⟩
      · split <;> exact ⟨_, rfl⟩
  -- MLDC and MACT: the tile, a fault
  iterate 2
    · split <;> exact ⟨_, rfl⟩
  · exact ⟨_, rfl⟩

/-- What the fragment of a job leaves in its quire (R286). -/
def Quire.takeFragment (j : MatrixJob) (z : Tile) (q : Quire) : Quire :=
  match q.pend.find? fun p => p.kind == .matrix && p.req == j.req with
  | none => q
  | some p =>
    let or' := fun r : Regs => { r with fpflags := r.fpflags ||| z.2.setWidth 64 }
    let q := ({ q with pend := q.pend.filter fun x => !(x.kind == .matrix && x.req == j.req) } : Quire).arrive { p with writes := z.1 }
    { q with regs := or' q.regs, snap := q.snap.map or', ckpt := if p.old then { q.ckpt with regs := or' q.ckpt.regs } else q.ckpt }

theorem Quire.takeFragment_fpflags {j : MatrixJob} {z : Tile} {q : Quire} {p : Pending}
    (hp : q.pend.find? (fun p => p.kind == .matrix && p.req == j.req) = some p) : (q.takeFragment j z).regs.fpflags =
      (({ q with pend := q.pend.filter fun x => !(x.kind == .matrix && x.req == j.req) } : Quire).arrive { p with writes := z.1 }).regs.fpflags
        ||| z.2.setWidth 64 := by
  simp only [Quire.takeFragment, hp]

section
variable {s : State} {core part : Nat} {j : MatrixJob} (hj : s.mjobs.find? (fun j => j.core == core && j.part == part) = some j)
include hj

theorem State.landMatrix_tile (hs : j.stores ≠ []) : s.landMatrix core part =
    if s.tileHeld j then s
    else j.stores.foldl (fun s x => s.tileWrite j.core j.vol x) { s with mjobs := s.mjobs.filter fun x => x.req != j.req } := by
  rw [State.landMatrix, hj]
  exact if_pos (by simp only [List.isEmpty_eq_false_iff.2 hs, Bool.not_false])

/-- A fragment lands: no more than the free choices of its tile, its job's place, an acquire and its quire. -/
theorem State.landMatrix_fragment (hs : j.stores = []) : ∃ k, s.landMatrix core part =
    (({ s with tick := k, mjobs := s.mjobs.filter fun x => x.req != j.req } : State).acquire core .dev).modQuire j.quire
      (Quire.takeFragment j (s.landTile j).1) := by
  obtain ⟨k, hk⟩ := s.landTile_tick j
  refine ⟨k, ?_⟩
  rw [State.landMatrix, hj]
  dsimp only
  rw [if_neg (by simp only [hs, List.isEmpty_nil, Bool.not_true, Bool.false_eq_true, not_false_eq_true]), hk]
  rfl

end

/-! ### Atomics and tree engines -/

section
variable {s : State} {id : Nat} {e : Env} {refused : Bool} (he : s.envOf id = some e) (hw : e.q.wait = .reply refused)
include he hw

theorem State.replyLands_reply : s.replyLands id =
    let acqs := (e.q.pend.filter fun p => p.kind == .asq && p.ready).filterMap Pending.acq
    let landed := acqs.foldl (fun s sc => s.acquire e.g.pcore sc) (s.upd e Quire.landReplies)
    let owed : Bool := match FMap.find landed.quires id with
      | some q => q.owesReply e.slot
      | none => false
    if owed then landed
    else if refused then (landed.wake id).takeTrap id (e.trapAll 0x07 0) false
    else landed.wake id := by
  rw [State.replyLands, State.forQuire_env he]
  generalize e.q.wait = w at hw ⊢
  subst hw
  rfl

theorem State.treeLands_last (hready : e.q.pend.any (fun p => p.kind == .tree && p.ready) = true) :
    let landed := ((s.modQuire id Quire.landTrees).dropTrees id).acquire e.g.pcore .dev
    landed.treqs.find? (fun r => r.quire == id && r.faulted.isSome) = none →
    landed.treqs.any (fun r => r.quire == id && r.faulted.isNone) = false → s.treeLands id = landed.wake id := by
  intro landed hstuck hleft
  have hland : s.landTrees id = landed := by
    rw [State.landTrees, he]
    exact if_pos hready
  rw [State.treeLands, State.forQuire_env he]
  dsimp only
  rw [hready, hland, hw, hstuck]
  exact if_neg (ne_true_of_eq_false hleft)

end
end Sys2Proof.Machine

namespace Sys2Proof.Claims
open Sys2Proof.Machine

/-- What the results that are ready leave as they land in state `s`: the statement of O37 at one state. -/
def ResultsLandIn (s : State) : Prop :=
  ∀ id : Nat,
    (∀ e i p, s.envOf id = some e → e.q.pend[i]? = some p → e.q.pend.findIdx? (fun x => x.kind == .load && x.ready) = some i →
      let landed := s.upd e fun q => ({ q with pend := q.pend.eraseIdx i } : Quire).arrive p
      (p.acq = none → exec (.loadDataReturn id) s = .next landed)
      ∧ (∀ sc, p.acq = some sc → (∀ refused, e.q.wait ≠ .reply refused) → exec (.loadDataReturn id) s = .next (landed.acquire e.g.pcore sc))
      ∧ (∀ sc refused, p.acq = some sc → e.q.wait = .reply refused →
        (e.q.pend.eraseIdx i).any (fun x => x.kind == .load && x.acq.isSome) = false →
        exec (.loadDataReturn id) s = .next ((landed.acquire e.g.pcore sc).modQuire id goesOn)))
    ∧ (∀ e i p, s.envOf id = some e → e.q.pend[i]? = some p → e.q.pend.findIdx? (fun x => x.kind == .engine && x.ready) = some i →
      exec (.engineResultReturn id) s = .next ((s.acquire e.g.pcore .dev).upd e fun q => ({ q with pend := q.pend.eraseIdx i } : Quire).arrive p))
    ∧ (∀ core part j, s.mjobs.find? (fun j => j.core == core && j.part == part) = some j → j.stores ≠ [] →
      (s.tileHeld j = true → exec (.matrixResultLanding core part) s = .next s)
      ∧ (s.tileHeld j = false → exec (.matrixResultLanding core part) s = .next
          (j.stores.foldl (fun s x => s.tileWrite j.core j.vol x) { s with mjobs := s.mjobs.filter fun x => x.req != j.req })))
    ∧ (∀ core part j q p, s.mjobs.find? (fun j => j.core == core && j.part == part) = some j → j.stores = [] → FMap.find s.quires j.quire = some q →
      q.pend.find? (fun p => p.kind == .matrix && p.req == j.req) = some p →
      let z := (s.landTile j).1
      ∃ t r, exec (.matrixResultLanding core part) s = .next t ∧ FMap.find t.quires j.quire = some r
        ∧ r.regs.fpflags = (({ q with pend := q.pend.filter fun x => !(x.kind == .matrix && x.req == j.req) } : Quire).arrive
            { p with writes := z.1 }).regs.fpflags ||| z.2.setWidth 64
        ∧ (∀ k, k ≠ j.quire → FMap.find t.quires k = FMap.find s.quires k) ∧ (t.core core).clean = [] ∧ t.mem = s.mem
        ∧ t.mjobs = s.mjobs.filter fun x => x.req != j.req)
    ∧ (∀ e refused, s.envOf id = some e → e.q.wait = .reply refused →
      let acqs := (e.q.pend.filter fun p => p.kind == .asq && p.ready).filterMap Pending.acq
      let landed := acqs.foldl (fun s sc => s.acquire e.g.pcore sc) (s.upd e Quire.landReplies)
      let owed : Bool := match FMap.find landed.quires id with
        | some q => q.owesReply e.slot
        | none => false
      (owed = true → exec (.asqReply id) s = .next landed)
      ∧ (owed = false → refused = false → exec (.asqReply id) s = .next (landed.modQuire id goesOn))
      ∧ (owed = false → refused = true → exec (.asqReply id) s = .next ((landed.modQuire id goesOn).takeTrap id (e.trapAll 0x07 0) false)))
    ∧ (∀ e refused, s.envOf id = some e → e.q.wait = .reply refused → e.q.pend.any (fun p => p.kind == .tree && p.ready) = true →
      let landed := ((s.modQuire id Quire.landTrees).dropTrees id).acquire e.g.pcore .dev
      landed.treqs.find? (fun r => r.quire == id && r.faulted.isSome) = none →
      landed.treqs.any (fun r => r.quire == id && r.faulted.isNone) = false →
      exec (.treeResultLanding id) s = .next (landed.modQuire id goesOn))

theorem resultsLand_iff : Obligations.ResultsLand ↔ ∀ s, ResultsLandIn s := Iff.rfl

/-- Where the table of the cores lists no core twice, all of O37 holds. -/
theorem resultsLandIn_of_sorted {s : State} (hcores : FMap.sorted s.cores = true) : ResultsLandIn s := by
  intro id
  have next : ∀ {v w : State}, v = w → (Host.Outcome.next v : Out) = .next w := congrArg _
  refine ⟨fun e i p he hp hi => ⟨fun ha => next (State.landLoad_plain he hp hi ha), fun sc ha hw => next (State.landLoad_unawaited he hp hi ha hw),
      fun sc refused ha hw hlast => next (State.landLoad_last he hp hi ha hw hlast)⟩,
    fun e i p he hp hi => next (State.engineLands_first he hp hi), fun core part j hj hs => ⟨fun hheld => next ?held, fun hfree => next ?free⟩,
    ?fragment, fun e refused he hw => ?replies, fun e refused he hw hready hstuck hleft => next (State.treeLands_last he hw hready hstuck hleft)⟩
  case held => exact (State.landMatrix_tile hj hs).trans (if_pos hheld)
  case free => exact (State.landMatrix_tile hj hs).trans (if_neg (ne_true_of_eq_false hfree))
  case fragment =>
    intro core part j q p hj hs hq hp z
    obtain ⟨k, hland⟩ := State.landMatrix_fragment hj hs
    have hquires : ∀ n, FMap.find (s.landMatrix core part).quires n =
        FMap.find (FMap.modify s.quires j.quire (Quire.takeFragment j z)) n := fun n => by
      rw [hland, State.modQuire_quires, State.acquire_quires]
    refine ⟨_, q.takeFragment j z, rfl, ?_, Quire.takeFragment_fpflags hp, fun n hn => ?_, ?_, ?_, ?_⟩
    · rw [hquires, FMap.find_modify, hq, Option.map_some]
    · rw [hquires, FMap.find_modify_ne _ _ hn.symm]
    · rw [hland]
      exact State.acquire_clean hcores core
    · rw [hland]
      rfl
    · rw [hland]
      rfl
  case replies =>
    intro acqs landed owed
    have hland := State.replyLands_reply he hw
    refine ⟨fun ho => next (hland.trans (if_pos ho)), fun ho hr => next (hland.trans ?_), fun ho hr => next (hland.trans ?_)⟩
    · exact (if_neg (ne_true_of_eq_false ho)).trans (if_neg (ne_true_of_eq_false hr))
    · exact (if_neg (ne_true_of_eq_false ho)).trans (if_pos hr)

/-- A fragment that quire 0 is owed. -/
def owedFragment : Pending := { kind := .matrix, writes := [], names := [], ready := false, req := 0, acq := none, slot := none, old := false }

/-- The job of core 0 that delivers it. -/
def fragmentJob : MatrixJob :=
  { quire := 0, core := 0, part := 0, flags := 0, req := 0, ins := .deviceReset, view := Regs.start 0 0 0 0 0 [], pc := 0, old := [],
    vol := 0, stores := [] }

/-- Refutes O37: in a state whose table of the cores lists core 0 twice, the acquire of a fragment that lands empties the first entry, which is then
no longer listed, and the words of the second are what core 0 holds. -/
theorem not_resultsLand : ¬ Obligations.ResultsLand := by
  intro h
  have hlands := h
    { State.reset with
      quires := [(0, { Quire.atStart 0 0 0 0 0 0 (Regs.start 0 0 0 0 0 []) with pend := [owedFragment] })]
      mjobs := [fragmentJob]
      cores := [(0, Core.fresh), (0, { Core.fresh with clean := [(0, (0, false))] })] } 0
  obtain ⟨_, _, _, hfragment, _⟩ := hlands
  obtain ⟨t, _, hexec, _, _, _, hclean, _⟩ := hfragment 0 0 fragmentJob _ owedFragment rfl rfl rfl rfl
  cases hexec
  exact List.cons_ne_nil _ _ hclean

end Sys2Proof.Claims

/-! PROOFS. What floating-point instructions, conversions in one lane and comparisons deliver (R166, R176, R184, R187–R204). -/
namespace Sys2Proof.Machine
open Sys2Proof.Claims

/-- Every instruction on registers alone has a destination; only a comparison may have none. -/
theorem dest_of_jobOf {i : Instr} {j : Job} (hj : jobOf i = some j) : j.p.td.isSome = true := by
  cases i <;> cases hj <;> rfl

/-- Without a predicate, a job with a destination delivers its results and raises its flags. -/
theorem computed_eq_after {j : Job} (hd : j.p.td.isSome = true) (e : Env) : computed e j none = after e j :=
  funext fun _ => if_pos hd

/-- With a predicate, a job leaves what a comparison does. -/
theorem computed_eq_compared (e : Env) (j : Job) (pd : Nat) : computed e j (some pd) = compared e j pd := rfl

/-- An instruction on registers alone that raises no trapped flag delivers its results and raises its flags. -/
theorem exec_eq_after {s : State} {e : Env} {i : Instr} {j : Job} (hj : jobOf i = some j) (hex : Executes s e i) (hun : Untrapped e j) :
    exec i s = .next (s.upd e (after e j)) := by
  have hexec := exec_computes (.inl hj) hex hun
  rwa [cmpJob_of_jobOf hj, Option.map_none, computed_eq_after (dest_of_jobOf hj)] at hexec

end Sys2Proof.Machine

namespace Sys2Proof.Claims
open Sys2Proof.Machine

/-- Settles O2: floating-point instructions and conversions are jobs on registers alone, which have destinations. -/
theorem floatingPointInstructionsDeliver : Obligations.FloatingPointInstructionsDeliver := by
  intro s e i j hj hex hun
  have hjob : jobOf i = some j := jobOf_of_job (.inr (.inr hj))
  exact exec_eq_after hjob hex hun

/-- Settles O3: a comparison computes its job, and its job's predicate is the one it names. -/
theorem comparisonsWritePredicates : Obligations.ComparisonsWritePredicates := by
  intro s e i j pd hj hex hun
  have hexec := exec_computes (.inr ⟨pd, hj⟩) hex hun
  rwa [hj, Option.map_some, computed_eq_compared] at hexec

end Sys2Proof.Claims

/-! PROOFS. What integer instructions, SEL and the conversions over a mask word deliver (R175, R178–R186, R200, R203). -/
namespace Sys2Proof.Machine
open Sys2Proof.Claims

/-! ### Lanes that raise no flag -/

/-- The lane whose sources lane `l` computes with: its own, or the lowest that takes effect where the instruction executes once per quire
(R116; of a latch, the model's choice, log 94). -/
def Env.takenFrom (e : Env) (x : Alu) (p : AluSpec) (l : Nat) : Nat :=
  if x.once p then (LaneSet.lowest e.width (e.effect x.h)).getD 0 else l

theorem Env.lowest_eq_head (e : Env) (m : LaneSet) : LaneSet.lowest e.width m = (e.lanes m).head? := rfl

theorem Env.aluLanes_takenFrom (e : Env) (x : Alu) (p : AluSpec) (f : Nat → Srcs → LaneRes) : e.aluLanes x p f =
    (e.lanes (e.effect x.h)).map fun l => (l, e.srcs x p (e.takenFrom x p l), f (e.takenFrom x p l) (e.srcs x p (e.takenFrom x p l))) := by
  unfold Env.aluLanes Env.takenFrom
  dsimp only
  split
  · rw [Env.lowest_eq_head]
    cases e.lanes (e.effect x.h) <;> rfl
  · rfl

theorem Env.flagTrap_nil (e : Env) : e.flagTrap [] = none := rfl

theorem flUnion_nil : flUnion [] = 0 := rfl

/-- The results of lanes that raise no flag are delivered, and nothing else of the quire changes. -/
theorem Env.alu_silent (e : Env) (s : State) {x : Alu} {p : AluSpec} {f : Nat → Srcs → LaneRes} (hd : p.td.isSome = true)
    (hf : ∀ l z, (f l z).fl = 0) (bad : Nat → Srcs → Bool) :
    e.alu s x p none bad f = .ok (s.upd e (e.deliver x.h x.d (Claims.words p) (p.td == some .i32)
      ((e.lanes (e.effect x.h)).map fun l =>
        let z := e.srcs x p (e.takenFrom x p l)
        { lane := l, n := (f (e.takenFrom x p l) z).n, badLo := bad l z, badHi := bad l z }))) := by
  obtain ⟨t, ht⟩ := Option.isSome_iff_exists.1 hd
  have hfl : ∀ lanes : List Nat, ((lanes.map fun l =>
      (l, e.srcs x p (e.takenFrom x p l), f (e.takenFrom x p l) (e.srcs x p (e.takenFrom x p l)))).filter fun r =>
        !e.view.padding.has r.1 && !bad r.1 r.2.1 && r.2.2.fl != 0) = [] := fun lanes => by
    rw [List.filter_eq_nil_iff]
    intro r hr
    obtain ⟨l, -, rfl⟩ := List.mem_map.1 hr
    simp only [hf, bne_self_eq_false, Bool.and_false, Bool.false_eq_true, not_false_eq_true]
  unfold Env.alu
  rw [Env.aluLanes_takenFrom]
  dsimp only
  rw [hfl, List.map_nil, Env.flagTrap_nil, flUnion_nil, List.map_map]
  simp only [ht, Claims.words]
  rfl

/-! ### Integer instructions -/

theorem foldl_unchanged {α β : Type} {g : β → α → β} {b : β} (h : ∀ a, g b a = b) (l : List α) : l.foldl g b = b := by
  induction l with
  | nil => rfl
  | cons a l ih => rw [List.foldl_cons, h, ih]

theorem perElem_fl (t : Ty) (f : Nat → Nat → Nat → Nat) (z : Srcs) : (perElem t (fun a b c => (f a b c, 0)) z).fl = 0 := by
  unfold perElem
  dsimp only
  rw [List.foldl_map]
  exact foldl_unchanged (fun _ => BitVec.or_zero) _

/-- No integer instruction raises a flag. -/
theorem fl_of_integerJob {i : Instr} {j : Job} (hj : intJob i = some j ∨ bitJob i = some j) (e : Env) (z : Srcs) : (j.f e z).fl = 0 := by
  rcases hj with hj | hj
  · obtain ⟨a, -, rfl⟩ := Option.map_eq_some_iff.1 hj
    exact perElem_fl ..
  · cases i <;> cases hj <;> rfl

/-- An integer instruction delivers one result for each lane that takes effect. -/
theorem exec_delivers {s : State} {e : Env} {i : Instr} {j : Job} (hj : intJob i = some j ∨ bitJob i = some j) (hex : Executes s e i) :
    exec i s = .next (s.upd e (e.deliver j.x.h j.x.d (words j.p) (j.p.td == some .i32) (outs e j))) := by
  have hjob : jobOf i = some j := jobOf_of_job (hj.imp id .inl)
  rw [exec_of_job hjob]
  exact State.perform_ok hex (Env.alu_silent e s (dest_of_jobOf hjob) (fun _ => fl_of_integerJob hj e) fun _ => Srcs.bad)

/-! ### SEL -/

theorem exec_of_selOf {i : Instr} {x : Alu} (hx : selOf i = some x) (s : State) : exec i s = s.sel i x := by
  cases i <;> cases hx <;> rfl

theorem LaneSet.ne_zero_of_has {m : LaneSet} {l : Nat} (h : m.has l = true) : m ≠ 0 := by
  rintro rfl
  exact Bool.false_ne_true (BitVec.getLsbD_zero.symm.trans h)

theorem LaneSet.has_and (m p : LaneSet) (l : Nat) : LaneSet.has (m &&& p) l = (m.has l && p.has l) := BitVec.getLsbD_and

theorem LaneSet.has_not (m : LaneSet) (l : Nat) : LaneSet.has (~~~m) l = (decide (l < 256) && !m.has l) := BitVec.getLsbD_not

/-- Lanes of a set that is inside another or outside it agree on whether they are in the other. -/
theorem LaneSet.has_eq_of_uniform {m p : LaneSet} (h : ¬ (m &&& p ≠ 0 ∧ m &&& ~~~p ≠ 0)) {a b : Nat} (ha : m.has a = true) (hb : m.has b = true) :
    p.has a = p.has b := by
  have hin : ∀ {l : Nat}, m.has l = true → p.has l = true → m &&& p ≠ 0 := fun hm hp =>
    LaneSet.ne_zero_of_has (by rw [LaneSet.has_and, hm, hp]; rfl)
  have hout : ∀ {l : Nat}, m.has l = true → p.has l = false → m &&& ~~~p ≠ 0 := fun hm hp =>
    LaneSet.ne_zero_of_has (by rw [LaneSet.has_and, LaneSet.has_not, hm, hp, decide_eq_true (LaneSet.has_lt hm)]; rfl)
  cases hpa : p.has a <;> cases hpb : p.has b
  · rfl
  · exact absurd ⟨hin hb hpb, hout ha hpa⟩ h
  · exact absurd ⟨hin ha hpa, hout hb hpb⟩ h
  · rfl

theorem Env.takenFrom_mem {e : Env} {x : Alu} {p : AluSpec} {l : Nat} (hl : l ∈ e.lanes (e.effect x.h)) :
    e.takenFrom x p l ∈ e.lanes (e.effect x.h) := by
  unfold Env.takenFrom
  split
  · rw [Env.lowest_eq_head]
    cases hls : e.lanes (e.effect x.h) with
    | nil => rw [hls] at hl; cases hl
    | cons k ks => exact List.mem_cons_self
  · exact hl

/-- A lane of SEL has the choice of the lane it takes its sources from. -/
theorem selLanes_takenFrom {e : Env} {x : Alu} {l : Nat} (h : ¬ (x.once (specSel x) = true ∧ Mixed e x)) (hl : l ∈ e.lanes (e.effect x.h)) :
    (selLanes e x).has (e.takenFrom x (specSel x) l) = (selLanes e x).has l := by
  cases ho : x.once (specSel x) with
  | false => rw [Env.takenFrom, ho]; rfl
  | true =>
    exact LaneSet.has_eq_of_uniform (fun hm => h ⟨ho, hm⟩) (LaneSet.mem_list.1 (Env.takenFrom_mem hl)).2 (LaneSet.mem_list.1 hl).2

/-- What SEL tests before it traps. -/
theorem mixed_iff {e : Env} {x : Alu} :
    (x.once (specSel x) && (decide (e.effect x.h &&& selLanes e x ≠ 0) && decide (e.effect x.h &&& ~~~selLanes e x ≠ 0))) = true
      ↔ x.once (specSel x) = true ∧ Mixed e x := by
  rw [Bool.and_eq_true_iff, Bool.and_eq_true_iff, decide_eq_true_iff, decide_eq_true_iff]

section
variable {s : State} {e : Env} {i : Instr} {x : Alu} (hx : selOf i = some x) (hex : Executes s e i)
include hx hex

theorem exec_sel_uniform (h : ¬ (x.once (specSel x) = true ∧ Mixed e x)) :
    exec i s = .next (s.upd e (e.deliver x.h x.d (words (specSel x)) ((specSel x).td == some .i32) ((e.lanes (e.effect x.h)).map (selected e x)))) := by
  have hsel : ∀ l ∈ e.lanes (e.effect x.h), selected e x l =
      let k := e.takenFrom x (specSel x) l
      let z := e.srcs x (specSel x) k
      let bad := if (selLanes e x).has l then z.a.bad else z.b.bad
      { lane := l, n := if (selLanes e x).has k then z.a.n else z.b.n, badLo := bad, badHi := bad } := fun l hl => by
    dsimp only
    rw [selLanes_takenFrom h hl]
    unfold selected Env.takenFrom
    cases (selLanes e x).has l <;> rfl
  rw [exec_of_selOf hx, List.map_congr_left hsel]
  refine State.perform_ok hex ?_
  dsimp only
  rw [if_neg fun hc => h (mixed_iff.1 hc)]
  exact Env.alu_silent e s rfl (fun _ _ => rfl) _

theorem exec_sel_mixed (h : x.once (specSel x) = true ∧ Mixed e x) : exec i s = .next (s.takeTrap e.id (e.trapAll 0x06 2) false) := by
  rw [exec_of_selOf hx]
  refine State.perform_trapRes hex ?_
  dsimp only
  exact if_pos (mixed_iff.2 h)

end

/-! ### Conversions over a mask word -/

/-- Results that raise no flag are delivered as they are. -/
theorem Env.finish_silent {e : Env} {rs : List (LaneOut × Fl)} (h : ∀ r ∈ rs, r.2 = 0) (s : State) (hd : Hdr) (d : Opnd) (words : Nat) (signed : Bool) :
    e.finish s hd d words signed rs = .ok (s.upd e (e.deliver hd d words signed (rs.map Prod.fst))) := by
  have hnil : (rs.filter fun r => !e.view.padding.has r.1.lane && !r.1.badLo && !r.1.badHi && r.2 != 0) = [] := by
    rw [List.filter_eq_nil_iff]
    intro r hr
    simp only [h r hr, bne_self_eq_false, Bool.and_false, Bool.false_eq_true, not_false_eq_true]
  unfold Env.finish
  rw [hnil]
  rfl

/-- Results whose flags are not trapped are delivered, with the flags raised. -/
theorem Env.finish_untrapped {e : Env} {rs : List (LaneOut × Fl)} {fl : List LaneFl}
    (hfl : ((rs.filter fun r => !e.view.padding.has r.1.lane && !r.1.badLo && !r.1.badHi && r.2 != 0).map fun r =>
      ({ lane := r.1.lane, fl := r.2 } : LaneFl)) = fl)
    (h : e.flagTrap fl = none) (s : State) (hd : Hdr) (d : Opnd) (words : Nat) (signed : Bool) :
    e.finish s hd d words signed rs = .ok (s.upd e fun q => e.deliver hd d words signed (rs.map Prod.fst) (q.raise (flUnion fl))) := by
  have hraise : ∀ q : Quire, (if flUnion fl = 0 then q else q.raise (flUnion fl)) = q.raise (flUnion fl) := fun q => by
    split
    next h0 => rw [h0, Quire.raise_zero]
    · rfl
  unfold Env.finish
  simp only [hfl, h, hraise]

/-- The quantised words of CVTQ in order, each with its flags and with the poison of its block. -/
def quantised (e : Env) (x : Alu) : List ((Nat × Nat × Fl) × Bool) :=
  (e.byWord (e.effect x.h)).flatMap fun ls =>
    (cvtqBlock (tyOfCode x.fn) (e.mode x.rnd) (ls.map fun l => (l, (e.readTy x.a .f32 l).n))).map fun r => (r, ls.any fun l => (e.readTy x.a .f32 l).bad)

theorem Env.cvtq_finishes (e : Env) (s : State) (x : Alu) : e.cvtq s x = e.finish s x.h x.d 1 false
    ((quantised e x).map fun r => ({ lane := r.1.1, n := r.1.2.1, badLo := r.2, badHi := r.2 }, r.1.2.2)) := by
  simp only [Env.cvtq, quantised, List.map_flatMap, List.map_map, List.any_map, Function.comp_def]

/-- CVTQ delivers its words and raises their flags where none of them is trapped. -/
theorem Env.cvtq_untrapped {e : Env} {x : Alu} {fl : List LaneFl}
    (hfl : ((quantised e x).filter fun r => !e.view.padding.has r.1.1 && !r.2 && r.1.2.2 != 0).map (fun r => { lane := r.1.1, fl := r.1.2.2 }) = fl)
    (h : e.flagTrap fl = none) (s : State) :
    e.cvtq s x = .ok (s.upd e fun q => e.deliver x.h x.d 1 false
      ((quantised e x).map fun r => { lane := r.1.1, n := r.1.2.1, badLo := r.2, badHi := r.2 }) (q.raise (flUnion fl))) := by
  rw [Env.cvtq_finishes, Env.finish_untrapped (fl := fl) _ h]
  · rw [List.map_map]
    rfl
  · rw [← hfl, List.filter_map, List.map_map]
    simp only [Function.comp_def, Bool.and_assoc, Bool.and_self_left]

theorem Env.bppack_delivers (e : Env) (s : State) (x : Alu) :
    e.bppack s x = .ok (s.upd e (e.deliver x.h x.d 2 false ((e.byWord (e.effect x.h)).flatMap fun ls => ls.map fun l =>
      let bad := decide (l % 32 < planes x) && ls.any fun k => (e.readTy x.a .n32 k).bad || (e.readTy x.b .n32 k).bad
      { lane := l, n := if decide (l % 32 < planes x) then planeOf (ls.map fun k => (k, (e.readTy x.a .n32 k).n, (e.readTy x.b .n32 k).n)) (l % 32) else 0,
        badLo := bad, badHi := bad }))) := by
  unfold Env.bppack
  rw [Env.finish_silent]
  · simp only [List.map_flatMap, List.map_map, List.any_map, Function.comp_def]
  · intro r hr
    obtain ⟨ls, -, hr⟩ := List.mem_flatMap.1 hr
    obtain ⟨l, -, rfl⟩ := List.mem_map.1 hr
    rfl

theorem Env.bpunp_delivers (e : Env) (s : State) (x : Alu) :
    e.bpunp s x =
      let plane := fun (ls : List Nat) (j : Nat) => (ls.find? fun l => l % 32 == j).map fun l => e.readTy x.a .n64 l
      let js := (List.range (planes x)).filter fun j => decide (x.fn / 8 % 4 ≤ j)
      .ok (s.upd e (e.deliver x.h x.d 1 (x.ty == .i32) ((e.byWord (e.effect x.h)).flatMap fun ls => ls.map fun l =>
        let bad := js.any fun j => ((plane ls j).map Val.bad).getD false
        let v := js.foldl (fun n j =>
          if ((plane ls j).map fun v => v.n.testBit ((if x.fn.testBit 2 then 32 else 0) + l % 32)).getD false then n + 2 ^ j else n) 0
        { lane := l, n := intBits 32 (intOf (x.ty == .i32) (planes x) v), badLo := bad, badHi := bad }))) := by
  have hhalf : 32 * (if x.fn.testBit 2 = true then 1 else 0) = if x.fn.testBit 2 = true then 32 else 0 := by split <;> rfl
  unfold Env.bpunp
  rw [Env.finish_silent]
  · simp only [List.map_flatMap, List.map_map, Function.comp_def, hhalf]
    congr 4
    funext ls
    congr 1
    funext l
    congr 1
    · congr 3
      funext n j
      split
      next hv => simp only [hv, Option.map_some, Option.getD_some]
      next hv => simp only [hv, Option.map_none, Option.getD_none, Bool.false_eq_true, if_false]
    all_goals
      congr 1
      funext j
      cases ls.find? fun l => l % 32 == j <;> rfl
  · intro r hr
    obtain ⟨ls, -, hr⟩ := List.mem_flatMap.1 hr
    obtain ⟨l, -, rfl⟩ := List.mem_map.1 hr
    rfl

end Sys2Proof.Machine

namespace Sys2Proof.Claims
open Sys2Proof.Machine

/-- Settles O1: no lane of an integer instruction raises a flag, so that its results are delivered and nothing else changes. -/
theorem integerInstructionsDeliver : Obligations.IntegerInstructionsDeliver := fun _ _ _ _ hj hex => exec_delivers hj hex

/-- Settles O4: where the predicate does not differ over the lanes, the lane sources are taken from has the choice of each lane. -/
theorem selectionFollowsThePredicate : Obligations.SelectionFollowsThePredicate := fun _ _ _ _ hx hex =>
  ⟨exec_sel_uniform hx hex, exec_sel_mixed hx hex⟩

/-- Settles O10: CVTQ's words raise their flags; the bit planes raise none. -/
theorem blockConversionsDeliver : Obligations.BlockConversionsDeliver := by
  intro s e h f x
  refine ⟨fun hex htrap => ?cvtq, fun hex => ?bppack, fun hex => ?bpunp⟩
  case cvtq => exact State.perform_ok (body := fun e s => e.cvtq s x) hex (Env.cvtq_untrapped rfl htrap s)
  case bppack => exact State.perform_ok (body := fun e s => e.bppack s x) hex (Env.bppack_delivers e s x)
  case bpunp => exact State.perform_ok (body := fun e s => e.bpunp s x) hex (Env.bpunp_delivers e s x)

end Sys2Proof.Claims

/-! PROOFS. Integers in two's complement, and the exact arithmetic of R179: what a code and an element of a value stand for, and what is written. -/
namespace Sys2Proof.Machine
open Sys2Proof.Claims

/-! ### Integers modulo 2^w -/

/-- The integer of a type of `w` bits that is congruent to `x`. -/
def reduced (signed : Bool) (w : Nat) (x : Int) : Int := if signed then (BitVec.ofInt w x).toInt else ((BitVec.ofInt w x).toNat : Int)

theorem Ty.width_pos (t : Ty) : 0 < t.width := by cases t <;> decide

theorem intOf_eq_reduced (signed : Bool) (w code : Nat) : intOf signed w code = reduced signed w code := by
  have hmsb : (BitVec.ofNat w code).msb = (code % 2 ^ w).testBit (w - 1) := BitVec.msb_eq_getLsbD_last _
  unfold intOf reduced
  rw [BitVec.ofInt_natCast]
  cases signed with
  | false => rfl
  | true => rw [BitVec.toInt_eq_msb_cond, hmsb]; rfl

theorem intOf_intBits (signed : Bool) (w : Nat) (x : Int) : intOf signed w (intBits w x) = reduced signed w x := by
  rw [intOf_eq_reduced, intBits, ← BitVec.toNat_ofInt, reduced, BitVec.ofInt_natCast, BitVec.ofNat_toNat, BitVec.setWidth_eq, reduced]

theorem intOf_mod (signed : Bool) (w code : Nat) : intOf signed w (code % 2 ^ w) = intOf signed w code := by
  rw [intOf, Nat.mod_mod, intOf]

theorem natCast_two_pow (w : Nat) : ((2 ^ w : Nat) : Int) = 2 ^ w := Int.natCast_pow 2 w

theorem natCast_two_pow_pos (w : Nat) : (0 : Int) < ((2 ^ w : Nat) : Int) := Int.natCast_pos.2 (Nat.two_pow_pos w)

theorem natCast_intBits (w : Nat) (x : Int) : ((intBits w x : Nat) : Int) = x % ((2 ^ w : Nat) : Int) :=
  Int.toNat_of_nonneg (Int.emod_nonneg _ (Int.ne_of_gt (natCast_two_pow_pos w)))

theorem reduced_true (w : Nat) (x : Int) : reduced true w x = (BitVec.ofInt w x).toInt := rfl

theorem reduced_false (w : Nat) (x : Int) : reduced false w x = x % ((2 ^ w : Nat) : Int) := by
  rw [← natCast_intBits, intBits, ← BitVec.toNat_ofInt]
  rfl

theorem dvd_reduced_sub (signed : Bool) (w : Nat) (x : Int) : ((2 ^ w : Nat) : Int) ∣ reduced signed w x - x := by
  cases signed with
  | true => rw [reduced_true, BitVec.toInt_ofInt]; exact Int.dvd_bmod_sub_self
  | false => rw [reduced_false]; exact Int.dvd_emod_sub_self

theorem intLeast_true (w : Nat) : intLeast true w = -2 ^ (w - 1) := congrArg Neg.neg (natCast_two_pow (w - 1))

theorem intGreatest_true (w : Nat) : intGreatest true w = 2 ^ (w - 1) - 1 := congrArg (· - 1) (natCast_two_pow (w - 1))

theorem intGreatest_false (w : Nat) : intGreatest false w = 2 ^ w - 1 := congrArg (· - 1) (natCast_two_pow w)

theorem intLeast_eq (signed : Bool) (w : Nat) : intLeast signed w = if signed then -2 ^ (w - 1) else 0 := by
  cases signed with
  | true => exact intLeast_true w
  | false => rfl

theorem intGreatest_eq (signed : Bool) (w : Nat) : intGreatest signed w = if signed then 2 ^ (w - 1) - 1 else 2 ^ w - 1 := by
  cases signed with
  | true => exact intGreatest_true w
  | false => exact intGreatest_false w

theorem intLeast_le_reduced (signed : Bool) (w : Nat) (x : Int) : intLeast signed w ≤ reduced signed w x := by
  cases signed with
  | true => rw [intLeast_true]; exact BitVec.le_toInt _
  | false => exact Int.natCast_nonneg _

theorem reduced_le_intGreatest (signed : Bool) (w : Nat) (x : Int) : reduced signed w x ≤ intGreatest signed w := by
  cases signed with
  | true => rw [intGreatest_true]; exact Int.le_sub_one_of_lt BitVec.toInt_lt
  | false => exact Int.le_sub_one_of_lt (Int.ofNat_lt.2 (BitVec.ofInt w x).isLt)

/-- An integer inside its type is the one congruent to itself. -/
theorem reduced_of_mem {signed : Bool} {w : Nat} (hw : 0 < w) {x : Int} (h1 : intLeast signed w ≤ x) (h2 : x ≤ intGreatest signed w) :
    reduced signed w x = x := by
  cases signed with
  | true =>
    rw [intLeast_true] at h1
    rw [intGreatest_true] at h2
    exact BitVec.toInt_ofInt_eq_self hw h1 (Int.lt_of_le_sub_one h2)
  | false =>
    have hlt : x < ((2 ^ w : Nat) : Int) := Int.lt_of_le_sub_one h2
    rw [reduced_false]
    exact Int.emod_eq_of_lt h1 hlt

theorem intLeast_le_intGreatest (signed : Bool) (w : Nat) : intLeast signed w ≤ intGreatest signed w :=
  Int.le_trans (intLeast_le_reduced signed w 0) (reduced_le_intGreatest signed w 0)

theorem clampInt_eq {lo hi : Int} (h : lo ≤ hi) (x : Int) : clampInt lo hi x = max lo (min hi x) := by
  unfold clampInt
  split
  · omega
  · split <;> omega

/-! ### Elements -/

theorem elemOf_packElems {w : Nat} {xs : List Nat} {k : Nat} (h : k < xs.length) : elemOf w (packElems w xs) k = xs[k] % 2 ^ w := by
  induction xs generalizing k with
  | nil => cases h
  | cons x xs ih =>
    cases k with
    | zero =>
      rw [elemOf, packElems, Nat.mul_zero, Nat.pow_zero, Nat.div_one, Nat.add_mul_mod_self_left, Nat.mod_mod]
      rfl
    | succ k =>
      have hdrop : (x % 2 ^ w + 2 ^ w * packElems w xs) / 2 ^ w = packElems w xs := by
        rw [Nat.add_mul_div_left _ _ (Nat.two_pow_pos w), Nat.div_eq_of_lt (Nat.mod_lt _ (Nat.two_pow_pos w)), Nat.zero_add]
      rw [elemOf, packElems, Nat.mul_succ, Nat.add_comm (w * k), Nat.pow_add, ← Nat.div_div_eq_div_mul, hdrop]
      exact ih (Nat.lt_of_succ_lt_succ h)

theorem elemOf_perElem {t : Ty} {k : Nat} (h : k < t.count) (f : Nat → Nat → Nat → Nat × Fl) (z : Srcs) :
    elemOf t.width (perElem t f z).n k = (f (elemOf t.width z.a.n k) (elemOf t.width z.b.n k) (elemOf t.width z.c.n k)).1 % 2 ^ t.width := by
  unfold perElem
  have hlen : k < (((List.range t.count).map fun k => f (elemOf t.width z.a.n k) (elemOf t.width z.b.n k) (elemOf t.width z.c.n k)).map
      Prod.fst).length := by
    rwa [List.length_map, List.length_map, List.length_range]
  rw [elemOf_packElems hlen, List.getElem_map, List.getElem_map, List.getElem_range]

/-- An arithmetic source is the element that its type and its neg/abs bits make of it (R95). -/
theorem intSrc_elemOf (t : Ty) (n : NegAbs) (v k : Nat) : intSrc t n (elemOf t.width v k) = element t n v k := by
  unfold intSrc elemOf
  simp only [intOf_mod, intOf_intBits, Bool.and_eq_true, decide_eq_true_iff]
  rw [intOf_eq_reduced]
  rfl

/-- What R179 writes of the exact result `x`. -/
def written (x : Alu) (v : Int) : Int :=
  reduced x.ty.isSigned x.ty.width (if x.sat then clampInt (intLeast x.ty.isSigned x.ty.width) (intGreatest x.ty.isSigned x.ty.width) v else v)

theorem element_intArith (x : Alu) (op : Int → Int → Int → Int) (z : Srcs) {k : Nat} (hk : k < x.ty.count) :
    element x.ty { neg := false, abs := false } (intArith x op z).n k =
      written x (op (element x.ty x.na z.a.n k) (element x.ty x.nb z.b.n k) (element x.ty x.nc z.c.n k)) := by
  have hplain : ∀ code, intSrc x.ty { neg := false, abs := false } code = intOf x.ty.isSigned x.ty.width code := fun _ => rfl
  rw [← intSrc_elemOf, hplain, intArith, elemOf_perElem hk, intOf_mod, intPut, intOf_intBits]
  simp only [intSrc_elemOf]
  rfl

section
variable (x : Alu) (v : Int)

theorem written_mem : intLeast x.ty.isSigned x.ty.width ≤ written x v ∧ written x v ≤ intGreatest x.ty.isSigned x.ty.width :=
  ⟨intLeast_le_reduced .., reduced_le_intGreatest ..⟩

/-- Under saturate the exact result is clamped to the type. -/
theorem written_saturated (hs : x.sat = true) :
    written x v = max (intLeast x.ty.isSigned x.ty.width) (min (intGreatest x.ty.isSigned x.ty.width) v) := by
  have hle := intLeast_le_intGreatest x.ty.isSigned x.ty.width
  rw [written, if_pos hs, clampInt_eq hle]
  exact reduced_of_mem (Ty.width_pos _) (Int.le_max_left _ _) (Int.max_le.2 ⟨hle, Int.min_le_left _ _⟩)

/-- Without saturate the exact result wraps. -/
theorem written_wrapped (hs : x.sat = false) : (2 ^ x.ty.width : Int) ∣ written x v - v := by
  rw [written, hs, ← natCast_two_pow]
  exact dvd_reduced_sub ..

end

end Sys2Proof.Machine

namespace Sys2Proof.Claims
open Sys2Proof.Machine

/-- Settles O48: an element of the result is the exact result of the sources' elements, clamped or reduced modulo 2^w. -/
theorem integerArithmeticIsExact : Obligations.IntegerArithmeticIsExact := by
  intro s e i x p op hi hex j
  have hj : intJob i = some j := by rw [intJob, hi]; rfl
  refine ⟨fun l => (lane e j l).n, exec_delivers (.inl hj) hex, fun l _ k hk => ?_⟩
  intro z exact least greatest got
  have hgot : got = written x exact := element_intArith x op z hk
  have hleast : intLeast x.ty.isSigned x.ty.width = least := intLeast_eq _ _
  have hgreatest : intGreatest x.ty.isSigned x.ty.width = greatest := intGreatest_eq _ _
  rw [hgot, ← hleast, ← hgreatest]
  exact ⟨(written_mem x exact).1, (written_mem x exact).2, written_saturated x exact, written_wrapped x exact⟩

end Sys2Proof.Claims

/-! PROOFS. Shifts, rotations, three-input functions, counts, reversals and fields, bit by bit (R181–R183). -/
namespace Sys2Proof.Machine
open Sys2Proof.Claims

/-! ### Bits of integers -/

/-- Bit `k` of an integer's infinite two's complement form. -/
def intBit (x : Int) (k : Nat) : Bool := decide (x / ((2 ^ k : Nat) : Int) % 2 = 1)

theorem intBit_natCast (n k : Nat) : intBit n k = n.testBit k := by
  rw [Nat.testBit_eq_decide_div_mod_eq, intBit]
  exact decide_eq_decide.2 (by omega)

theorem intBit_div (x : Int) (p k : Nat) : intBit (x / ((2 ^ p : Nat) : Int)) k = intBit x (p + k) := by
  rw [intBit, intBit, Int.ediv_ediv_of_nonneg (Int.natCast_nonneg _), Nat.pow_add, Int.natCast_mul]

theorem intBit_emod (x : Int) {w k : Nat} (h : k < w) : intBit (x % ((2 ^ w : Nat) : Int)) k = intBit x k := by
  have hw : 2 ^ w = 2 ^ k * (2 * 2 ^ (w - k - 1)) := by
    rw [← Nat.pow_succ', ← Nat.pow_add, show k + (w - k - 1).succ = w by omega]
  have hx : x = x % ((2 ^ w : Nat) : Int) + ((2 ^ k : Nat) : Int) * (2 * (((2 ^ (w - k - 1) : Nat) : Int) * (x / ((2 ^ w : Nat) : Int)))) := by
    have hmul : ((2 ^ w : Nat) : Int) = ((2 ^ k : Nat) : Int) * (2 * ((2 ^ (w - k - 1) : Nat) : Int)) := by
      rw [hw, Int.natCast_mul, Int.natCast_mul]
      rfl
    rw [← Int.mul_assoc 2, ← Int.mul_assoc ((2 ^ k : Nat) : Int), ← hmul, Int.emod_add_mul_ediv]
  unfold intBit
  conv =>
    rhs
    rw [hx, Int.add_mul_ediv_left _ _ (Int.ne_of_gt (natCast_two_pow_pos k)), Int.add_mul_emod_self_left]

theorem intBits_lt (w : Nat) (x : Int) : intBits w x < 2 ^ w := by
  rw [intBits, ← BitVec.toNat_ofInt]
  exact BitVec.isLt _

theorem testBit_intBits (w : Nat) (x : Int) {k : Nat} (h : k < w) : (intBits w x).testBit k = intBit x k := by
  rw [← intBit_natCast, natCast_intBits, intBit_emod x h]

/-- Bit `k` of a code of `w` bits, extended by its sign for the signed types. -/
def extended (signed : Bool) (w a k : Nat) : Bool := if k < w then a.testBit k else signed && a.testBit (w - 1)

theorem intBit_intOf (signed : Bool) {w : Nat} (hw : 0 < w) (a k : Nat) : intBit (intOf signed w a) k = extended signed w a k := by
  rw [intOf_eq_reduced, reduced, BitVec.ofInt_natCast, extended]
  cases signed with
  | false =>
    rw [if_neg Bool.false_ne_true, intBit_natCast, BitVec.toNat_ofNat, Nat.testBit_mod_two_pow]
    split
    next hk => rw [decide_eq_true hk, Bool.true_and]
    next hk => rw [decide_eq_false hk, Bool.false_and, Bool.false_and]
  | true =>
    have hbit : (BitVec.signExtend (k + 1) (BitVec.ofNat w a)).toNat.testBit k = intBit (BitVec.ofNat w a).toInt k := by
      rw [BitVec.signExtend, BitVec.toNat_ofInt]
      exact testBit_intBits _ _ (Nat.lt_succ_self k)
    rw [if_pos rfl, ← hbit, BitVec.testBit_toNat, BitVec.getLsbD_signExtend, BitVec.msb_eq_getLsbD_last, BitVec.getLsbD_ofNat, BitVec.getLsbD_ofNat]
    have hlast : w - 1 < w := by omega
    rw [decide_eq_true (Nat.lt_succ_self k), decide_eq_true hlast]
    by_cases hk : k < w
    · rw [if_pos hk, if_pos hk, decide_eq_true hk, Bool.true_and, Bool.true_and]
    · rw [if_neg hk, if_neg hk, Bool.true_and]

/-! ### Numbers from their bits -/

/-- The number of `w` bits whose bit `i` is `p i`. -/
def bitSum (p : Nat → Bool) : Nat → Nat
  | 0 => 0
  | w + 1 => 2 ^ w * (p w).toNat + bitSum p w

theorem bitSum_bits (p : Nat → Bool) (w : Nat) : bitSum p w < 2 ^ w ∧ ∀ k, k < w → (bitSum p w).testBit k = p k := by
  induction w with
  | zero => exact ⟨Nat.one_pos, fun _ hk => nomatch hk⟩
  | succ w ih =>
    obtain ⟨hlt, hbit⟩ := ih
    rw [bitSum]
    refine ⟨?_, fun k hk => ?_⟩
    · have hle := Nat.mul_le_mul_left (2 ^ w) (Bool.toNat_le (p w))
      rw [Nat.pow_succ]
      omega
    · rw [Nat.testBit_two_pow_mul_add _ hlt]
      split
      next h => exact hbit k h
      next h =>
        obtain rfl : k = w := by omega
        rw [Nat.sub_self]
        cases p k <;> rfl

theorem bitSum_congr {p q : Nat → Bool} {w : Nat} (h : ∀ i, i < w → p i = q i) : bitSum p w = bitSum q w := by
  induction w with
  | zero => rfl
  | succ w ih => rw [bitSum, bitSum, h w (Nat.lt_succ_self w), ih fun i hi => h i (Nat.lt_succ_of_lt hi)]

theorem ite_add_eq (b : Bool) (r n : Nat) : (if b then r + n else r) = n * b.toNat + r := by
  cases b with
  | false => exact (Nat.zero_add r).symm
  | true => exact (Nat.add_comm r n).trans (congrArg (· + r) (Nat.mul_one n).symm)

/-- A fold that sets bit `i` where `p i` holds. -/
theorem foldl_up (p : Nat → Bool) (w : Nat) : (List.range w).foldl (fun r i => if p i then r + 2 ^ i else r) 0 = bitSum p w := by
  induction w with
  | zero => rfl
  | succ w ih => rw [List.range_succ, List.foldl_append, ih, List.foldl_cons, List.foldl_nil, ite_add_eq, bitSum]

/-- A fold that sets bit `w - 1 - i` where `p i` holds. -/
theorem foldl_down (p : Nat → Bool) (w r : Nat) :
    (List.range w).foldl (fun r i => if p i then r + 2 ^ (w - 1 - i) else r) r = bitSum (fun i => p (w - 1 - i)) w + r := by
  induction w generalizing p r with
  | zero => exact (Nat.zero_add r).symm
  | succ w ih =>
    have hexp : ∀ i, w + 1 - 1 - (i + 1) = w - 1 - i := fun i => by omega
    have hrest : bitSum (fun i => p (w - 1 - i + 1)) w = bitSum (fun i => p (w - i)) w :=
      bitSum_congr fun i hi => congrArg p (by omega)
    rw [List.range_succ_eq_map, List.foldl_cons, List.foldl_map]
    simp only [hexp]
    rw [ih fun i => p (i + 1), hrest, ite_add_eq, bitSum]
    simp only [Nat.add_sub_cancel, Nat.sub_self, Nat.sub_zero]
    omega

/-! ### The operations of R181–R183 -/

section
variable (w a n c : Nat)

theorem shiftLeft_bits :
    shiftLeft w a n c < 2 ^ w ∧ ∀ k, k < w → (shiftLeft w a n c).testBit k = (decide (n ≤ k) && a.testBit (k - n)) := by
  unfold shiftLeft
  split
  · refine ⟨Nat.two_pow_pos w, fun k hk => ?_⟩
    rw [Nat.zero_testBit, decide_eq_false (by omega), Bool.false_and]
  · refine ⟨Nat.mod_lt _ (Nat.two_pow_pos w), fun k hk => ?_⟩
    rw [Nat.testBit_mod_two_pow, Nat.testBit_mul_two_pow, decide_eq_true hk, Bool.true_and]

theorem shiftRight_bits :
    shiftRight w a n c < 2 ^ w ∧ ∀ k, k < w → (shiftRight w a n c).testBit k = (decide (k + n < w) && a.testBit (k + n)) := by
  unfold shiftRight
  split
  · refine ⟨Nat.two_pow_pos w, fun k hk => ?_⟩
    rw [Nat.zero_testBit, decide_eq_false (by omega), Bool.false_and]
  · refine ⟨Nat.lt_of_le_of_lt (Nat.div_le_self _ _) (Nat.mod_lt _ (Nat.two_pow_pos w)), fun k hk => ?_⟩
    rw [Nat.testBit_div_two_pow, Nat.testBit_mod_two_pow]

theorem extended_true (k : Nat) : extended true w a k = a.testBit (min k (w - 1)) := by
  unfold extended
  split
  · rw [Nat.min_eq_left (by omega)]
  · rw [Nat.min_eq_right (by omega), Bool.true_and]

theorem shiftArith_bits :
    shiftArith w a n c < 2 ^ w ∧ ∀ k, k < w → (shiftArith w a n c).testBit k = a.testBit (min (k + n) (w - 1)) := by
  refine ⟨intBits_lt .., fun k hk => ?_⟩
  rw [shiftArith, testBit_intBits _ _ hk, intBit_div, intBit_intOf _ (by omega), extended_true]
  congr 1
  omega

theorem rotateLeft_bits :
    rotateLeft w a n c < 2 ^ w ∧ ∀ k, k < w → (rotateLeft w a n c).testBit k = a.testBit ((k + (w - n % w)) % w) := by
  refine ⟨Nat.mod_lt _ (Nat.two_pow_pos w), fun k hk => ?_⟩
  have hr : n % w < w := Nat.mod_lt _ (by omega)
  have hlow : a % 2 ^ w / 2 ^ (w - n % w) < 2 ^ (n % w) := by
    rw [Nat.div_lt_iff_lt_mul (Nat.two_pow_pos _), ← Nat.pow_add, Nat.add_sub_cancel' (Nat.le_of_lt hr)]
    exact Nat.mod_lt _ (Nat.two_pow_pos w)
  unfold rotateLeft
  dsimp only
  rw [Nat.testBit_mod_two_pow, decide_eq_true hk, Bool.true_and, Nat.mul_comm, Nat.testBit_two_pow_mul_add _ hlow]
  split
  · have hmod : (k + (w - n % w)) % w = k + (w - n % w) := Nat.mod_eq_of_lt (by omega)
    rw [Nat.testBit_div_two_pow, Nat.testBit_mod_two_pow, hmod, decide_eq_true (by omega), Bool.true_and]
  · have hmod : (k + (w - n % w)) % w = k - n % w := by
      rw [show k + (w - n % w) = k - n % w + w by omega, Nat.add_mod_right, Nat.mod_eq_of_lt (by omega)]
    rw [hmod]

theorem tril_bits (code b : Nat) : tril code w a b c < 2 ^ w ∧ ∀ k, k < w → (tril code w a b c).testBit k =
    code.testBit ((if a.testBit k then 1 else 0) + 2 * (if b.testBit k then 1 else 0) + 4 * (if c.testBit k then 1 else 0)) := by
  have hstep : ∀ i, (if a.testBit i then 1 else 0) + (if b.testBit i then 2 else 0) + (if c.testBit i then 4 else 0) =
      (if a.testBit i then 1 else 0) + 2 * (if b.testBit i then 1 else 0) + 4 * (if c.testBit i then 1 else 0) := fun i => by
    cases a.testBit i <;> cases b.testBit i <;> cases c.testBit i <;> rfl
  have hsum : tril code w a b c = bitSum (fun k =>
      code.testBit ((if a.testBit k then 1 else 0) + 2 * (if b.testBit k then 1 else 0) + 4 * (if c.testBit k then 1 else 0))) w := by
    rw [tril, ← foldl_up]
    simp only [hstep]
  rw [hsum]
  exact bitSum_bits _ w

theorem bitReverse_bits : bitReverse w a n c < 2 ^ w ∧ ∀ k, k < w → (bitReverse w a n c).testBit k = a.testBit (w - 1 - k) := by
  rw [bitReverse, foldl_down]
  exact bitSum_bits (fun i => a.testBit (w - 1 - i)) w

theorem popCount_eq : popCount w a n c = ((List.range w).filter fun k => a.testBit k).length := by
  have hlen : ∀ l : List Nat, l.foldl (fun n _ => n + 1) 0 = l.length := fun l =>
    List.foldl_add_const.trans (by rw [Nat.one_mul, Nat.zero_add])
  rw [← hlen, List.foldl_filter, popCount]

theorem leadingZeros_le : leadingZeros w a n c ≤ w := by
  unfold leadingZeros
  split <;> omega

theorem testBit_eq_mod {k : Nat} (hk : k < w) : a.testBit k = (a % 2 ^ w).testBit k := by
  rw [Nat.testBit_mod_two_pow, decide_eq_true hk, Bool.true_and]

theorem testBit_of_lt_leadingZeros {k : Nat} (hk : k < leadingZeros w a n c) : a.testBit (w - 1 - k) = false := by
  have hw := leadingZeros_le w a n c
  rw [testBit_eq_mod w a (by omega)]
  unfold leadingZeros at hk
  split at hk
  next h => rw [h, Nat.zero_testBit]
  next h => exact Nat.testBit_lt_two_pow (Nat.lt_of_lt_of_le Nat.lt_log2_self (Nat.pow_le_pow_right (by decide) (by omega)))

theorem testBit_leadingZeros (h : leadingZeros w a n c < w) : a.testBit (w - 1 - leadingZeros w a n c) = true := by
  rw [testBit_eq_mod w a (by omega)]
  unfold leadingZeros at h ⊢
  split at h
  · omega
  next h0 =>
    have hlog : (a % 2 ^ w).log2 < w := (Nat.log2_lt h0).2 (Nat.mod_lt _ (Nat.two_pow_pos w))
    rw [if_neg h0, show w - 1 - (w - 1 - (a % 2 ^ w).log2) = (a % 2 ^ w).log2 by omega]
    exact Nat.testBit_log2 h0

theorem fieldExtract_bits (signed : Bool) : fieldExtract signed w a n < 2 ^ w ∧ ∀ k, k < w → (fieldExtract signed w a n).testBit k =
    (decide (min (n / 256 % 256) w ≠ 0) && if k < min (n / 256 % 256) w then extended signed w a (n % 256 + k)
      else signed && extended signed w a (n % 256 + min (n / 256 % 256) w - 1)) := by
  unfold fieldExtract
  dsimp only
  generalize min (n / 256 % 256) w = len
  split
  next h => exact ⟨Nat.two_pow_pos w, fun k _ => by rw [Nat.zero_testBit, decide_eq_false (not_not_intro h), Bool.false_and]⟩
  next h =>
    refine ⟨intBits_lt .., fun k hk => ?_⟩
    have hfield : ∀ m, m < len → (intBits len (intOf signed w a / ((2 ^ (n % 256) : Nat) : Int))).testBit m = extended signed w a (n % 256 + m) := fun m hm => by
      rw [testBit_intBits _ _ hm, intBit_div, intBit_intOf _ (by omega)]
    rw [testBit_intBits _ _ hk, intBit_intOf _ (by omega), decide_eq_true h, Bool.true_and, extended, ← intBits, Nat.add_sub_assoc (by omega)]
    split
    next hm => exact hfield k hm
    · rw [hfield _ (by omega)]

theorem fieldInsert_bits : fieldInsert w a n c < 2 ^ w ∧ ∀ k, k < w → (fieldInsert w a n c).testBit k =
    if n % 256 ≤ k ∧ k < n % 256 + min (n / 256 % 256) w then a.testBit (k - n % 256) else c.testBit k := by
  unfold fieldInsert
  dsimp only
  simp only [decide_eq_true_iff]
  rw [foldl_up]
  exact bitSum_bits _ w

end

/-! ### The jobs -/

/-- The count or selector of a lane is its source b, read as .n32. -/
theorem selector_eq {x : Alu} {p : AluSpec} (hp : p.tb = some .n32) (e : Env) (l : Nat) : selector e x l = (e.srcs x p l).b.n := by
  unfold selector Env.srcs
  rw [hp]
  cases x.imm <;> rfl

/-- What a bitwise instruction computes in a lane has the bits the rules give. -/
theorem bitRule_of_bitJob {i : Instr} {j : Job} (hj : bitJob i = some j) (hb : isBitwise i = true) (e : Env) (l : Nat) :
    BitRule i j.x (e.srcs j.x j.p l) (selector e j.x l) (j.f e (e.srcs j.x j.p l)).n := by
  have hsel : j.p.tb = some .n32 → selector e j.x l = (e.srcs j.x j.p l).b.n := fun hp => selector_eq hp e l
  generalize e.srcs j.x j.p l = z at hsel ⊢
  cases i with
  | shl h f | shlI h f =>
    cases hj
    rw [hsel rfl]
    exact shiftLeft_bits _ z.a.n z.b.n z.c.n
  | shr h f | shrI h f =>
    cases hj
    rw [hsel rfl]
    exact shiftRight_bits _ z.a.n z.b.n z.c.n
  | sar h f =>
    cases hj
    rw [hsel rfl]
    exact shiftArith_bits _ z.a.n z.b.n z.c.n
  | rotl h f =>
    cases hj
    rw [hsel rfl]
    exact rotateLeft_bits _ z.a.n z.b.n z.c.n
  | tril h f | trilI h f =>
    cases hj
    exact tril_bits _ z.a.n z.c.n _ z.b.n
  | popc h f =>
    cases hj
    exact popCount_eq _ z.a.n z.b.n z.c.n
  | clz h f =>
    cases hj
    exact ⟨leadingZeros_le _ z.a.n z.b.n z.c.n, fun k hk => testBit_of_lt_leadingZeros _ z.a.n z.b.n z.c.n hk,
      testBit_leadingZeros _ z.a.n z.b.n z.c.n⟩
  | brev h f =>
    cases hj
    exact bitReverse_bits _ z.a.n z.b.n z.c.n
  | bfe h f | bfeI h f =>
    cases hj
    rw [hsel rfl]
    exact fieldExtract_bits _ z.a.n z.b.n _
  | bfi h f | bfiI h f =>
    cases hj
    rw [hsel rfl]
    exact fieldInsert_bits _ z.a.n z.b.n z.c.n
  | _ => cases hb

/-- An instruction that comes to its effect is admitted as written (checks 4 and 5 of R106). -/
theorem Executes.trap_none {s : State} {e : Env} {i : Instr} {h : Hdr} (hex : Executes s e i) (hi : Instr.hdr i = some h) :
    (Instr.form i).trap h = none := by
  obtain ⟨-, hcheck, -, -⟩ := hex
  cases hp : e.privileged i with
  | false => rw [Env.check_unprivileged hp] at hcheck; cases hcheck
  | true =>
    cases ht : (Instr.form i).trap h with
    | none => rfl
    | some code => rw [Env.check_privileged hp, Env.check5_word hi ht] at hcheck; cases hcheck

theorem Form.ok_of_trap_none {F : Form} {h : Hdr} (ht : F.trap h = none) : F.ok = true := by
  cases hok : F.ok with
  | true => rfl
  | false =>
    unfold Form.trap at ht
    rw [hok, Bool.false_and, Bool.false_and, Bool.not_false, if_pos rfl] at ht
    split at ht <;> cases ht

/-- The function bits of an admitted instruction of formats A and I are those of its table. -/
theorem fnOk_of_trap_none {x : Alu} {p : AluSpec} {h : Hdr} (ht : (x.form p).trap h = none) : p.fnOk = true := by
  have hok := Form.ok_of_trap_none ht
  simp only [Alu.form, Form.of, Bool.and_eq_true] at hok
  obtain ⟨⟨⟨⟨⟨-, hfn⟩, -⟩, -⟩, -⟩, -⟩ := hok
  exact hfn

/-- TRIL executes only with function bits [9:8] zero. -/
theorem tril_fn_lt {s : State} {e : Env} {h : Hdr} {f : FmtA} (hex : Executes s e (.tril h f)) : (Alu.ofA h f).fn < 256 :=
  of_decide_eq_true (fnOk_of_trap_none (p := specTril (Alu.ofA h f)) (Executes.trap_none hex rfl))

end Sys2Proof.Machine

namespace Sys2Proof.Claims
open Sys2Proof.Machine

/-- Settles O47: a bitwise instruction delivers what its job computes, whose bits are those of the rules. -/
theorem bitwiseResultsFollowTheRules : Obligations.BitwiseResultsFollowTheRules := by
  intro s e i j hj hb hex
  refine ⟨fun l => (lane e j l).n, exec_delivers (.inr hj) hex, fun l _ => bitRule_of_bitJob hj hb e (srcLane e j l), ?count, ?tril, ?bfi⟩
  case count =>
    rintro h f (rfl | rfl) <;> cases hj <;> rfl
  case tril =>
    rintro h f rfl
    cases hj
    exact tril_fn_lt hex
  case bfi =>
    rintro h f rfl
    cases hj
    rfl

end Sys2Proof.Claims

/-! PROOFS. What votes, predicate instructions, moves between lanes, folds and matches deliver (R209–R216, R222). -/
namespace Sys2Proof.Machine
open Sys2Proof.Claims (each voted)

/-! ### Results that raise no flag -/

/-- Results without flags, one for each lane that takes effect, are delivered as they are. -/
theorem Env.finish_each (e : Env) (s : State) (h : Hdr) (d : Opnd) (words : Nat) (signed : Bool) (v : Nat → Nat) (bad : Nat → Bool) :
    e.finish s h d words signed ((e.lanes (e.effect h)).map fun l => ({ lane := l, n := v l, badLo := bad l, badHi := bad l }, 0)) =
      .ok (s.upd e (e.deliver h d words signed (each e h v bad))) := by
  rw [Env.finish_silent, List.map_map]
  · rfl
  · intro r hr
    obtain ⟨l, -, rfl⟩ := List.mem_map.1 hr
    rfl

/-- Raising no flag changes nothing, so that raising need not ask whether there is one. -/
theorem Quire.raise_of_flags (q : Quire) (fl : Fl) : (if fl = 0 then q else q.raise fl) = q.raise fl := by
  split
  next h0 => rw [h0, Quire.raise_zero]
  · rfl

/-! ### Moving values between lanes -/

section
variable (e : Env) (s : State) {x : Alu}

theorem Env.xlane_delivers {size : Nat} (hs : e.segment (x.fn / 4 % 16) = some size) :
    e.xlane s x =
      let b := fun l => e.readTy x.b (if x.fn % 4 = 1 then .i32 else .n32) l
      let a := fun l => e.readTy x.a x.ty (xlaneSource (x.fn % 4) size l (b l).n)
      .ok (s.upd e (e.deliver x.h x.d x.ty.words false (each e x.h (fun l => (a l).n) fun l => (a l).bad || (b l).bad))) := by
  unfold Env.xlane
  rw [hs]
  exact Env.finish_each ..

theorem Env.ubcast_delivers {m : Nat} (hm : LaneSet.lowest e.width (e.contrib x.h) = some m) :
    e.ubcast s x = .ok (s.upd e (e.deliver x.h x.d x.ty.words false
      (each e x.h (fun _ => (e.readTy x.a x.ty m).n) fun _ => (e.readTy x.a x.ty m).bad))) := by
  unfold Env.ubcast
  rw [hm]
  exact Env.finish_each ..

theorem Env.maskrd_delivers (hw : x.fn / 4 % 8 < e.words) :
    e.maskrd s x =
      let m := if x.fn % 4 = 0 then e.active else if x.fn % 4 = 1 then e.view.padding else e.view.absent &&& e.allLanes
      .ok (s.upd e (e.deliver x.h x.d 1 false (each e x.h
        (fun l => if x.fn % 4 = 3 then e.summary e.path else (m.word (if x.d.isScal then x.fn / 4 % 8 else l / 32)).toNat) fun _ => false))) := by
  unfold Env.maskrd
  extract_lets r kind w m m'
  have hmask : m = m' := by
    unfold m m' kind
    generalize x.fn % 4 = k
    match k with
    | 0 | 1 | _ + 2 => rfl
  rw [if_neg (Nat.not_le.2 hw), hmask]
  exact Env.finish_each ..

/-! ### Predicates and votes -/

theorem Env.pmov_reads (hd : x.fn.testBit 9 = false) :
    e.pmov s x = .ok (s.upd e (e.deliver x.h x.d 1 false (each e x.h (predWord e.view) fun _ => false))) := by
  unfold Env.pmov
  rw [hd]
  exact Env.finish_each ..

theorem Env.pmov_writes (hd : x.fn.testBit 9 = true) :
    e.pmov s x = .ok (s.upd e fun q => { q with regs := (List.range 8).foldl (fun r k =>
      if x.fn.testBit k && k != 0 then r.pput k (e.effect x.h) (e.pick (e.effect x.h) fun l => (e.readTy x.a .n32 l).n.testBit k) else r) q.regs }) := by
  unfold Env.pmov
  rw [hd]
  rfl

/-- The lanes POLL counts (R211): those that contribute and whose predicate holds, or does not where it is negated. -/
def polled (e : Env) (x : Alu) : LaneSet :=
  (if x.fn.testBit 3 then ~~~(e.view.pget (x.fn % 8)) else e.view.pget (x.fn % 8)) &&& e.contrib x.h

/-- What POLL decides in a mode that writes a predicate: all, any, none, uniform. -/
def pollHolds (e : Env) (x : Alu) : Nat → Bool
  | 0 => polled e x == e.contrib x.h
  | 1 => polled e x != 0
  | 2 => polled e x == 0
  | _ => polled e x == e.contrib x.h || polled e x == 0

theorem Env.poll_votes {mode : Nat} (hm : x.fn / 128 = mode) (hlt : mode < 4) :
    e.poll s x = .ok (s.upd e (voted e x.h (x.fn / 16 % 8) (pollHolds e x mode))) := by
  unfold Env.poll
  rw [hm]
  match mode with
  | 0 | 1 | 2 | 3 => rfl

theorem Env.poll_mask_vector (hm : x.fn / 128 = 4) (hd : x.d.isScal = false) :
    e.poll s x = .ok (s.upd e (e.deliver x.h x.d 1 false (each e x.h (fun l => (wordOf (polled e x) l).toNat) fun _ => false))) := by
  unfold Env.poll
  rw [hm, hd]
  exact Env.finish_each ..

theorem Env.poll_mask_scalar (hm : x.fn / 128 = 4) (hd : x.d.isScal = true) (hw : e.width ≤ 64) :
    e.poll s x = .ok (s.upd e (e.deliver x.h x.d 2 false (each e x.h (fun _ => ((polled e x).extractLsb' 0 64).toNat) fun _ => false))) := by
  unfold Env.poll
  rw [hm, hd]
  exact (if_neg (Nat.not_lt.2 hw)).trans (Env.finish_each ..)

theorem Env.poll_mask_wide (hm : x.fn / 128 = 4) (hd : x.d.isScal = true) (hw : 64 < e.width) : e.poll s x = e.trapRes s 0x03 0 := by
  unfold Env.poll
  rw [hm, hd]
  exact if_pos hw

theorem Env.poll_counts (hm : 5 ≤ x.fn / 128) :
    e.poll s x = .ok (s.upd e (e.deliver x.h x.d 1 false (each e x.h (fun _ => (e.lanes (polled e x)).length) fun _ => false))) := by
  obtain ⟨k, hk⟩ := Nat.exists_eq_add_of_le' hm
  unfold Env.poll
  rw [hk]
  exact Env.finish_each ..

/-! ### Folds and MATCH -/

theorem Env.fold_untrapped (scan : Bool) {size : Nat} (hs : e.segment (x.fn / 8 % 16) = some size) {segs : List Fold}
    (hsegs : (List.range (e.width / size)).map (fun k =>
      e.foldSegment x scan (e.effect x.h) (e.contrib x.h) ((List.range size).map fun i => k * size + i)) = segs)
    (ht : e.flagTrap (segs.flatMap Fold.fl) = none) :
    e.fold s x scan = .ok (s.upd e fun q =>
      e.deliver x.h x.d x.ty.words (x.ty == .i32) ((segs.flatMap Fold.out).map Prod.fst) (q.raise (flUnion (segs.flatMap Fold.fl)))) := by
  unfold Env.fold
  simp only [hs, hsegs, ht, Quire.raise_of_flags]

end

theorem FMap.insert_insert_same {α : Type} (m : FMap α) (k : Nat) (a b : α) : FMap.insert (FMap.insert m k a) k b = FMap.insert m k b := by
  induction m with
  | nil => simp [FMap.insert]
  | cons x m ih =>
    obtain ⟨j, c⟩ := x
    by_cases hlt : k < j
    · simp [FMap.insert, hlt]
    · by_cases heq : k = j
      · simp [FMap.insert, heq]
      · simp [FMap.insert, hlt, heq, ih]

theorem FMap.modify_modify {α : Type} (m : FMap α) (k : Nat) (f g : α → α) :
    FMap.modify (FMap.modify m k f) k g = FMap.modify m k fun a => g (f a) := by
  cases hm : FMap.find m k with
  | none => simp only [FMap.modify, hm]
  | some a => simp only [FMap.modify, hm, FMap.find_insert_self, FMap.insert_insert_same]

/-- Two updates of a quire are one. -/
theorem State.upd_upd (s : State) (e : Env) (f g : Quire → Quire) : (s.upd e f).upd e g = s.upd e fun q => g (f q) := by
  unfold State.upd State.modQuire
  rw [FMap.modify_modify]

/-- Whether all lanes that contribute hold one value of MATCH's operand. -/
def matchAll (e : Env) (x : Alu) : Bool :=
  match e.lanes (e.contrib x.h) with
  | [] => true
  | k :: ks => ks.all fun l => (e.readTy x.a x.ty l).n == (e.readTy x.a x.ty k).n

/-- The lanes of lane `l`'s mask word that contribute to MATCH. -/
def matchPeers (e : Env) (x : Alu) (l : Nat) : List Nat := (e.lanes (e.contrib x.h)).filter fun k => k / 32 == l / 32

/-- The mask MATCH delivers in lane `l`: the lanes of its mask word that hold its value. -/
def matchMask (e : Env) (x : Alu) (l : Nat) : Nat :=
  (matchPeers e x l).foldl (fun n k => if (e.readTy x.a x.ty k).n = (e.readTy x.a x.ty l).n then n + 2 ^ (k % 32) else n) 0

/-- Poison of MATCH's result in lane `l`: its own value's, or that of a lane it is compared with. -/
def matchBad (e : Env) (x : Alu) (l : Nat) : Bool := (e.readTy x.a x.ty l).bad || (matchPeers e x l).any fun k => (e.readTy x.a x.ty k).bad

theorem Env.matchLanes_delivers (e : Env) (s : State) (x : Alu) :
    e.matchLanes s x = .ok (s.upd e fun q => voted e x.h (x.fn % 8) (matchAll e x)
      (e.deliver x.h x.d 1 false (each e x.h (matchMask e x) (matchBad e x)) q)) := by
  unfold Env.matchLanes
  extract_lets f v vals same outs
  have hsame : same = matchAll e x := by
    unfold same vals matchAll
    cases e.lanes v with
    | nil => rfl
    | cons k ks => exact List.all_map
  have houts : outs = (e.lanes f).map fun l =>
      ({ lane := l, n := matchMask e x l, badLo := matchBad e x l, badHi := matchBad e x l }, 0) := by
    unfold outs vals
    simp only [List.filter_map, List.foldl_map, List.any_map, Function.comp_def]
    rfl
  rw [houts, hsame, Env.finish_each]
  exact congrArg Except.ok (State.upd_upd ..)

end Sys2Proof.Machine

namespace Sys2Proof.Claims
open Sys2Proof.Machine

/-- Settles O5: none of the moves raises a flag, so that each delivers the value it finds. -/
theorem crossLaneMovesDeliver : Obligations.CrossLaneMovesDeliver := by
  intro s e h f x
  refine ⟨fun size hex hs => ?xlane, fun hex => ?sread, fun m hex hm => ?ubcast, fun hex hw => ?maskrd⟩
  case xlane => exact State.perform_ok (body := fun e s => e.xlane s x) hex (Env.xlane_delivers e s hs)
  case sread => exact State.perform_ok (body := fun e s => e.sread s x) hex (Env.finish_each ..)
  case ubcast => exact State.perform_ok (body := fun e s => e.ubcast s x) hex (Env.ubcast_delivers e s hm)
  case maskrd => exact State.perform_ok (body := fun e s => e.maskrd s x) hex (Env.maskrd_delivers e s hw)

/-- Settles O6: POLL by its mode; modes 0 to 3 vote, 4 and above deliver. -/
theorem pollVotes : Obligations.PollVotes := by
  intro s e h f x v q pd hex
  have votes : ∀ {mode : Nat}, x.fn / 128 = mode → mode < 4 → exec (.poll h f) s = .next (s.upd e (voted e h pd (pollHolds e x mode))) :=
    fun hm hlt => State.perform_ok (body := fun e s => e.poll s x) hex (Env.poll_votes e s hm hlt)
  exact ⟨fun hm => votes (mode := 0) hm (by decide), fun hm => votes (mode := 1) hm (by decide),
    fun hm => votes (mode := 2) hm (by decide), fun hm => votes (mode := 3) hm (by decide),
    fun hm hd => State.perform_ok (body := fun e s => e.poll s x) hex (Env.poll_mask_vector e s hm hd),
    fun hm hd hw => State.perform_ok (body := fun e s => e.poll s x) hex (Env.poll_mask_scalar e s hm hd hw),
    fun hm hd hw => State.perform_trapRes (body := fun e s => e.poll s x) hex (Env.poll_mask_wide e s hm hd hw),
    fun hm => State.perform_ok (body := fun e s => e.poll s x) hex (Env.poll_counts e s hm)⟩

/-- Settles O7: PLOP is an update of its quire, and bit 9 of PMOV's function says which way it moves. -/
theorem predicateInstructionsWrite : Obligations.PredicateInstructionsWrite := by
  intro s e h f x
  refine ⟨fun hex => ?plop, fun hex hd => ?reads, fun hex hd => ?writes⟩
  case plop => exact State.local_executes hex fun e q => plop e x q
  case reads => exact State.perform_ok (body := fun e s => e.pmov s x) hex (Env.pmov_reads e s hd)
  case writes => exact State.perform_ok (body := fun e s => e.pmov s x) hex (Env.pmov_writes e s hd)

/-- Settles O8: a fold and a scan are one computation, segment by segment; MATCH delivers, then writes its predicate. -/
theorem foldsAndMatchesDeliver : Obligations.FoldsAndMatchesDeliver := by
  intro s e h f x
  constructor
  · intro scan size hex hs segs ht
    have hfold := Env.fold_untrapped e s (x := x) scan hs rfl ht
    cases scan with
    | false => exact State.perform_ok (body := fun e s => e.fold s x false) hex hfold
    | true => exact State.perform_ok (body := fun e s => e.fold s x true) hex hfold
  · intro hex
    exact State.perform_ok (body := fun e s => e.matchLanes s x) hex (Env.matchLanes_delivers e s x)

end Sys2Proof.Claims

/-! PROOFS. What the window instructions write, and the guard of what executes once per quire (R208, R217–R219, R223). -/
namespace Sys2Proof.Machine
open Sys2Proof.Claims (Clean CleanLanes)

/-! ### Windows -/

/-- What an instruction tests of a once-per-quire operand before it traps on poison. -/
theorem bad_contrib_of_clean {e : Env} {h : Hdr} {o : Opnd} {t : Ty} (hc : Clean e h o t) : ((e.readOnce h o t).bad && e.contrib h != 0) = false := by
  rcases hc with hb | h0
  · rw [hb, Bool.false_and]
  · rw [h0, bne_self_eq_false, Bool.and_false]

section
variable {e : Env} (x : Alu) (s : State) (hall : e.uniform x.h = .all)
include hall

theorem Env.swrite_fpmode (hc : Clean e x.h x.a .i64) (hf : x.fn = 0x12) (hr : (e.readOnce x.h x.a .i64).n % 8 < 5) :
    e.swrite s x = .ok (s.upd e fun q => { q with regs := { q.regs with fpmode := e.fpmodeOf (e.readOnce x.h x.a .i64).n } }) := by
  unfold Env.swrite
  rw [Env.onceUniform_all hall]
  dsimp only
  rw [bad_contrib_of_clean hc, if_neg Bool.false_ne_true, if_pos hf, if_neg (Nat.not_le.2 hr)]

theorem Env.swrite_fpflags (hc : Clean e x.h x.a .i64) (hf : x.fn ≠ 0x12) :
    e.swrite s x = .ok (s.upd e fun q => { q with regs := { q.regs with fpflags := BitVec.ofNat 64 ((e.readOnce x.h x.a .i64).n % 32) } }) := by
  unfold Env.swrite
  rw [Env.onceUniform_all hall]
  dsimp only
  rw [bad_contrib_of_clean hc, if_neg Bool.false_ne_true, if_neg hf]

theorem Env.claim_grows (hc : Clean e x.h x.a .n32) (hn : (e.readOnce x.h x.a .n32).n ≠ 0)
    (ha : e.q.regs.reserve + (e.readOnce x.h x.a .n32).n ≤ e.vol.pkt.alloc) (hw : e.q.regs.reserve + (e.readOnce x.h x.a .n32).n ≤ 128 / e.words) :
    e.claim s x = .ok (s.upd e fun q => { q with
      claimed := q.claimed - (e.readOnce x.h x.a .n32).n, regs := { q.regs with reserve := q.regs.reserve + (e.readOnce x.h x.a .n32).n } }) := by
  unfold Env.claim
  rw [Env.onceUniform_all hall]
  dsimp only
  rw [bad_contrib_of_clean hc, if_neg Bool.false_ne_true, if_neg hn, if_neg (not_or.2 ⟨Nat.not_lt.2 ha, Nat.not_lt.2 hw⟩)]

theorem Env.surr_shrinks (hc : Clean e x.h x.a .n32) (hn : (e.readOnce x.h x.a .n32).n < e.q.regs.reserve) :
    e.surr s x = .ok (s.upd e fun q => { q with regs := { q.regs with
      reserve := q.regs.reserve - (e.readOnce x.h x.a .n32).n, surrendered := q.regs.surrendered + (e.readOnce x.h x.a .n32).n } }) := by
  unfold Env.surr
  rw [Env.onceUniform_all hall]
  dsimp only
  rw [bad_contrib_of_clean hc, if_neg Bool.false_ne_true, if_neg (by omega)]

theorem Env.padOn_pads {m : LaneSet} (hm : e.padWords x.fn = some m) (hs : e.view.stack.any StackEntry.isReconv = false) :
    e.padOn s x = .ok (s.upd e fun q =>
      let n := q.regs.absent &&& m &&& e.allLanes
      { q with regs := { q.regs with padding := q.regs.padding ||| n, absent := q.regs.absent &&& ~~~n, path := q.regs.path ||| n } }) := by
  unfold Env.padOn
  rw [Env.onceUniform_all hall, hm]
  dsimp only
  rw [hs, if_neg Bool.false_ne_true]

theorem Env.padOff_drops {m : LaneSet} (hm : e.padWords x.fn = some m) :
    e.padOff s x = .ok (s.upd e fun q => { q with regs := q.regs.dropLanes (q.regs.padding &&& m) }) := by
  unfold Env.padOff
  rw [Env.onceUniform_all hall, hm]

end

/-- A fold whose step leaves its start alone at every element of the list ends where it began. -/
theorem foldl_unchanged_of_mem {α β : Type} {g : β → α → β} {b : β} {l : List α} (h : ∀ a ∈ l, g b a = b) : l.foldl g b = b := by
  induction l with
  | nil => rfl
  | cons a l ih =>
    rw [List.foldl_cons, h a List.mem_cons_self]
    exact ih fun c hc => h c (List.mem_cons_of_mem _ hc)

/-- What XSET, and XADD where `add` holds, leave in the index register of a lane (R218). -/
def xregValue (e : Env) (x : Alu) (add : Bool) (l : Nat) : W32 :=
  if add then BitVec.ofNat 32 (e.readTy x.a .i32 l).n + e.view.xget (x.fn % 4) l else BitVec.ofNat 32 (e.readTy x.a .i32 l).n

theorem xregValue_eq (e : Env) (x : Alu) (add : Bool) (l : Nat) :
    BitVec.ofNat 32 (e.readTy x.a .i32 l).n + (if add then e.view.xget (x.fn % 4) l else 0) = xregValue e x add l := by
  cases add with
  | false => exact BitVec.add_zero _
  | true => rfl

/-- XSET and XADD write the index register of each lane that takes effect (R218). -/
theorem Env.xreg_writes {e : Env} (x : Alu) (s : State) (add : Bool) (hc : CleanLanes e x.h x.a .i32) :
    e.xreg s x add = .ok (s.upd e fun q =>
      { q with regs := (e.lanes (e.effect x.h)).foldl (fun r l => r.xput (x.fn % 4) l (xregValue e x add l)) q.regs }) := by
  unfold Env.xreg
  extract_lets f k vals bad
  have hbad : bad = 0 := by
    refine foldl_unchanged_of_mem fun p hp => if_neg ?_
    obtain ⟨l, hl, rfl⟩ := List.mem_map.1 hp
    rw [Bool.and_eq_true_iff, Bool.not_eq_true']
    rintro ⟨hb, hpad⟩
    exact Bool.false_ne_true ((hc l hl hpad).symm.trans hb)
  rw [if_neg fun hne => hne hbad]
  unfold vals k
  simp only [List.foldl_map, xregValue_eq]
  rfl

/-! ### A guard that is not true in every lane (R208) -/

theorem Env.onceUniform_none {e : Env} {h : Hdr} (hn : e.uniform h = .none) (s : State) (k : Res State) : e.onceUniform s h k = .ok s := by
  rw [Env.onceUniform, hn]

theorem Env.onceUniform_mixed {e : Env} {h : Hdr} (hm : e.uniform h = .mixed) (s : State) (k : Res State) :
    e.onceUniform s h k = e.trapRes s 0x06 2 := by
  rw [Env.onceUniform, hm]

/-- What executes once per quire does so under its own guard. -/
theorem exec_of_uniformOnly {i : Instr} {h : Hdr} (hu : Claims.uniformOnly i = true) (hi : Instr.hdr i = some h) :
    ∃ k : Env → State → Res State, ∀ s, exec i s = s.perform i fun e s => e.onceUniform s h (k e s) := by
  cases i
  case loop g f =>
    obtain ⟨target, reconv, a, m⟩ := f
    cases hi
    cases a <;> cases hu
    exact ⟨_, fun _ => rfl⟩
  all_goals cases hu
  all_goals
    cases hi
    exact ⟨_, fun _ => rfl⟩

end Sys2Proof.Machine

namespace Sys2Proof.Claims
open Sys2Proof.Machine

/-- Settles O9: each instruction past the checks its clause rules out. -/
theorem windowInstructionsWrite : Obligations.WindowInstructionsWrite := by
  intro s e h f x
  refine ⟨fun hex hall hc hf hr => ?fpmode, fun hex hall hc hf => ?fpflags, fun hex hc => ?xset, fun hex hc => ?xadd,
    fun hex hall hc hn ha hw => ?claim, fun hex hall hc hn => ?surr, fun m hex hall hm hs => ?pad, fun m hex hall hm => ?unpad⟩
  case fpmode => exact State.perform_ok (body := fun e s => e.swrite s x) hex (Env.swrite_fpmode x s hall hc hf hr)
  case fpflags => exact State.perform_ok (body := fun e s => e.swrite s x) hex (Env.swrite_fpflags x s hall hc hf)
  case xset => exact State.perform_ok (body := fun e s => e.xreg s x false) hex (Env.xreg_writes x s false hc)
  case xadd => exact State.perform_ok (body := fun e s => e.xreg s x true) hex (Env.xreg_writes x s true hc)
  case claim => exact State.perform_ok (body := fun e s => e.claim s x) hex (Env.claim_grows x s hall hc hn ha hw)
  case surr => exact State.perform_ok (body := fun e s => e.surr s x) hex (Env.surr_shrinks x s hall hc hn)
  case pad => exact State.perform_ok (body := fun e s => e.padOn s x) hex (Env.padOn_pads x s hall hm hs)
  case unpad => exact State.perform_ok (body := fun e s => e.padOff s x) hex (Env.padOff_drops x s hall hm)

/-- Settles O11: each such instruction is its computation under the guard of R208, which comes first. -/
theorem uniformGuardsAreRequired : Obligations.UniformGuardsAreRequired := by
  intro s e i h hu hi hex
  obtain ⟨k, hk⟩ := exec_of_uniformOnly hu hi
  rw [hk]
  exact ⟨fun hn => State.perform_ok hex (Env.onceUniform_none hn ..), fun hm => State.perform_trapRes hex (Env.onceUniform_mixed hm ..)⟩

end Sys2Proof.Claims

/-! PROOFS. What the commands of the streamer queue (R260–R267, R339, R424). -/
namespace Sys2Proof.Machine
open Sys2Proof.Claims (Handles Reaches commanded)

section
variable {e : Env} {s : State} {h : Hdr} {f : FmtE} {n : Nat}

/-! ### The frame of group 0x9 and its checks (R260, R262) -/

theorem Env.handleOp_handles {o : Opnd} {producer : Bool} {others : List (Val × Nat)} (hh : Handles e h o producer (others.map Prod.fst) n)
    (k : Nat → Res State) : e.handleOp s h o producer others k = k n := by
  obtain ⟨hall, hlane, hn, hprod, hclean⟩ := hh
  have hproducer : (producer && e.vol.pkt.producer != e.q.index) = false := by
    cases producer with
    | false => rfl
    | true => exact bne_eq_false_iff_eq.2 (hprod rfl)
  have hpoison : ((({ n := n, bad := false } : Val), 8) :: others).find? (fun v => v.1.bad) = none :=
    List.find?_eq_none.2 fun v hv => ne_true_of_eq_false <| (List.mem_cons.1 hv).elim (fun heq => heq ▸ rfl)
      fun hmem => hclean v.1 (List.mem_map_of_mem hmem)
  simp only [Env.handleOp, Env.onceUniform_all hall, if_neg hlane, hproducer, hn, hpoison, Bool.false_eq_true, if_false]

theorem Env.checkVal_passes {bad : Bool} (hb : bad = false) (code addr : Nat) (k : Res State) : e.checkVal s bad code addr k = k :=
  if_neg (ne_true_of_eq_false hb)

theorem Env.checkVal_aligned {a m : Nat} (ha : a % m = 0) (code addr : Nat) (k : Res State) : e.checkVal s (a % m != 0) code addr k = k :=
  Env.checkVal_passes (bne_eq_false_iff_eq.2 ha) code addr k

theorem Env.checkVal_canonical {a : Nat} (ha : canonical a = true) (code addr : Nat) (k : Res State) :
    e.checkVal s (!canonical a) code addr k = k :=
  Env.checkVal_passes (Bool.not_eq_eq_eq_not.2 ha) code addr k

theorem Env.addrChecks_reaches {dspad : Bool} {a len : Nat} (hr : Reaches e dspad a len) (k : Res State) : e.addrChecks s dspad a len k = k := by
  obtain ⟨hwindow, halign, hcanon⟩ := hr
  have hcanonical : (!dspad && !canonical a) = false :=
    Bool.and_eq_false_imp.2 fun hd => Bool.not_eq_eq_eq_not.2 (hcanon (Bool.not_eq_eq_eq_not.1 hd))
  rw [Env.addrChecks, Env.checkVal_passes (Bool.and_eq_false_imp.2 hwindow), Env.checkVal_passes (decide_eq_false (not_not_intro halign)),
    Env.checkVal_passes hcanonical]

/-! ### Commands (R263–R267, R339, R424) -/

section
variable (hring : e.ringSlot n = false)
include hring

theorem Env.issue_commanded (kind : XferKind) (bytes : Nat) : e.issue s n kind bytes = .ok (commanded s e n kind bytes) :=
  if_neg (ne_true_of_eq_false hring)

theorem Env.copy_commanded (out : Bool) (hh : Handles e h f.d true [e.readOnce h f.a .n64, e.readOnce h f.b .i64] n)
    (hc : e.countBad n (e.readOnce h f.b .i64).n = false) (hr : Reaches e (isDspad f) (e.readOnce h f.a .n64).n (e.readOnce h f.b .i64).n) :
    let va := BitVec.ofNat 64 (e.readOnce h f.a .n64).n
    e.copy s h f out = .ok (commanded s e n (if out then .cpyout va (isDspad f) else .cpy va (isDspad f)) (e.readOnce h f.b .i64).n) := by
  dsimp only [Env.copy]
  rw [Env.handleOp_handles (n := n), Env.checkVal_passes hc, Env.addrChecks_reaches hr, Env.issue_commanded hring]
  exact hh

theorem Env.copy2d_commanded (hh : Handles e h f.d true [e.readOnce h f.a .n64, e.readOnce h f.b .i64, e.readOnce h f.c .i64] n) :
    let a := e.readOnce h f.a .n64
    let b := e.readOnce h f.b .i64
    let c := BitVec.ofNat 64 (e.readOnce h f.c .i64).n
    let rows := bits b.n 47 32
    let rb := bits b.n 23 0
    rows ≠ 0 → bits b.n 63 48 = 0 → bits b.n 31 24 = 0 → c.toInt % 16 = 0 → e.countBad n (rows * rb) = false →
    (isDspad f = true → e.rowsBad a.n rows rb c.toInt = false) → Reaches e (isDspad f) a.n 0 →
    e.copy2d s h f = .ok (commanded s e n (.cpy2d (BitVec.ofNat 64 a.n) (isDspad f) rows rb c) (rows * rb)) := by
  intro a b c rows rb hrows hhigh hmid hstride hc hwindow hr
  have hfields : (rows == 0 || bits b.n 63 48 != 0 || bits b.n 31 24 != 0 || c.toInt % 16 != 0 || e.countBad n (rows * rb)) = false := by
    rw [beq_eq_false_iff_ne.2 hrows, hhigh, hmid, hstride, hc]
    rfl
  dsimp only [Env.copy2d]
  rw [Env.handleOp_handles (n := n), Env.checkVal_passes hfields, Env.checkVal_passes (Bool.and_eq_false_imp.2 hwindow),
    Env.addrChecks_reaches hr, Env.issue_commanded hring]
  exact hh

theorem Env.copyTensor_commanded (hh : Handles e h f.d true [e.readOnce h f.a .n64, e.readOnce h f.b .i64] n)
    (ha : (e.readOnce h f.a .n64).n % 64 = 0) (hc : canonical (e.readOnce h f.a .n64).n = true) :
    e.copyTensor s h f = .ok (commanded s e n
      (.cpyt (BitVec.ofNat 64 (e.readOnce h f.a .n64).n) (BitVec.ofNat 64 (e.readOnce h f.b .i64).n)) 16) := by
  dsimp only [Env.copyTensor]
  rw [Env.handleOp_handles (n := n), Env.checkVal_passes (decide_eq_false (not_not_intro ha)), Env.checkVal_canonical hc,
    Env.issue_commanded hring]
  exact hh

theorem Env.copyFill_commanded (hh : Handles e h f.d true [e.readOnce h f.a .i64, e.readOnce h f.b .i64] n)
    (hc : e.countBad n (e.readOnce h f.b .i64).n = false) :
    e.copyFill s h f = .ok (commanded s e n (.fill (BitVec.ofNat 32 (e.readOnce h f.a .i64).n) false) (e.readOnce h f.b .i64).n) := by
  dsimp only [Env.copyFill]
  rw [Env.handleOp_handles (n := n), Env.checkVal_passes hc, Env.issue_commanded hring]
  exact hh

/-- CPYMC queues its transfer at each place of its mask that the span has (R266). -/
theorem Env.copyMulti_queues (hh : Handles e h f.d true [e.readOnce h f.a .n64, e.readOnce h f.b .i64, e.readOnce h f.c .i64] n) :
    let a := e.readOnce h f.a .n64
    let b := e.readOnce h f.b .i64
    let c := e.readOnce h f.c .i64
    b.n ≠ 0 → b.n % 16 = 0 → bits c.n 63 49 = 0 → (∀ d ∈ maskOffsets c.n, e.offSpan d = false) → Reaches e (isDspad f) a.n b.n →
    let cmd := (s.commit e.id).fresh
    e.copyMulti s h f = .ok (((maskOffsets c.n).foldl (fun s d => match s.spanMate e d.1 d.2 with
      | none => s
      | some t => s.queueXfer e t.1 n (.mc (BitVec.ofNat 64 a.n) (isDspad f) cmd.1) b.n) cmd.2).accept e.id []) := by
  intro a b c hsome halign hmask hspan hr
  have hfields : (b.n == 0 || b.n % 16 != 0 || bits c.n 63 49 != 0) = false := by
    rw [beq_eq_false_iff_ne.2 hsome, halign, hmask]
    rfl
  have hplaces : ((maskOffsets c.n).any e.offSpan || (isDspad f && e.dspadBad (a.n % 2 ^ 32) b.n)) = false :=
    Bool.or_eq_false_iff.2 ⟨List.any_eq_false.2 fun d hd => ne_true_of_eq_false (hspan d hd), Bool.and_eq_false_imp.2 hr.1⟩
  dsimp only [Env.copyMulti]
  rw [Env.handleOp_handles (n := n), Env.checkVal_passes hfields, Env.checkVal_passes hplaces,
    Env.addrChecks_reaches hr, hring]
  · rfl
  · exact hh

theorem Env.asbuild_commanded
    (hh : Handles e h f.d false [e.readOnce h f.a .n64, e.readOnce h f.b .n64, e.readOnce h f.c .n64] n)
    (hb : (e.readOnce h f.b .n64).n % 256 = 0) (hc : (e.readOnce h f.c .n64).n % 256 = 0) :
    e.asbuild s h f = .ok (commanded s e n (.build (BitVec.ofNat 64 (e.readOnce h f.a .n64).n) (BitVec.ofNat 64 (e.readOnce h f.b .n64).n)
      (BitVec.ofNat 64 (e.readOnce h f.c .n64).n) (f.m.getLsbD 0)) 0) := by
  dsimp only [Env.asbuild]
  rw [Env.handleOp_handles (n := n), Env.checkVal_aligned hb, Env.checkVal_aligned hc, Env.issue_commanded hring]
  exact hh

/-- COLL queues a collective of its own (R424). -/
theorem Env.coll_queues (hh : Handles e h f.d false [e.readOnce h f.a .n64] n) (ha : (e.readOnce h f.a .n64).n % 64 = 0)
    (hc : canonical (e.readOnce h f.a .n64).n = true) :
    let r := (s.commit e.id).fresh
    e.coll s h f = .ok (((r.2.setColl r.1 (Coll.fresh e (e.readOnce h f.a .n64).n f.m.toNat)).queueXfer e e.q.gath n (.coll r.1) 0).accept e.id []) := by
  dsimp only [Env.coll]
  rw [Env.handleOp_handles (n := n), Env.checkVal_aligned ha, Env.checkVal_canonical hc, hring]
  · rfl
  · exact hh

end
end
end Sys2Proof.Machine

namespace Sys2Proof.Claims
open Sys2Proof.Machine

/-- What the commands of the streamer queue where their checks pass: the statement of O24, with the start coordinates of CPYT read in type `t`. -/
def QueuesTransfers (t : Ty) : Prop :=
  ∀ (s : State) (e : Env) (h : Hdr) (f : FmtE) (n : Nat), e.ringSlot n = false →
    let a := e.readOnce h f.a .n64
    let ai := e.readOnce h f.a .i64
    let b := e.readOnce h f.b .i64
    let bn := e.readOnce h f.b .n64
    let coords := e.readOnce h f.b t
    let c := e.readOnce h f.c .i64
    let cn := e.readOnce h f.c .n64
    let va := BitVec.ofNat 64 a.n
    (Executes s e (.cpy h f) → Handles e h f.d true [a, b] n → e.countBad n b.n = false → Reaches e (isDspad f) a.n b.n →
      exec (.cpy h f) s = .next (commanded s e n (.cpy va (isDspad f)) b.n))
    ∧ (Executes s e (.cpyout h f) → Handles e h f.d true [a, b] n → e.countBad n b.n = false → Reaches e (isDspad f) a.n b.n →
      exec (.cpyout h f) s = .next (commanded s e n (.cpyout va (isDspad f)) b.n))
    ∧ (Executes s e (.cpy2d h f) → Handles e h f.d true [a, b, c] n →
      let rows := bits b.n 47 32
      let rb := bits b.n 23 0
      let stride := (BitVec.ofNat 64 c.n).toInt
      rows ≠ 0 → bits b.n 63 48 = 0 → bits b.n 31 24 = 0 → stride % 16 = 0 → e.countBad n (rows * rb) = false →
      (isDspad f = true → e.rowsBad a.n rows rb stride = false) → Reaches e (isDspad f) a.n 0 →
      exec (.cpy2d h f) s = .next (commanded s e n (.cpy2d va (isDspad f) rows rb (BitVec.ofNat 64 c.n)) (rows * rb)))
    ∧ (Executes s e (.cpyt h f) → Handles e h f.d true [a, coords] n → a.n % 64 = 0 → canonical a.n = true →
      exec (.cpyt h f) s = .next (commanded s e n (.cpyt va (BitVec.ofNat 64 coords.n)) 16))
    ∧ (Executes s e (.cpyfill h f) → Handles e h f.d true [ai, b] n → e.countBad n b.n = false →
      exec (.cpyfill h f) s = .next (commanded s e n (.fill (BitVec.ofNat 32 ai.n) false) b.n))
    ∧ (Executes s e (.cpymc h f) → Handles e h f.d true [a, b, c] n → b.n ≠ 0 → b.n % 16 = 0 → bits c.n 63 49 = 0 →
      (∀ d ∈ maskOffsets c.n, e.offSpan d = false) → Reaches e (isDspad f) a.n b.n →
      let cmd := (s.commit e.id).fresh
      exec (.cpymc h f) s = .next (((maskOffsets c.n).foldl (fun s d => match s.spanMate e d.1 d.2 with
        | none => s
        | some t => s.queueXfer e t.1 n (.mc va (isDspad f) cmd.1) b.n) cmd.2).accept e.id []))
    ∧ (Executes s e (.asbuild h f) → Handles e h f.d false [a, bn, cn] n → bn.n % 256 = 0 → cn.n % 256 = 0 →
      exec (.asbuild h f) s = .next (commanded s e n (.build va (BitVec.ofNat 64 bn.n) (BitVec.ofNat 64 cn.n) (f.m.getLsbD 0)) 0))
    ∧ (Executes s e (.coll h f) → Handles e h f.d false [a] n → a.n % 64 = 0 → canonical a.n = true →
      let r := (s.commit e.id).fresh
      exec (.coll h f) s = .next (((r.2.setColl r.1 (Coll.fresh e a.n f.m.toNat)).queueXfer e e.q.gath n (.coll r.1) 0).accept e.id []))

theorem transfersAreQueued_iff : Obligations.TransfersAreQueued ↔ QueuesTransfers .n64 := Iff.rfl

/-- With coordinates that are signed, an inline −1 standing for itself, all of O24 holds (R88, R264). -/
theorem queuesTransfers_signed : QueuesTransfers .i64 := by
  intro s e h f n hring
  exact ⟨fun hex hh hc hr => State.perform_ok (body := fun e s => e.copy s h f false) hex (Env.copy_commanded hring false hh hc hr),
    fun hex hh hc hr => State.perform_ok (body := fun e s => e.copy s h f true) hex (Env.copy_commanded hring true hh hc hr),
    fun hex hh hrows hhigh hmid hstride hc hwindow hr => State.perform_ok (body := fun e s => e.copy2d s h f) hex
      (Env.copy2d_commanded hring hh hrows hhigh hmid hstride hc hwindow hr),
    fun hex hh ha hc => State.perform_ok (body := fun e s => e.copyTensor s h f) hex (Env.copyTensor_commanded hring hh ha hc),
    fun hex hh hc => State.perform_ok (body := fun e s => e.copyFill s h f) hex (Env.copyFill_commanded hring hh hc),
    fun hex hh hsome halign hmask hspan hr => State.perform_ok (body := fun e s => e.copyMulti s h f) hex
      (Env.copyMulti_queues hring hh hsome halign hmask hspan hr),
    fun hex hh hb hc => State.perform_ok (body := fun e s => e.asbuild s h f) hex (Env.asbuild_commanded hring hh hb hc),
    fun hex hh ha hc => State.perform_ok (body := fun e s => e.coll s h f) hex (Env.coll_queues hring hh ha hc)⟩

/-- One quire before its instruction, the buffer of handle 3 full, so that a transfer on it is held. -/
def fullBuffer : State := (State.reset.withFetchWord 96 0).modHandle 1 3 fun x => { x with state := .full }

def plainHdr : Hdr := { neg := false, pred := 0, keep := false, lat := false, latch := 0, nowb := false }

/-- CPYT on handle 3, its descriptor at the VA in s4, its start coordinates an inline −1: −1 in each of the four dimensions (R264). -/
def fromMinusOne : FmtE := { d := .imm 3, a := .s 0 4, b := .imm (-1), c := .v 0, m := 0 }

/-- The kinds of the transfers that stand queued or under way. -/
def queuedKinds (s : State) : List XferKind := s.xfers.map fun x => x.2.kind

/-- The command taken, with its coordinates read in type `t`. -/
def takenAs (e : Env) (t : Ty) : State :=
  commanded fullBuffer e 3 (.cpyt (BitVec.ofNat 64 (e.readOnce plainHdr fromMinusOne.a .n64).n) (BitVec.ofNat 64 (e.readOnce plainHdr fromMinusOne.b t).n)) 16

/-- What CPYT asks is met in quire `e`, and the two types make two transfers. -/
abbrev CoordinatesDiffer (e : Env) : Prop :=
  (∀ t ∈ [Ty.n64, .i64], Handles e plainHdr fromMinusOne.d true [e.readOnce plainHdr fromMinusOne.a .n64, e.readOnce plainHdr fromMinusOne.b t] 3)
    ∧ (e.readOnce plainHdr fromMinusOne.a .n64).n % 64 = 0 ∧ canonical (e.readOnce plainHdr fromMinusOne.a .n64).n = true
    ∧ queuedKinds (takenAs e .n64) = [.cpyt 0 0] ∧ queuedKinds (takenAs e .i64) = [.cpyt 0 (-1)]

theorem cpyt_fromMinusOne : ∃ e, Executes fullBuffer e (.cpyt plainHdr fromMinusOne) ∧ e.ringSlot 3 = false ∧ CoordinatesDiffer e := by
  have hany : (fullBuffer.envOf fullBuffer.cur).any (fun e => decide (e.check (.cpyt plainHdr fromMinusOne) = none ∧ e.recorded = none
      ∧ fullBuffer.stallOf e 0 (.cpyt plainHdr fromMinusOne) = none ∧ e.ringSlot 3 = false ∧ CoordinatesDiffer e)) = true := by
    decide +kernel
  obtain ⟨e, he, hp⟩ := (Option.any_eq_true _ _).1 hany
  obtain ⟨hcheck, hrecorded, hstall, hring, hcoords⟩ := of_decide_eq_true hp
  exact ⟨e, ⟨he, hcheck, hrecorded, hstall⟩, hring, hcoords⟩

/-- Refutes O24: CPYT reads its start coordinates as a signed value, so that an inline −1 is −1 in every dimension, where the statement reads an
unsigned value, in which no negative integer has a code and which comes out as 0. -/
theorem not_transfersAreQueued : ¬ Obligations.TransfersAreQueued := by
  intro h
  obtain ⟨e, hex, hring, hhandles, halign, hcanon, hunsigned, hsigned⟩ := cpyt_fromMinusOne
  have taken : ∀ t ∈ [Ty.n64, .i64], QueuesTransfers t → exec (.cpyt plainHdr fromMinusOne) fullBuffer = .next (takenAs e t) := by
    intro t ht hqueues
    obtain ⟨_, _, _, hcpyt, _⟩ := hqueues fullBuffer e plainHdr fromMinusOne 3 hring
    exact hcpyt hex (hhandles t ht) halign hcanon
  have hsame : takenAs e .n64 = takenAs e .i64 :=
    Host.Outcome.next.inj ((taken .n64 (by decide) (transfersAreQueued_iff.1 h)).symm.trans (taken .i64 (by decide) queuesTransfers_signed))
  rw [hsame, hsigned] at hunsigned
  exact absurd hunsigned (by decide)

end Sys2Proof.Claims

/-! PROOFS. The states that HSET, HWAIT, HDRAIN, HFREE and HSTAT take a handle through (R257, R268, R271). -/
namespace Sys2Proof.Machine
open Sys2Proof.Claims (Handles each)

section
variable {e : Env} {s : State} {h : Hdr} {f : FmtE} {n : Nat}

theorem Env.hset_sets (hh : Handles e h f.d true [e.readOnce h f.a .i64, e.readOnce h f.b .i64] n) (hring : e.ringSlot n = false) :
    let a := (e.readOnce h f.a .i64).n
    let b := (e.readOnce h f.b .i64).n
    b ≠ 0 → b % 16 = 0 → a % 16 = 0 → a + b ≤ e.vol.portion → (e.g.handle n).state = .free → s.heldOn e.q.gath n = false →
    e.hset s h f = .ok (((s.commit e.id).modHandle e.q.gath n fun x => { x with offset := a / 16, size := b / 16, fill := 0, error := 0 }).accept
      e.id []) := by
  intro a b hsome hb ha hfits hfree hheld
  have hfields : (b == 0 || b % 16 != 0 || a % 16 != 0) = false := by
    rw [beq_eq_false_iff_ne.2 hsome, hb, ha]
    rfl
  dsimp only [Env.hset]
  rw [Env.handleOp_handles (n := n), Env.checkVal_passes hfields, Env.checkVal_passes (decide_eq_false (Nat.not_lt.2 hfits)), hring, hfree, hheld]
  · rfl
  · exact hh

theorem Env.hdrain_drains (hh : Handles e h f.d false [] n) (hring : e.ringSlot n = false) (hfull : (s.handle e.q.gath n).state = .full) :
    e.hdrain s h f = .ok (((s.commit e.id).modHandle e.q.gath n fun x => { x with state := .draining, error := 0 }).accept e.id []) := by
  rw [Env.hdrain, Env.handleOp_handles hh, hring, hfull]
  rfl

theorem Env.hfree_frees (hh : Handles e h f.d false [] n) (hring : e.ringSlot n = false) (hdrained : (s.handle e.q.gath n).state = .draining) :
    e.hfree s h f = .ok (((s.commit e.id).freeHandle e.q.gath n).accept e.id []) := by
  rw [Env.hfree, Env.handleOp_handles hh, hring, hdrained]
  rfl

/-- HSTAT delivers the record, and acquires where it reads FULL (R257, R271). -/
theorem Env.hstat_delivers (hh : Handles e h f.a false [] n) :
    e.hstat s h f = .ok ((if (s.handle e.q.gath n).state = .full then s.acquire e.g.pcore .dev else s).upd e
      (e.deliver h f.d 2 false (each e h (fun _ => (s.handleWord e.q.gath n).toNat) fun _ => false))) := by
  rw [Env.hstat, Env.handleOp_handles hh]
  simp only [beq_iff_eq]
  rfl

/-! ### HWAIT (R268, R271) -/

theorem Env.handleReached_acquires {full : Bool} (hok : full = true → (s.handle e.q.gath n).error = 0) :
    e.handleReached s n full = .ok (if full then s.acquire e.g.pcore .dev else s) :=
  if_neg fun hbad => by
    obtain ⟨hfull, herr⟩ := Bool.and_eq_true_iff.1 hbad
    exact bne_iff_ne.1 herr (hok hfull)

theorem Env.handleReached_error (herr : (s.handle e.q.gath n).error ≠ 0) :
    e.handleReached s n true = .error (.trap (e.trapInfo (s.handle e.q.gath n).error 0xFFFF n 0 0), s) :=
  if_pos (bne_iff_ne.2 herr)

section
variable (hh : Handles e h f.d false [] n)
include hh

theorem Env.hwait_eq : e.hwait s h f =
    if (s.handle e.q.gath n).state = (if f.m.toNat % 4 == 2 then .full else .free) then e.handleReached s n (f.m.toNat % 4 == 2)
    else .ok (s.upd e fun q => q.park (.hwait n (f.m.toNat % 4 == 2))) := by
  dsimp only [Env.hwait]
  rw [Env.handleOp_handles hh]
  simp only [beq_iff_eq]

theorem Env.hwait_reached (hst : (s.handle e.q.gath n).state = (if f.m.toNat % 4 == 2 then .full else .free)) :
    e.hwait s h f = e.handleReached s n (f.m.toNat % 4 == 2) :=
  (Env.hwait_eq hh).trans (if_pos hst)

theorem Env.hwait_parks (hst : (s.handle e.q.gath n).state ≠ (if f.m.toNat % 4 == 2 then .full else .free)) :
    e.hwait s h f = .ok (s.upd e fun q => q.park (.hwait n (f.m.toNat % 4 == 2))) :=
  (Env.hwait_eq hh).trans (if_neg hst)

end
end
end Sys2Proof.Machine

namespace Sys2Proof.Claims
open Sys2Proof.Machine

/-- Settles O25: each instruction is its own computation on the handle's state, whose one path the hypotheses choose. -/
theorem handlesGoThroughTheirStates : Obligations.HandlesGoThroughTheirStates := by
  intro s e h f n a b st
  refine ⟨fun hex hh hring hsome hb ha hfits hfree hheld => State.perform_ok (body := fun e s => e.hset s h f) hex
      (Env.hset_sets hh hring hsome hb ha hfits hfree hheld),
    fun hex hh => ⟨fun hst hok => ?reached, fun hst hfull herr => ?error, fun hst => ?parks⟩,
    fun hex hh hring hst => State.perform_ok (body := fun e s => e.hdrain s h f) hex (Env.hdrain_drains hh hring hst),
    fun hex hh hring hst => State.perform_ok (body := fun e s => e.hfree s h f) hex (Env.hfree_frees hh hring hst),
    fun hex hh => State.perform_ok (body := fun e s => e.hstat s h f) hex (Env.hstat_delivers hh)⟩
  case reached => exact State.perform_ok (body := fun e s => e.hwait s h f) hex ((Env.hwait_reached hh hst).trans (Env.handleReached_acquires hok))
  case error =>
    have hbody : e.hwait s h f = e.handleReached s n true := (Env.hwait_reached hh hst).trans (congrArg (e.handleReached s n) hfull)
    exact State.perform_halt (body := fun e s => e.hwait s h f) hex (hbody.trans (Env.handleReached_error herr))
  case parks => exact State.perform_ok (body := fun e s => e.hwait s h f) hex (Env.hwait_parks hh hst)

end Sys2Proof.Claims

/-! PROOFS. What wakes a parked quire (R268, R378–R380, R449). -/
namespace Sys2Proof.Machine

section
variable {s t : State} {id : Nat} {e : Env} (he : s.envOf id = some e)
include he

/-! ### BARWAIT (R378) -/

theorem State.wakeBarrier_eq {k : Nat} {gen : W16} {sc : Scope} (hw : e.q.wait = .barwait k gen sc) :
    s.wakeBarrier id = if s.generation e k = gen.toNat then s else (s.barrierPassed e k sc).wake id := by
  rw [State.wakeBarrier, State.forQuire_env he, hw]

/-! ### TRYWAIT (R379, R380) -/

section
variable {w : TryWait} (hw : e.q.wait = .tryw w)
include hw

theorem State.lookAgain_eq : s.lookAgain id = if s.tryHolds e w = true then s.tryDone id e.g.pcore w true else s := by
  rw [State.lookAgain, State.forQuire_env he, hw]

theorem State.tryExpired_eq :
    s.tryExpired id = if w.limit ≠ 2 ^ 32 - 1 ∧ w.limit ≤ e.q.waited then s.tryDone id e.g.pcore w false else s := by
  rw [State.tryExpired, State.forQuire_env he, hw]

end

/-! ### HWAIT (R268) -/

section
variable {n : Nat} {full : Bool} (hw : e.q.wait = .hwait n full)
include hw

theorem State.wakeHandle_parked (hst : (s.handle e.q.gath n).state ≠ if full then .full else .free) : s.wakeHandle id = s := by
  rw [State.wakeHandle, State.forQuire_env he, hw]
  exact if_neg fun hbeq => hst (beq_iff_eq.1 hbeq)

theorem State.wakeHandle_reached (hst : (s.handle e.q.gath n).state = if full then .full else .free) (hr : e.handleReached s n full = .ok t) :
    s.wakeHandle id = t.wake id := by
  rw [State.wakeHandle, State.forQuire_env he, hw]
  dsimp only
  rw [if_pos (beq_iff_eq.2 hst), hr]

end

/-! ### TRAPCALL (R449) -/

section
variable {c : CallWait} {pa r : Nat} (hw : e.q.wait = .call) (hc : e.q.call = some c) (hpa : c.slotPa = some pa) (hread : s.homeNum pa 4 = (r, t))
include hw hc hpa hread

theorem State.callReply_eq : s.callReply id =
    if r = 0 then t
    else if r ≠ 1 then t.endLaunch e.g.vol (.killed 0)
    else
      let u := t.recallRange pa 256
      (u.putHome (pa + 20) [0]).callOn e { c with replies := c.replies ++ u.callReplies pa c.sent, sent := [], slotPa := none } := by
  rw [State.callReply, State.forQuire_env he, hw, hc]
  dsimp only
  rw [hpa]
  dsimp only
  rw [hread]

theorem State.callReply_waits (hr : r = 0) : s.callReply id = t := (State.callReply_eq he hw hc hpa hread).trans (if_pos hr)

theorem State.callReply_kills (hr : 1 < r) : s.callReply id = t.endLaunch e.g.vol (.killed 0) :=
  (State.callReply_eq he hw hc hpa hread).trans ((if_neg (by omega)).trans (if_pos (by omega)))

theorem State.callReply_done (hr : r = 1) (htodo : c.todo = []) :
    let u := t.recallRange pa 256
    s.callReply id = (u.putHome (pa + 20) [0]).callDone e { c with replies := c.replies ++ u.callReplies pa c.sent, sent := [], slotPa := none } := by
  subst hr
  refine (State.callReply_eq he hw hc hpa hread).trans ?_
  rw [if_neg Nat.one_ne_zero, if_neg (not_not_intro rfl)]
  exact if_pos (List.isEmpty_iff.2 htodo)

end
end
end Sys2Proof.Machine

namespace Sys2Proof.Claims
open Sys2Proof.Machine

/-- Settles O36: each event is one look at what its quire waits for, and each case of the statement is one case of that look. -/
theorem parkedQuiresWake : Obligations.ParkedQuiresWake := by
  intro s t id e he
  have next : ∀ {v w : State}, v = w → (Host.Outcome.next v : Out) = .next w := congrArg _
  refine ⟨fun k gen sc hw => ?barrier, fun w hw => ?trywait, fun n full hw => ?handle, fun c pa r hw hc hpa hread => ?call⟩
  case barrier =>
    have hwake := State.wakeBarrier_eq he hw
    exact ⟨fun hsame => next (hwake.trans (if_pos hsame)), fun hmoved => next (hwake.trans (if_neg hmoved))⟩
  case trywait =>
    have hlook := State.lookAgain_eq he hw
    have hlimit := State.tryExpired_eq he hw
    refine ⟨fun hholds => next (hlook.trans (if_pos hholds)), fun hfails => next (hlook.trans (if_neg (ne_true_of_eq_false hfails))),
      fun hfinite hpast => next (hlimit.trans (if_pos ⟨hfinite, hpast⟩)), fun hwaits => next (hlimit.trans (if_neg ?_))⟩
    rintro ⟨hfinite, hpast⟩
    exact hwaits.elim hfinite (Nat.not_lt.2 hpast)
  case handle => exact ⟨fun hst => next (State.wakeHandle_parked he hw hst), fun hst hr => next (State.wakeHandle_reached he hw hst hr)⟩
  case call =>
    exact ⟨fun hr => next (State.callReply_waits he hw hc hpa hread hr), fun hr => next (State.callReply_kills he hw hc hpa hread hr),
      fun hr htodo => next (State.callReply_done he hw hc hpa hread hr htodo)⟩

end Sys2Proof.Claims

/-! PROOFS. How what stands on its way moves: stores, atomics, transfers, tree engines, appends and batch timers (R263, R354, R357, R363, R408,
R412). -/
namespace Sys2Proof.Machine

section
variable {s : State}

/-! ### Stores (R354, R415) -/

section
variable {c k owner : Nat} {r : StoreRec} (hk : (s.core c).out[k]? = some (.store owner r))
include hk

theorem State.storeHome_waits (hready : outReady (s.core c).out k = false) : s.storeHome c k = s := by
  rw [State.storeHome, hk, hready]
  rfl

theorem State.storeHome_accepts (hready : outReady (s.core c).out k = true) (hnear : r.far = false) : s.storeHome c k = s.acceptOut c k := by
  rw [State.storeHome, hk, hready]
  dsimp only
  rw [hnear]
  rfl

theorem State.storeHome_leaves (hready : outReady (s.core c).out k = true) (hfar : r.far = true) :
    let d := keyHomeDie r.key
    s.storeHome c k = (s.peerSend r.key c r.bytes (if r.bad then r.words else []) r.bytes.length (.write (some d))).2.modCore c fun v =>
      { v with out := v.out.eraseIdx k, cnt := FMap.put 0 v.cnt d (FMap.val 0 v.cnt d + 1) } := by
  rw [State.storeHome, hk, hready]
  dsimp only
  rw [hfar]
  rfl

end

/-! ### Atomics and tree engines (R363, R412) -/

theorem State.serveNext_eq {k : Nat} {r : AsqReq} (hr : s.asq.find? (fun r => r.id == k) = some r) :
    s.serveNext k = if s.asqReady r = true then (s.serveAsq r).wakeFences r.core else s := by
  rw [State.serveNext, hr]

theorem State.treeTurn_eq {k : Nat} {r : TreeReq} (hr : s.treqs.find? (fun r => r.id == k) = some r) :
    s.treeTurn k = if s.treeReady r = true then s.treeStep r else s := by
  rw [State.treeTurn, hr]

/-! ### Transfers (R258, R263, R340, R422) -/

section
variable {id : Nat} {x : Transfer} (hx : FMap.find s.xfers id = some x)
include hx

/-- The first transfer that waits for a handle of a gathering that is not saved starts where the handle is FREE. -/
theorem State.transferStarts_first {g : Gathering} (hg : FMap.find s.gaths x.gath = some g) (hs : g.saved = none)
    (hfirst : (s.xfers.find? fun e => e.2.gath == x.gath && e.2.handle == x.handle && !e.2.started).map Prod.fst = some id) :
    s.transferStarts id = if (s.handle x.gath x.handle).state = .free then s.xferStart id else s := by
  simp only [State.transferStarts, hx, hg, hs, hfirst, Option.isSome_none, Bool.not_false, true_and, and_true]

theorem State.transferMoves_build {a b c : W64} {d : Bool} (p : Nat) (hkind : x.kind = .build a b c d) :
    s.transferMoves id p = (s.buildRun id).reapFor x := by
  rw [State.transferMoves, hx]
  dsimp only
  rw [hkind]

theorem State.transferMoves_coll {c : Nat} (p : Nat) (hkind : x.kind = .coll c) : s.transferMoves id p = (s.collOpen id c).reapFor x := by
  rw [State.transferMoves, hx]
  dsimp only
  rw [hkind]

theorem State.transferMoves_piece (p : Nat) (hbuild : ∀ a b c d, x.kind ≠ .build a b c d) (hcoll : ∀ c, x.kind ≠ .coll c) :
    s.transferMoves id p = (s.xferPiece id p).reapFor x := by
  rw [State.transferMoves, hx]
  dsimp only
  split
  next hkind => exact absurd hkind (hbuild _ _ _ _)
  next hkind => exact absurd hkind (hcoll _)
  next => rfl

end

/-! ### Appends (R408) -/

/-- An append may land: its handle is FREE, or fills in batches. -/
def Gathering.takesAppend (g : Gathering) (n : Nat) : Prop :=
  (g.handle n).state = .free ∨ ((g.handle n).state = .filling ∧ (FMap.find g.batches n).isSome = true)

theorem Gathering.takesAppend_iff {g : Gathering} {n : Nat} :
    g.takesAppend n ↔ ((g.handle n).state == .free || ((g.handle n).state == .filling && (FMap.find g.batches n).isSome)) = true := by
  simp only [Gathering.takesAppend, Bool.or_eq_true, Bool.and_eq_true, beq_iff_eq]

/-- The state after append `a` of gathering `g` has landed (R408). -/
def State.appended (s : State) (a : Append) (g : Gathering) : State :=
  let h := g.handle a.handle
  let fill := if h.state = .free then 0 else h.fill
  let full := decide (a.batch ≤ fill + 1)
  let t := s.engineWrite (g.bufKey h (16 * fill)) (a.bytes.map fun b => (b, false))
  t.modGath a.gath fun g' =>
    { g'.setHandle a.handle { h with state := if full then .full else .filling, fill := fill + 1, error := 0, multicast := false } with
      batches := if full then FMap.remove g'.batches a.handle
        else if h.state = .free then FMap.insert g'.batches a.handle (a.batch, a.timer, t.ns) else g'.batches }

section
variable {k : Nat} {a : Append} {g : Gathering} (ha : s.apps[k]? = some a) (hg : FMap.find s.gaths a.gath = some g)
include ha hg

theorem State.appendLands_waits (hclosed : ¬ g.takesAppend a.handle) : s.appendLands k = s := by
  simp only [State.appendLands, ha, hg, Bool.eq_false_iff.2 (mt Gathering.takesAppend_iff.2 hclosed), Bool.not_false, true_or, or_true, if_true]

theorem State.appendLands_taken (hretired : g.retired = false) (hsaved : g.saved = none)
    (hfirst : (s.apps.take k).any (fun b => b.gath == a.gath && b.handle == a.handle) = false) (hopen : g.takesAppend a.handle) :
    s.appendLands k = { s.appended a g with apps := (s.appended a g).apps.eraseIdx k } := by
  simp only [State.appendLands, ha, hg, hfirst, Gathering.takesAppend_iff.1 hopen, hretired, hsaved, Option.isSome_none, Bool.not_true,
    Bool.false_eq_true, or_self, if_false, beq_iff_eq]
  rfl

end

/-! ### Batch timers (R408) -/

theorem State.batchExpires_eq {gid n size timer start : Nat} {g : Gathering} (hg : FMap.find s.gaths gid = some g)
    (hb : FMap.find g.batches n = some (size, timer, start)) :
    s.batchExpires gid n = if timer = 0 ∨ s.ns < start + 250 * timer then s else
      s.setGath gid { g.setHandle n { g.handle n with state := .full } with batches := FMap.remove g.batches n } := by
  simp only [State.batchExpires, hg, hb]

end
end Sys2Proof.Machine

namespace Sys2Proof.Claims
open Sys2Proof.Machine

/-- Settles O38: each event is one look at what stands on its way, and each case of the statement is one case of that look. -/
theorem requestsMoveOn : Obligations.RequestsMoveOn := by
  intro s
  have next : ∀ {v w : State}, v = w → (Host.Outcome.next v : Out) = .next w := congrArg _
  refine ⟨fun core k owner r hk => ?store, fun core die => rfl, fun k r hr => ?atomic, fun id x g hx hg hsaved hfirst => ?start,
    fun id p x hx => ?piece, fun k r hr => ?tree, fun k a g ha hg hretired hsaved hfirst => ?append, fun gid n g size timer start hg hb => ?batch⟩
  case store =>
    exact ⟨fun hw => next (State.storeHome_waits hk hw), fun hready hnear => next (State.storeHome_accepts hk hready hnear),
      fun hready hfar => next (State.storeHome_leaves hk hready hfar)⟩
  case atomic =>
    have hserve := State.serveNext_eq hr
    exact ⟨fun hready => next (hserve.trans (if_pos hready)), fun hw => next (hserve.trans (if_neg (ne_true_of_eq_false hw)))⟩
  case start =>
    have hstart := State.transferStarts_first hx hg hsaved hfirst
    exact ⟨fun hfree => next (hstart.trans (if_pos hfree)), fun hheld => next (hstart.trans (if_neg hheld))⟩
  case piece =>
    exact ⟨fun a b c d hkind => next (State.transferMoves_build hx p hkind), fun c hkind => next (State.transferMoves_coll hx p hkind),
      fun hbuild hcoll => next (State.transferMoves_piece hx p hbuild hcoll)⟩
  case tree =>
    have hturn := State.treeTurn_eq hr
    exact ⟨fun hready => next (hturn.trans (if_pos hready)), fun hw => next (hturn.trans (if_neg (ne_true_of_eq_false hw)))⟩
  case append =>
    exact ⟨fun hopen => next (State.appendLands_taken ha hg hretired hsaved hfirst hopen),
      fun hclosed => next (State.appendLands_waits ha hg (not_or.2 hclosed))⟩
  case batch =>
    have hexpires := State.batchExpires_eq hg hb
    refine ⟨fun hruns => next (hexpires.trans (if_pos hruns)), fun htimer hpast => next (hexpires.trans (if_neg ?_))⟩
    exact fun hruns => hruns.elim htimer (Nat.not_lt.2 hpast)

end Sys2Proof.Claims

/-! PROOFS. What the matrix unit takes (R284–R293). -/
namespace Sys2Proof.Machine
open Sys2Proof.Claims (MatrixReady begun matrixPlan multiplied tileLoaded tileStored activated)

section
variable {e : Env} {s : State} {h : Hdr} {f : FmtE} {vals : List Val} {bases scales : List Nat} {strides : List Int}

/-! ### Checks 2 to 6 of R284 -/

section
variable (hready : MatrixReady e h vals bases scales strides)
include hready

theorem Env.matrixOp_ready (k : Res State) : e.matrixOp s h k = k := by
  obtain ⟨hsome, hall, hpath, _⟩ := hready
  rw [Env.matrixOp, if_neg hsome, if_neg (not_not_intro hall), if_neg (not_not_intro hpath)]

/-- Which of the values stand for addresses makes no difference where none is poisoned. -/
theorem Env.matrixChecks_ready {addrs others : List Val} (hsub : addrs ++ others ⊆ vals) (k : Res State) :
    e.matrixChecks s addrs others bases scales strides k = k := by
  obtain ⟨_, _, _, hclean, hbase, hscale, hstride⟩ := hready
  have clean : ∀ l ⊆ addrs ++ others, l.any Val.bad = false := fun l hl =>
    List.any_eq_false.2 fun v hv => ne_true_of_eq_false (hclean v (hsub (hl hv)))
  have haligned : bases.find? (fun b => b % 16 != 0) = none :=
    List.find?_eq_none.2 fun b hb => ne_true_of_eq_false (bne_eq_false_iff_eq.2 (hbase b hb).1)
  have hstrides : strides.any (fun t => t % 16 != 0) = false :=
    List.any_eq_false.2 fun t ht => ne_true_of_eq_false (bne_eq_false_iff_eq.2 (hstride t ht))
  have hcanonical : (bases ++ scales).find? (fun b => !canonical b) = none :=
    List.find?_eq_none.2 fun b hb => ne_true_of_eq_false <| Bool.not_eq_eq_eq_not.2 <|
      (List.mem_append.1 hb).elim (fun hb => (hbase b hb).2) (hscale b)
  rw [Env.matrixChecks, clean addrs (List.subset_append_left ..), clean others (List.subset_append_right ..), haligned, hstrides, hcanonical]
  rfl

theorem Env.matrixOp_checked {addrs others : List Val} (hsub : addrs ++ others ⊆ vals) (k : Res State) :
    e.matrixOp s h (e.matrixChecks s addrs others bases scales strides k) = k :=
  (Env.matrixOp_ready hready _).trans (Env.matrixChecks_ready hready hsub k)

end

/-! ### Runs of reads (R281) -/

/-- With nothing older to go by, an element is what its reader gives. -/
theorem Reads.elem_fresh {r r' : Reads} {read : State → Except Halt Mel × State} {m : Mel} (hold : r.old = []) :
    r.elem read = (.ok m, r') ↔ ∃ t, read r.s = (.ok m, t) ∧ r' = { r with s := t, log := m :: r.log } := by
  rw [Reads.elem, hold]
  constructor
  · intro hr
    dsimp only at hr
    split at hr
    next => cases hr
    next x t hx => cases hr; exact ⟨t, hx, rfl⟩
  · rintro ⟨t, ht, rfl⟩
    dsimp only
    rw [ht]

theorem readList_cons {read : Nat → Reads → Except Halt Mel × Reads} {i : Nat} {is : List Nat} {r r' : Reads} {ms : List Mel} :
    readList read (i :: is) r = (.ok ms, r') ↔ ∃ m t rest, read i r = (.ok m, t) ∧ readList read is t = (.ok rest, r') ∧ ms = m :: rest := by
  rw [readList]
  constructor
  · intro hr
    split at hr
    next => cases hr
    next m t hm =>
      split at hr
      next => cases hr
      next rest u hrest => cases hr; exact ⟨m, t, rest, hm, hrest, rfl⟩
  · rintro ⟨m, t, rest, hm, hrest, rfl⟩
    rw [hm]
    dsimp only
    rw [hrest]

/-- A list that one reader reads whole is read alike by any reader that agrees with it where it succeeds. -/
theorem readList_agrees {read read' : Nat → State → Except Halt Mel × State}
    (hagree : ∀ i s m t, read i s = (.ok m, t) → read' i s = (.ok m, t)) (is : List Nat) {r r' : Reads} {ms : List Mel} (hold : r.old = [])
    (hr : readList (fun i r => r.elem (read i)) is r = (.ok ms, r')) : readList (fun i r => r.elem (read' i)) is r = (.ok ms, r') := by
  induction is generalizing r ms with
  | nil => exact hr
  | cons i is ih =>
    obtain ⟨m, u, rest, hm, hrest, rfl⟩ := readList_cons.1 hr
    obtain ⟨t, ht, rfl⟩ := (Reads.elem_fresh hold).1 hm
    exact readList_cons.2 ⟨m, _, rest, (Reads.elem_fresh hold).2 ⟨t, hagree i _ m t ht, rfl⟩, ih hold hrest, rfl⟩

theorem Env.matrixRun_taken {i : Instr} {o : Opnd} {n : Nat} {tile : Reads → Except Halt Tile × Reads} {t : Tile} {r : Reads}
    (ht : tile (begun s e []) = (.ok t, r)) : e.matrixRun s i o n tile = .ok (r.s.queueMatrix e i o n t r.log) := by
  unfold begun at ht
  rw [Env.matrixRun, ht]

/-! ### MMA, MMAS, MMAR (R288–R291) -/

/-- The elements a plan goes by in place of memory: those of the held copy it may use (R291). -/
def State.heldElems (s : State) (e : Env) (f : FmtE) (x : MmaPlan) : List Mel :=
  match s.heldFor e (x.key f) x.scaled with
  | some b => b.elems x.scaled
  | none => []

theorem Env.mmaRun_multiplied (i : Instr) (x : MmaPlan) (hfault : (mmaCalc e f x (begun s e (s.heldElems e f x))).2.1.fault = none) :
    e.mmaRun s i h f x = .ok (multiplied (mmaCalc e f x (begun s e (s.heldElems e f x))) e i h f x) := by
  unfold Env.mmaRun
  extract_lets key copy old c
  have hdone : c.2.1.fault = none := hfault
  rw [hdone]
  rfl

/-- What an instruction does that has such a plan: its run, once its checks pass. -/
theorem exec_of_matrixPlan {i : Instr} {x : MmaPlan} {t : State} (hplan : matrixPlan e i = some (h, f, x, vals, bases, scales, strides))
    (hex : Executes s e i) (hready : MatrixReady e h vals bases scales strides) (hrun : e.mmaRun s i h f x = .ok t) : exec i s = .next t := by
  unfold matrixPlan at hplan
  split at hplan
  next =>
    obtain ⟨y, hy, ⟨⟩⟩ := Option.map_eq_some_iff.1 hplan
    refine State.perform_ok (body := fun e s => e.mma s h f) hex ?_
    rw [Env.mma, hy]
    dsimp only
    rw [Env.matrixOp_checked hready (List.Subset.refl _), hrun]
  next =>
    obtain ⟨y, hy, ⟨⟩⟩ := Option.map_eq_some_iff.1 hplan
    refine State.perform_ok (body := fun e s => e.mmas s h f) hex ?_
    rw [Env.mmas, hy]
    dsimp only
    rw [Env.matrixOp_checked hready, hrun]
    simp [List.range_succ]
  next =>
    obtain ⟨y, hy, ⟨⟩⟩ := Option.map_eq_some_iff.1 hplan
    refine State.perform_ok (body := fun e s => e.mmar s h f) hex ?_
    rw [Env.mmar, hy]
    dsimp only
    rw [Env.matrixOp_checked hready (List.Subset.refl _), hrun]
  next => cases hplan

/-! ### MLDC (R292) -/

/-- Where every element is read, what a padding lane reads in place of a fault makes no difference. -/
theorem mldcCalc_loaded {r r' : Reads} {ms : List Mel} (hold : r.old = [])
    (hr : readList (fun i r => r.elem fun s => s.rowElem e true (mB f) (rowVa (e.readOnce h f.a .n64).n (i / tileCols (mA f))
      (strideOf ((e.readOnce h f.b .i64).n % 2 ^ 32)) 0) (i % tileCols (mA f))) (List.range (e.tile (mA f)).length) r = (.ok ms, r')) :
    mldcCalc e h f r = (.ok (tileLoaded e f ms), r') := by
  unfold mldcCalc
  extract_lets cls a st tile pad one
  have hread : readList one (List.range tile.length) r = (.ok ms, r') :=
    readList_agrees (fun i s m t hm => by rw [hm]) _ hold hr
  rw [hread]
  rfl

theorem Env.mldc_loaded {ms : List Mel} {r : Reads} :
    let a := e.readOnce h f.a .n64
    let st := e.readOnce h f.b .i64
    let stride := strideOf (st.n % 2 ^ 32)
    MatrixReady e h [a, st] [a.n] [] [stride] →
    e.tileTrap (e.tile (mA f)) (mA f) (fun x => rowVa a.n x.1 stride (x.2 * (elemBits (mB f) / 8))) = none →
    readList (fun i r => r.elem fun s => s.rowElem e true (mB f) (rowVa a.n (i / tileCols (mA f)) stride 0) (i % tileCols (mA f)))
      (List.range (e.tile (mA f)).length) (begun s e []) = (.ok ms, r) →
    e.mldc s h f = .ok (r.s.queueMatrix e (.mldc h f) f.d (fragRegs (mA f)) (tileLoaded e f ms) r.log) := by
  intro a st stride hready htrap hr
  unfold Env.mldc
  dsimp only
  rw [Env.matrixOp_checked hready (List.Subset.refl _), htrap]
  exact Env.matrixRun_taken (mldcCalc_loaded rfl hr)

/-! ### MSTC (R292) -/

theorem Env.mstc_stores {pas : List Nat} {t : State} :
    let a := e.readOnce h f.a .n64
    let st := e.readOnce h f.b .i64
    let stride := strideOf (st.n % 2 ^ 32)
    let size := elemBits (mB f) / 8
    let va := fun x : Nat × Nat => rowVa a.n x.1 stride (x.2 * size)
    let vals := (tileStored e f).map fun x => e.fragElem (mA f) (Opnd.num f.c) x.1 x.2
    let out := vals.map fun m => narrowMem e.ftz16 (mA f) (mB f) m.1
    let u := ((t.commit e.id).accept e.id []).fresh
    MatrixReady e h [a, st] [a.n] [] [stride] → e.tileTrap (tileStored e f) (mA f) va = none →
    (s.dropHeld e).tilePlaces e ((tileStored e f).map va) = (.ok pas, t) → (∀ m ∈ vals, m.2 = false) →
    e.mstc s h f = .ok ((u.2.takeJob e (.mstc h f) u.1 0 [] ((pas.zip out).map fun x => (x.1, leBytes size x.2.1))).upd e
      fun q => q.raise (out.foldl (fun a r => a ||| r.2) 0)) := by
  intro a st stride size va vals out u hready htrap hplaces hclean
  have hpoison : ((tileStored e f).zip vals).foldl (fun (m : LaneSet) x =>
      if x.2.2 then m ||| LaneSet.one (fragPlace (mA f) x.1.1 x.1.2).1 else m) 0 = 0 :=
    foldl_unchanged_of_mem fun x hx => if_neg (ne_true_of_eq_false (hclean x.2 (List.of_mem_zip hx).2))
  unfold Env.mstc
  dsimp only
  rw [Env.matrixOp_checked hready (List.Subset.refl _)]
  unfold tileStored at htrap hplaces
  rw [htrap, hplaces]
  exact if_neg (not_not_intro hpoison)

/-! ### MZERO (R292) -/

theorem Env.mzero_clears (hready : MatrixReady e h vals bases scales strides) :
    e.mzero s h f = .ok ((s.dropHeld e).queueMatrix e (.mzero h f) f.d (fragRegs (mA f))
      ((e.lanes e.allLanes).flatMap fun l => (List.range (fragRegs (mA f))).map fun i => RegWrite.vec (vKey (Opnd.num f.d + i) l) 0 false, 0) []) :=
  Env.matrixOp_ready hready _

/-! ### MACT (R293) -/

theorem mactCalc_unbiased (hb : f.b = Opnd.s127) (r : Reads) : mactCalc e h f r = (.ok (activated e f (List.replicate 32 (0, false))), r) := by
  unfold mactCalc
  rw [hb]
  rfl

theorem mactCalc_biased (hb : f.b ≠ Opnd.s127) {r r' : Reads} {bs : List Mel}
    (hr : readList (fun j r => r.elem fun s => s.operandBytes e false ((e.readOnce h f.b .n64).n + 4 * j) 4) (List.range 32) r = (.ok bs, r')) :
    mactCalc e h f r = (.ok (activated e f bs), r') := by
  unfold mactCalc
  dsimp only
  rw [beq_eq_false_iff_ne.2 hb, if_neg Bool.false_ne_true, hr]
  rfl

theorem Env.mact_unbiased (hb : f.b = Opnd.s127) (hready : MatrixReady e h [e.readOnce h f.b .n64] [] [] []) :
    e.mact s h f = .ok ((s.dropHeld e).queueMatrix e (.mact h f) f.d (elemBits (mB f)) (activated e f (List.replicate 32 (0, false))) []) := by
  have hbias : (f.b == Opnd.s127) = true := beq_iff_eq.2 hb
  have hreach : ((List.range 32).map fun j => (e.readOnce h f.b .n64).n + 4 * j).find? (fun va => !true && !canonical va) = none :=
    List.find?_eq_none.2 fun va _ => Bool.false_ne_true
  unfold Env.mact
  dsimp only
  rw [hbias, if_pos rfl, Env.matrixOp_checked hready (List.Subset.refl _), hreach]
  exact Env.matrixRun_taken (mactCalc_unbiased hb _)

theorem Env.mact_biased {bs : List Mel} {r : Reads} (hb : f.b ≠ Opnd.s127) :
    let bias := e.readOnce h f.b .n64
    MatrixReady e h [bias] [bias.n] [] [] → (∀ j < 32, canonical (bias.n + 4 * j) = true) →
    readList (fun j r => r.elem fun s => s.operandBytes e false (bias.n + 4 * j) 4) (List.range 32) (begun s e []) = (.ok bs, r) →
    e.mact s h f = .ok (r.s.queueMatrix e (.mact h f) f.d (elemBits (mB f)) (activated e f bs) r.log) := by
  intro bias hready hcanon hr
  have hbias : (f.b == Opnd.s127) = false := beq_eq_false_iff_ne.2 hb
  have hreach : ((List.range 32).map fun j => bias.n + 4 * j).find? (fun va => !false && !canonical va) = none := by
    refine List.find?_eq_none.2 fun va hva => ?_
    obtain ⟨j, hj, rfl⟩ := List.mem_map.1 hva
    rw [hcanon j (List.mem_range.1 hj)]
    exact Bool.false_ne_true
  unfold Env.mact
  dsimp only
  rw [hbias, if_neg Bool.false_ne_true, Env.matrixOp_checked hready (List.Subset.refl _), hreach]
  exact Env.matrixRun_taken (mactCalc_biased hb hr)

end
end Sys2Proof.Machine

namespace Sys2Proof.Claims
open Sys2Proof.Machine

/-- Settles O26: the plan names the instruction, whose run nothing stops. -/
theorem matrixProductsAreTaken : Obligations.MatrixProductsAreTaken := by
  intro s e i h f x vals bases scales strides hplan hex hready old c hfault
  exact exec_of_matrixPlan hplan hex hready (Env.mmaRun_multiplied i x hfault)

/-- Settles O27: each instruction passes its checks, and what it reads and writes is the statement's. -/
theorem fragmentInstructionsAct : Obligations.FragmentInstructionsAct := by
  intro s t e h f a st stride bias cols size va
  exact ⟨fun ms r hex hready htrap hr => State.perform_ok (body := fun e s => e.mldc s h f) hex (Env.mldc_loaded hready htrap hr),
    fun pas hex hready htrap hplaces hclean => State.perform_ok (body := fun e s => e.mstc s h f) hex
      (Env.mstc_stores hready htrap hplaces hclean),
    fun hex hready => State.perform_ok (body := fun e s => e.mzero s h f) hex (Env.mzero_clears hready),
    fun hex hb hready => State.perform_ok (body := fun e s => e.mact s h f) hex (Env.mact_unbiased hb hready),
    fun bs r hex hb hready hcanon hr => State.perform_ok (body := fun e s => e.mact s h f) hex (Env.mact_biased hb hready hcanon hr)⟩

end Sys2Proof.Claims

/-! PROOFS. What the sampling units read and return (R294–R309). -/
namespace Sys2Proof.Machine
open Sys2Proof.Claims (Unpoisoned)

section
variable {α β : Type} {s t : State} {e : Env} {h : Hdr}

/-! ### Steps that go well -/

theorem andThen_ok {r : Except Halt α × State} {a : α} (hr : r = (.ok a, t)) (k : α → State → Except Halt β × State) : andThen r k = k a t := by
  rw [hr]
  rfl

theorem stepRes_ok {r : Except Halt State × State} {u : State} (hr : r = (.ok t, u)) : stepRes r = .ok t := by
  rw [hr]
  rfl

theorem asAtomic_ok {r : Except Halt α × State} {a : α} (hr : r = (.ok a, t)) : asAtomic r = (.ok a, t) := by
  rw [hr]
  rfl

/-! ### Lanes free of poison (R296) -/

theorem Env.laneTrap_unpoisoned {bad : Nat → Bool} (hclean : Unpoisoned e h bad) (code detail : Nat) (addr : Nat → Nat) :
    e.laneTrap code detail addr ((e.lanes (e.effect h)).filter fun l => !e.view.padding.has l && bad l) = none := by
  have hnone : ((e.lanes (e.effect h)).filter fun l => !e.view.padding.has l && bad l) = [] := by
    refine List.filter_eq_nil_iff.2 fun l hl hbad => ?_
    obtain ⟨hworks, hpoison⟩ := Bool.and_eq_true_iff.1 hbad
    exact absurd hpoison (ne_true_of_eq_false (hclean l hl (Bool.not_eq_eq_eq_not.1 hworks)))
  rw [hnone]
  rfl

theorem Env.coordPoison_unpoisoned {bad : Nat → Bool} (hclean : Unpoisoned e h bad) : e.coordPoison (e.lanes (e.effect h)) bad = none :=
  Env.laneTrap_unpoisoned hclean ..

/-! ### Instructions that take effect in some lane -/

theorem State.perform_anyLane {i : Instr} (hsome : e.effect h ≠ 0) (hex : Executes s e i) {body : Env → State → Res State} (hb : body e s = .ok t) :
    s.perform i (fun e s => e.anyLane s h (body e s)) = .next t :=
  State.perform_ok (body := fun e s => e.anyLane s h (body e s)) hex ((if_neg hsome).trans hb)

end
end Sys2Proof.Machine

namespace Sys2Proof.Claims
open Sys2Proof.Machine

/-- Settles O28: no step of the reads stops the instruction, so that what it returns is the statement's. -/
theorem texturesAreSampled : Obligations.TexturesAreSampled := by
  intro s t u e h f hsome half n lanes
  refine ⟨fun xs rs hex hplan hread => ?tex, fun xs rs hex hplan hread => ?tgath, fun ts rs hex hclean hrecs hread => ?tld,
    fun ts hex hclean hrecs => ?tqry⟩
  case tex =>
    refine State.perform_anyLane (body := fun e s => e.tex s h f) hsome hex ?_
    exact stepRes_ok ((andThen_ok hplan _).trans (andThen_ok hread _))
  case tgath =>
    refine State.perform_anyLane (body := fun e s => e.tgath s h f) hsome hex ?_
    exact stepRes_ok ((andThen_ok hplan _).trans (andThen_ok hread _))
  case tld =>
    refine State.perform_anyLane (body := fun e s => e.tld s h f) hsome hex ?_
    unfold Env.tld
    dsimp only
    rw [Env.coordPoison_unpoisoned hclean]
    exact stepRes_ok ((andThen_ok hrecs _).trans (andThen_ok hread _))
  case tqry =>
    refine State.perform_anyLane (body := fun e s => e.tqry s h f) hsome hex ?_
    unfold Env.tqry
    dsimp only
    rw [Env.coordPoison_unpoisoned hclean]
    exact stepRes_ok (andThen_ok hrecs _)

/-- Settles O29: the checks find nothing, and no step of the reads stops the instruction. -/
theorem gridsAndNetworksAreSampled : Obligations.GridsAndNetworksAreSampled := by
  intro s t u v e h f hsome hclean lanes
  refine ⟨fun gs rs hex hrecs hchecks hread hrows => ?hgfetch, fun gs l hex hrecs hchecks hgrads hplaces => ?hgscat,
    fun ns gs rs hex hnets hrecs hchecks hread => ?ntex⟩
  case hgfetch =>
    refine State.perform_anyLane (body := fun e s => e.hgfetch s h f) hsome hex ?_
    unfold Env.hgfetch
    dsimp only
    rw [Env.coordPoison_unpoisoned hclean, andThen_ok hrecs, hchecks]
    exact stepRes_ok ((andThen_ok hread _).trans (if_pos hrows))
  case hgscat =>
    refine State.perform_ok (body := fun e s => e.hgscat s h f) hex ?_
    unfold Env.hgscat
    dsimp only
    rw [if_neg hsome, Env.coordPoison_unpoisoned hclean, andThen_ok (asAtomic_ok hrecs), hchecks, Env.laneTrap_unpoisoned hgrads]
    exact stepRes_ok (andThen_ok hplaces _)
  case ntex =>
    refine State.perform_anyLane (body := fun e s => e.ntex s h f) hsome hex ?_
    unfold Env.ntex
    dsimp only
    rw [Env.coordPoison_unpoisoned hclean, andThen_ok hnets, andThen_ok hrecs, hchecks]
    exact stepRes_ok (andThen_ok hread _)

end Sys2Proof.Claims

/-! PROOFS. What atomics send and what fences do (R350, R356, R366–R371). -/
namespace Sys2Proof.Machine
open Sys2Proof.Claims (checked)

section
variable {e : Env} {s t : State} {h : Hdr} {f : FmtM} {l : List AsqLane}

/-! ### ATOM, RED and ATOMS (R366–R370) -/

theorem Env.atomic_noLane (h0 : e.effect h = 0) (reply : Bool) : e.atomic s h f reply = .ok s := if_pos h0

theorem Env.atomic_sends (hsome : e.effect h ≠ 0) (hl : e.atomLanes s f 0 (checked e h) = .ok (l, t)) (reply : Bool) :
    e.atomic s h f reply = .ok (t.sendAtomics e
      { op := .atom f.sel (f.width == .w64), dst := if reply then some f.data else none, words := atomWords f,
        acq := if reply && ordered f.scope then some f.scope else none, rel := ordered f.scope } f.scope l) := by
  rw [checked] at hl
  rw [Env.atomic, if_neg hsome, hl]

theorem Env.atomicOnce_sends (hall : e.uniform h = .all) (hlane : e.contrib h ≠ 0)
    (hl : e.atomLanes s f (e.contrib h) (LaneSet.lowest e.width (e.effect h)).toList = .ok (l, t)) :
    e.atomicOnce s h f = .ok (t.sendAtomics e
      { op := .atom f.sel (f.width == .w64), dst := some f.data, words := 1,
        acq := if ordered f.scope then some f.scope else none, rel := ordered f.scope } f.scope l) := by
  rw [Env.atomicOnce, Env.onceUniform_all hall, if_neg hlane, hl]

/-! ### FENCE (R356, R371) -/

section
variable (hall : e.uniform h = .all)
include hall

theorem Env.fence_readOnly (hk : f.sel = 4) : e.fence s h f = .ok (s.roClear e.g.pcore) := by
  rw [Env.fence, Env.onceUniform_all hall, hk]
  rfl

theorem Env.fence_release (hk : f.sel = 0) : e.fence s h f = .ok ((s.commit e.id).release e.g.pcore e.id f.scope true) := by
  rw [Env.fence, Env.onceUniform_all hall, hk]
  rfl

theorem Env.fence_acquire (hk : f.sel = 1) : e.fence s h f = .ok (s.acquire e.g.pcore f.scope) := by
  rw [Env.fence, Env.onceUniform_all hall, hk]
  rfl

theorem Env.fence_both (hk : f.sel = 2) :
    e.fence s h f = .ok (((s.commit e.id).release e.g.pcore e.id f.scope true).acquire e.g.pcore f.scope) := by
  rw [Env.fence, Env.onceUniform_all hall, hk]
  rfl

/-- A sequentially consistent fence waits where a release of its quire is not complete. -/
theorem Env.fence_drains (hk : f.sel = 3) :
    let u := ((s.commit e.id).release e.g.pcore e.id f.scope true).acquire e.g.pcore f.scope
    e.fence s h f = .ok (if (u.core e.g.pcore).released e.id then u else u.upd e fun q => { q with wait := .stall .fence }) := by
  intro u
  have hfence : e.fence s h f =
      if (!(u.core e.g.pcore).released e.id) = true then .ok (u.upd e fun q => { q with wait := .stall .fence }) else .ok u := by
    rw [Env.fence, Env.onceUniform_all hall, hk]
    rfl
  rw [hfence]
  cases (u.core e.g.pcore).released e.id <;> rfl

end
end
end Sys2Proof.Machine

namespace Sys2Proof.Claims
open Sys2Proof.Machine

/-- Settles O20: each instruction is its own computation, whose one path the lanes, the guard and the fence's kind choose. -/
theorem atomicsAndFencesAct : Obligations.AtomicsAndFencesAct := by
  intro s t e h f l
  refine ⟨fun h0 i hi hex => ?noLane, fun hsome => ⟨fun hex hl => ?atom, fun hex hl => ?red, fun hex hall hlane hl => ?atoms, fun hex hall => ?fence⟩⟩
  case noLane =>
    rcases hi with rfl | rfl
    · exact State.perform_ok (body := fun e s => e.atomic s h f true) hex (Env.atomic_noLane h0 true)
    · exact State.perform_ok (body := fun e s => e.atomic s h f false) hex (Env.atomic_noLane h0 false)
  case atom => exact State.perform_ok (body := fun e s => e.atomic s h f true) hex (Env.atomic_sends hsome hl true)
  case red => exact State.perform_ok (body := fun e s => e.atomic s h f false) hex (Env.atomic_sends hsome hl false)
  case atoms => exact State.perform_ok (body := fun e s => e.atomicOnce s h f) hex (Env.atomicOnce_sends hall hlane hl)
  case fence =>
    have acts : ∀ {u}, e.fence s h f = .ok u → exec (.fence h f) s = .next u := State.perform_ok (body := fun e s => e.fence s h f) hex
    exact ⟨fun hk => acts (Env.fence_readOnly hall hk), fun hk => acts (Env.fence_release hall hk), fun hk => acts (Env.fence_acquire hall hk),
      fun hk => acts (Env.fence_both hall hk), fun hk => acts (Env.fence_drains hall hk)⟩

end Sys2Proof.Claims

/-! PROOFS. Barrier words, waits, and the quires and launches asked for (R374–R388). -/
namespace Sys2Proof.Machine
open Sys2Proof.Claims (Fresh Word tryOf scalarResult)

section
variable {e : Env} {s t : State} {h : Hdr} {f : FmtE} {p : Nat × Option Nat}

theorem Env.poisonOnce_fresh {α : Type} {l : List Val} (hl : Fresh e h l) (a b : α) : (if e.poisonOnce h l = true then a else b) = b :=
  if_neg (ne_true_of_eq_false hl)

section
variable (hall : e.uniform h = .all)
include hall

/-! ### Barriers (R376–R378) -/

/-- BARINIT's word once it is written: what stood there, who saw it and who waited on it are gone (R376). -/
def State.initBarrier (s : State) (e : Env) (k n : Nat) (track : Bool) : State :=
  (((((s.homeNum k 8).2.breakFor e.g.vol k).putHomeNum k 8
    (Bar.word { expected := n, arrived := 0, gen := 0, low := if track then 2 ^ 16 else 0 })).markBarrier k).observed e.g.pcore k 8).loseWaiters k

theorem Env.barinit_writes (hfresh : Fresh e h [e.readOnce h f.a .n64, e.readOnce h f.b .n32]) (hn : (e.readOnce h f.b .n32).n ≤ 4095)
    (hsome : (e.readOnce h f.b .n32).n ≠ 0 ∨ f.m.getLsbD 3 = true ∨ f.m.getLsbD 4 = true)
    (henrol : f.m.getLsbD 4 = true → (e.readOnce h f.b .n32).n = 0) (hword : Word s e h f .atomic p t)
    (hroom : f.m.getLsbD 3 = true ∨ f.m.getLsbD 4 = true → p.1 ∈ e.g.tracked ∨ e.g.tracked.length < 8)
    (hfree : f.m.getLsbD 4 = false → ∀ c ∈ (t.commit e.id).cores, stuckIn c.2.quiet c.2.out p.1 8 = false) :
    let u := t.commit e.id
    let written := if f.m.getLsbD 4 then u else u.initBarrier e p.1 (e.readOnce h f.b .n32).n (f.m.getLsbD 3)
    e.barinit s h f = .ok ((if f.m.getLsbD 3 || f.m.getLsbD 4 then written.track e.q.gath p.1 else written).accept e.id []) := by
  have hcount : ¬ (4095 < (e.readOnce h f.b .n32).n ∨ ((e.readOnce h f.b .n32).n = 0 ∧ !f.m.getLsbD 3 ∧ !f.m.getLsbD 4)
      ∨ (f.m.getLsbD 4 ∧ (e.readOnce h f.b .n32).n ≠ 0)) := by
    rintro (hbig | ⟨hzero, htrack, hno⟩ | ⟨hyes, hnonzero⟩)
    · omega
    · rcases hsome with hne | htr | hen
      · exact hne hzero
      · rw [htr] at htrack; cases htrack
      · rw [hen] at hno; cases hno
    · exact hnonzero (henrol hyes)
  have hlist : ((f.m.getLsbD 3 || f.m.getLsbD 4) && !e.g.tracked.contains p.1 && decide (8 ≤ e.g.tracked.length)) = false := by
    rw [Bool.and_assoc]
    refine Bool.and_eq_false_imp.2 fun hasked => ?_
    rcases hroom (Bool.or_eq_true_iff.1 hasked) with hmem | hlt
    · rw [List.contains_iff_mem.2 hmem]; rfl
    · rw [decide_eq_false (Nat.not_le.2 hlt), Bool.and_false]
  have hstuck : (!f.m.getLsbD 4 && (t.commit e.id).cores.any fun c => stuckIn c.2.quiet c.2.out p.1 8) = false :=
    Bool.and_eq_false_imp.2 fun hno => List.any_eq_false.2 fun c hc => ne_true_of_eq_false (hfree (Bool.not_eq_eq_eq_not.1 hno) c hc)
  rw [Env.barinit, Env.onceUniform_all hall]
  dsimp only
  rw [Env.poisonOnce_fresh hfresh, if_neg hcount, hword]
  dsimp only
  rw [hlist, hstuck]
  cases f.m.getLsbD 4 <;> rfl

theorem Env.bararv_sends (hfresh : Fresh e h [e.readOnce h f.a .n64]) (hword : Word s e h f .atomic p t) :
    e.bararv s h f = .ok (t.sendAtomics e { op := .arrive, dst := some f.d, words := 1, acq := none, rel := true }
      (barScope (spaceOf (mSpace f.m))) [{ lane := 0, key := p.1, v := 0, c := 0, bad := false, portion := p.2 }]) := by
  rw [Env.bararv, Env.onceUniform_all hall]
  dsimp only
  rw [Env.poisonOnce_fresh hfresh, hword]

section
variable (hfresh : Fresh e h [e.readOnce h f.a .n64, e.readOnce h f.b .i64]) (hword : Word s e h f .load p t)
include hfresh hword

theorem Env.barwait_parks_or_passes : e.barwait s h f =
    .ok (if t.generation e p.1 ≠ (e.readOnce h f.b .i64).n then t.barrierPassed e p.1 (barScope (spaceOf (mSpace f.m)))
      else t.upd e fun q => q.park (.barwait p.1 (BitVec.ofNat 16 (e.readOnce h f.b .i64).n) (barScope (spaceOf (mSpace f.m))))) := by
  rw [Env.barwait, Env.onceUniform_all hall]
  dsimp only
  rw [Env.poisonOnce_fresh hfresh, hword]
  dsimp only
  split <;> rfl

theorem Env.bartry_eq : e.bartry s h f =
    let hit := t.generation e p.1 != (e.readOnce h f.b .i64).n
    .ok ((if hit then t.barrierPassed e p.1 (barScope (spaceOf (mSpace f.m))) else t).upd e fun q =>
      { q with regs := q.regs.pput (bits f.m.toNat 7 5) (e.effect h) (if hit then e.effect h else 0) }) := by
  rw [Env.bartry, Env.onceUniform_all hall]
  dsimp only
  rw [Env.poisonOnce_fresh hfresh, hword]

theorem Env.bartry_passed (hgen : t.generation e p.1 ≠ (e.readOnce h f.b .i64).n) :
    e.bartry s h f = .ok ((t.barrierPassed e p.1 (barScope (spaceOf (mSpace f.m)))).upd e fun q =>
      { q with regs := q.regs.pput (bits f.m.toNat 7 5) (e.effect h) (e.effect h) }) := by
  rw [Env.bartry_eq hall hfresh hword, bne_iff_ne.2 hgen]
  rfl

theorem Env.bartry_notYet (hgen : t.generation e p.1 = (e.readOnce h f.b .i64).n) :
    e.bartry s h f = .ok (t.upd e fun q => { q with regs := q.regs.pput (bits f.m.toNat 7 5) (e.effect h) 0 }) := by
  rw [Env.bartry_eq hall hfresh hword, bne_eq_false_iff_eq.2 hgen]
  rfl

end

/-! ### TRYWAIT (R379, R380) -/

theorem Env.trywait_handle (hm : f.m.toNat.testBit 20 = true) (hfresh : Fresh e h [e.readOnce h f.d .n64, e.readOnce h f.c .n32])
    (hn : e.handleNamed (e.readOnce h f.d .n64).n = true) :
    e.trywait s h f = .ok (e.tryPark s { tryOf e h f with handle := some (e.readOnce h f.d .n64).n } (e.readOnce h f.c .n32).n) := by
  rw [Env.trywait, Env.onceUniform_all hall]
  dsimp only
  rw [if_pos hm, Env.poisonOnce_fresh hfresh, hn]
  rfl

theorem Env.trywait_word (hm : f.m.toNat.testBit 20 = false)
    (hfresh : Fresh e h [e.readOnce h f.a .n64, e.readOnce h f.b .i64, e.readOnce h f.c .n32])
    (hword : s.wordAt e (spaceOf (bits f.m.toNat 12 10)) (e.readOnce h f.a .n64).n (if f.m.toNat.testBit 17 then 8 else 4) .load = .ok (p, t)) :
    e.trywait s h f =
      .ok (e.tryPark t { tryOf e h f with key := p.1, value := BitVec.ofNat 64 (e.readOnce h f.b .i64).n } (e.readOnce h f.c .n32).n) := by
  rw [Env.trywait, Env.onceUniform_all hall]
  dsimp only
  rw [if_neg (ne_true_of_eq_false hm), Env.poisonOnce_fresh hfresh, hword]
  rfl

/-! ### MSYNC (R385) -/

section
variable {mask : Nat} (hclean : ∀ l ∈ e.lanes (e.contrib h), (e.readTy f.a .n32 l).bad = false) (hmask : mask < 2 ^ 16)
  (hne : e.lanes (e.effect h) ≠ []) (hsame : ∀ l ∈ e.lanes (e.effect h), (e.readTy f.a .n32 l).n = mask) (hin : mask.testBit e.q.index = true)

/-- The quire parks with its arrival in some episodes, and those whose members have all arrived end. -/
def State.arriveIn (s : State) (e : Env) (w : W16) (eps : List Episode) : State :=
  let s := (s.setGath e.q.gath { e.g with episodes := eps }).upd e fun q => q.park (.msync w)
  (s.modGath e.q.gath fun g => g.dropEpisodes (s.memberIndices g)).wakeMsync e.q.gath

include hclean hmask hne hsame hin

/-- Lanes that agree on a mask that holds the quire open or join its episode, unless it meets another one or no episode is free. -/
theorem Env.msync_eq :
    let w := BitVec.ofNat 16 mask
    let mine : W16 := BitVec.ofNat 16 (2 ^ e.q.index)
    let found := e.g.episodes.any fun ep => ep.mask == w
    e.msync s h f = if (!found && e.g.episodes.any fun ep => ep.mask &&& w != 0) = true then e.trapRes s 0x07 0
      else if (!found && decide (4 ≤ e.g.episodes.length)) = true then e.trapRes s 0x07 0
      else .ok (s.arriveIn e w (if found then e.g.episodes.map fun ep => if ep.mask = w then { ep with arrived := ep.arrived ||| mine } else ep
        else e.g.episodes ++ [{ mask := w, arrived := mine }])) := by
  have hvals : ((e.lanes (e.effect h)).map fun l => e.readTy f.a .n32 l).head?.map Val.n = some mask := by
    obtain ⟨l, ls, hl⟩ := List.exists_cons_of_ne_nil hne
    rw [hl, List.map_cons, List.head?_cons, Option.map_some, hsame l (hl ▸ List.mem_cons_self ..)]
  have hpoison : (e.contrib h != 0 && ((e.lanes (e.contrib h)).any fun l => (e.readTy f.a .n32 l).bad)) = false :=
    Bool.and_eq_false_imp.2 fun _ => List.any_eq_false.2 fun l hl => ne_true_of_eq_false (hclean l hl)
  have hwide : (((e.lanes (e.effect h)).map fun l => e.readTy f.a .n32 l).any fun v => decide (2 ^ 16 ≤ v.n)) = false := by
    rw [List.any_map]
    exact List.any_eq_false.2 fun l hl => by simpa [hsame l hl] using hmask
  have hagree : (((e.lanes (e.effect h)).map fun l => e.readTy f.a .n32 l).all fun v => v.n == mask) = true := by
    rw [List.all_map]
    exact List.all_eq_true.2 fun l hl => beq_iff_eq.2 (hsame l hl)
  rw [Env.msync, Env.onceUniform_all hall]
  dsimp only
  rw [hvals, Option.getD_some, hpoison, hwide, hagree, hin]
  rfl

theorem Env.msync_joins (hfound : (e.g.episodes.any fun ep => ep.mask == BitVec.ofNat 16 mask) = true) :
    e.msync s h f = .ok (s.arriveIn e (BitVec.ofNat 16 mask) (e.g.episodes.map fun ep =>
      if ep.mask = BitVec.ofNat 16 mask then { ep with arrived := ep.arrived ||| BitVec.ofNat 16 (2 ^ e.q.index) } else ep)) := by
  rw [Env.msync_eq hall hclean hmask hne hsame hin, hfound]
  rfl

/-- An episode whose mask meets no other's is opened: none has the same mask, which names at least this quire. -/
theorem Env.msync_opens (hapart : (e.g.episodes.all fun ep => ep.mask &&& BitVec.ofNat 16 mask == 0) = true) (hroom : e.g.episodes.length < 4) :
    e.msync s h f = .ok (s.arriveIn e (BitVec.ofNat 16 mask)
      (e.g.episodes ++ [{ mask := BitVec.ofNat 16 mask, arrived := BitVec.ofNat 16 (2 ^ e.q.index) }])) := by
  have hnonzero : BitVec.ofNat 16 mask ≠ 0 := by
    intro hzero
    have hz : mask = 0 := by
      have hnat := congrArg BitVec.toNat hzero
      rwa [BitVec.toNat_ofNat, Nat.mod_eq_of_lt hmask] at hnat
    rw [hz, Nat.zero_testBit] at hin
    cases hin
  have hfound : (e.g.episodes.any fun ep => ep.mask == BitVec.ofNat 16 mask) = false := by
    refine List.any_eq_false.2 fun ep hep heq => hnonzero ?_
    have hand := beq_iff_eq.1 (List.all_eq_true.1 hapart ep hep)
    rwa [beq_iff_eq.1 heq, BitVec.and_self] at hand
  have hmeets : (e.g.episodes.any fun ep => ep.mask &&& BitVec.ofNat 16 mask != 0) = false :=
    List.any_eq_false.2 fun ep hep => ne_true_of_eq_false (bne_eq_false_iff_eq.2 (beq_iff_eq.1 (List.all_eq_true.1 hapart ep hep)))
  rw [Env.msync_eq hall hclean hmask hne hsame hin, hfound, hmeets, decide_eq_false (Nat.not_le.2 hroom)]
  rfl

end

/-! ### ATTACH, DETACH and QPUSH (R382, R383, R388) -/

theorem Env.attach_asks (hfresh : Fresh e h [e.readOnce h f.a .n32, e.readOnce h f.b .n64, e.readOnce h f.c .i64])
    (hsome : 1 ≤ (e.readOnce h f.a .n32).n) (hmost : (e.readOnce h f.a .n32).n ≤ 15) :
    let g := min (e.readOnce h f.a .n32).n (e.vol.pkt.maxQ - e.g.quires.length - e.g.wanted.length)
    e.attach s h f = .ok ((((s.commit e.id).accept e.id []).modGath e.q.gath fun x =>
      { x with wanted := x.wanted ++ List.replicate g
                 { entry := BitVec.ofNat 64 (e.readOnce h f.b .n64).n, arg := BitVec.ofNat 64 (e.readOnce h f.c .i64).n, from' := e.q.index } }).returned
        e.id (scalarResult f.d g)) := by
  have hcount : ¬ ((e.readOnce h f.a .n32).n = 0 ∨ 15 < (e.readOnce h f.a .n32).n) := by omega
  rw [Env.attach, Env.onceUniform_all hall]
  dsimp only
  rw [Env.poisonOnce_fresh hfresh, if_neg hcount]
  rfl

theorem Env.qpush_pushes {Q : Queue} {u w : State} (hfresh : Fresh e h [e.readOnce h f.a .n64, e.readOnce h f.b .n64]) (hdepth : e.vol.depth < 10)
    (hqn : (e.readOnce h f.a .n64).n < 4096) (hQ : FMap.find s.queues (queueKey e.vol.ctx (e.readOnce h f.a .n64).n) = some Q)
    (hside : Q.deviceSide = true) (hstate : Q.state = .running ∨ Q.state = .waiting) (halign : (e.readOnce h f.b .n64).n % 128 = 0)
    (hword : s.wordAt e .gen (e.readOnce h f.b .n64).n 128 .load = .ok (p, t)) {r : List (W8 × Bool) × State}
    (hr : t.readKeys e (runKeys p.1 128) true = r) (hclean : ∀ b ∈ r.1, b.2 = false)
    (hpush : ((r.2.commit e.id).release e.g.pcore e.id .dev false).pushTry e (queueKey e.vol.ctx (e.readOnce h f.a .n64).n) (r.1.map Prod.fst) f.d =
      (.ok (some u), w)) :
    e.qpush s h f = .ok u := by
  have hopen : (Q.state == .running || Q.state == .waiting) = true := by rcases hstate with hst | hst <;> rw [hst] <;> rfl
  have hpacket : (e.contrib h != 0 && r.1.any Prod.snd) = false :=
    Bool.and_eq_false_imp.2 fun _ => List.any_eq_false.2 fun b hb => ne_true_of_eq_false (hclean b hb)
  rw [Env.qpush, Env.onceUniform_all hall]
  dsimp only
  rw [Env.poisonOnce_fresh hfresh, if_neg (Nat.not_le.2 hdepth), decide_eq_true hqn]
  simp only [hQ, hside, hopen, hword, hr, hpacket, hpush, halign]
  rfl

end

theorem Env.detach_leaves (hall : e.uniform h = .all) : e.detach s h =
    .ok ((s.commit e.id).upd e fun q => { q with regs := q.regs.dropLanes (BitVec.allOnes 256), queries := [] }) := by
  rw [Env.detach, Env.onceUniform_all hall]

/-! ### SPAWN (R386) -/

theorem Env.spawn_enters {l : Nat} {ls : List Nat} {u : State} (hl : e.lanes (e.contrib h) = l :: ls)
    (hclean : (e.pick (e.contrib h) fun k => (e.spawnEntry f k).bad || (e.spawnKey f k).bad) = 0)
    (hsame : ∀ k ∈ l :: ls, (e.spawnEntry f k).n = (e.spawnEntry f l).n)
    (hbins : e.enterLanes f (BitVec.ofNat 64 (e.spawnEntry f l).n) (l :: ls) (s.commit e.id) = some u) :
    let v := u.accept e.id []
    e.spawn s h f = .ok (if f.m.getLsbD 0 then v.upd e fun q =>
      { q with regs := q.regs.dropLanes (e.contrib h), queries := q.queries.filter fun r => !(e.contrib h).has r.1 } else v) := by
  have hone : ((l :: ls).any fun k => (e.spawnEntry f k).n != (e.spawnEntry f l).n) = false :=
    List.any_eq_false.2 fun k hk => ne_true_of_eq_false (bne_eq_false_iff_eq.2 (hsame k hk))
  rw [Env.spawn, hclean, hl]
  dsimp only
  rw [if_neg (not_not_intro rfl), hone, hbins]
  rfl

end
end Sys2Proof.Machine

namespace Sys2Proof.Claims
open Sys2Proof.Machine

/-- Settles O21: under a uniform guard each instruction reaches its word, and the generation found there chooses its path. -/
theorem barrierInstructionsAct : Obligations.BarrierInstructionsAct := by
  intro s t e h f p hall
  exact ⟨fun hex hfresh hn hsome henrol hword hroom hfree => State.perform_ok (body := fun e s => e.barinit s h f) hex
      (Env.barinit_writes hall hfresh hn hsome henrol hword hroom hfree),
    fun hex hfresh hword => State.perform_ok (body := fun e s => e.bararv s h f) hex (Env.bararv_sends hall hfresh hword),
    fun hex hfresh hword => State.perform_ok (body := fun e s => e.barwait s h f) hex (Env.barwait_parks_or_passes hall hfresh hword),
    fun hex hfresh hword => ⟨fun hgen => State.perform_ok (body := fun e s => e.bartry s h f) hex (Env.bartry_passed hall hfresh hword hgen),
      fun hgen => State.perform_ok (body := fun e s => e.bartry s h f) hex (Env.bartry_notYet hall hfresh hword hgen)⟩⟩

/-- Settles O22: TRYWAIT comes to its look at a handle or a word; MSYNC's mask has an episode or opens one. -/
theorem waitsParkOrEnd : Obligations.WaitsParkOrEnd := by
  intro s t e h f p hall
  exact ⟨fun hex hm hfresh hn => State.perform_ok (body := fun e s => e.trywait s h f) hex (Env.trywait_handle hall hm hfresh hn),
    fun hex hm hfresh hword => State.perform_ok (body := fun e s => e.trywait s h f) hex (Env.trywait_word hall hm hfresh hword),
    fun mask hex hclean hmask hne hsame hin =>
      ⟨fun hfound => State.perform_ok (body := fun e s => e.msync s h f) hex (Env.msync_joins hall hclean hmask hne hsame hin hfound),
        fun hapart hroom => State.perform_ok (body := fun e s => e.msync s h f) hex
          (Env.msync_opens hall hclean hmask hne hsame hin hapart hroom)⟩⟩

/-- Settles O23: each instruction is its own computation, whose checks the hypotheses pass. -/
theorem quiresAndLaunchesAreAskedFor : Obligations.QuiresAndLaunchesAreAskedFor := by
  intro s t e h f
  exact ⟨fun hex hall hfresh hsome hmost => State.perform_ok (body := fun e s => e.attach s h f) hex (Env.attach_asks hall hfresh hsome hmost),
    fun hex hall => State.perform_ok (body := fun e s => e.detach s h) hex (Env.detach_leaves hall),
    fun l ls hex hl hclean hsame u hbins => State.perform_ok (body := fun e s => e.spawn s h f) hex (Env.spawn_enters hl hclean hsame hbins),
    fun p Q u w hex hall hfresh hdepth hqn hQ hside hstate halign hword hclean hpush => State.perform_ok (body := fun e s => e.qpush s h f) hex
      (Env.qpush_pushes hall hfresh hdepth hqn hQ hside hstate halign hword rfl hclean hpush)⟩

end Sys2Proof.Claims

/-! PROOFS. Meshes and pixels (R314–R328). -/
namespace Sys2Proof.Machine
open Sys2Proof.Claims (Kernel checked vertexWords keptRecords dropsRecords attributes pixelPlace putPixel)

section
variable {e : Env} {s t : State} {h : Hdr} {f : FmtE} {r : Render}

/-! ### The kernel of a member, and checks that find nothing (R314) -/

theorem Env.inKernel_kernel {role : Role} (hk : Kernel e role r) (k : Render → Res State) : e.inKernel s role k = k r := by
  obtain ⟨hrender, hrole⟩ := hk
  rw [Env.inKernel, hrender]
  exact if_pos (beq_iff_eq.2 hrole)

theorem Env.laneTrap_clean {lanes : List Nat} {bad : Nat → Bool} (hclean : ∀ l ∈ lanes, bad l = false) (code detail : Nat) (addr : Nat → Nat) :
    e.laneTrap code detail addr (lanes.filter bad) = none := by
  rw [List.filter_eq_nil_iff.2 fun l hl => ne_true_of_eq_false (hclean l hl)]
  rfl

theorem Env.orTrap_none {trap : Option TrapInfo} (ht : trap = none) (k : Res State) : Env.orTrap s trap k = k := by
  rw [ht]
  rfl

/-! ### TPAY, MVTX, MPRIM and MDONE (R316–R323) -/

theorem Env.tpay_takes (hk : Kernel e .task r) (hall : e.uniform h = .all) (hlane : e.contrib h ≠ 0) (ha : (e.readOnce h f.a .n32).bad = false)
    (hb : (e.readOnce h f.b .n32).bad = false) (hc : (e.readOnce h f.c .n32).bad = false) (hoff : (e.readOnce h f.a .n32).n % 16 = 0)
    (hlen : (e.readOnce h f.b .n32).n % 16 = 0) (hsome : (e.readOnce h f.b .n32).n ≠ 0) (hfits : (e.readOnce h f.b .n32).n ≤ r.target.payload)
    (hmesh : 1 ≤ (e.readOnce h f.c .n32).n) (hmost : (e.readOnce h f.c .n32).n ≤ 64)
    (hin : (e.readOnce h f.a .n32).n + (e.readOnce h f.b .n32).n ≤ e.g.size) :
    let u := s.commit e.id
    e.tpay s h f = .ok (match e.g.freeSlot with
      | some k => u.takeSlot e.id k (e.readOnce h f.a .n32).n (e.readOnce h f.b .n32).n (e.readOnce h f.c .n32).n r.target.payload
      | none => u.upd e fun q =>
        { q with wait := .stall (.tpay (e.readOnce h f.a .n32).n (e.readOnce h f.b .n32).n (e.readOnce h f.c .n32).n) }) := by
  have hfields : ¬ ((e.readOnce h f.a .n32).n % 16 ≠ 0 ∨ (e.readOnce h f.b .n32).n % 16 ≠ 0 ∨ (e.readOnce h f.b .n32).n = 0
      ∨ r.target.payload < (e.readOnce h f.b .n32).n ∨ (e.readOnce h f.c .n32).n = 0 ∨ 64 < (e.readOnce h f.c .n32).n) := by omega
  rw [Env.tpay, Env.inKernel_kernel hk, Env.onceUniform_all hall, if_neg hlane]
  dsimp only
  rw [ha, hb, hc, if_neg hfields, if_neg (Nat.not_lt.2 hin)]
  cases e.g.freeSlot <;> rfl

section
variable (hk : Kernel e .mesh r) (hopen : e.g.meshlet.closed = false)
include hk hopen

theorem Env.mvtx_sets (hsome : e.effect h ≠ 0) (hlanes : ∀ l ∈ checked e h, (e.readTy f.a .n32 l).bad = false ∧ (e.readTy f.a .n32 l).n < 256
      ∧ ∀ v ∈ vertexWords e f r.target.attrs l, v.bad = false) :
    e.mvtx s h f = .ok (((s.commit e.id).modGath e.q.gath fun g => (checked e h).foldl (fun g l =>
      let ws := (vertexWords e f r.target.attrs l).map fun v => BitVec.ofNat 32 v.n
      { g with meshlet := { g.meshlet with
          verts := FMap.insert g.meshlet.verts (e.readTy f.a .n32 l).n { pos := ws.take 4, attr := ws.drop 4 } } }) g).accept e.id []) := by
  rw [Env.mvtx, Env.inKernel_kernel hk]
  dsimp only
  rw [if_neg hsome]
  refine Env.orTrap_none (Option.or_eq_none_iff.2 ⟨?slot, Option.or_eq_none_iff.2 ⟨?words, Option.or_eq_none_iff.2 ⟨if_neg (ne_true_of_eq_false hopen), ?bound⟩⟩⟩) _
  case slot => exact Env.laneTrap_clean (fun l hl => (hlanes l hl).1) ..
  case words => exact Env.laneTrap_clean (fun l hl => List.any_eq_false.2 fun v hv => ne_true_of_eq_false ((hlanes l hl).2.2 v hv)) ..
  case bound => exact Env.laneTrap_clean (fun l hl => decide_eq_false (Nat.not_le.2 (hlanes l hl).2.1)) ..

theorem Env.mprim_sets (hsome : e.effect h ≠ 0)
    (hlanes : ∀ l ∈ checked e h, (e.readTy f.a .n32 l).bad = false ∧ (e.readTy f.b .n32 l).bad = false ∧ (e.readTy f.c .n32 l).bad = false
      ∧ (e.readTy f.a .n32 l).n < 256 ∧ (e.readTy f.b .n32 l).n < 2 ^ 24 ∧ (e.readTy f.c .n32 l).n < 2 ^ 16) :
    e.mprim s h f = .ok (((s.commit e.id).modGath e.q.gath fun g => (checked e h).foldl (fun g l =>
      let v := (e.readTy f.b .n32 l).n
      { g with meshlet := { g.meshlet with
          prims := FMap.insert g.meshlet.prims (e.readTy f.a .n32 l).n
            { i0 := bits v 7 0, i1 := bits v 15 8, i2 := bits v 23 16, key := BitVec.ofNat 16 (e.readTy f.c .n32 l).n } } }) g).accept e.id []) := by
  rw [Env.mprim, Env.inKernel_kernel hk]
  dsimp only
  rw [if_neg hsome]
  refine Env.orTrap_none (Option.or_eq_none_iff.2 ⟨?slot, Option.or_eq_none_iff.2 ⟨?words, Option.or_eq_none_iff.2 ⟨if_neg (ne_true_of_eq_false hopen), ?bound⟩⟩⟩) _
  case slot => exact Env.laneTrap_clean (fun l hl => (hlanes l hl).1) ..
  case words =>
    refine Env.laneTrap_clean (fun l hl => ?_) ..
    obtain ⟨_, hb, hc, _⟩ := hlanes l hl
    rw [hb, hc]
    rfl
  case bound =>
    refine Env.laneTrap_clean (fun l hl => ?_) ..
    obtain ⟨_, _, _, hslot, hix, hkey⟩ := hlanes l hl
    rw [decide_eq_false (Nat.not_le.2 hslot), decide_eq_false (Nat.not_le.2 hix), decide_eq_false (Nat.not_le.2 hkey)]
    rfl

theorem Env.mdone_counts (hall : e.uniform h = .all) (hlane : e.contrib h ≠ 0) (ha : (e.readOnce h f.a .n32).bad = false)
    (hinst : (e.readOnce h f.a .n32).n ≤ 0xFFFFE) :
    let kept := keptRecords e h f r
    let new : List PrimWork := if dropsRecords r kept then []
      else kept.mapIdx fun i b => { serial := r.nextSerial + i, gath := e.q.gath, core := e.g.pcore, place := e.g.core, record := b, written := false, cursor := 0 }
    let v := (((s.commit e.id).modGath e.q.gath fun g => { g with meshlet := { g.meshlet with closed := true } }).accept e.id []).modVol e.g.vol fun v =>
      { v with render := v.render.map fun r => { r with nextSerial := r.nextSerial + new.length, work := r.work ++ new } }
    e.mdone s h f = .ok ((new.foldl (fun s w => s.writeRecord e.g.vol w.serial) v).returned e.id
      (oldWrites (some f.d) true 0 (if dropsRecords r kept then 2 ^ 16 else kept.length) false)) := by
  have hfields : ¬ (0xFFFFE < (e.readOnce h f.a .n32).n ∨ e.g.meshlet.closed = true) := by
    rw [hopen]
    exact not_or.2 ⟨Nat.not_lt.2 hinst, Bool.false_ne_true⟩
  rw [Env.mdone, Env.inKernel_kernel hk, Env.onceUniform_all hall, if_neg hlane]
  dsimp only
  rw [ha, if_neg hfields]
  rfl

end

/-! ### VISRD, ATTR and PIXOUT (R326–R328) -/

section
variable (hk : Kernel e .pixel r) (hsome : e.effect h ≠ 0)
include hk hsome

theorem Env.visrd_reads
    (hlanes : ∀ l ∈ checked e h, (e.readTy f.a .n32 l).bad = false ∧ r.target.holds (pixelOf (e.readTy f.a .n32 l).n) = true) :
    e.visrd s h f = .ok (s.engineReturn e h f.d 2 (fun _ => 2) ((checked e h).map fun l =>
      let p := pixelOf (e.readTy f.a .n32 l).n
      let k := pixelKey e.ctx r.target p.1 p.2
      let bs := s.engineBytes e.g.pcore k 8
      (l, [(BitVec.ofNat 32 (leValue bs), s.engineBad e.g.pcore k), (BitVec.ofNat 32 (leValue (bs.drop 4)), s.engineBad e.g.pcore (k + 4))]))) := by
  rw [Env.visrd, Env.inKernel_kernel hk]
  dsimp only
  rw [if_neg hsome]
  exact Env.orTrap_none (Option.or_eq_none_iff.2 ⟨Env.laneTrap_clean (fun l hl => (hlanes l hl).1) ..,
    Env.laneTrap_clean (fun l hl => Bool.not_eq_eq_eq_not.2 (hlanes l hl).2) ..⟩) _

theorem Env.attr_interpolates {rs : List (Nat × List (W32 × Bool) × Fl)} :
    let bary := f.m.getLsbD 0
    let vis := fun l => e.readTy f.a .n64 l
    let first := if bary then Val.zero else e.readOnce h f.b .n32
    let count := if bary then { n := 3, bad := false } else e.readOnce h f.c .n32
    let fl := rs.foldl (fun (a : Fl) x => a ||| x.2.2) 0
    (∀ l ∈ checked e h, (vis l).bad = false ∧ first.bad = false ∧ count.bad = false ∧ ((vis l).n = noPixel ∨ (vis l).n % 2 ^ 20 < r.target.capacity)) →
    (bary = true ∨ (1 ≤ count.n ∧ count.n ≤ 16 ∧ first.n + count.n ≤ r.target.attrs)) →
    (bary = false → e.boundsBy (fun _ => [useN f.d count.n 1 true]) (e.lanes (e.effect h)) = none) →
    eachLane (fun l : Nat => l) (attributes e f r.target first.n count.n) (checked e h) s = (.ok rs, t) → t.resultRows e h f.d count.n = true →
    e.attr s h f = .ok ((if fl = 0 then t else t.upd e fun q => q.raise fl).engineReturn e h f.d count.n (fun _ => count.n)
      (rs.map fun x => (x.1, x.2.1))) := by
  intro bary vis first count fl hlanes hcount hbounds hread hrows
  have hregisters : (if (bary || count.bad) = true then none else e.boundsBy (fun _ => [useN f.d count.n 1 true]) (e.lanes (e.effect h))) = none := by
    split
    next => rfl
    next hnot => exact hbounds (Bool.or_eq_false_iff.1 (Bool.eq_false_of_not_eq_true hnot)).1
  have hfields : ¬ (!bary && (count.n == 0 || decide (16 < count.n) || decide (r.target.attrs < first.n + count.n))) = true := by
    intro hbad
    obtain ⟨hnot, hout⟩ := Bool.and_eq_true_iff.1 hbad
    rcases hcount with hyes | ⟨hlo, hhi, hfits⟩
    · rw [hyes] at hnot; cases hnot
    · rw [Bool.or_eq_true, Bool.or_eq_true, beq_iff_eq, decide_eq_true_eq, decide_eq_true_eq] at hout
      omega
  rw [Env.attr, Env.inKernel_kernel hk]
  dsimp only
  rw [if_neg hsome]
  refine (Env.orTrap_none (Option.or_eq_none_iff.2 ⟨hregisters, Option.or_eq_none_iff.2 ⟨?poison, Option.or_eq_none_iff.2 ⟨if_neg hfields, ?record⟩⟩⟩) _).trans ?reads
  case poison =>
    refine Env.laneTrap_clean (fun l hl => ?_) ..
    obtain ⟨hvis, hfirst, hnum, _⟩ := hlanes l hl
    exact Bool.or_eq_false_iff.2 ⟨Bool.or_eq_false_iff.2 ⟨hvis, hfirst⟩, hnum⟩
  case record =>
    refine Env.laneTrap_clean (fun l hl => Bool.and_eq_false_imp.2 fun hpixel => decide_eq_false ?_) ..
    obtain ⟨_, _, _, hnone | hserial⟩ := hlanes l hl
    · exact absurd hnone (bne_iff_ne.1 hpixel)
    · exact Nat.not_le.2 hserial
  case reads => exact stepRes_ok ((andThen_ok hread _).trans (if_pos hrows))

theorem Env.pixout_writes {ps : List PixPlan} :
    let poisoned := fun l => ((List.range 4).map fun i => e.regAt f.b i l).any Val.bad
    (∀ l ∈ checked e h, (e.readTy f.a .n32 l).bad = false ∧ r.target.holds (pixelOf (e.readTy f.a .n32 l).n) = true
      ∧ (r.accept = false → poisoned l = false)) →
    eachLane (fun l : Nat => l) (pixelPlace e f r.target poisoned) (checked e h) s = (.ok ps, t) →
    e.pixout s h f = .ok ((ps.foldl (putPixel e f r.target) (t.commit e.id)).accept e.id []) := by
  intro poisoned hlanes hplaces
  rw [Env.pixout, Env.inKernel_kernel hk]
  dsimp only
  rw [if_neg hsome]
  refine (Env.orTrap_none (Option.or_eq_none_iff.2 ⟨?pixel, Option.or_eq_none_iff.2 ⟨?colour, ?target⟩⟩) _).trans (stepRes_ok (andThen_ok hplaces _))
  case pixel => exact Env.laneTrap_clean (fun l hl => (hlanes l hl).1) ..
  case colour =>
    split
    next => rfl
    next hnot => exact Env.laneTrap_clean (fun l hl => (hlanes l hl).2.2 (Bool.eq_false_of_not_eq_true hnot)) ..
  case target => exact Env.laneTrap_clean (fun l hl => Bool.not_eq_eq_eq_not.2 (hlanes l hl).2.1) ..

end
end
end Sys2Proof.Machine

namespace Sys2Proof.Claims
open Sys2Proof.Machine

/-- Settles O30: in its kernel each instruction passes its checks, and what is left is its effect. -/
theorem meshInstructionsAct : Obligations.MeshInstructionsAct := by
  intro s e h f r hlane hsome
  exact ⟨fun hex hk hall ha hb hc hoff hlen hne hfits hmesh hmost hin => State.perform_ok (body := fun e s => e.tpay s h f) hex
      (Env.tpay_takes hk hall hlane ha hb hc hoff hlen hne hfits hmesh hmost hin),
    fun hex hk hlanes hopen => State.perform_ok (body := fun e s => e.mvtx s h f) hex (Env.mvtx_sets hk hopen hsome hlanes),
    fun hex hk hopen hlanes => State.perform_ok (body := fun e s => e.mprim s h f) hex (Env.mprim_sets hk hopen hsome hlanes),
    fun hex hk hall ha hinst hopen => State.perform_ok (body := fun e s => e.mdone s h f) hex (Env.mdone_counts hk hopen hall hlane ha hinst)⟩

/-- Settles O31: in its kernel each instruction passes its checks, and no lane's read or place stops it. -/
theorem pixelInstructionsAct : Obligations.PixelInstructionsAct := by
  intro s t e h f r hsome hk
  exact ⟨fun hex hlanes => State.perform_ok (body := fun e s => e.visrd s h f) hex (Env.visrd_reads hk hsome hlanes),
    fun rs hex hlanes hcount hbounds hread hrows => State.perform_ok (body := fun e s => e.attr s h f) hex
      (Env.attr_interpolates hk hsome hlanes hcount hbounds hread hrows),
    fun ps hex hlanes hplaces => State.perform_ok (body := fun e s => e.pixout s h f) hex (Env.pixout_writes hk hsome hlanes hplaces)⟩

end Sys2Proof.Claims

/-! PROOFS. Ray queries (R331–R339). -/
namespace Sys2Proof.Machine
open Sys2Proof.Claims (checked)

section
variable {e : Env} {s t : State} {h : Hdr} {f : FmtE}

theorem Env.rayq_opens (hlanes : ∀ l ∈ checked e h, (e.vaIn f.b l).bad = false ∧ (e.readTy f.c .n32 l).bad = false
      ∧ rayFlagsBad (e.readTy f.c .n32 l).n = false) :
    e.rayq s h f = .ok (s.upd e fun q => { q with queries := (checked e h).foldl (fun m l => FMap.insert m l (e.openQuery f l)) q.queries }) := by
  unfold Env.rayq
  exact Env.orTrap_none (Option.or_eq_none_iff.2 ⟨Env.laneTrap_clean (fun l hl => (hlanes l hl).1) ..,
    Option.or_eq_none_iff.2 ⟨Env.laneTrap_clean (fun l hl => (hlanes l hl).2.1) .., Env.laneTrap_clean (fun l hl => (hlanes l hl).2.2) ..⟩⟩) _

theorem Env.raynext_reports {rs : List (Nat × List (W32 × Bool))}
    (hl : eachLane (fun l : Nat => l) (fun l s => s.rayNextLane e l) (checked e h) s = (.ok rs, t)) :
    e.raynext s h f = .ok (t.engineReturn e h f.d 1 (fun _ => 1) rs) := by
  rw [checked] at hl
  rw [Env.raynext, hl]

/-- The item of a candidate, where a query has one (R337). -/
def RayQuery.candidateItem (i : Nat) (r : RayQuery) : W32 × Bool :=
  match r.cand with
  | none => (0, r.bad)
  | some c => (c.item i r.invalid, r.bad || c.bad)

theorem Env.rayget_reads : e.rayget s h f = .ok (s.engineReturn e h f.d 1 (fun _ => 1) ((checked e h).map fun l =>
    (l, [if f.m.getLsbD 3 then committedItem (FMap.find e.q.queries l) l (f.m.toNat % 8)
      else ((FMap.find e.q.queries l).map (RayQuery.candidateItem (f.m.toNat % 8))).getD (0, false)]))) := by
  have hitem : ∀ r : Option RayQuery, (r.map (RayQuery.candidateItem (f.m.toNat % 8))).getD (0, false) = (match r with
      | none => (0, false)
      | some r => match r.cand with
        | none => (0, r.bad)
        | some c => (c.item (f.m.toNat % 8) r.invalid, r.bad || c.bad)) := by
    intro r
    cases r <;> rfl
  simp only [hitem]
  rfl

theorem Env.asinfo_counts {bs : List (W8 × Bool)} (hall : e.uniform h = .all) (hlane : e.contrib h ≠ 0) (ha : (e.readOnce h f.a .n64).bad = false)
    (halign : (e.readOnce h f.a .n64).n % 64 = 0) (hcanon : canonical (e.readOnce h f.a .n64).n = true)
    (hread : s.roAt e ((LaneSet.lowest e.width (e.effect h)).getD 0) (e.readOnce h f.a .n64).n 64 = (.ok bs, t)) :
    e.asinfo s h f = .ok (t.upd e fun q => { q with regs := q.regs.applyAll ((List.range 3).map fun k =>
      RegWrite.scal (Opnd.num f.d + k) (BitVec.ofNat 64 (sizeOfBuild (bs.map Prod.fst) k)) (bs.any Prod.snd)) }) := by
  rw [Env.asinfo, Env.onceUniform_all hall, if_neg hlane]
  dsimp only
  rw [ha, if_neg Bool.false_ne_true, if_neg (not_not_intro halign), hcanon]
  exact stepRes_ok (andThen_ok hread _)

end
end Sys2Proof.Machine

namespace Sys2Proof.Claims
open Sys2Proof.Machine

/-- Settles O32: RAYQ and ASINFO pass their checks, no lane of RAYNEXT stops it, and the others are updates and reads of the queries. -/
theorem rayInstructionsAct : Obligations.RayInstructionsAct := by
  intro s t e h f
  refine ⟨fun hex hlanes => State.perform_ok (body := fun e s => e.rayq s h f) hex (Env.rayq_opens hlanes),
    fun rs hex hsome hl => State.perform_anyLane (body := fun e s => e.raynext s h f) hsome hex (Env.raynext_reports hl),
    fun hex => State.perform_ok (body := fun e s => e.rayacc s h f) hex rfl,
    fun hex hsome => State.perform_anyLane (body := fun e s => e.rayend s h f) hsome hex rfl,
    fun hex hsome => State.perform_anyLane (body := fun e s => e.rayget s h f) hsome hex Env.rayget_reads,
    fun bs hex hall hlane ha halign hcanon hread => State.perform_ok (body := fun e s => e.asinfo s h f) hex
      (Env.asinfo_counts hall hlane ha halign hcanon hread)⟩

end Sys2Proof.Claims

/-! PROOFS. What tree instructions ask their engine for (R398–R411). -/
namespace Sys2Proof.Machine
open Sys2Proof.Claims (checked TreeJob treeJob)

section
variable {e : Env} {s : State} {h : Hdr} {f : FmtE} {poison : List (Nat × (Nat → Bool))}

theorem Env.treeOp_sends {list : Nat → Option Nat} (hsome : e.effect h ≠ 0) (ht : e.treeTrap f false (checked e h) poison list = none)
    (words : Nat) (commits : Bool) (op : Nat → TreeOp) : e.treeOp s h f words commits poison list op =
      .ok ((if commits then (s.commit e.id).accept e.id [] else s).sendTree e h f words (checked e h) op) := by
  rw [checked] at ht ⊢
  rw [Env.treeOp, if_neg hsome]
  dsimp only
  rw [ht]

theorem Env.treeOnce_sends (hall : e.uniform h = .all) (hlane : e.contrib h ≠ 0)
    (ht : e.treeTrap f true (LaneSet.lowest e.width (e.effect h)).toList poison (fun _ => none) = none) (op : Nat → TreeOp) :
    e.treeOnce s h f poison op =
      .ok (((s.commit e.id).accept e.id []).sendTree e h f 1 (LaneSet.lowest e.width (e.effect h)).toList op) := by
  rw [Env.treeOnce, Env.onceUniform_all hall, if_neg hlane]
  dsimp only
  rw [ht]

/-- An instruction that acts lane by lane is one operation of the tree engine. -/
theorem exec_treeJob {i : Instr} {j : TreeJob} (hj : treeJob e i = some j) :
    ∃ body, exec i s = s.perform i body ∧ body e s = e.treeOp s j.h j.f j.words j.commits j.poison j.list j.op := by
  unfold treeJob at hj
  split at hj <;> cases hj <;> unfold exec <;> exact ⟨_, rfl, rfl⟩

end
end Sys2Proof.Machine

namespace Sys2Proof.Claims
open Sys2Proof.Machine

/-- Settles O33: no check of the tree engine's frame traps, so that the requests are sent. -/
theorem treeRequestsAreSent : Obligations.TreeRequestsAreSent := by
  intro s e i taken
  refine ⟨fun j hj hex hsome ht => ?lanes, fun h f hi hex hall hlane ht => ?init, fun h f hi hex hall hlane ht => ?reuse⟩
  case lanes =>
    obtain ⟨body, hexec, hbody⟩ := exec_treeJob (s := s) hj
    exact hexec.trans (State.perform_ok hex (hbody.trans (Env.treeOp_sends hsome ht ..)))
  case init =>
    subst hi
    exact State.perform_ok (body := fun e s => e.treeOnce s h f [] fun _ => .init) hex (Env.treeOnce_sends hall hlane ht _)
  case reuse =>
    subst hi
    refine State.perform_ok (body := fun e s => e.treeOnce s h f [(8, fun l => (e.readTy f.b .n32 l).bad)] fun l => .reuse (e.readTy f.b .n32 l).w32)
      hex (Env.treeOnce_sends hall hlane ht _)

end Sys2Proof.Claims

/-! PROOFS. Group 0xF and COLLINFO (R432, R447–R452). -/
namespace Sys2Proof.Machine

section
variable {e : Env} {s t : State} {h : Hdr} {f : FmtE} (hlane : e.contrib h ≠ 0)
include hlane

theorem Env.whenActive_lane (k : Res State) : e.whenActive s h k = k := if_neg hlane

/-! ### TRAP and TRAPCALL (R448–R450) -/

theorem Env.trapNow_traps : e.trapNow s h f = .error (.trap (e.trapLanes 0x12 (f.m.toNat % 2 ^ 16) 0 (e.contrib h)), s) :=
  Env.whenActive_lane hlane _

theorem Env.trapcall_traps (hm : e.handlerMode = false) : e.trapcall s h f =
    .error (.trap (e.trapLanes 0x13 ((e.readOnce h f.b .n32).n % 2 ^ 32)
      (f.d.code.toNat + f.a.code.toNat * 2 ^ 13 + f.b.code.toNat * 2 ^ 26) (e.contrib h)), s.commit e.id) := by
  rw [Env.trapcall, Env.whenActive_lane hlane, hm]
  rfl

theorem Env.trapcall_sends {u : State} (hm : e.handlerMode = true) (hc : e.q.call = none)
    (hsend : (s.commit e.id).callSend e (e.callOf h f) = (.ok u, t)) : e.trapcall s h f = .ok u := by
  rw [Env.trapcall, Env.whenActive_lane hlane, hm]
  dsimp only
  rw [hc, hsend]
  rfl

section
variable (hall : e.uniform h = .all)
include hall

theorem Env.uniformActive_lane (k : Res State) : e.uniformActive s h k = k :=
  (Env.onceUniform_all hall _).trans (Env.whenActive_lane hlane k)

/-! ### COLLINFO (R432) -/

theorem Env.collinfo_reads (ha : (e.readOnce h f.a .n64).bad = false) (hpeer : f.m.getLsbD 0 = true → (e.readOnce h f.a .n64).n ≤ 255) :
    let w := s.collinfo e.vol.ctx (f.m.getLsbD 0) (e.readOnce h f.a .n64).n
    e.collinfo s h f = .ok (s.upd e fun q => { q with regs := q.regs.applyAll (if h.nowb then []
      else [RegWrite.scal (Opnd.num f.d) (BitVec.ofNat 64 w.1) false, .scal (Opnd.num f.d + 1) (BitVec.ofNat 64 w.2) false]) }) := by
  have hentry : (f.m.getLsbD 0 && decide (255 < (e.readOnce h f.a .n64).n)) = false :=
    Bool.and_eq_false_imp.2 fun hp => decide_eq_false (Nat.not_lt.2 (hpeer hp))
  rw [Env.collinfo]
  dsimp only
  rw [Env.onceUniform_all hall, if_neg hlane, ha, hentry]
  rfl

/-! ### TRET and TKILL (R448) -/

theorem Env.tret_returns {b : HandlerBank} {rest : List StackEntry} {v : Nat} (hb : e.q.regs.handler = some b)
    (hs : e.q.regs.stack = .handler :: rest)
    (hread : s.numAt e ((LaneSet.lowest e.width (e.contrib h)).getD 0) (b.record.toNat + 8) 8 = (.ok (v, false), t)) :
    e.tret s h = .ok (t.upd e fun q => q.leaveHandler b rest (BitVec.ofNat 64 v)) := by
  rw [Env.tret, Env.uniformActive_lane hlane hall, hb, hs]
  exact stepRes_ok (andThen_ok hread _)

theorem Env.tret_outside (hb : e.q.regs.handler = none) : e.tret s h = e.trapRes s 0x0D 0 := by
  rw [Env.tret, Env.uniformActive_lane hlane hall, hb]

theorem Env.tkill_ends :
    e.tkill s h f = .ok (if f.m.getLsbD 8 then s.endLaunch e.g.vol (.killed (f.m.toNat % 256)) else s.killQuire e.id) :=
  Env.uniformActive_lane hlane hall _

/-! ### PERF and DECSEL (R451, R452) -/

theorem Env.perf_reads {v : W64} (hv : e.counter s (e.readOnce h f.a .n32).n = some v) :
    e.perf s h f = .ok (s.upd e fun q => { q with regs := q.regs.sput (Opnd.num f.d) v (e.readOnce h f.a .n32).bad }) := by
  rw [Env.perf, Env.uniformActive_lane hlane hall]
  dsimp only
  rw [hv]

/-- The quire with DECSEL's status. -/
def State.decStatus (s : State) (e : Env) (f : FmtE) (v : Nat) : State :=
  s.upd e fun q => { q with regs := q.regs.sput (Opnd.num f.d) (BitVec.ofNat 64 v) false }

/-- The context decodes under table `n`. -/
def State.decSelect (s : State) (e : Env) (f : FmtE) (n : Nat) : State := (s.modCtx e.vol.ctx fun c => { c with table := n }).decStatus e f 0

section
variable (hn : (e.readOnce h f.a .n32).n ≤ 3) (ha : (e.readOnce h f.b .n64).bad = false)
include hn ha

/-- A table of the four, and an address that is not poisoned: the address tells whether the table is written, where it may be. -/
theorem Env.decsel_eq : e.decsel s h f =
    if (e.readOnce h f.b .n64).n = 0 then .ok (s.decSelect e f (e.readOnce h f.a .n32).n)
    else if (e.readOnce h f.a .n32).n = 0 ∨ s.tableBusy (e.readOnce h f.a .n32).n = true then .ok (s.decStatus e f 1)
    else stepRes (andThen (eachOf (fun p s => s.loadAt e ((LaneSet.lowest e.width (e.contrib h)).getD 0) p.1 p.2)
        (cuts 2049 (e.readOnce h f.b .n64).n 2048) s) fun bs s =>
      match imageOf (bs.flatten.map Prod.fst) with
      | none => (.ok (s.decStatus e f 2), s)
      | some t => (.ok (State.decSelect { s with tables := FMap.insert s.tables (e.readOnce h f.a .n32).n t } e f (e.readOnce h f.a .n32).n), s)) := by
  rw [Env.decsel, Env.uniformActive_lane hlane hall]
  dsimp only
  rw [if_neg (Nat.not_lt.2 hn), ha, if_neg Bool.false_ne_true]
  refine if_congr Iff.rfl rfl (if_congr Iff.rfl rfl (congrArg stepRes (congrArg (andThen _) (funext₂ fun bs s => ?_))))
  cases imageOf (bs.flatten.map Prod.fst) <;> rfl

theorem Env.decsel_selects (h0 : (e.readOnce h f.b .n64).n = 0) : e.decsel s h f = .ok (s.decSelect e f (e.readOnce h f.a .n32).n) :=
  (Env.decsel_eq hlane hall hn ha).trans (if_pos h0)

theorem Env.decsel_busy (h0 : (e.readOnce h f.b .n64).n ≠ 0)
    (hbusy : (e.readOnce h f.a .n32).n = 0 ∨ s.tableBusy (e.readOnce h f.a .n32).n = true) : e.decsel s h f = .ok (s.decStatus e f 1) :=
  (Env.decsel_eq hlane hall hn ha).trans ((if_neg h0).trans (if_pos hbusy))

theorem Env.decsel_loads {bs : List (List (W8 × Bool))} (h0 : (e.readOnce h f.b .n64).n ≠ 0) (hn0 : (e.readOnce h f.a .n32).n ≠ 0)
    (hfree : s.tableBusy (e.readOnce h f.a .n32).n = false)
    (hread : eachOf (fun p s => s.loadAt e ((LaneSet.lowest e.width (e.contrib h)).getD 0) p.1 p.2)
      (cuts 2049 (e.readOnce h f.b .n64).n 2048) s = (.ok bs, t)) :
    e.decsel s h f = .ok (match imageOf (bs.flatten.map Prod.fst) with
      | none => t.decStatus e f 2
      | some tab => State.decSelect { t with tables := FMap.insert t.tables (e.readOnce h f.a .n32).n tab } e f (e.readOnce h f.a .n32).n) := by
  have hidle : ¬ ((e.readOnce h f.a .n32).n = 0 ∨ s.tableBusy (e.readOnce h f.a .n32).n = true) :=
    not_or.2 ⟨hn0, ne_true_of_eq_false hfree⟩
  rw [Env.decsel_eq hlane hall hn ha, if_neg h0, if_neg hidle, andThen_ok hread]
  cases imageOf (bs.flatten.map Prod.fst) <;> rfl

end
end
end
end Sys2Proof.Machine

namespace Sys2Proof.Claims
open Sys2Proof.Machine

/-- Settles O34: with a lane that is active each instruction is its own computation, whose one path the hypotheses choose. -/
theorem systemInstructionsAct : Obligations.SystemInstructionsAct := by
  intro s t e h hlane l
  refine ⟨fun f hex hall ha hpeer => State.perform_ok (body := fun e s => e.collinfo s h f) hex (Env.collinfo_reads hlane hall ha hpeer),
    fun f hex => State.perform_halt (body := fun e s => e.trapNow s h f) hex (Env.trapNow_traps hlane),
    fun f hex hm => State.perform_halt (body := fun e s => e.trapcall s h f) hex (Env.trapcall_traps hlane hm),
    fun f u hex hm hc hsend => State.perform_ok (body := fun e s => e.trapcall s h f) hex (Env.trapcall_sends hlane hm hc hsend),
    fun f b rest v hex hall hb hs hread => State.perform_ok (body := fun e s => e.tret s h) hex (Env.tret_returns hlane hall hb hs hread),
    fun f hex hall hb => State.perform_trapRes (body := fun e s => e.tret s h) hex (Env.tret_outside hlane hall hb),
    fun f hex hall => State.perform_ok (body := fun e s => e.tkill s h f) hex (Env.tkill_ends hlane hall),
    fun f v hex hall hv => State.perform_ok (body := fun e s => e.perf s h f) hex (Env.perf_reads hlane hall hv),
    fun f hex hall hn ha => ?decsel⟩
  case decsel =>
    have acts : ∀ {u}, e.decsel s h f = .ok u → exec (.decsel h f) s = .next u := State.perform_ok (body := fun e s => e.decsel s h f) hex
    refine ⟨fun h0 => acts (Env.decsel_selects hlane hall hn ha h0), fun h0 hbusy => acts (Env.decsel_busy hlane hall hn ha h0 hbusy),
      fun bs h0 hn0 hfree hread => ?loads⟩
    have hloads := acts (Env.decsel_loads hlane hall hn ha h0 hn0 hfree hread)
    refine hloads.trans ?_
    cases imageOf (bs.flatten.map Prod.fst) <;> rfl

end Sys2Proof.Claims

/-! PROOFS. REGION through its liveness entry (R438). -/
namespace Sys2Proof.Machine

/-! ### The read-only path where it holds nothing -/

theorem State.roLine_fresh {s : State} {core pa : Nat} (u : Nat) (hfree : findRo (s.core core).ro (pa / 128) = none) :
    (s.roLine core pa u).1 = s.roFresh (pa / 128) := by
  unfold State.roLine
  dsimp only
  rw [hfree]

/-- A byte of a line at its home is the byte in memory. -/
theorem State.roFresh_byte (s : State) (line : Nat) {i : Nat} (hi : i < 128) : (s.roFresh line).bytes.getD i 0 = s.mem.byte (128 * line + i) := by
  have hlen : i < (s.mem.bytes (128 * line) 128).length := by rwa [Memory.bytes, List.length_map, List.length_range]
  calc (s.mem.bytes (128 * line) 128).getD i 0 = (s.mem.bytes (128 * line) 128)[i] := List.getD_eq_getElem _ _ hlen
    _ = s.mem.byte (128 * line + i) := by simp [Memory.bytes]

/-- Bytes of one line that the read-only path does not hold are those in memory. -/
theorem State.roRead_bytes {s : State} {core pa n : Nat} (hfree : findRo (s.core core).ro (pa / 128) = none) (hline : pa % 128 + n ≤ 128) :
    (s.roRead core pa n).1.map Prod.fst = s.mem.bytes pa n := by
  unfold State.roRead State.roCut Memory.bytes
  dsimp only
  rw [State.roLine_fresh _ hfree, List.map_map]
  refine List.map_congr_left fun i hi => ?_
  have hin : pa % 128 + i < 128 := by have := List.mem_range.1 hi; omega
  have hkey : 128 * (pa / 128) + (pa % 128 + i) = pa + i := by omega
  exact (s.roFresh_byte _ hin).trans (congrArg s.mem.byte hkey)

/-! ### REGION -/

section
variable {s t : State} {e : Env} {f : FmtC} {x : Xlated} {live : (Nat × Nat × Nat) × (Nat × Nat) × Bool}

theorem Env.region_enters (hix : f.m.toNat % 4096 < e.desc.liveN)
    (hx : s.xl (dieOfCore e.g.pcore) e.g.vol e.vol.ctx e.ctx.root (e.desc.liveVa + 32 * (f.m.toNat % 4096)) .load = (.ok x, t))
    (hpeer : paKind x.pa ≠ .peer) (hq : e.q.queries = [])
    (hlive : livenessOf ((t.roRead e.g.pcore x.pa 32).1.map Prod.fst) e.names e.vol.portion = some live) :
    e.region s f = .ok (e.regionEnter (t.roRead e.g.pcore x.pa 32).2 f live) := by
  rw [Env.region]
  dsimp only
  rw [if_neg (Nat.not_le.2 hix), hx]
  dsimp only
  rw [if_neg (fun h => hpeer (beq_iff_eq.1 h)), hlive, hq]
  rfl

end
end Sys2Proof.Machine

namespace Sys2Proof.Claims
open Sys2Proof.Machine

/-- Settles O15: no check of REGION traps, and an entry of 32 bytes in one line that the path does not hold is read from memory. -/
theorem regionOpensARegion : Obligations.RegionOpensARegion := by
  intro s e h f x live ix xl read hex hix hx hpeer hq
  have enters : livenessOf (read.1.map Prod.fst) e.names e.vol.portion = some live → exec (.region h f) s = .next (e.regionEnter read.2 f live) :=
    fun hlive => State.perform_ok (body := fun e s => e.region s f) hex (Env.region_enters hix (Prod.ext hx rfl) hpeer hq hlive)
  refine ⟨enters, fun halign hfree hlive => enters ?_⟩
  have hline : x.pa % 128 + 32 ≤ 128 := by omega
  rw [State.roRead_bytes hfree hline, hlive]

end Sys2Proof.Claims

/-! PROOFS. Save points, the save of a unit and its return, contexts switched in (R456–R465). -/
namespace Sys2Proof.Machine

/-! ### Save points (R456, R476) -/

section
variable {s : State} {id : Nat} {e : Env} (he : s.envOf id = some e)
include he

theorem State.reachPoint_due (hd : s.pointDue e = true) : s.reachPoint id = (s.rollback id).modQuire id fun q => { q with save := .atPoint } := by
  rw [State.reachPoint, State.forQuire_env he, if_pos hd]

theorem State.reachPoint_notDue (hd : s.pointDue e = false) : s.reachPoint id = s := by
  rw [State.reachPoint, State.forQuire_env he, if_neg (ne_true_of_eq_false hd)]

theorem State.copyLane_late (hl : s.copyLate e.q = true) : s.copyLane id = (s.rollback id).modQuire id fun q => { q with oldLane := none } := by
  rw [State.copyLane, State.forQuire_env he, if_pos hl]

theorem State.copyLane_notLate (hl : s.copyLate e.q = false) : s.copyLane id = s := by
  rw [State.copyLane, State.forQuire_env he, if_neg (ne_true_of_eq_false hl)]

end

/-! ### The save of a unit (R460–R462) -/

section
variable {s : State} {gid : Nat}

/-- The gatherings that a save of the unit of `gid` finds, and what they are. -/
def State.unitHere (s : State) (gid : Nat) : List Nat := s.unsaved (s.unitOf gid)
def State.unitGaths (s : State) (gid : Nat) : List Gathering := (s.unitHere gid).filterMap fun k => FMap.find s.gaths k
/-- The release of their cores has begun. -/
def State.unitReleased (s : State) (gid : Nat) : State := s.releaseCores ((s.unitGaths gid).map Gathering.pcore)
def State.unitSize (s : State) (gid : Nat) : Nat :=
  (s.unitGaths gid).foldl (fun n g => n + (s.unitReleased gid).saveSize g ((s.unitReleased gid).savedBytes g).length) 0

theorem State.saveUnit_undrained (hd : s.drained (s.unitOf gid) = false) : s.saveUnit gid = s := by
  rw [State.saveUnit]
  dsimp only
  rw [hd]
  rfl

section
variable (hd : s.drained (s.unitOf gid) = true)
include hd

theorem State.saveUnit_unreleased (hr : (s.unitReleased gid).releasedAll ((s.unitGaths gid).map Gathering.pcore) = false) :
    s.saveUnit gid = s.unitReleased gid := by
  unfold State.unitReleased State.unitGaths State.unitHere at *
  rw [State.saveUnit]
  dsimp only
  rw [hd, hr]
  rfl

/-- Released, a unit is saved where the context's pool has room for it. -/
theorem State.saveUnit_released {v : Volume} {c : Context} (hr : (s.unitReleased gid).releasedAll ((s.unitGaths gid).map Gathering.pcore) = true)
    (hv : ((s.unitGaths gid).head?.bind fun g => FMap.find (s.unitReleased gid).vols g.vol) = some v)
    (hc : FMap.find (s.unitReleased gid).ctxs v.ctx = some c) : s.saveUnit gid =
      if c.save.2 - (s.unitReleased gid).poolUsed v.ctx c < s.unitSize gid then (s.unitReleased gid).withdraw (s.unitHere gid)
      else (s.unitHere gid).foldl (fun s k => s.saveGath v.ctx k) (s.unitReleased gid) := by
  unfold State.unitSize State.unitReleased State.unitGaths State.unitHere at *
  rw [State.saveUnit]
  dsimp only
  rw [hd, hr, hv]
  simp only [hc]
  rfl

end

/-! ### The return of a unit and the end of a hold-off (R462, R463) -/

theorem State.returnUnit_none (hp : s.returnPlan gid = none) : s.returnUnit gid = s := by
  rw [State.returnUnit, hp]

/-- A unit that is placed again: where its gatherings come to, and the moves of their portions. -/
def State.returnAll (s : State) (plan : List Return') : State × Moves :=
  plan.foldl (fun (a : State × Moves) x => ((a.1.returnGath x).1, a.2 ++ (a.1.returnGath x).2)) (s, [])

theorem State.returnUnit_some {plan : List Return'} (hp : s.returnPlan gid = some plan) :
    s.returnUnit gid = if s.lacksRoom plan = true then s else (s.returnAll plan).1.rekey (plan.map Return'.gath) (s.returnAll plan).2 := by
  rw [State.returnUnit, hp]
  rfl

section
variable {g : Gathering} {since : Nat} (hg : FMap.find s.gaths gid = some g) (hh : g.holdoff = some since)
include hg hh

theorem State.holdoffEnds_over (ho : since + 1000000 ≤ s.ns) : s.holdoffEnds gid =
    if g.avoid = none then s.setGath gid { g with holdoff := none }
    else (s.setGath gid { g with holdoff := none }).requestPreemption gid g.avoid := by
  have hover : (g.holdoff.isNone || s.heldOff g) = false := by
    rw [State.heldOff, hh]
    exact decide_eq_false (Nat.not_lt.2 ho)
  rw [State.holdoffEnds, hg]
  dsimp only
  rw [hover]
  cases g.avoid <;> rfl

theorem State.holdoffEnds_early (ho : s.ns < since + 1000000) : s.holdoffEnds gid = s := by
  have hheld : s.heldOff g = true := by
    rw [State.heldOff, hh]
    exact decide_eq_true ho
  rw [State.holdoffEnds, hg]
  dsimp only
  rw [hheld, Bool.or_true]
  rfl

end
end

/-! ### Contexts switched in (R464, R465) -/

section
variable {s : State} {cid : Nat} {c : Context} (hc : FMap.find s.ctxs cid = some c) (late : Bool)
include hc

theorem State.switchIn_idle (hi : c.resident = true ∨ c.candidate = none) : s.switchIn cid late = s := by
  have hidle : c.resident = true ∨ c.candidate.isNone = true := hi.imp_right Option.isNone_iff_eq_none.2
  rw [State.switchIn, hc]
  exact if_pos hidle

/-- With no context on its way out, a candidate takes a slot that is free, or the context chosen for it begins to leave. -/
theorem State.switchIn_candidate (hr : c.resident = false) (hcand : c.candidate.isSome = true) (hno : ∀ x ∈ s.ctxs, x.2.leaving = false) :
    s.switchIn cid late = if s.residents < 64 then s.enterSlot cid c else match s.switchVictim cid late with
      | none => s
      | some v => (s.leaveBegin v).leaveEnd v := by
  have hwaits : ¬ (c.resident = true ∨ c.candidate.isNone = true) := by
    rw [hr, Option.isNone_eq_false_iff.2 hcand]
    exact not_or.2 ⟨Bool.false_ne_true, Bool.false_ne_true⟩
  have hleaving : s.ctxs.filter (fun e => e.2.leaving) = [] := List.filter_eq_nil_iff.2 fun x hx => ne_true_of_eq_false (hno x hx)
  have hany : (s.ctxs.any fun e => e.2.leaving) = false := List.any_eq_false.2 fun x hx => ne_true_of_eq_false (hno x hx)
  rw [State.switchIn, hc]
  dsimp only
  rw [if_neg hwaits, hleaving, List.foldl_nil, hany]
  cases s.switchVictim cid late <;> rfl

theorem State.switchIn_free (hr : c.resident = false) (hcand : c.candidate.isSome = true) (hno : ∀ x ∈ s.ctxs, x.2.leaving = false)
    (hslot : s.residents < 64) : s.switchIn cid late = s.enterSlot cid c :=
  (State.switchIn_candidate hc late hr hcand hno).trans (if_pos hslot)

theorem State.switchIn_full {v : Nat} (hr : c.resident = false) (hcand : c.candidate.isSome = true) (hno : ∀ x ∈ s.ctxs, x.2.leaving = false)
    (hfull : 64 ≤ s.residents) (hv : s.switchVictim cid late = some v) : s.switchIn cid late = (s.leaveBegin v).leaveEnd v := by
  rw [State.switchIn_candidate hc late hr hcand hno, if_neg (Nat.not_lt.2 hfull), hv]

theorem State.candidateLate_eq {since : Nat} (hcand : c.candidate = some since) : s.candidateLate cid = decide (since + 10000000 ≤ s.ns) := by
  rw [State.candidateLate, hc, Option.bind_some, hcand]

end
end Sys2Proof.Machine

namespace Sys2Proof.Claims
open Sys2Proof.Machine

/-- Settles O40: every event is one function of the state, whose one path the clause's conditions choose. -/
theorem unitsAreSavedAndReturn : Obligations.UnitsAreSavedAndReturn := by
  intro s
  refine ⟨fun id e he => ⟨fun hd => congrArg _ (State.reachPoint_due he hd), fun hd => congrArg _ (State.reachPoint_notDue he hd)⟩,
    fun id e he => ⟨fun hl => congrArg _ (State.copyLane_late he hl), fun hl => congrArg _ (State.copyLane_notLate he hl)⟩,
    fun gid v c => ⟨fun hd => congrArg _ (State.saveUnit_undrained hd), fun hd hr => congrArg _ (State.saveUnit_unreleased hd hr),
      fun hd hr hv hc => ?save⟩,
    fun gid hp => congrArg _ (State.returnUnit_none hp),
    fun gid plan hp => ?placed,
    fun gid g since hg hh => ⟨fun ho => congrArg _ (State.holdoffEnds_over hg hh ho), fun ho => congrArg _ (State.holdoffEnds_early hg hh ho)⟩,
    fun cid c hc => ⟨fun hi => congrArg _ (State.switchIn_idle hc false hi), fun hr hcand hno => ?candidate⟩,
    fun cid c since hc hcand => ?late⟩
  case save =>
    have hsave := State.saveUnit_released hd hr hv hc
    exact ⟨fun hroom => congrArg _ (hsave.trans (if_pos hroom)), fun hroom => congrArg _ (hsave.trans (if_neg (Nat.not_lt.2 hroom)))⟩
  case placed =>
    have hplaced := State.returnUnit_some hp
    exact ⟨fun hroom => congrArg _ (hplaced.trans (if_pos hroom)), fun hroom => congrArg _ (hplaced.trans (if_neg (ne_true_of_eq_false hroom)))⟩
  case candidate =>
    exact ⟨fun hslot => congrArg _ (State.switchIn_free hc false hr hcand hno hslot),
      fun hfull v hv => congrArg _ (State.switchIn_full hc false hr hcand hno hfull hv)⟩
  case late =>
    have hlate := State.candidateLate_eq hc hcand
    have hsome : c.candidate.isSome = true := hcand ▸ rfl
    refine ⟨fun ht => congrArg _ (if_neg ?early), fun ht hr hno => ?switched⟩
    case early =>
      rw [hlate]
      exact ne_true_of_eq_false (decide_eq_false (Nat.not_le.2 ht))
    case switched =>
      have hexec : exec (.candidateWaitExpiry cid) s = .next (s.switchIn cid true) := congrArg _ (if_pos (hlate.trans (decide_eq_true ht)))
      exact ⟨fun hslot => hexec.trans (congrArg _ (State.switchIn_free hc true hr hsome hno hslot)),
        fun hfull v hv => hexec.trans (congrArg _ (State.switchIn_full hc true hr hsome hno hfull hv))⟩

end Sys2Proof.Claims

/-! PROOFS. Detected errors: datapath errors, ways, sectors and lost state (R466–R478). -/
namespace Sys2Proof.Machine

/-! ### Datapath errors of a quire (R469, R473–R476) -/

/-- A save that was to be made of the lost row is withdrawn. -/
def Env.keptFrom (e : Env) (x : PathErr) (s : State) : State :=
  if x.ckptRow = true ∧ e.g.asked.isSome = true ∧ e.q.save = .atPoint then s.withdraw (s.unitOf e.q.gath) else s

theorem Env.keptFrom_eq (e : Env) (x : PathErr) (s : State) :
    (if (x.ckptRow && e.g.asked.isSome && e.q.save == .atPoint) = true then s.withdraw (s.unitOf e.q.gath) else s) = e.keptFrom x s :=
  if_congr (by rw [Bool.and_eq_true, Bool.and_eq_true, beq_iff_eq, and_assoc]) rfl rfl

section
variable {s : State} {id : Nat} {e : Env} (x : PathErr) (he : s.envOf id = some e)
include he

theorem State.pathError_saved (hs : e.q.save = .saved) : s.pathError id x = s := by
  rw [State.pathError, State.forQuire_env he]
  exact if_pos (beq_iff_eq.2 hs)

section
variable {x} (hs : e.q.save ≠ .saved)
include hs

theorem State.pathError_plain (hl : x.lane = none) (hw : x.way = none) :
    s.pathError id x = (e.keptFrom x s).datapathError id x.source (laneLocation 0 e.q.part e.g.pcore) 0 x.ckptRow := by
  rw [State.pathError, State.forQuire_env he, if_neg (fun h => hs (beq_iff_eq.1 h)), hl, hw]
  dsimp only [Option.filter_none]
  rw [Env.keptFrom_eq]
  rfl

theorem State.pathError_way {w : CacheWay} (hl : x.lane = none) (hw : x.way = some w) :
    s.pathError id x = (e.keptFrom x s).countWay w fun s n => s.datapathError id x.source (wayLocation w) n x.ckptRow := by
  rw [State.pathError, State.forQuire_env he, if_neg (fun h => hs (beq_iff_eq.1 h)), hl, hw]
  dsimp only [Option.filter_none]
  rw [Env.keptFrom_eq]

/-- An error in a lane that stands in counts toward it; the third retires it. -/
theorem State.pathError_lane {n : Nat} (hl : x.lane = some n) (hw : x.way = none) (hn : n < 34)
    (ht : laneRetired (s.laneTable e.g.pcore e.q.part) n = false) : s.pathError id x =
      let r := s.countEvent (laneKey e.g.pcore e.q.part n)
      let t := (e.keptFrom x r.2).datapathError id x.source (laneLocation n e.q.part e.g.pcore) r.1 x.ckptRow
      if 3 ≤ r.1 then t.retireLane e.g.pcore e.q.part n e.vol.pkt.seq e.vol.ctx (e.vol.usedMode 2) else t := by
  have hcounted : (some n).filter (fun n => decide (n < 34) && !laneRetired (s.laneTable e.g.pcore e.q.part) n) = some n := by
    refine Option.filter_eq_some_iff.2 ⟨rfl, ?_⟩
    rw [decide_eq_true hn, ht]
    rfl
  rw [State.pathError, State.forQuire_env he, if_neg (fun h => hs (beq_iff_eq.1 h)), hl, hw]
  dsimp only
  rw [hcounted]
  dsimp only
  rw [Env.keptFrom_eq]
  rfl

end
end

/-! ### Ways (R466, R474, R477) -/

section
variable {s : State} {x : CacheWay}

theorem State.wayEvent_retired (hr : s.wayRetired x = true) (ok : Bool) (w : Nat) : s.wayEvent x ok w = s := if_pos hr

section
variable (hr : s.wayRetired x = false) (ok : Bool) (w : Nat)
include hr

/-- An event in a way that stands in: it is recorded with its count, and the third retires the way. -/
theorem State.wayEvent_counts : s.wayEvent x ok w =
    let r := s.countEvent (wayKey x.array x.core x.bank (x.way % 16))
    let t := (if ok then r.2 else r.2.damageIn x.array x.core w).errorRecord 0 (if ok then 1 else 9) 4 (wayLocation x) r.1 0xFF 0
    if 3 ≤ r.1 then t.retireWay x.array x.core x.bank (x.way % 16) else t := by
  rw [State.wayEvent, if_neg (ne_true_of_eq_false hr), State.countWay, if_neg (ne_true_of_eq_false hr)]

theorem State.wayEvent_early (hc : (s.countEvent (wayKey x.array x.core x.bank (x.way % 16))).1 < 3) : s.wayEvent x ok w =
    let r := s.countEvent (wayKey x.array x.core x.bank (x.way % 16))
    (if ok then r.2 else r.2.damageIn x.array x.core w).errorRecord 0 (if ok then 1 else 9) 4 (wayLocation x) r.1 0xFF 0 :=
  (State.wayEvent_counts hr ok w).trans (if_neg (Nat.not_le.2 hc))

theorem State.wayEvent_third (hc : 3 ≤ (s.countEvent (wayKey x.array x.core x.bank (x.way % 16))).1) : s.wayEvent x ok w =
    let r := s.countEvent (wayKey x.array x.core x.bank (x.way % 16))
    ((if ok then r.2 else r.2.damageIn x.array x.core w).errorRecord 0 (if ok then 1 else 9) 4 (wayLocation x) r.1 0xFF 0).retireWay
      x.array x.core x.bank (x.way % 16) :=
  (State.wayEvent_counts hr ok w).trans (if_pos hc)

end
end

/-! ### Sectors (R466, R467, R474) -/

/-- A sector whose eight words are damaged. -/
def State.damageSector (s : State) (pa : Nat) : State := (List.range 8).foldl (fun s i => s.damageWord (pa / 32 * 8 + i)) s

section
variable {s : State} {pa : Nat} (hd : keyIsDram pa = true)
include hd

theorem State.sectorEvent_counts (ok : Bool) : s.sectorEvent pa ok =
    let source := if paKind pa = .first then 7 else 8
    let u := if ok then s else s.damageSector pa
    let r := u.countEvent (u.rowNow pa)
    let t := r.2.errorRecord 0 (if ok then 1 else 9) source (pa / 32 * 32) r.1 0xFF 0
    if 3 ≤ r.1 then t.retireRow pa source else t := by
  rw [State.sectorEvent, hd]
  rfl

theorem State.sectorEvent_corrected (hc : (s.countEvent (s.rowNow pa)).1 < 3) : s.sectorEvent pa true =
    (s.countEvent (s.rowNow pa)).2.errorRecord 0 1 (if paKind pa = .first then 7 else 8) (pa / 32 * 32) (s.countEvent (s.rowNow pa)).1 0xFF 0 :=
  (State.sectorEvent_counts hd true).trans (if_neg (Nat.not_le.2 hc))

theorem State.sectorEvent_poisoned (hc : ((s.damageSector pa).countEvent ((s.damageSector pa).rowNow pa)).1 < 3) : s.sectorEvent pa false =
    let r := (s.damageSector pa).countEvent ((s.damageSector pa).rowNow pa)
    r.2.errorRecord 0 9 (if paKind pa = .first then 7 else 8) (pa / 32 * 32) r.1 0xFF 0 :=
  (State.sectorEvent_counts hd false).trans (if_neg (Nat.not_le.2 hc))

end

/-- A corrected error of source 5 or 6 is recorded, and counts toward the way it stands in, if any (R466, R474). -/
theorem State.ecc_fixed {s : State} {source : Nat} (hs : source = 5 ∨ source = 6) (x : Option CacheWay) : s.ecc (.fixed source x) =
    match x with
    | some x => s.countWay x fun s n => s.errorRecord 0 1 source (wayLocation x) n 0xFF 0
    | none => s.bump.errorRecord 0 1 source (s.wordLocation (2 ^ 60)) 1 0xFF 0 := by
  have hknown : ¬ (source ≠ 5 ∧ source ≠ 6) := fun ⟨h5, h6⟩ => hs.elim h5 h6
  cases x <;> exact if_neg hknown

end Sys2Proof.Machine

namespace Sys2Proof.Claims
open Sys2Proof.Machine

/-- Settles O41: every event is one function of what the check found; counts and conditions choose its path. -/
theorem errorsAreContained : Obligations.ErrorsAreContained := by
  intro s
  refine ⟨fun id e x he hs => ⟨fun hl hw => congrArg _ (State.pathError_plain he hs hl hw), fun n hl hw hn ht => ?lane,
      fun w hl hw => congrArg _ (State.pathError_way he hs hl hw)⟩,
    fun id e x he hs => congrArg _ (State.pathError_saved x he hs),
    fun key => rfl, fun key => rfl,
    fun x w => ⟨fun hr ok => congrArg _ (State.wayEvent_retired hr ok w),
      fun hr hc => ⟨congrArg _ (State.wayEvent_early hr true w hc), congrArg _ (State.wayEvent_early hr false w hc)⟩,
      fun hr hc => ⟨congrArg _ (State.wayEvent_third hr true w hc), congrArg _ (State.wayEvent_third hr false w hc)⟩⟩,
    fun pa hd => ⟨fun hc => congrArg _ (State.sectorEvent_corrected hd hc), fun hc => congrArg _ (State.sectorEvent_poisoned hd hc)⟩,
    fun source hs => ⟨congrArg _ (State.ecc_fixed hs none), fun x => congrArg _ (State.ecc_fixed hs (some x))⟩,
    fun key ok => rfl, fun core words => rfl, fun core words x => rfl, fun die words => rfl,
    fun id k => ⟨fun ho => congrArg _ (if_pos ho), fun ho => congrArg _ (if_neg (ne_true_of_eq_false ho))⟩⟩
  case lane =>
    have hpath := State.pathError_lane he hs hl hw hn ht
    exact ⟨fun hc => congrArg _ (hpath.trans (if_neg (Nat.not_le.2 hc))), fun hc => congrArg _ (hpath.trans (if_pos hc))⟩

end Sys2Proof.Claims

/-! PROOFS. Messages of collectives, peers, stations and the host's accesses (R413–R430, R362). -/
namespace Sys2Proof.Machine

/-! ### Collectives under way (R425–R428) -/

theorem Coll.fail_unsettled {c : Coll} (hs : c.settled = false) (cls error : Nat) :
    c.fail cls error = { c with settled := true, status := 1, cls := cls, error := error } := if_neg (ne_true_of_eq_false hs)

section
variable {s : State} {c : Coll}

theorem State.maskDue_mask (hm : c.mask.isSome = true) : s.maskDue c = false := by
  obtain ⟨m, hm⟩ := Option.isSome_iff_exists.1 hm
  rw [State.maskDue, hm]
  rfl

theorem State.maskDue_round {t : Nat} (hr : c.round = some t) : s.maskDue c = (c.mask.isNone && decide (t + 4000000 ≤ s.ns)) := by
  rw [State.maskDue, hr, Option.any_some]

theorem State.maskDue_over {t : Nat} (hr : c.round = some t) (hm : c.mask = none) (ht : t + 4000000 ≤ s.ns) : s.maskDue c = true := by
  rw [State.maskDue_round hr, hm, decide_eq_true ht]
  rfl

theorem State.maskDue_notYet {t : Nat} (hr : c.round = some t) (ht : c.mask.isSome = true ∨ s.ns < t + 4000000) : s.maskDue c = false := by
  rcases ht with hm | ht
  · exact State.maskDue_mask hm
  · rw [State.maskDue_round hr, decide_eq_false (Nat.not_le.2 ht), Bool.and_false]

/-- Where no round has begun, or the one that has is less than 4 ms old, no mask is overdue. -/
theorem State.maskDue_early (hr : ∀ t, c.round = some t → c.mask = none → s.ns < t + 4000000) : s.maskDue c = false := by
  cases hm : c.mask with
  | some m => exact State.maskDue_mask (hm ▸ rfl)
  | none =>
    cases ht : c.round with
    | some t => exact State.maskDue_notYet ht (.inr (hr t ht hm))
    | none =>
      rw [State.maskDue, ht]
      exact Bool.and_false _

end

theorem Coll.takeMask_kept {c : Coll} {x : Nat × Nat} (m : Nat) {rank : Nat} (hx : c.mask = some x) (hle : x.2 ≤ rank) : c.takeMask m rank = c := by
  rw [Coll.takeMask, hx]
  exact if_pos (decide_eq_true hle)

theorem Coll.takeMask_taken {c : Coll} (m : Nat) {rank : Nat} (hx : ∀ x, c.mask = some x → rank < x.2) :
    c.takeMask m rank = { c with mask := some (m, rank) } := by
  refine if_neg fun hany => ?_
  obtain ⟨x, hmask, hle⟩ := (Option.any_eq_true _ _).1 hany
  exact absurd (of_decide_eq_true hle) (Nat.not_le.2 (hx x hmask))

section
variable {s : State} {id : Nat} {c : Coll} (hc : FMap.find s.colls id = some c) (ho : c.opened = true) (hs : c.settled = false) (hp : c.phase ≠ .ended)
include hc ho hs hp

theorem State.inFlight_coll (k : Coll → State) : s.inFlight id k = k c := by
  rw [State.inFlight, hc]
  dsimp only
  rw [ho, hs, bne_iff_ne.2 hp]
  rfl

section
variable {rank : Nat} (hr : c.other rank = true)
include hr

theorem State.exchange_matches (data : List W8) : s.exchange id rank c.params data = s.setColl id
    { c with data := FMap.insert c.data rank (c.fit rank data), phase := if c.phase == .waiting then .exchanging else c.phase } := by
  rw [State.exchange, State.inFlight_coll hc ho hs hp, hr]
  exact if_neg (not_not_intro rfl)

theorem State.exchange_differs {params : CollParams} (data : List W8) (hd : params ≠ c.params) :
    s.exchange id rank params data = s.setColl id { c with settled := true, status := 1, cls := 0x21, error := 3 } := by
  rw [State.exchange, State.inFlight_coll hc ho hs hp, hr, ← Coll.fail_unsettled hs]
  exact if_pos hd

theorem State.heartbeat_heard : s.heartbeat id rank = s.setColl id { c with heard := FMap.insert c.heard rank s.ns } := by
  rw [State.heartbeat, State.inFlight_coll hc ho hs hp, if_pos hr]

theorem State.takeView_learns (view : Nat) :
    let c' := { c with views := FMap.insert c.views rank view, learnt := ((List.range c.n).filter fun r => !view.testBit r).foldl setIns c.learnt }
    s.takeView id rank view = (if c.round.isNone then s.collRound id c' else s.setColl id c').decideIfReady id := by
  rw [State.takeView, State.inFlight_coll hc ho hs hp, hr]
  rfl

theorem State.receiveMask_late {t : Nat} (mask : Nat) (ht : c.round = some t) (hm : c.mask = none) (hlate : t + 4000000 ≤ s.ns) :
    s.receiveMask id rank mask = s.setColl id { c with settled := true, status := 1, cls := 0x22, error := 0 } := by
  rw [State.receiveMask, State.inFlight_coll hc ho hs hp, hr, State.maskDue_over ht hm hlate, ← Coll.fail_unsettled hs]
  rfl

theorem State.receiveMask_kept {m : Nat × Nat} (mask : Nat) (hm : c.mask = some m) (hle : m.2 ≤ rank) :
    s.receiveMask id rank mask = s.setColl id c := by
  rw [State.receiveMask, State.inFlight_coll hc ho hs hp, hr, State.maskDue_mask (hm ▸ rfl), Coll.takeMask_kept _ hm hle]
  rfl

theorem State.receiveMask_taken (mask : Nat) (hm : ∀ m, c.mask = some m → rank < m.2)
    (ht : ∀ t, c.round = some t → c.mask = none → s.ns < t + 4000000) :
    s.receiveMask id rank mask = s.setColl id { c with mask := some (mask % 2 ^ c.n, rank) } := by
  rw [State.receiveMask, State.inFlight_coll hc ho hs hp, hr, State.maskDue_early ht, Coll.takeMask_taken _ hm]
  rfl

end

/-! ### Their clocks (R427, R428) -/

theorem State.sendHeartbeats_early (ht : s.ns < c.sentAt + 250000) : s.sendHeartbeats id = s := by
  rw [State.sendHeartbeats, State.inFlight_coll hc ho hs hp, if_pos ht]

theorem State.sendHeartbeats_due (ht : c.sentAt + 250000 ≤ s.ns) :
    s.sendHeartbeats id = (s.setColl id { c with sentAt := s.ns }).tellAll c (ranksOf c.n c.view) fun r => .heartbeat id r := by
  rw [State.sendHeartbeats, State.inFlight_coll hc ho hs hp, if_neg (Nat.not_lt.2 ht)]

theorem State.declareLost_refused {rank : Nat} (hm : s.mayDeclare c rank = false) : s.declareLost id rank = s := by
  rw [State.declareLost, State.inFlight_coll hc ho hs hp, if_neg (ne_true_of_eq_false hm)]

theorem State.declareLost_declares {rank : Nat} (hm : s.mayDeclare c rank = true) :
    s.declareLost id rank = (s.collRound id { c with lost := setIns c.lost rank }).decideIfReady id := by
  rw [State.declareLost, State.inFlight_coll hc ho hs hp, if_pos hm]

theorem State.maskLate_due (hm : s.maskDue c = true) :
    s.maskLate id = s.setColl id { c with settled := true, status := 1, cls := 0x22, error := 0 } := by
  rw [State.maskLate, State.inFlight_coll hc ho hs hp, if_pos hm, Coll.fail_unsettled hs]

theorem State.maskLate_notYet (hm : s.maskDue c = false) : s.maskLate id = s := by
  rw [State.maskLate, State.inFlight_coll hc ho hs hp, if_neg (ne_true_of_eq_false hm)]

section
variable {t : Nat} (hr : c.round = some t)
include hr

theorem State.coordinatorWaited_round : s.coordinatorWaited id =
    if (c.coordinates && decide (t + 2000000 ≤ s.ns) && !s.maskDue c) = true then s.collDecide id c else s := by
  rw [State.coordinatorWaited, State.inFlight_coll hc ho hs hp, hr]

theorem State.coordinatorWaited_decides (hcoord : c.coordinates = true) (ht : t + 2000000 ≤ s.ns) (hm : c.mask.isSome = true ∨ s.ns < t + 4000000) :
    s.coordinatorWaited id = s.collDecide id c := by
  rw [State.coordinatorWaited_round hc ho hs hp hr, hcoord, decide_eq_true ht, State.maskDue_notYet hr hm]
  rfl

theorem State.coordinatorWaited_not (hn : c.coordinates = false ∨ s.ns < t + 2000000 ∨ (c.mask = none ∧ t + 4000000 ≤ s.ns)) :
    s.coordinatorWaited id = s := by
  refine (State.coordinatorWaited_round hc ho hs hp hr).trans (if_neg fun hall => ?_)
  obtain ⟨hboth, hdue⟩ := Bool.and_eq_true_iff.1 hall
  obtain ⟨hcoord, ht⟩ := Bool.and_eq_true_iff.1 hboth
  rcases hn with hno | hearly | ⟨hmask, hlate⟩
  · rw [hno] at hcoord
    cases hcoord
  · exact absurd (of_decide_eq_true ht) (Nat.not_le.2 hearly)
  · rw [State.maskDue_over hr hmask hlate] at hdue
    cases hdue

end
end

theorem State.endColl_ends {s : State} {id x : Nat} {t : Transfer} (hx : s.collXfer id = some x) (ht : FMap.find s.xfers x = some t) :
    s.endColl id = (s.collEnd x id).reapFor t := by
  rw [State.endColl, hx]
  dsimp only
  rw [ht]

/-! ### Stations and requests to peers (R413, R417, R419) -/

theorem State.stationDown_up {s : State} {k : Nat} (hk : k < 16) (hup : s.stations.testBit k = true) :
    s.stationDown k = State.markLost { s with
      stations := s.stations - 2 ^ k, fallen := if s.fallen.testBit k then s.fallen else s.fallen + 2 ^ k, flits := FMap.remove s.flits k } :=
  if_pos ⟨hk, hup⟩

section
variable {s : State} {req : Nat} {o : PeerOut} (hf : s.peerOut.find? (fun o => o.id == req) = some o)
include hf

theorem State.peerAnswers_found (ok : Bool) (data : List W8) (marks : List Nat) :
    s.peerAnswers req ok data marks = s.peerDone o (ok && !s.requestLost o) data marks := by
  rw [State.peerAnswers, hf]

theorem State.peerExpires_found : s.peerExpires req = if s.requestLost o = true then s.peerDone o false [] [] else s := by
  rw [State.peerExpires, hf]

end

theorem State.requestLost_iff {s : State} {o : PeerOut} : s.requestLost o = true ↔ o.lost = true ∨ o.sentAt + 2000000 ≤ s.ns := by
  rw [State.requestLost, Bool.or_eq_true, decide_eq_true_iff]

theorem State.requestLost_not {s : State} {o : PeerOut} (hl : o.lost = false) (ht : s.ns < o.sentAt + 2000000) : s.requestLost o = false := by
  rw [State.requestLost, hl, decide_eq_false (Nat.not_le.2 ht)]
  rfl

/-! ### Requests of peers (R418) -/

/-- A request of a kind that is served: an atomic's operation is one of those of R418 and its address is aligned. -/
def reqServed : PeerReq → Bool
  | .atomic a op wide _ _ => peerOp op.toNat && decide (a % (if wide then 8 else 4) = 0)
  | _ => true

theorem State.peerServe_eq (s : State) (r : PeerReq) : s.peerServe r =
    match FMap.find s.windows ((reqShape r).1 / 2 ^ 34 % 256) with
    | none => { s with lastReply := none }
    | some w => match FMap.find s.ctxs w.ctx with
      | none => { s with lastReply := none }
      | some c =>
        if w.len < (reqShape r).1 % 2 ^ 34 + (reqShape r).2.1 ∨ ((reqShape r).2.2.writes = true ∧ w.writable = false) ∨ (!reqServed r) = true then
          { s with lastReply := none }
        else match s.windowPas w c.root (reqShape r).2.2 (reqShape r).2.1 ((reqShape r).1 % 2 ^ 34) with
          | (none, s) => { s with lastReply := none }
          | (some pas, s) => s.performReq r pas := by
  cases r <;> rfl

theorem State.peerServe_noWindow {s : State} {r : PeerReq} (hw : FMap.find s.windows ((reqShape r).1 / 2 ^ 34 % 256) = none) :
    s.peerServe r = { s with lastReply := none } := by
  rw [State.peerServe_eq, hw]

section
variable {s t : State} {r : PeerReq} {w : Window} {c : Context} (hw : FMap.find s.windows ((reqShape r).1 / 2 ^ 34 % 256) = some w)
  (hc : FMap.find s.ctxs w.ctx = some c)
include hw hc

theorem State.peerServe_refused (hno : w.len < (reqShape r).1 % 2 ^ 34 + (reqShape r).2.1 ∨ ((reqShape r).2.2.writes = true ∧ w.writable = false)
    ∨ reqServed r = false) : s.peerServe r = { s with lastReply := none } := by
  rw [State.peerServe_eq, hw]
  dsimp only
  rw [hc]
  exact if_pos (hno.imp_right (Or.imp_right fun hnot => hnot ▸ rfl))

section
variable (hin : (reqShape r).1 % 2 ^ 34 + (reqShape r).2.1 ≤ w.len) (hwr : (reqShape r).2.2.writes = true → w.writable = true) (hok : reqServed r = true)
include hin hwr hok

/-- A request inside its window whose access the window allows comes to the translation of its bytes. -/
theorem State.peerServe_translates : s.peerServe r =
    match s.windowPas w c.root (reqShape r).2.2 (reqShape r).2.1 ((reqShape r).1 % 2 ^ 34) with
    | (none, s) => { s with lastReply := none }
    | (some pas, s) => s.performReq r pas := by
  have hallowed : ¬ (w.len < (reqShape r).1 % 2 ^ 34 + (reqShape r).2.1 ∨ ((reqShape r).2.2.writes = true ∧ w.writable = false)
      ∨ (!reqServed r) = true) := by
    rintro (hout | ⟨hwrites, hread⟩ | hnot)
    · exact absurd hout (Nat.not_lt.2 hin)
    · rw [hwr hwrites] at hread
      cases hread
    · rw [hok] at hnot
      cases hnot
  rw [State.peerServe_eq, hw]
  dsimp only
  rw [hc]
  exact if_neg hallowed

theorem State.peerServe_performs {pas : List Nat}
    (hpas : s.windowPas w c.root (reqShape r).2.2 (reqShape r).2.1 ((reqShape r).1 % 2 ^ 34) = (some pas, t)) :
    s.peerServe r = t.performReq r pas := by
  rw [State.peerServe_translates hw hc hin hwr hok, hpas]

theorem State.peerServe_faults (hpas : s.windowPas w c.root (reqShape r).2.2 (reqShape r).2.1 ((reqShape r).1 % 2 ^ 34) = (none, t)) :
    s.peerServe r = { t with lastReply := none } := by
  rw [State.peerServe_translates hw hc hin hwr hok, hpas]

end
end

/-! ### The host (R362) -/

theorem State.hostAct_read {s : State} {pa n : Nat} (h : ∀ i < n, s.hostMay (pa + i) = true) :
    s.hostAct (.read pa n) = s.outsideRead ((List.range n).map (pa + ·)) :=
  if_pos (List.all_eq_true.2 fun i hi => h i (List.mem_range.1 hi))

theorem State.hostAct_write {s : State} {pa : Nat} {d : List W8} (h : ∀ i < d.length, s.hostMay (pa + i) = true) :
    s.hostAct (.write pa d) = { s.outsideWrite (d.mapIdx fun i b => (pa + i, b)) with lastReply := some [] } :=
  if_pos (List.all_eq_true.2 fun i hi => h i (List.mem_range.1 hi))

theorem State.hostAct_refused {s : State} {pa n i : Nat} (hi : i < n) (h : s.hostMay (pa + i) = false) :
    s.hostAct (.read pa n) = { s with lastReply := none } :=
  if_neg fun hall => ne_true_of_eq_false h (List.all_eq_true.1 hall i (List.mem_range.2 hi))

end Sys2Proof.Machine

namespace Sys2Proof.Claims
open Sys2Proof.Machine

/-- Settles O43: a collective under way, a station that is up, a request that is found: each leads to one path of its event's function. -/
theorem messagesAndPeersAct : Obligations.MessagesAndPeersAct := by
  intro s
  refine ⟨fun id c hc ho hs hp => ⟨fun rank params data hr => ⟨?same, fun hd => congrArg _ (State.exchange_differs hc ho hs hp hr data hd),
        congrArg _ (State.heartbeat_heard hc ho hs hp hr)⟩,
      fun ht => congrArg _ (State.sendHeartbeats_early hc ho hs hp ht), fun ht => congrArg _ (State.sendHeartbeats_due hc ho hs hp ht),
      fun rank hm => congrArg _ (State.declareLost_refused hc ho hs hp hm), fun rank hm => congrArg _ (State.declareLost_declares hc ho hs hp hm),
      fun rank view hr => congrArg _ (State.takeView_learns hc ho hs hp hr view),
      fun t ht => ⟨fun hcoord hwait hm => congrArg _ (State.coordinatorWaited_decides hc ho hs hp ht hcoord hwait hm),
        fun hn => congrArg _ (State.coordinatorWaited_not hc ho hs hp ht hn),
        fun hm hlate => congrArg _ (State.maskLate_due hc ho hs hp (State.maskDue_over ht hm hlate)),
        fun hn => congrArg _ (State.maskLate_notYet hc ho hs hp (State.maskDue_notYet ht hn))⟩,
      fun rank mask hr => ⟨fun t ht hm hlate => congrArg _ (State.receiveMask_late hc ho hs hp hr mask ht hm hlate),
        fun m hm hle => congrArg _ (State.receiveMask_kept hc ho hs hp hr mask hm hle),
        fun hm ht => congrArg _ (State.receiveMask_taken hc ho hs hp hr mask hm ht)⟩⟩,
    fun id x t hx ht => congrArg _ (State.endColl_ends hx ht), fun k hk hup => ?station, fun k hsorted => ?acknowledged,
    fun req o ok data marks hf => ?completed, fun r => ?asked,
    fun pa n h => congrArg _ (State.hostAct_read h), fun pa d h => congrArg _ (State.hostAct_write h),
    fun pa n i hi h => congrArg _ (State.hostAct_refused hi h)⟩
  case same =>
    rintro rfl
    exact congrArg _ (State.exchange_matches hc ho hs hp hr data)
  case station =>
    have hdown := State.stationDown_up hk hup
    exact ⟨congrArg _ hdown, fun hlate => congrArg _ ((if_pos hlate).trans hdown), fun hlate => congrArg _ (if_neg (ne_true_of_eq_false hlate))⟩
  case acknowledged =>
    exact ⟨s.linkAck k, _, rfl, Nat.le_add_right 1 _, FMap.val_put_self _ _ _ hsorted, fun j hj => FMap.val_put_ne _ _ _ (Ne.symm hj), rfl⟩
  case completed =>
    have hanswer := State.peerAnswers_found hf
    have hexpire := State.peerExpires_found hf
    refine ⟨fun hlost => ?lost, fun hl ht => ?kept⟩
    case lost =>
      have hlost := State.requestLost_iff.2 hlost
      rw [hlost] at hanswer hexpire
      exact ⟨congrArg _ ((hanswer ok data marks).trans (by rw [Bool.not_true, Bool.and_false])), congrArg _ hexpire⟩
    case kept =>
      have hkept := State.requestLost_not hl ht
      rw [hkept] at hanswer hexpire
      exact ⟨congrArg _ ((hanswer ok data marks).trans (by rw [Bool.not_false, Bool.and_true])), congrArg _ hexpire⟩
  case asked =>
    intro shape off served
    have hserved : served = reqServed r := by cases r <;> rfl
    have answers : ∀ {t : State}, s.peerServe r = t → exec (.peerInboundRequest r) s = .next (t.flit t.stations) :=
      fun h => h ▸ rfl
    rw [hserved]
    exact ⟨fun hw => answers (State.peerServe_noWindow hw), fun w c t pas hw hc => ⟨fun hno => answers (State.peerServe_refused hw hc hno),
      fun hin hwr hok hpas => answers (State.peerServe_performs hw hc hin hwr hok hpas),
      fun hin hwr hok hpas => answers (State.peerServe_faults hw hc hin hwr hok hpas)⟩⟩

end Sys2Proof.Claims

/-! PROOFS. Delivery of a trap: its record in the trap area and the entry of handler mode (R442–R446). -/
namespace Sys2Proof.Machine

theorem leBytes_length (n v : Nat) : (leBytes n v).length = n := by
  induction n generalizing v with
  | zero => rfl
  | succ n ih => rw [leBytes, List.length_cons, ih]

theorem FMap.mem_of_find {α : Type} {m : FMap α} {k : Nat} {v : α} (h : FMap.find m k = some v) : (k, v) ∈ m := by
  induction m with
  | nil => cases h
  | cons x m ih =>
    rw [FMap.find] at h
    split at h
    · next hk =>
      cases h
      subst hk
      exact List.mem_cons_self
    · exact List.mem_cons_of_mem _ (ih h)

/-! ### Memory stays canonical -/

section
variable {s : State}

@[simp] theorem State.breakFor_mem (vid pa : Nat) : (s.breakFor vid pa).mem = s.mem := by
  unfold State.breakFor
  split <;> rfl

@[simp] theorem State.breakFor_cores (vid pa : Nat) : (s.breakFor vid pa).cores = s.cores := by
  unfold State.breakFor
  split <;> rfl

/-- A commit puts stores on their way; none is in memory yet. -/
theorem State.commitStores_mem (pc vid owner : Nat) (l : List StoreRec) : (s.commitStores pc vid owner l).mem = s.mem := by
  refine foldl_keeps (fun t : State => t.mem = s.mem) _ (fun t r ht => ?_) l rfl
  split
  · exact ht
  · exact (State.breakFor_mem vid r.key).trans ht

@[simp] theorem State.commit_mem (id : Nat) : (s.commit id).mem = s.mem := by
  unfold State.commit
  split
  · rfl
  · split
    · rfl
    · exact State.commitStores_mem _ _ _ _

@[simp] theorem State.finishGroup_mem (id : Nat) : (s.finishGroup id).mem = s.mem := by
  unfold State.finishGroup
  split
  · rfl
  · split
    · rfl
    · dsimp only
      split
      · exact State.commit_mem id
      · rfl

theorem State.mirror_wf (k n : Nat) (h : s.MemWf) : (s.mirror k n).MemWf := by
  unfold State.mirror
  split
  · exact h
  · exact Memory.writeMarked_wf _ _ _ h

theorem State.takeStore_wf (r : StoreRec) (h : s.MemWf) : (s.takeStore r).MemWf := by
  unfold State.takeStore
  split
  · exact h
  · exact State.mirror_wf _ _ (Memory.accept_wf r h)

theorem State.drainOut_wf (p : StoreRec → Bool) (quiet : Bool) (kept out : List OutItem) (h : s.MemWf) :
    (State.drainOut p quiet kept out s).2.MemWf := by
  induction out generalizing kept s with
  | nil => exact h
  | cons it out ih =>
    cases it with
    | store o r =>
      unfold State.drainOut
      split
      · exact ih _ (State.takeStore_wf r h)
      · exact ih _ h
    | token o sc f => exact ih _ h
    | atom o id rel l => exact ih _ h

theorem State.recallCore_wf (c : Nat) (p : StoreRec → Bool) (h : s.MemWf) : (s.recallCore c p).MemWf := by
  unfold State.recallCore
  split
  · exact State.drainOut_wf p _ _ _ h
  · exact h

theorem State.recallRange_wf (k n : Nat) (h : s.MemWf) : (s.recallRange k n).MemWf :=
  foldl_keeps State.MemWf _ (fun _ _ h => State.recallCore_wf _ _ h) _ h

theorem State.putHome_wf (pa : Nat) (bs : List W8) (h : s.MemWf) : (s.putHome pa bs).MemWf :=
  Memory.writeClean_wf _ _ (State.recallRange_wf _ _ h)

/-- Bytes written at their home stand there. -/
theorem State.putHome_byte {pa i : Nat} {bs : List W8} (h : s.MemWf) (hi : i < bs.length) : (s.putHome pa bs).mem.byte (pa + i) = bs.getD i 0 :=
  (Memory.byte_writeClean_in pa i bs (State.recallRange_wf _ _ h) hi).trans (List.getD_eq_getElem bs 0 hi).symm

/-! ### With no store on its way a recall changes nothing -/

/-- No core has a store on its way. -/
def State.NothingOut (s : State) : Prop := ∀ c ∈ s.cores, c.2.out = []

theorem State.core_out (h : s.NothingOut) (c : Nat) : (s.core c).out = [] := by
  unfold State.core FMap.val
  cases hf : FMap.find s.cores c with
  | none => rfl
  | some v => exact h _ (FMap.mem_of_find hf)

theorem State.recallRange_nothingOut (h : s.NothingOut) (k n : Nat) : s.recallRange k n = s := by
  refine foldl_unchanged (fun c => if_neg ?_) _
  rw [State.core_out h]
  exact Bool.false_ne_true

theorem State.putHome_nothingOut (h : s.NothingOut) (pa : Nat) (bs : List W8) : s.putHome pa bs = { s with mem := s.mem.writeClean pa bs } := by
  rw [State.putHome, State.recallRange_nothingOut h]

/-! ### The record (R444) -/

/-- A record whose bytes `bs` are written stands in the version of its page that the launch uses. -/
theorem State.putRecord_copy {pa i : Nat} {bs : List W8} (vid : Nat) (h : s.MemWf) (hi : i < bs.length) :
    (s.putRecord vid pa bs).mem.byte (s.shadowed vid pa + i) = bs.getD i 0 := by
  have hbroken : (s.breakFor vid pa).MemWf := by
    rw [State.MemWf, State.breakFor_mem]
    exact h
  unfold State.putRecord
  dsimp only
  split
  · next hsame =>
    rw [hsame]
    exact State.putHome_byte hbroken hi
  · exact State.putHome_byte (State.putHome_wf _ _ hbroken) hi

/-- With no store on its way, a record stands in the page itself too, where the version is apart from it. -/
theorem State.putRecord_page {pa i : Nat} {bs : List W8} (vid : Nat) (h : s.MemWf) (hout : s.NothingOut)
    (hapart : s.shadowed vid pa + bs.length ≤ pa ∨ pa + bs.length ≤ s.shadowed vid pa) (hi : i < bs.length) :
    (s.putRecord vid pa bs).mem.byte (pa + i) = bs.getD i 0 := by
  have hbroken : (s.breakFor vid pa).MemWf := by
    rw [State.MemWf, State.breakFor_mem]
    exact h
  have hempty : (s.breakFor vid pa).NothingOut := by
    rw [State.NothingOut, State.breakFor_cores]
    exact hout
  have hdiffer : s.shadowed vid pa ≠ pa := by omega
  have hput : ((s.breakFor vid pa).putHome pa bs).NothingOut := by
    rw [State.putHome_nothingOut hempty]
    exact hempty
  unfold State.putRecord
  dsimp only
  rw [if_neg hdiffer, State.putHome_nothingOut hput]
  exact (Memory.byte_writeClean_out _ _ bs (by omega)).trans (State.putHome_byte hbroken hi)

end

theorem Env.recordBytes_length (e : Env) (t : TrapInfo) (entry sig : W32) (clock : Nat) : (e.recordBytes t entry sig clock).length = 64 := by
  simp only [Env.recordBytes, List.length_append, leBytes_length, List.length_cons, List.length_nil]

/-! ### The registers of handler mode (R445) -/

section
variable {r : Regs} {recordVa : W64} {code : Nat} {held : Option (W64 × List Accepted)} {q : Quire}

/-- Scalars 112 to 126 are the handler bank's. -/
theorem Regs.enterHandler_sget {n : Nat} (h1 : 112 ≤ n) (h2 : n ≠ 127) :
    (r.enterHandler recordVa code held q).sget n = FMap.val 0 (FMap.put 0 (FMap.put 0 [] 112 recordVa) 113 (BitVec.ofNat 64 code)) n :=
  (if_neg h2).trans (if_pos h1)

theorem Regs.enterHandler_record : (r.enterHandler recordVa code held q).sget 112 = recordVa := by
  rw [Regs.enterHandler_sget (Nat.le_refl _) (by decide), FMap.val_put_ne _ _ _ (by decide)]
  exact FMap.val_put_self _ _ _ rfl

theorem Regs.enterHandler_code : (r.enterHandler recordVa code held q).sget 113 = BitVec.ofNat 64 code := by
  rw [Regs.enterHandler_sget (by decide) (by decide)]
  exact FMap.val_put_self _ _ _ (FMap.put_sorted rfl)

theorem Regs.enterHandler_zero {n : Nat} (h : 114 ≤ n) : (r.enterHandler recordVa code held q).sget n = 0 := by
  by_cases h127 : n = 127
  · exact if_pos h127
  · rw [Regs.enterHandler_sget (by omega) h127, FMap.val_put_ne _ _ _ (by omega), FMap.val_put_ne _ _ _ (by omega)]
    rfl

theorem Regs.enterHandler_kept {n : Nat} (hr : r.handler = none) (h : n < 112) : (r.enterHandler recordVa code held q).sget n = r.sget n := by
  have h127 : n ≠ 127 := by omega
  have hkept : (r.enterHandler recordVa code held q).sget n = FMap.val 0 r.s n := (if_neg h127).trans (if_neg (Nat.not_le.2 h))
  rw [hkept, Regs.sget, if_neg h127, hr]

end

/-! ### Delivery (R442, R445, R446) -/

section
variable {s t : State} {id : Nat} {e : Env} (he : s.envOf id = some e) (tr : TrapInfo)
include he

theorem State.deliver_noHandler (hh : e.ctx.handler = 0) :
    s.deliver id tr = (s.hostEvent 2 e.vol.ctx e.vol.pkt.seq).endLaunch e.g.vol (.error tr.code) := by
  rw [State.deliver, he]
  exact if_pos hh

theorem State.takeTrap_double (hm : e.handlerMode = true) (keep : Bool) :
    s.takeTrap id tr keep = (s.hostEvent 2 e.vol.ctx e.vol.pkt.seq).endLaunch e.g.vol (.error tr.code) := by
  rw [State.takeTrap, he]
  dsimp only
  rw [hm, Bool.true_or, if_pos rfl]

theorem State.deliver_enters {x : Xlated} (hh : e.ctx.handler ≠ 0)
    (hx : s.translate (dieOfCore e.g.pcore) e.vol.ctx e.ctx.root e.recordVa .store = (.ok x, t)) (hpeer : paKind x.pa ≠ .peer) :
    s.deliver id tr = (if tr.cls = 3 ∨ tr.code = 0x19 then t.finishGroup id else t).enterHandler id tr x.pa := by
  rw [State.deliver, he]
  dsimp only
  rw [if_neg hh, hx]
  exact if_neg hpeer

/-- The quire in handler mode (R445). -/
def Env.inHandler (e : Env) (t : TrapInfo) : Quire :=
  { e.q with regs := e.q.regs.enterHandler (BitVec.ofNat 64 e.recordVa) t.code e.q.heldRecord e.q, snap := none, grp := none, pc := e.ctx.handler,
             npc := e.ctx.handler, selfPc := e.ctx.handler, checked := true, latches := [], line := none, sealing := none, groupNo := 0, claimed := 0,
             wait := if t.cls = 1 ∧ e.q.repliesDue then .drain else .none, keepB := false, stopped := e.q.stopped || e.q.stepping, stepping := false }

theorem State.enterHandler_eq (pa : Nat) : s.enterHandler id tr pa =
    (s.putRecord e.g.vol pa (e.recordBytes tr e.q.regs.entry e.q.regs.sig s.clock)).setQuire id (e.inHandler tr) := by
  rw [State.enterHandler, he]
  rfl

theorem State.enterHandler_quire (pa : Nat) : FMap.find (s.enterHandler id tr pa).quires id = some (e.inHandler tr) := by
  rw [State.enterHandler_eq he]
  exact FMap.find_insert_self ..

theorem State.enterHandler_copy {pa i : Nat} (h : s.MemWf) (hi : i < 64) :
    (s.enterHandler id tr pa).mem.byte (s.shadowed e.g.vol pa + i) = (e.recordBytes tr e.q.regs.entry e.q.regs.sig s.clock).getD i 0 := by
  rw [State.enterHandler_eq he]
  exact State.putRecord_copy _ h (by rwa [Env.recordBytes_length])

theorem State.enterHandler_page {pa i : Nat} (h : s.MemWf) (hout : s.NothingOut)
    (hapart : s.shadowed e.g.vol pa + 64 ≤ pa ∨ pa + 64 ≤ s.shadowed e.g.vol pa) (hi : i < 64) :
    (s.enterHandler id tr pa).mem.byte (pa + i) = (e.recordBytes tr e.q.regs.entry e.q.regs.sig s.clock).getD i 0 := by
  rw [State.enterHandler_eq he]
  exact State.putRecord_page _ h hout (by rwa [Env.recordBytes_length]) (by rwa [Env.recordBytes_length])

end

/-- Nothing holds the handler back unless the trap is of the region class and replies are due. -/
theorem Env.inHandler_wait {e : Env} {t : TrapInfo} (h : t.cls ≠ 1 ∨ e.q.repliesDue = false) : (e.inHandler t).wait = .none :=
  if_neg fun ⟨hcls, hdue⟩ => h.elim (fun hne => hne hcls) fun hno => ne_true_of_eq_false hno hdue

end Sys2Proof.Machine

namespace Sys2Proof.Claims
open Sys2Proof.Machine

/-- Settles O52: what delivery writes is the record, whose home keeps memory canonical, and the quire in handler mode. -/
theorem deliveryEntersTheHandler : Obligations.DeliveryEntersTheHandler := by
  intro s t id e tr x he ended
  refine ⟨State.deliver_noHandler he tr, fun hm => State.takeTrap_double he tr hm false, fun hh hx hpeer hwf => ?enters⟩
  case enters =>
    intro v u d hd hnone
    have hu : u = v.enterHandler id tr x.pa := State.deliver_enters he tr hh hx hpeer
    have hv : v.MemWf := by
      unfold v
      split
      · rw [State.MemWf, State.finishGroup_mem]
        exact hwf
      · exact hwf
    rw [hu]
    exact ⟨d.inHandler tr, State.enterHandler_quire hd tr x.pa, fun i hi => State.enterHandler_copy hd tr hv hi,
      fun hout hapart i hi => State.enterHandler_page hd tr hv hout hapart hi, rfl, rfl, Env.inHandler_wait, rfl,
      Regs.enterHandler_record, Regs.enterHandler_code, fun n hn _ => Regs.enterHandler_zero hn, fun n hn => Regs.enterHandler_kept hnone hn,
      rfl, rfl, rfl, rfl, rfl, rfl, rfl⟩

end Sys2Proof.Claims

/-! PROOFS. What loads read and what stores put in the store queue (R229–R237, R251, R255, R256). -/
namespace Sys2Proof.Machine
open Sys2Proof.Claims (checked loaded loadedOnce loadedPad PadsReady)

section
variable {e : Env} {s t : State} {h : Hdr} {f : FmtM} {xs : List Spot}

/-! ### Instructions whose meaning asks first for a lane that takes effect -/

section
variable {i : Instr} (hex : Executes s e i) {body : Env → State → Res State}
include hex

/-- Without such a lane the latch takes the destination's values. -/
theorem State.perform_load_noLane (h0 : e.effect h = 0) :
    s.perform i (fun e s => if e.effect h = 0 then .ok (s.upd e (e.keepLatch h f.data (loadWords f))) else body e s) =
      .next (s.upd e (e.keepLatch h f.data (loadWords f))) :=
  State.perform_ok (body := fun e s => if e.effect h = 0 then .ok (s.upd e (e.keepLatch h f.data (loadWords f))) else body e s) hex (if_pos h0)

theorem State.perform_load (hsome : e.effect h ≠ 0) (hb : body e s = .ok t) :
    s.perform i (fun e s => if e.effect h = 0 then .ok (s.upd e (e.keepLatch h f.data (loadWords f))) else body e s) = .next t :=
  State.perform_ok (body := fun e s => if e.effect h = 0 then .ok (s.upd e (e.keepLatch h f.data (loadWords f))) else body e s) hex
    ((if_neg hsome).trans hb)

end

/-! ### Loads (R251, R252, R255, R256) -/

theorem Env.loadVector_loaded (hpriv : e.privTrap f (e.lanes (e.effect h)) = none)
    (hspots : e.spots s f (Wd f.width) 0 (bypassed f) .load (checked e h) = .ok (xs, t))
    (hpads : PadsReady t e f (e.lanes (e.effect h &&& e.view.padding))) : e.loadVector s h f = .ok (loaded t e h f xs) := by
  rw [checked] at hspots
  rw [PadsReady] at hpads
  rw [Env.loadVector, hpriv, hspots]
  dsimp only
  rw [hpads]
  rfl

theorem Env.loadScalar_padding {l : Nat} (hpad : e.contrib h = 0) (hl : LaneSet.lowest e.width (e.effect h) = some l) (hpads : PadsReady s e f [l]) :
    e.loadScalar s h f = .ok (loadedPad s e h f l) := by
  rw [Env.loadScalar, hl]
  dsimp only
  rw [if_pos hpad]
  rw [PadsReady] at hpads
  rw [loadedPad]
  dsimp only
  generalize e.padSpots s f (Wd f.width) (bypassed f) [l] = p at hpads ⊢
  obtain ⟨ys, u⟩ := p
  cases ys with
  | nil => rfl
  | cons y ys =>
    dsimp only at hpads ⊢
    rw [hpads, if_neg (List.cons_ne_nil y ys)]

theorem Env.loadScalar_once {l : Nat} (hlane : e.contrib h ≠ 0) (hl : LaneSet.lowest e.width (e.effect h) = some l)
    (hspots : e.spots s f (Wd f.width) (e.contrib h) (bypassed f) .load [l] = .ok (xs, t)) :
    e.loadScalar s h f = .ok (loadedOnce t e h f l xs) := by
  rw [Env.loadScalar, hl]
  dsimp only
  rw [if_neg hlane, hspots]
  rfl

theorem Env.ldacq_acquires (hsome : e.effect h ≠ 0) (hload : (if f.data.isScal then e.loadScalar s h f else e.loadVector s h f) = .ok t) :
    e.ldacq s h f = .ok ((t.acquire e.g.pcore f.scope).upd e fun q => q.awaitLoads f.scope) := by
  rw [Env.ldacq, hload]
  exact congrArg Except.ok (if_neg hsome)

theorem Env.loadRo_reads {ws : List RegWrite} (haddr : e.addrTrap s f (Wd f.width) 0 (checked e h) = none)
    (hread : e.roLanes h f (checked e h) s = .ok (ws, t)) :
    let p := (e.lanes (e.effect h &&& e.view.padding)).foldl (e.roPad h f) (ws, t)
    e.loadRo s h f = .ok (p.2.upd e (e.outstanding h f.data (loadWords f) (e.lanes (e.effect h)) [Pending.load p.1 true 0])) := by
  rw [checked] at haddr hread
  intro p
  rw [Env.loadRo]
  dsimp only
  rw [haddr, hread]

end
end Sys2Proof.Machine

namespace Sys2Proof.Claims
open Sys2Proof.Machine

/-- Settles O16: each load is its own computation, whose one path the lanes, the checks and the waits choose. -/
theorem loadsReadWhatTheirLanesName : Obligations.LoadsReadWhatTheirLanesName := by
  intro s t e h f xs
  refine ⟨fun h0 i hi hex => ?noLane, fun hsome => ⟨fun hex hpriv hspots hpads => ?ld, fun l hex hpad hl hpads => ?ldsPadding,
    fun l hex hlane hl hspots => ?lds, fun hex hvec hpriv hspots hpads => ?ldacq, fun l hex hscal hlane hl hspots => ?ldacqScalar,
    fun ws hex haddr hread => ?ldro⟩⟩
  case noLane =>
    rcases hi with rfl | rfl
    · exact State.perform_load_noLane (body := fun e s => e.loadVector s h f) hex h0
    · exact State.perform_load_noLane (body := fun e s => e.loadRo s h f) hex h0
  case ld => exact State.perform_load (body := fun e s => e.loadVector s h f) hex hsome (Env.loadVector_loaded hpriv hspots hpads)
  case ldsPadding => exact State.perform_ok (body := fun e s => e.loadScalar s h f) hex (Env.loadScalar_padding hpad hl hpads)
  case lds => exact State.perform_ok (body := fun e s => e.loadScalar s h f) hex (Env.loadScalar_once hlane hl hspots)
  case ldacq =>
    refine State.perform_ok (body := fun e s => e.ldacq s h f) hex (Env.ldacq_acquires hsome ?_)
    rw [hvec]
    exact Env.loadVector_loaded hpriv hspots hpads
  case ldacqScalar =>
    refine State.perform_ok (body := fun e s => e.ldacq s h f) hex (Env.ldacq_acquires hsome ?_)
    rw [hscal]
    exact Env.loadScalar_once hlane hl hspots
  case ldro => exact State.perform_load (body := fun e s => e.loadRo s h f) hex hsome (Env.loadRo_reads haddr hread)

end Sys2Proof.Claims

/-! PROOFS. What stores put in the store queue, and what PREF, CINV and CWB do (R235, R237, R251, R253–R256). -/
namespace Sys2Proof.Machine
open Sys2Proof.Claims (checked prefetch Reachable)

section
variable {e : Env} {s t u : State} {h : Hdr} {f : FmtM} {l : List (Nat × List StoreRec)}

/-! ### Stores (R251, R255, R256) -/

theorem Env.contrib_of_noLane (h0 : e.effect h = 0) : e.contrib h = 0 := by
  rw [Env.contrib, h0]
  exact BitVec.zero_and

theorem Env.storeVector_stores (hpriv : e.privTrap f (e.lanes (e.effect h)) = none) (hplan : e.storePlan s f 0 (checked e h) = .ok (l, t))
    (hput : t.storeLanes e (f.space != .gen) (wordEntries f.width) (e.effect h) l = .ok u) : e.storeVector s h f = .ok u := by
  rw [checked] at hplan
  rw [Env.storeVector, hpriv, hplan]
  exact hput

theorem Env.storeScalar_noLane (hpad : e.contrib h = 0) : e.storeScalar s h f = .ok s := if_pos hpad

theorem Env.storeScalar_stores {k : Nat} (hlane : e.contrib h ≠ 0) (hk : LaneSet.lowest e.width (e.effect h) = some k)
    (hplan : e.storePlan s f (e.contrib h) [k] = .ok (l, t)) (hput : t.storeLanes e (f.space != .gen) 1 (LaneSet.one k) l = .ok u) :
    e.storeScalar s h f = .ok u := by
  rw [Env.storeScalar, if_neg hlane, hk]
  dsimp only
  rw [hplan]
  exact hput

theorem Env.strel_noLane (h0 : e.effect h = 0) : e.strel s h f = .ok s := if_pos h0

theorem Env.strel_stores (hsome : e.effect h ≠ 0) (hplan : e.storePlan s f 0 (checked e h) = .ok (l, t))
    (hput : (if e.firstWord = 0 then (t.commit e.id).release e.g.pcore e.id f.scope false else t).storeLanes e (f.space != .gen) (wordEntries f.width)
      (e.effect h) l = .ok u) : e.strel s h f = .ok u := by
  rw [checked] at hplan
  rw [Env.strel, if_neg hsome, hplan]
  exact hput

/-! ### PREF, CINV and CWB (R253, R254) -/

theorem Env.pref_fetches (hclean : Reachable e h f) : e.pref s h f = .ok ((e.lanes (e.effect h)).foldl (prefetch e f) s) := by
  have hnone : ((e.lanes (e.contrib h)).filter fun l => (e.baseVal f l).bad || (e.indexVal f l).bad) = [] := by
    refine List.filter_eq_nil_iff.2 fun l hl => ?_
    obtain ⟨hbase, hindex⟩ := hclean l hl
    rw [hbase, hindex]
    exact Bool.false_ne_true
  rw [Env.pref, hnone]
  rfl

theorem Env.maintain_noLane (hl : LaneSet.lowest e.width (e.effect h) = none) (k : Option (List Nat) → State → Res State) :
    e.maintain s h f k = .ok s := by
  rw [Env.maintain, hl]

theorem Env.maintain_named {n : Nat} (hl : LaneSet.lowest e.width (e.effect h) = some n)
    (hclean : e.contrib h = 0 ∨ ((e.baseVal f n).bad = false ∧ (e.indexVal f n).bad = false)) (k : Option (List Nat) → State → Res State) :
    e.maintain s h f k = k (e.namedLines s h f).1 (e.namedLines s h f).2 := by
  rw [Env.maintain, hl]
  refine if_neg ?_
  rcases hclean with hpad | ⟨hbase, hindex⟩
  · rw [hpad]
    exact Bool.false_ne_true
  · rw [hbase, hindex, Bool.or_self, Bool.and_false]
    exact Bool.false_ne_true

end
end Sys2Proof.Machine

namespace Sys2Proof.Claims
open Sys2Proof.Machine

/-- Settles O17: each store is its own computation, whose one path the lanes and the checks choose. -/
theorem storesEnterTheStoreQueue : Obligations.StoresEnterTheStoreQueue := by
  intro s t u e h f l
  have st : ∀ {w}, Executes s e (.st h f) → (if e.effect h = 0 then .ok s else e.storeVector s h f) = .ok w → exec (.st h f) s = .next w :=
    State.perform_ok (body := fun e s => if e.effect h = 0 then .ok s else e.storeVector s h f)
  have sts : ∀ {w}, Executes s e (.sts h f) → e.storeScalar s h f = .ok w → exec (.sts h f) s = .next w :=
    State.perform_ok (body := fun e s => e.storeScalar s h f)
  have strel : ∀ {w}, Executes s e (.strel h f) → e.strel s h f = .ok w → exec (.strel h f) s = .next w :=
    State.perform_ok (body := fun e s => e.strel s h f)
  refine ⟨fun h0 i hi hex => ?noLane, fun hsome => ⟨fun hex hpriv hplan hput => ?st, fun k hex hlane hk hplan hput => ?sts,
    fun hex hpad => sts hex (Env.storeScalar_noLane hpad), fun hex hplan hput => strel hex (Env.strel_stores hsome hplan hput)⟩⟩
  case noLane =>
    rcases hi with rfl | rfl | rfl
    · exact st hex (if_pos h0)
    · exact sts hex (Env.storeScalar_noLane (Env.contrib_of_noLane h0))
    · exact strel hex (Env.strel_noLane h0)
  case st => exact st hex ((if_neg hsome).trans (Env.storeVector_stores hpriv hplan hput))
  case sts => exact sts hex (Env.storeScalar_stores hlane hk hplan hput)

/-- Settles O18: no poisoned address word stops PREF; CINV and CWB act on the lines they name, and no store of a named line is left to wait for. -/
theorem cacheInstructionsAct : Obligations.CacheInstructionsAct := by
  intro s e h f
  have cinv : ∀ {t}, Executes s e (.cinv h f) → e.cinv s h f = .ok t → exec (.cinv h f) s = .next t :=
    State.perform_ok (body := fun e s => e.cinv s h f)
  have cwb : ∀ {t}, Executes s e (.cwb h f) → e.cwb s h f = .ok t → exec (.cwb h f) s = .next t :=
    State.perform_ok (body := fun e s => e.cwb s h f)
  refine ⟨fun hex hclean => State.perform_ok (body := fun e s => e.pref s h f) hex (Env.pref_fetches hclean), fun i hi hex hl => ?noLane,
    fun l hl hclean => ⟨fun hex hk => cinv hex ?words, fun hex hk => cinv hex ?sectors, ?cwb⟩⟩
  case noLane =>
    rcases hi with rfl | rfl
    · exact cinv hex (Env.maintain_noLane hl _)
    · exact cwb hex (Env.maintain_noLane hl _)
  case words => exact (Env.maintain_named hl hclean _).trans (congrArg Except.ok (if_neg hk))
  case sectors => exact (Env.maintain_named hl hclean _).trans (congrArg Except.ok (if_pos hk))
  case cwb =>
    intro hex mine home hnone held
    refine cwb hex ((Env.maintain_named hl hclean _).trans ?_)
    have hany : (outStores (home.core e.g.pcore).out).any mine = false := List.any_eq_false.2 fun r hr => ne_true_of_eq_false (hnone r hr)
    refine (if_neg (ne_true_of_eq_false hany)).trans ?_
    exact (apply_ite Except.ok ..).symm

end Sys2Proof.Claims

/-! PROOFS. Watchdogs, and what a resolution does for those that wait on a fault entry (R248, R249, R389–R392). -/
namespace Sys2Proof.Machine
open Sys2Proof.Claims (goesOn)

/-! ### The deadlock watchdog (R390) -/

section
variable {s : State} {cid : Nat} {c : Context} (hc : FMap.find s.ctxs cid = some c)
include hc

theorem State.deadlockFires_idle (hidle : c.watchdog = false ∨ c.stuck < 50000000 ∨ s.deadlocked cid = false) : s.deadlockFires cid = s := by
  rw [State.deadlockFires, hc]
  refine if_pos ?_
  rwa [Bool.not_eq_true', Bool.not_eq_true']

theorem State.deadlockFires_ends (hw : c.watchdog = true) (hstuck : 50000000 ≤ c.stuck) (hdead : s.deadlocked cid = true) :
    let l := (s.vols.filter fun v => v.2.ctx == cid && v.2.ending == .running
      && s.gaths.any fun g => g.2.vol == v.1 && !g.2.retired && g.2.saved.isNone).map Prod.fst
    s.deadlockFires cid =
      ((l.foldl (fun s v => s.endLaunch v (.error 0x1A)) s).hostEvent 1 cid (s.firstSeq l)).modCtx cid fun c => { c with stuck := 0 } := by
  intro l
  rw [State.deadlockFires, hc]
  refine if_neg ?_
  rw [hw, hdead]
  rintro (h | h | h)
  · cases h
  · exact absurd h (Nat.not_lt.2 hstuck)
  · cases h

end

/-! ### The external-wait timeout and the budget (R391, R392) -/

/-- A TRYWAIT with a shorter limit of its own returns before the timeout. -/
def Env.ownLimit (e : Env) : Bool :=
  match e.q.wait with
  | .tryw t => decide (t.limit < 1000000 * e.ctx.extTimeout ∧ t.limit ≠ 2 ^ 32 - 1)
  | _ => false

section
variable {s : State} {id : Nat} {e : Env} (he : s.envOf id = some e)
include he

theorem State.externalTimeout_eq : s.externalTimeout id =
    if e.ctx.extTimeout ≠ 0 ∧ e.q.wait.outside ∧ 1000000 * e.ctx.extTimeout < e.q.watched ∧ !s.ctxStopped e.vol.ctx ∧ e.g.asked.isNone
        ∧ !e.ownLimit then
      s.takeTrap id { e.trapInfo 0x1A 0xFFFF 2 0 0 with pc := e.waitPc } false
    else s := by
  rw [State.externalTimeout, State.forQuire_env he]
  rfl

theorem State.externalTimeout_traps (hlimit : e.ctx.extTimeout ≠ 0) (hout : e.q.wait.outside = true)
    (hpast : 1000000 * e.ctx.extTimeout < e.q.watched) (hstop : s.ctxStopped e.vol.ctx = false) (hasked : e.g.asked = none)
    (hown : e.ownLimit = false) :
    s.externalTimeout id = s.takeTrap id { e.trapInfo 0x1A 0xFFFF 2 0 0 with pc := e.waitPc } false := by
  rw [State.externalTimeout_eq he, hstop, hasked, hown]
  exact if_pos ⟨hlimit, hout, hpast, rfl, rfl, rfl⟩

theorem State.externalTimeout_idle (hidle : e.ctx.extTimeout = 0 ∨ e.q.wait.outside = false ∨ e.q.watched ≤ 1000000 * e.ctx.extTimeout
    ∨ s.ctxStopped e.vol.ctx = true ∨ e.g.asked.isSome = true ∨ e.ownLimit = true) : s.externalTimeout id = s := by
  rw [State.externalTimeout_eq he]
  refine if_neg ?_
  rintro ⟨hlimit, hout, hpast, hstop, hasked, hown⟩
  rcases hidle with h | h | h | h | h | h
  · exact hlimit h
  · exact ne_true_of_eq_false h hout
  · exact absurd hpast (Nat.not_lt.2 h)
  · rw [h] at hstop
    cases hstop
  · rw [Option.isNone_iff_eq_none.1 hasked] at h
    cases h
  · rw [h] at hown
    cases hown

theorem State.budgetTrap_eq {l : List Member} (hl : e.nextGroup s = some l) (hissue : e.q.mayIssue = true) (hgrp : e.q.grp = none)
    (htrap : e.groupTrap l = none) (hboard : e.scoreboardOk l = true) :
    s.budgetTrap id = if e.overBudget then (s.modQuire id fun q => { q with budget := 0 }).takeTrap id (e.trapAll 0x11 0) false else s := by
  rw [State.budgetTrap, State.forQuire_env he, hl]
  dsimp only
  rw [hissue, hgrp, htrap, hboard]
  simp only [Option.isNone_none, Bool.true_and, Bool.and_true]

end

theorem Env.overBudget_iff {e : Env} : e.overBudget = true ↔ e.handlerMode = false ∧ e.vol.pkt.budget ≠ 0 ∧ 2 ^ e.vol.pkt.budget < e.q.budget + 1 := by
  rw [Env.overBudget, Bool.and_eq_true, Bool.and_eq_true, Bool.not_eq_true', bne_iff_ne, decide_eq_true_iff, and_assoc]

/-! ### Resolutions (R248, R249) -/

section
variable {s t : State} {cid k : Nat} {c : Context} {f : FaultEnt} {res : Nat} (hc : FMap.find s.ctxs cid = some c) (hf : FMap.find c.faults k = some f)
include hc hf

theorem State.resolve_idle (hidle : f.written = false ∨ res = 0) : s.resolve cid k res = s := by
  rw [State.resolve, hc]
  dsimp only
  rw [hf]
  refine if_pos ?_
  rwa [Bool.not_eq_true']

/-- Each waiter goes its way, and the entry's state byte becomes 0. -/
theorem State.resolve_frees (hw : f.written = true) (hres : res ≠ 0) {x : Xlated}
    (hx : (f.waiters.foldl (fun s w => s.resolveWaiter k f (verdictOf res) w) (s.setCtx cid { c with faults := FMap.remove c.faults k })).translate
      0 cid c.root (c.faultRing + 32 * f.slot) .ewrite = (.ok x, t)) : s.resolve cid k res = t.putHome (x.pa + 18) [0] := by
  rw [State.resolve, hc]
  dsimp only
  rw [hf]
  refine (if_neg ?_).trans ?_
  · rw [hw]
    rintro (h | h)
    · cases h
    · exact hres h
  · rw [hx]

end

section
variable {s : State} {id k : Nat} {e : Env} {trap : TrapInfo} (he : s.envOf id = some e) (hw : e.q.wait = .fault k trap false)
include he hw

theorem State.resolveQuire_retry : s.resolveQuire id k .retry = s.rollback id := by
  rw [State.resolveQuire, State.forQuire_env he, hw]
  exact if_neg (not_not_intro rfl)

theorem State.resolveQuire_deliver : s.resolveQuire id k .deliver = (s.modQuire id goesOn).takeTrap id trap false := by
  rw [State.resolveQuire, State.forQuire_env he, hw]
  exact if_neg (not_not_intro rfl)

theorem State.resolveQuire_kill : s.resolveQuire id k .kill = s.endLaunch e.g.vol (.killed 0) := by
  rw [State.resolveQuire, State.forQuire_env he, hw]
  exact if_neg (not_not_intro rfl)

end
end Sys2Proof.Machine

namespace Sys2Proof.Claims
open Sys2Proof.Machine

/-- Settles O39: every event is one function of the state, whose one path the clause's conditions choose. -/
theorem watchdogsAndResolutionsAct : Obligations.WatchdogsAndResolutionsAct := by
  intro s
  have next : ∀ {t u : State}, t = u → (Host.Outcome.next t : Out) = .next u := congrArg _
  refine ⟨fun cid c hc => ⟨fun hidle => next (State.deadlockFires_idle hc hidle),
      fun hw hstuck hdead => next (State.deadlockFires_ends hc hw hstuck hdead)⟩,
    fun id e he => ⟨fun hlimit hout hpast hstop hasked hown => next (State.externalTimeout_traps he hlimit hout hpast hstop hasked hown),
      fun hidle => next (State.externalTimeout_idle he hidle)⟩,
    fun id e l he hl hissue hgrp htrap hboard => ?budget, fun cid c hc => next ?retry,
    fun cid c k f res hc hf => ⟨fun hidle => next (State.resolve_idle hc hf hidle), fun hw hres x t hx => next (State.resolve_frees hc hf hw hres hx)⟩,
    fun cid c k f id e trap hc hf hw hwaiters => ?verdicts⟩
  case budget =>
    have hbudget := State.budgetTrap_eq he hl hissue hgrp htrap hboard
    refine ⟨fun hmode hsome hover => next (hbudget.trans (if_pos (Env.overBudget_iff.2 ⟨hmode, hsome, hover⟩))),
      fun hidle => next (hbudget.trans (if_neg fun hover => ?_))⟩
    obtain ⟨hmode, hsome, hover⟩ := Env.overBudget_iff.1 hover
    rcases hidle with h | h | h
    · exact ne_true_of_eq_false hmode h
    · exact hsome h
    · exact absurd hover (Nat.not_lt.2 h)
  case retry => rw [State.retryFaults, hc]
  case verdicts =>
    intro freed he hwait t x u hx
    have resolves : ∀ {res}, res ≠ 0 → freed.resolveQuire id k (verdictOf res) = t → exec (.faultResolution cid k res) s = .next (u.putHome (x.pa + 18) [0]) := by
      intro res hres hgone
      refine next (State.resolve_frees hc hf hw hres ?_)
      rw [hwaiters]
      exact (congrArg (fun v : State => v.translate 0 cid c.root (c.faultRing + 32 * f.slot) .ewrite) hgone).trans hx
    exact ⟨fun ht => resolves (by decide) ((State.resolveQuire_retry he hwait).trans ht.symm),
      fun ht => resolves (by decide) ((State.resolveQuire_deliver he hwait).trans ht.symm),
      fun ht => resolves (by decide) ((State.resolveQuire_kill he hwait).trans ht.symm)⟩

end Sys2Proof.Claims

/-! PROOFS. A table of the cores that lists a core twice: a core whose entry empties shows its other one. -/
namespace Sys2Proof.Claims
open Sys2Proof.Machine

/-- A store of one byte, 1, that quire 1 has committed. -/
def oneByteAt (key : Nat) : StoreRec := { key := key, bytes := [1], bad := false, evict := false, portion := none }

/-- The wait of quire 1 after an instruction. -/
def waitAfter (o : Out) : Option Wait :=
  match o with
  | .next t => (FMap.find t.quires 1).map Quire.wait
  | _ => none

theorem waitAfter_next {t : State} {q : Quire} (h : FMap.find t.quires 1 = some q) : waitAfter (.next t) = some q.wait := by
  rw [waitAfter, h, Option.map_some]

/-! ### O19: a recall that the lines' translation makes -/

/-- The launch keeps a copy of bytes 4 to 7 of page 0x100 at the start of core 0's scratchpad, where the first entry of core 0 has a store on
its way. In the second a store to the next line stands behind a fence token that an acceptance holds. -/
def copiedPage : State :=
  let s := State.reset.withFetchWord 96 0
  { s.modVol 1 fun v => { v with shadow := [{ page := 0x100, slot := none, copy := spadKey 0 0, sectors := [], lo := 4, hi := 8 }] } with
    cores := [(0, { Core.fresh with out := [.store 1 (oneByteAt (spadKey 0 0))] }),
      (0, { Core.fresh with out := [.token 1 3 false, .store 1 (oneByteAt 0x100080)], cnt := [(0, 1)] })] }

/-- CWB of the two lines from 0x100000. -/
def twoLines : FmtM := { data := .imm 2, base := .s 0 2, index := .imm 0, off := 0x100000, width := .w8, space := .gen, scope := .quire, sel := 0 }

/-- What the statement of O19 asks of the address words of an instruction on the lines `f`. -/
abbrev CleanLines (e : Env) (h : Hdr) (f : FmtM) : Prop :=
  Reachable e h f ∧ ∀ l ∈ LaneSet.lowest e.width (e.effect h), e.contrib h ≠ 0 → (e.baseVal f l).bad = false ∧ (e.indexVal f l).bad = false

theorem cwb_copiedPage : ∃ e, Executes copiedPage e (.cwb plainHdr twoLines) ∧ CleanLines e plainHdr twoLines
    ∧ ∀ r ∈ outStores (copiedPage.core e.g.pcore).out, keyIsGeneric r.key = false ∨ r.far = true := by
  have hany : (copiedPage.envOf copiedPage.cur).any (fun e => decide (e.check (.cwb plainHdr twoLines) = none ∧ e.recorded = none
      ∧ copiedPage.stallOf e 0 (.cwb plainHdr twoLines) = none ∧ CleanLines e plainHdr twoLines
      ∧ ∀ r ∈ outStores (copiedPage.core e.g.pcore).out, keyIsGeneric r.key = false ∨ r.far = true)) = true := by
    decide +kernel
  obtain ⟨e, he, hp⟩ := (Option.any_eq_true _ _).1 hany
  obtain ⟨hcheck, hrecorded, hstall, hclean, hout⟩ := of_decide_eq_true hp
  exact ⟨e, ⟨he, hcheck, hrecorded, hstall⟩, hclean, hout⟩

/-- The store to the second line cannot leave, so that CWB waits for it. -/
theorem cwb_copiedPage_waits : waitAfter (exec (.cwb plainHdr twoLines) copiedPage) = some (.stall .order) := by decide +kernel

/-- Refutes O19: in a state whose table of the cores lists core 0 twice, the recall that a copied page's translation makes empties the first entry,
which is then no longer listed, and CWB waits for a store of the second. -/
theorem not_cacheInstructionsComplete : ¬ Obligations.CacheInstructionsComplete := by
  intro hcomplete
  obtain ⟨e, hex, ⟨hreach, hlowest⟩, hout⟩ := cwb_copiedPage
  obtain ⟨_, _, hcwb⟩ := hcomplete copiedPage e plainHdr twoLines hreach hlowest
  obtain ⟨t, hexec, hquires⟩ := hcwb hex hout
  have hwait : (FMap.find t.quires 1).map Quire.wait = some (.stall .order) := by
    rw [← cwb_copiedPage_waits, hexec, waitAfter]
  rw [hquires] at hwait
  cases hwait

/-! ### O50: a load that drops the word it reads from the L1 -/

/-- The first entry of core 0 holds the scratchpad's first word valid; in the second a store to that word is on its way. -/
def validWord : State :=
  { State.reset.withFetchWord 96 0 with
    cores := [(0, { Core.fresh with clean := [(spadKey 0 0 / 4, (0, false))] }), (0, { Core.fresh with out := [.store 1 (oneByteAt (spadKey 0 0))] })] }

/-- LD of that word, in every lane. -/
def firstWord : FmtM := { data := .v 8, base := .s 0 2, index := .imm 0, off := 0, width := .w32, space := .cspad, scope := .quire, sel := 0 }

/-- The places of an on-chip load's lanes are found, and nothing stands before what padding lanes read. -/
def placesFound (s : State) (e : Env) (h : Hdr) (f : FmtM) : Bool :=
  match e.spots s f (Wd f.width) 0 (bypassed f) .load (checked e h) with
  | .ok (_, u) => decide (PadsReady u e f (e.lanes (e.effect h &&& e.view.padding)))
  | .error _ => false

theorem spots_of_placesFound {s : State} {e : Env} {h : Hdr} {f : FmtM} (hfound : placesFound s e h f = true) :
    ∃ xs u, e.spots s f (Wd f.width) 0 (bypassed f) .load (checked e h) = .ok (xs, u)
      ∧ PadsReady u e f (e.lanes (e.effect h &&& e.view.padding)) := by
  unfold placesFound at hfound
  split at hfound
  · next xs u hspots => exact ⟨xs, u, hspots, of_decide_eq_true hfound⟩
  · cases hfound

/-- What the statement of O50 asks of a load from state `s`. -/
abbrev LoadsOnChip (s : State) (e : Env) (h : Hdr) (f : FmtM) : Prop :=
  e.effect h ≠ 0 ∧ e.privTrap f (e.lanes (e.effect h)) = none ∧ e.addrTrap s f (Wd f.width) 0 (checked e h) = none ∧ placesFound s e h f = true

theorem ld_validWord : ∃ e, Executes validWord e (.ld plainHdr firstWord) ∧ LoadsOnChip validWord e plainHdr firstWord
    ∧ e.g.pcore = 0 ∧ e.q.store = [] := by
  have hany : (validWord.envOf validWord.cur).any (fun e => decide (e.check (.ld plainHdr firstWord) = none ∧ e.recorded = none
      ∧ validWord.stallOf e 0 (.ld plainHdr firstWord) = none ∧ LoadsOnChip validWord e plainHdr firstWord ∧ e.g.pcore = 0 ∧ e.q.store = [])) = true := by
    decide +kernel
  obtain ⟨e, he, hp⟩ := (Option.any_eq_true _ _).1 hany
  obtain ⟨hcheck, hrecorded, hstall, hloads, hcore, hstore⟩ := of_decide_eq_true hp
  exact ⟨e, ⟨he, hcheck, hrecorded, hstall⟩, hloads, hcore, hstore⟩

/-- The scratchpad's first byte as the engines of core 0 read it after an instruction. -/
def firstByteAfter (o : Out) : Option W8 :=
  match o with
  | .next t => some (t.engineByte 0 (spadKey 0 0))
  | _ => none

theorem seen_of_stored {s : State} {e : Env} {q : Quire} (hcore : e.g.pcore = 0) (hstore : q.store = []) (k : Nat) :
    seen s e q k = s.engineByte 0 k := by
  rw [seen, hcore, hstore]
  rfl

/-- The load takes the word out of the L1, so that the first entry is gone and the store of the second is read over the home's byte. -/
theorem ld_validWord_reads : firstByteAfter (exec (.ld plainHdr firstWord) validWord) = some 1 ∧ validWord.engineByte 0 (spadKey 0 0) = 0 := by
  decide +kernel

/-- Refutes O50: in a state whose table of the cores lists core 0 twice, the word a load takes out of the L1 empties the first entry, which is then
no longer listed, and the quire sees the byte of a store in the second. -/
theorem not_scratchpadAccessesFrame : ¬ Obligations.ScratchpadAccessesFrame := by
  intro hframe
  obtain ⟨e, hex, ⟨hsome, hpriv, haddr, hfound⟩, hcore, hstore⟩ := ld_validWord
  obtain ⟨xs, u, hspots, hpads⟩ := spots_of_placesFound hfound
  obtain ⟨_, hload⟩ := hframe validWord e plainHdr firstWord (by decide) hsome hpriv haddr
  obtain ⟨t, q, hexec, _, _, hkept, _, _, _, hseen⟩ := hload xs u hex hspots hpads
  obtain ⟨hafter, hbefore⟩ := ld_validWord_reads
  have hbyte : t.engineByte 0 (spadKey 0 0) = validWord.engineByte 0 (spadKey 0 0) := by
    rw [← seen_of_stored hcore (hkept.trans hstore), hseen, seen_of_stored hcore hstore]
  rw [hexec, firstByteAfter, hbyte, hbefore] at hafter
  cases hafter

end Sys2Proof.Claims

/-! PROOFS. Canonical memory (R225, R239; log entry 1): what every step of the machine keeps. First the shapes in which a function gives its state. -/
namespace Sys2Proof.Machine
open Sys2Proof.Claims (Job cmpJob)

section
variable {α β : Type} {s t : State}

/-- The result of checks and a computation holds a state whose memory is canonical: the state `m` finds in what is computed, or the one it halts in. -/
def Res.Wf (m : α → State) (r : Res α) : Prop := (∀ a, r = .ok a → (m a).MemWf) ∧ ∀ x, r = .error x → x.2.MemWf

/-- A state that is computed, or the one it halts in, has canonical memory. -/
abbrev ResWf (r : Res State) : Prop := Res.Wf (fun s => s) r

/-- A state that is given at all has canonical memory. -/
def OptWf (o : Option State) : Prop := ∀ t, o = some t → t.MemWf

/-- The next state of an instruction has canonical memory. -/
def OutWf (o : Out) : Prop := ∀ t, o = .next t → t.MemWf

/-- An attempt that may fault leaves canonical memory, and what it gives has the property `P`. -/
def TryWf (P : α → Prop) (r : Except XFault α × State) : Prop := r.2.MemWf ∧ ∀ a, r.1 = .ok a → P a

theorem Res.wf_ok {m : α → State} {a : α} (h : (m a).MemWf) : Res.Wf m (.ok a) := by
  constructor
  · intro _ hx
    cases hx
    exact h
  · intro _ hx
    cases hx

theorem Res.wf_error {m : α → State} {x : Halt × State} (h : x.2.MemWf) : Res.Wf m (.error x) := by
  constructor
  · intro _ hx
    cases hx
  · intro _ hx
    cases hx
    exact h

theorem Res.Wf.ok {m : α → State} {r : Res α} {a : α} (h : Res.Wf m r) (hx : r = .ok a) : (m a).MemWf := h.1 a hx
theorem Res.Wf.error {m : α → State} {r : Res α} {x : Halt × State} (h : Res.Wf m r) (hx : r = .error x) : x.2.MemWf := h.2 x hx

/-- The state in what is computed together with something else. -/
theorem Res.Wf.ok_snd {r : Res (α × State)} {a : α} (h : Res.Wf Prod.snd r) (hx : r = .ok (a, t)) : t.MemWf := h.ok hx

/-- The state something halts in. -/
theorem Res.Wf.error_snd {m : α → State} {r : Res α} {x : Halt} (h : Res.Wf m r) (hx : r = .error (x, t)) : t.MemWf := h.error hx

theorem optWf_none : OptWf none := nofun
theorem optWf_some (h : s.MemWf) : OptWf (some s) := fun _ hx => by cases hx; exact h
theorem OptWf.some {o : Option State} (h : OptWf o) (hx : o = some t) : t.MemWf := h t hx

theorem tryWf_error {P : α → Prop} {x : XFault} (h : s.MemWf) : TryWf P (.error x, s) := ⟨h, nofun⟩
theorem tryWf_ok {P : α → Prop} {a : α} (ha : P a) (h : s.MemWf) : TryWf P (.ok a, s) := ⟨h, fun _ hx => by cases hx; exact ha⟩
theorem TryWf.state {P : α → Prop} {r : Except XFault α × State} {x : Except XFault α} (h : TryWf P r) (hx : r = (x, s)) : s.MemWf := by
  have hs := h.1
  rwa [hx] at hs
theorem TryWf.ok {P : α → Prop} {r : Except XFault α × State} {a : α} (h : TryWf P r) (hx : r = (.ok a, s)) : P a := h.2 a (by rw [hx])

theorem outWf_next (h : s.MemWf) : OutWf (.next s) := fun _ hx => by cases hx; exact h
theorem outWf_fault (x : Fault) : OutWf (.fault x) := nofun
theorem outWf_refused (x : Refusal) : OutWf (.refused x) := nofun

/-- The state of a pair that is found by its parts. -/
theorem pair_wf {p : α × State} {a : α} (h : p.2.MemWf) (hx : p = (a, t)) : t.MemWf := by
  rw [hx] at h
  exact h

theorem pairReads_wf {p : α × Reads} {a : α} {r : Reads} (h : p.2.s.MemWf) (hx : p = (a, r)) : r.s.MemWf := by
  rw [hx] at h
  exact h

theorem State.ite_wf {c : Prop} [Decidable c] (hs : s.MemWf) (ht : t.MemWf) : (if c then s else t).MemWf := by
  split <;> assumption

theorem State.pairIte_wf {c : Prop} [Decidable c] {p q : α × State} (hp : p.2.MemWf) (hq : q.2.MemWf) : (if c then p else q).2.MemWf := by
  split <;> assumption

theorem Memory.ite_wf {c : Prop} [Decidable c] {m n : Memory} (hm : m.wf = true) (hn : n.wf = true) : (if c then m else n).wf = true := by
  split <;> assumption

/-! ### Folds -/

theorem State.foldl_wf {f : State → β → State} (hf : ∀ s b, s.MemWf → (f s b).MemWf) {l : List β} (hs : s.MemWf) : (l.foldl f s).MemWf :=
  foldl_keeps State.MemWf f hf l hs

theorem Memory.foldl_wf {f : Memory → β → Memory} (hf : ∀ m b, m.wf = true → (f m b).wf = true) {l : List β} {m : Memory} (hm : m.wf = true) :
    (l.foldl f m).wf = true :=
  foldl_keeps (fun m : Memory => m.wf = true) f hf l hm

theorem foldl_snd_wf {f : α × State → β → α × State} (hf : ∀ p b, p.2.MemWf → (f p b).2.MemWf) {l : List β} {p : α × State} (hp : p.2.MemWf) :
    (l.foldl f p).2.MemWf :=
  foldl_keeps (fun p : α × State => p.2.MemWf) f hf l hp

theorem foldl_fst_wf {f : State × α → β → State × α} (hf : ∀ p b, p.1.MemWf → (f p b).1.MemWf) {l : List β} {p : State × α} (hp : p.1.MemWf) :
    (l.foldl f p).1.MemWf :=
  foldl_keeps (fun p : State × α => p.1.MemWf) f hf l hp

theorem foldl_reads_wf {f : α × Reads → β → α × Reads} (hf : ∀ p b, p.2.s.MemWf → (f p b).2.s.MemWf) {l : List β} {p : α × Reads} (hp : p.2.s.MemWf) :
    (l.foldl f p).2.s.MemWf :=
  foldl_keeps (fun p : α × Reads => p.2.s.MemWf) f hf l hp

/-! ### Options -/

theorem optWf_map {f : α → State} {o : Option α} (hf : ∀ a, (f a).MemWf) : OptWf (o.map f) := by
  cases o with
  | none => exact optWf_none
  | some a => exact optWf_some (hf a)

theorem optWf_bind {f : α → Option State} {o : Option α} (hf : ∀ a, OptWf (f a)) : OptWf (o.bind f) := by
  cases o with
  | none => exact optWf_none
  | some a => exact hf a

theorem OptWf.map {f : State → State} {o : Option State} (ho : OptWf o) (hf : ∀ s, s.MemWf → (f s).MemWf) : OptWf (o.map f) := by
  cases o with
  | none => exact optWf_none
  | some s => exact optWf_some (hf s (ho.some rfl))

theorem OptWf.bind {f : State → Option State} {o : Option State} (ho : OptWf o) (hf : ∀ s, s.MemWf → OptWf (f s)) : OptWf (o.bind f) := by
  cases o with
  | none => exact optWf_none
  | some s => exact hf s (ho.some rfl)

theorem OptWf.getD {o : Option State} (ho : OptWf o) (hs : s.MemWf) : (o.getD s).MemWf := by
  cases o with
  | none => exact hs
  | some t => exact ho.some rfl

end

section
variable {s : State} {e : Env} {h : Hdr}

/-! ### Fields of the state -/

theorem State.bump_wf (hs : s.MemWf) : s.bump.MemWf := hs
theorem State.fresh_wf (hs : s.MemWf) : s.fresh.2.MemWf := hs
theorem State.setQuire_wf {id : Nat} {q : Quire} (hs : s.MemWf) : (s.setQuire id q).MemWf := hs
theorem State.setGath_wf {id : Nat} {g : Gathering} (hs : s.MemWf) : (s.setGath id g).MemWf := hs
theorem State.setVol_wf {id : Nat} {v : Volume} (hs : s.MemWf) : (s.setVol id v).MemWf := hs
theorem State.setCtx_wf {id : Nat} {c : Context} (hs : s.MemWf) : (s.setCtx id c).MemWf := hs
theorem State.modQuire_wf {id : Nat} {f : Quire → Quire} (hs : s.MemWf) : (s.modQuire id f).MemWf := hs
theorem State.modGath_wf {id : Nat} {f : Gathering → Gathering} (hs : s.MemWf) : (s.modGath id f).MemWf := hs
theorem State.modVol_wf {id : Nat} {f : Volume → Volume} (hs : s.MemWf) : (s.modVol id f).MemWf := hs
theorem State.modCtx_wf {id : Nat} {f : Context → Context} (hs : s.MemWf) : (s.modCtx id f).MemWf := hs
theorem State.setCore_wf {c : Nat} {v : Core} (hs : s.MemWf) : (s.setCore c v).MemWf := hs
theorem State.modCore_wf {c : Nat} {f : Core → Core} (hs : s.MemWf) : (s.modCore c f).MemWf := State.setCore_wf hs

/-! ### Memory -/

theorem State.fillSector_wf {c w : Nat} (hs : s.MemWf) : (s.fillSector c w).MemWf := State.modCore_wf hs
theorem State.observed_wf {c k n : Nat} (hs : s.MemWf) : (s.observed c k n).MemWf := State.modCore_wf hs

theorem State.coreWords_wf {c : Nat} {ws : List Nat} {cached : Bool} (hs : s.MemWf) : (s.coreWords c ws cached).2.MemWf := by
  unfold State.coreWords
  dsimp only
  split
  · exact State.foldl_wf (fun _ _ ht => State.observed_wf ht) hs
  split
  · split
    · exact hs
    · exact State.fillSector_wf hs
  split
  · exact hs
  split
  · exact State.bump_wf hs
  split
  · exact State.bump_wf hs
  · exact State.fillSector_wf (State.bump_wf hs)

theorem State.commitUnit_wf {c owner : Nat} {r : StoreRec} (hs : s.MemWf) : (s.commitUnit c owner r).MemWf := State.modCore_wf hs
theorem State.settle_wf {c : Nat} (hs : s.MemWf) : (s.settle c).MemWf := State.modCore_wf hs

theorem State.acceptOut_wf {c i : Nat} (hs : s.MemWf) : (s.acceptOut c i).MemWf := by
  unfold State.acceptOut
  split
  · exact State.ite_wf (State.modCore_wf (State.takeStore_wf _ hs)) hs
  · exact hs

theorem State.ackOut_wf {c d : Nat} (hs : s.MemWf) : (s.ackOut c d).MemWf := State.ite_wf (State.settle_wf (State.setCore_wf hs)) hs
theorem State.drainCore_wf {c : Nat} (hs : s.MemWf) : (s.drainCore c).MemWf := State.ite_wf hs (State.modCore_wf (State.drainOut_wf _ _ _ _ hs))
theorem State.recall_wf {line : Nat} (hs : s.MemWf) : (s.recall line).MemWf := State.foldl_wf (fun _ _ ht => State.recallCore_wf _ _ ht) hs

theorem State.placeToken_wf {c owner scope : Nat} {fence : Bool} (hs : s.MemWf) : (s.placeToken c owner scope fence).MemWf :=
  State.settle_wf (State.modCore_wf hs)

theorem State.acquire_wf {c : Nat} {sc : Scope} (hs : s.MemWf) : (s.acquire c sc).MemWf := by
  unfold State.acquire
  split
  · exact hs
  · exact hs
  · exact State.modCore_wf hs

/-! ### Translation -/

theorem State.orEntry_wf {pa : Nat} {b : W8} (hs : s.MemWf) : (s.orEntry pa b).MemWf := by
  unfold State.orEntry
  dsimp only
  split
  · exact State.recallRange_wf _ _ hs
  dsimp only [State.MemWf]
  exact Memory.setByte_wf _ _ (State.recallRange_wf _ _ hs)

theorem State.countMiss_wf {die : Nat} (hs : s.MemWf) : (s.countMiss die).MemWf := hs

theorem State.tlbMiss_wf {die ctx vpn : Nat} {l : Leaf} {write : Bool} (hs : s.MemWf) : (s.tlbMiss die ctx vpn l write).MemWf := by
  unfold State.tlbMiss
  dsimp only [State.MemWf]
  exact State.orEntry_wf (State.countMiss_wf hs)

theorem State.tlbStale_wf {t : TlbEnt} {va vpn : Nat} {acc : Acc} (hs : s.MemWf) : (s.tlbStale t va vpn acc).2.MemWf := by
  unfold State.tlbStale
  dsimp only
  split
  · dsimp only [State.MemWf]
    exact State.orEntry_wf hs
  · exact hs

theorem State.tlbDrop_wf {t : TlbEnt} (hs : s.MemWf) : (s.tlbDrop t).MemWf := hs
theorem State.tlb_wf {l : List TlbEnt} (hs : s.MemWf) : State.MemWf { s with tlb := l } := hs

theorem State.tlbHit_wf {t : TlbEnt} {l : Leaf} {write : Bool} (hs : s.MemWf) : (s.tlbHit t l write).MemWf := by
  unfold State.tlbHit
  extract_lets b again s' t u
  have ht : t.MemWf := State.bump_wf hs
  have hu : u.MemWf := State.ite_wf (State.orEntry_wf ht) ht
  exact State.ite_wf (State.tlb_wf (State.orEntry_wf hu)) hu

theorem State.translateHere_wf {die ctx root va : Nat} {acc : Acc} (hs : s.MemWf) : (s.translateHere die ctx root va acc).2.MemWf := by
  unfold State.translateHere
  dsimp only
  split
  · exact hs
  split
  · split
    · exact State.tlbMiss_wf hs
    split
    · exact State.tlbHit_wf hs
    split
    · exact State.tlbStale_wf (State.bump_wf hs)
    · exact State.tlbMiss_wf (State.bump_wf hs)
  split
  · exact State.countMiss_wf hs
  split
  · exact State.tlbStale_wf (State.bump_wf hs)
  · exact State.countMiss_wf (State.tlbDrop_wf (State.bump_wf hs))

theorem State.translate_wf {die ctx root va : Nat} {acc : Acc} (hs : s.MemWf) : (s.translate die ctx root va acc).2.MemWf :=
  State.translateHere_wf hs

/-! ### Registers -/

theorem State.onQuire_wf {k : Env → Out} (hk : ∀ e, OutWf (k e)) : OutWf (s.onQuire k) := by
  unfold State.onQuire
  split
  · exact outWf_refused _
  split
  · exact outWf_fault _
  · exact hk _

/-! ### The device -/

theorem State.hostEvent_wf {kind ctx seq : Nat} (hs : s.MemWf) : (s.hostEvent kind ctx seq).MemWf := by
  unfold State.hostEvent
  dsimp only
  split
  · exact hs
  dsimp only [State.MemWf]
  exact State.putHome_wf _ _ hs

theorem State.errorRecord_wf {seq kind source location count ctx mode : Nat} (hs : s.MemWf) :
    (s.errorRecord seq kind source location count ctx mode).MemWf := by
  unfold State.errorRecord
  dsimp only
  split
  · exact hs
  refine State.hostEvent_wf ?_
  dsimp only [State.MemWf]
  exact State.putHome_wf _ _ hs

theorem State.writeFault_wf {cid id : Nat} (hs : s.MemWf) : (s.writeFault cid id).MemWf := by
  unfold State.writeFault
  split
  · exact hs
  split
  · exact hs
  split
  · exact hs
  dsimp only
  split
  · next ha =>
    have ht := pair_wf (State.translate_wf hs) ha
    exact State.ite_wf ht (State.setCtx_wf (State.hostEvent_wf ht))
  · next ha =>
    have ht := pair_wf (State.translate_wf hs) ha
    exact State.ite_wf ht (State.setCtx_wf (State.putHome_wf _ _ ht))

theorem State.countFault_wf {cid id : Nat} (hs : s.MemWf) : (s.countFault cid id).MemWf := by
  unfold State.countFault
  split
  · exact hs
  split
  · exact hs
  split
  · exact hs
  split
  · next ha => exact pair_wf (State.translate_wf hs) ha
  · next ha => exact State.putHome_wf _ _ (pair_wf (State.translate_wf hs) ha)

theorem State.addFault_wf {cid : Nat} {x : XFault} {seq core : Nat} {w : Waiter} (hs : s.MemWf) : (s.addFault cid x seq core w).2.MemWf := by
  unfold State.addFault
  split
  · exact hs
  split
  · exact State.countFault_wf (State.setCtx_wf hs)
  · exact State.writeFault_wf (State.setCtx_wf hs)

/-! ### Sealed launches -/

theorem State.copyBytes_wf {src dst n : Nat} (hs : s.MemWf) : (s.copyBytes src dst n).MemWf := by
  unfold State.copyBytes
  dsimp only [State.MemWf]
  exact Memory.writeMarked_wf _ _ _ (State.recallRange_wf _ _ (State.recallRange_wf _ _ hs))

theorem State.breakSeals_wf {own : Option Nat} {pa : Nat} (hs : s.MemWf) : (s.breakSeals own pa).MemWf := hs

theorem State.copyBack_wf {r : Nat} {l : List ShadowPage} (hs : s.MemWf) : (s.copyBack r l).MemWf :=
  State.foldl_wf (fun _ _ ht => State.foldl_wf (fun _ _ hu => State.copyBytes_wf (State.breakSeals_wf hu)) ht) hs

theorem State.dropCopies_wf {l : List ShadowPage} (hs : s.MemWf) : (s.dropCopies l).MemWf := by
  unfold State.dropCopies
  dsimp only [State.MemWf]
  exact Memory.foldl_wf (fun _ _ ht => Memory.ite_wf ht (Memory.clear_wf _ _ ht)) hs

theorem State.moveKeys_wf {r : Nat} {f : Nat → Nat} {gone : Nat → Bool} (hs : s.MemWf) : (s.moveKeys r f gone).MemWf := by
  unfold State.moveKeys
  dsimp only [State.MemWf]
  exact State.foldl_wf (fun _ _ ht => State.modGath_wf ht) (State.foldl_wf (fun _ _ ht => State.modQuire_wf ht) hs)

theorem State.dropSeal_wf {r : Nat} (hs : s.MemWf) : (s.dropSeal r).MemWf := by
  unfold State.dropSeal
  split
  · exact hs
  · exact State.modVol_wf (State.moveKeys_wf (State.copyBack_wf hs))

theorem State.asqMoved_wf {home : Nat} (hs : s.MemWf) : (s.asqMoved home).MemWf := by
  unfold State.asqMoved
  split
  · exact hs
  · exact State.ite_wf hs hs

theorem State.dropAsq_wf {r : AsqReq} (hs : s.MemWf) : (s.dropAsq r).MemWf := State.asqMoved_wf (State.settle_wf (State.modCore_wf hs))

theorem State.answer_wf {r : AsqReq} {ws : List RegWrite} {done : Bool} (hs : s.MemWf) : (s.answer r ws done).MemWf := by
  unfold State.answer
  split
  · exact hs
  · exact State.modQuire_wf hs

theorem State.dropTreesOf_wf {r : Nat} (hs : s.MemWf) : (s.dropTreesOf r).MemWf := State.ite_wf hs hs

theorem State.discardShadow_wf {r : Nat} (hs : s.MemWf) : (s.discardShadow r).MemWf := by
  unfold State.discardShadow
  split
  · exact hs
  refine State.foldl_wf (fun _ _ ht => State.settle_wf ht) ?_
  dsimp only [State.MemWf]
  exact State.modVol_wf (State.foldl_wf (fun _ _ ht => State.dropAsq_wf (State.answer_wf ht)) (State.dropCopies_wf (State.dropTreesOf_wf hs)))

theorem State.shadowAlloc_wf {die cid : Nat} (hs : s.MemWf) : (s.shadowAlloc die cid).2.MemWf := by
  unfold State.shadowAlloc
  split
  · exact hs
  dsimp only
  split
  · exact hs
  split
  · next hz => exact pair_wf (State.translate_wf hs) hz
  · next hz => exact pair_wf (State.translate_wf hs) hz

theorem State.refreshCopy_wf {p : ShadowPage} (hs : s.MemWf) : (s.refreshCopy p).MemWf := by
  unfold State.refreshCopy
  refine State.copyBytes_wf (State.copyBytes_wf ?_)
  dsimp only [State.MemWf]
  exact Memory.setBytes_wf _ _ (State.recallRange_wf _ _ hs)

theorem State.breakFor_wf {vid pa : Nat} (hs : s.MemWf) : (s.breakFor vid pa).MemWf := State.ite_wf (State.breakSeals_wf hs) hs

theorem State.openVersion_wf {r pa slot copy : Nat} {sectors : List Nat} (hs : s.MemWf) : (s.openVersion r pa slot copy sectors).MemWf := by
  unfold State.openVersion
  refine State.modVol_wf ?_
  dsimp only [State.MemWf]
  exact State.foldl_wf (fun _ _ ht => State.modGath_wf ht) (State.foldl_wf (fun _ _ ht => State.modQuire_wf ht) (State.copyBytes_wf hs))

theorem State.openFromCopy_wf {r pa slot copy sector : Nat} {p : ShadowPage} (hs : s.MemWf) : (s.openFromCopy r pa slot copy sector p).MemWf := by
  unfold State.openFromCopy
  refine State.dropCopies_wf (State.moveKeys_wf ?_)
  dsimp only [State.MemWf]
  exact Memory.setBytes_wf _ _ (State.copyBytes_wf (State.openVersion_wf (State.modVol_wf hs)))

theorem State.shadowWrite_wf {die vid cid pa : Nat} (hs : s.MemWf) : (s.shadowWrite die vid cid pa).2.MemWf := by
  unfold State.shadowWrite
  split
  · exact hs
  split
  · exact hs
  dsimp only
  split
  · exact State.setVol_wf hs
  split
  · exact hs
  split
  · next hb => exact State.dropSeal_wf (pair_wf (State.shadowAlloc_wf hs) hb)
  · next hb =>
    have ht := pair_wf (State.shadowAlloc_wf hs) hb
    split
    · exact State.openFromCopy_wf ht
    · exact State.openVersion_wf ht

theorem State.xl_wf {die vid cid root va : Nat} {acc : Acc} (hs : s.MemWf) : (s.xl die vid cid root va acc).2.MemWf := by
  unfold State.xl
  split
  · next hx => exact pair_wf (State.translate_wf hs) hx
  · next hx =>
    have ht := pair_wf (State.translate_wf hs) hx
    split
    · exact State.shadowWrite_wf (State.ite_wf (State.breakFor_wf ht) ht)
    split
    · exact State.ite_wf ht (State.refreshCopy_wf ht)
    · exact ht

/-! ### Transfers -/

theorem State.modHandle_wf {gid n : Nat} {f : Handle → Handle} (hs : s.MemWf) : (s.modHandle gid n f).MemWf := State.modGath_wf hs

theorem State.engineVa_wf {pc vid cid root va : Nat} (hs : s.MemWf) : (s.engineVa pc vid cid root va).2.MemWf := by
  unfold State.engineVa
  split
  · next hx => exact pair_wf (State.xl_wf hs) hx
  · next hx => exact pair_wf (State.xl_wf hs) hx

theorem State.engineVaBytes_wf {pc vid cid root n k : Nat} (hs : s.MemWf) : (State.engineVaBytes pc vid cid root n k s).2.MemWf := by
  induction n generalizing k s with
  | zero => exact hs
  | succ n ih =>
    rw [State.engineVaBytes]
    split
    · next hx => exact pair_wf (State.engineVa_wf hs) hx
    · next hx =>
      have ht := pair_wf (State.engineVa_wf hs) hx
      split
      · next hy => exact pair_wf (ih ht) hy
      · next hy => exact pair_wf (ih ht) hy

theorem State.findBytes_wf {x : Transfer} {g : Gathering} {c : Context} {pc : Nat} {l : List Nat} (hs : s.MemWf) :
    (State.findBytes x g c pc l s).2.MemWf := by
  induction l generalizing s with
  | nil => exact hs
  | cons a l ih =>
    unfold State.findBytes
    extract_lets one
    have hone : one.2.MemWf := by
      unfold one
      split
      · exact hs
      split
      · exact hs
      · exact hs
      · exact State.engineVa_wf hs
    clear_value one
    split
    · exact hone
    split
    · next hx => exact pair_wf (ih hone) hx
    · next hx => exact pair_wf (ih hone) hx

theorem State.engineWrite_wf {k : Nat} {bs : List (W8 × Bool)} (hs : s.MemWf) : (s.engineWrite k bs).MemWf := by
  unfold State.engineWrite
  refine State.mirror_wf _ _ ?_
  dsimp only [State.MemWf]
  exact Memory.writeMarked_wf _ _ _ (State.recallRange_wf _ _ hs)

theorem State.xferFault_wf {id : Nat} {x : Transfer} {f : XFault} (hs : s.MemWf) : (s.xferFault id x f).MemWf := by
  unfold State.xferFault
  dsimp only [State.MemWf]
  exact State.addFault_wf hs

theorem State.xferEnd_wf {id : Nat} {x : Transfer} {err : Nat} (hs : s.MemWf) : (s.xferEnd id x err).MemWf := State.modHandle_wf hs

theorem State.xferStart_wf {id : Nat} (hs : s.MemWf) : (s.xferStart id).MemWf := by
  unfold State.xferStart
  split
  · exact hs
  split
  · exact hs
  split
  · extract_lets h t x u
    have ht : t.MemWf := State.modHandle_wf hs
    have hu : u.MemWf := ht
    split
    · exact State.ite_wf (State.xferEnd_wf hu) hu
    · split
      · next hx => exact State.xferFault_wf (pair_wf (State.engineVaBytes_wf hu) hx)
      next hx =>
      have hv := pair_wf (State.engineVaBytes_wf hu) hx
      split
      · exact State.xferEnd_wf hv
      · exact State.xferEnd_wf hv
      · exact State.ite_wf (State.xferEnd_wf hv) hv
    · exact hu
  · exact hs

theorem State.pieceDone_wf {id : Nat} {x : Transfer} {p : Nat} (hs : s.MemWf) : (s.pieceDone id x p).MemWf := by
  unfold State.pieceDone
  dsimp only
  split
  · exact State.xferEnd_wf (State.modHandle_wf hs)
  dsimp only [State.MemWf]
  exact State.modHandle_wf hs

theorem State.flit_wf {mask : Nat} (hs : s.MemWf) : (s.flit mask).MemWf := by
  unfold State.flit
  dsimp only
  split
  · exact hs
  dsimp only [State.MemWf]
  exact State.bump_wf hs

theorem State.peerSend_wf {pa core : Nat} {data : List W8} {marks : List Nat} {len : Nat} {use : PeerUse} (hs : s.MemWf) :
    (s.peerSend pa core data marks len use).2.MemWf := by
  unfold State.peerSend
  dsimp only
  split
  · dsimp only [State.MemWf]
    exact State.fresh_wf hs
  refine State.flit_wf ?_
  dsimp only [State.MemWf]
  exact State.fresh_wf hs

theorem State.flushPeer_wf {c k n : Nat} (hs : s.MemWf) : (s.flushPeer c k n).MemWf := by
  unfold State.flushPeer
  dsimp only
  split
  · refine State.modCore_wf (foldl_snd_wf ?_ hs)
    intro _ _ ht
    split
    · split
      · exact State.modCore_wf (State.peerSend_wf ht)
      · exact ht
    · exact ht
  · exact hs

theorem State.gotBytes_wf {cmd : Nat} {l : List (Nat × W8 × Bool)} (hs : s.MemWf) : (s.gotBytes cmd l).MemWf := hs

theorem State.pieceBytes_wf {id : Nat} {x : Transfer} {g : Gathering} {c : Context} {pc p : Nat} (hs : s.MemWf) :
    (s.pieceBytes id x g c pc p).2.MemWf := by
  unfold State.pieceBytes
  dsimp only
  split
  · next hx => exact pair_wf (State.findBytes_wf hs) hx
  · next hx =>
    have hu := pair_wf (State.findBytes_wf hs) hx
    split
    · exact State.ite_wf (State.gotBytes_wf hu) hu
    split
    · exact hu
    refine State.foldl_wf ?_ hu
    intro _ _ ht
    split
    · exact ht
    · exact State.peerSend_wf (State.flushPeer_wf ht)

theorem State.xferPiece_wf {id p : Nat} (hs : s.MemWf) : (s.xferPiece id p).MemWf := by
  unfold State.xferPiece
  split
  · exact hs
  split
  · exact hs
  split
  · split
    · next hc => exact State.xferFault_wf (pair_wf (State.pieceBytes_wf hs) hc)
    · next hc => exact pair_wf (State.pieceBytes_wf hs) hc
    · next hc =>
      have hu := pair_wf (State.pieceBytes_wf hs) hc
      extract_lets put
      have hput : ∀ (t : State) (x : Nat), t.MemWf → (put t x).MemWf := fun _ _ ht => State.ite_wf (State.recallRange_wf _ _ ht)
        (State.pieceDone_wf (State.engineWrite_wf (State.recallRange_wf _ _ ht)))
      split
      · exact hu
      split
      · exact hput _ _ hu
      · split
        · next hf => exact State.xferFault_wf (pair_wf (State.xl_wf hu) hf)
        · next hf =>
          have ht := pair_wf (State.xl_wf hu) hf
          exact State.ite_wf (hput _ _ ht) (State.ite_wf ht (State.peerSend_wf (State.flushPeer_wf ht)))
      · exact hu
      · exact hu
      · exact hput _ _ hu
  · exact hs

theorem State.startHeld_wf {gid n : Nat} (hs : s.MemWf) : (s.startHeld gid n).MemWf := by
  unfold State.startHeld
  split
  · exact State.xferStart_wf hs
  · exact hs

/-! ### Retirement -/

theorem State.homeNum_wf {k n : Nat} (hs : s.MemWf) : (s.homeNum k n).2.MemWf := State.ite_wf (State.recall_wf hs) (State.recallRange_wf _ _ hs)

theorem State.servedAt_wf {k n : Nat} (hs : s.MemWf) : (s.servedAt k n).MemWf := by
  unfold State.servedAt
  split
  · exact State.observed_wf hs
  · exact hs

theorem State.putHomeNum_wf {k n v : Nat} (hs : s.MemWf) : (s.putHomeNum k n v).MemWf := by
  unfold State.putHomeNum
  refine State.mirror_wf _ _ ?_
  dsimp only [State.MemWf]
  exact Memory.writeClean_wf _ _ (State.servedAt_wf hs)

theorem State.putMarked_wf {k n v : Nat} {bad : Bool} (hs : s.MemWf) : (s.putMarked k n v bad).MemWf := by
  unfold State.putMarked
  refine State.mirror_wf _ _ ?_
  dsimp only [State.MemWf]
  exact Memory.writeMarked_wf _ _ _ (State.servedAt_wf hs)

theorem State.markBarrier_wf {k : Nat} (hs : s.MemWf) : (s.markBarrier k).MemWf := by
  unfold State.markBarrier
  split
  · exact State.modGath_wf hs
  · exact hs

theorem State.join_wf {gid : Nat} (hs : s.MemWf) : OptWf (s.join gid) := by
  unfold State.join
  split
  · exact optWf_none
  dsimp only
  split
  · exact optWf_none
  · exact optWf_some (State.foldl_wf (fun _ _ ht => State.markBarrier_wf
      (State.observed_wf (State.putMarked_wf (State.breakFor_wf (State.homeNum_wf ht))))) hs)

theorem State.leave_wf {gid : Nat} {arrived : FMap Nat} (hs : s.MemWf) : (s.leave gid arrived).MemWf := by
  unfold State.leave
  split
  · exact hs
  refine State.foldl_wf ?_ hs
  intro _ _ ht
  extract_lets t
  have ht : t.2.MemWf := State.homeNum_wf ht
  exact State.ite_wf (State.markBarrier_wf (State.observed_wf (State.putMarked_wf (State.breakFor_wf ht)))) ht

theorem State.dropPortion_wf {g : Gathering} (hs : s.MemWf) : (s.dropPortion g).MemWf := State.ite_wf hs (State.modCore_wf hs)

theorem State.reap_wf {gid : Nat} (hs : s.MemWf) : (s.reap gid).MemWf := by
  unfold State.reap
  split
  · exact hs
  split
  · dsimp only [State.MemWf]
    exact State.dropPortion_wf hs
  · exact hs

theorem State.reapFor_wf {x : Transfer} (hs : s.MemWf) : (s.reapFor x).MemWf := State.reap_wf (State.reap_wf hs)
theorem State.meshRetired_wf {parent slot : Nat} (hs : s.MemWf) : (s.meshRetired parent slot).MemWf := State.reap_wf (State.modGath_wf hs)

theorem State.retireGathering_wf {gid : Nat} (hs : s.MemWf) : (s.retireGathering gid).MemWf := by
  unfold State.retireGathering
  split
  · exact hs
  split
  · exact hs
  extract_lets t u _ v w t' u'
  have ht : t.MemWf := State.setGath_wf hs
  have hu : u.MemWf := State.modVol_wf ht
  have hv : v.MemWf := hu
  have hw : w.MemWf := State.foldl_wf (fun _ _ ht => State.reap_wf ht) hv
  have ht' : t'.MemWf := State.foldl_wf (fun _ _ ht => State.xferStart_wf ht) hw
  have hu' : u'.MemWf := by
    unfold u'
    split
    · exact State.meshRetired_wf ht'
    · exact ht'
  exact State.reap_wf hu'

theorem State.wakeMsync_wf {gid : Nat} (hs : s.MemWf) : (s.wakeMsync gid).MemWf := by
  unfold State.wakeMsync
  split
  · exact hs
  · exact State.foldl_wf (fun _ _ ht => State.modQuire_wf ht) hs

theorem State.retireQuire_wf {id : Nat} (hs : s.MemWf) : (s.retireQuire id).MemWf := by
  unfold State.retireQuire
  split
  · exact hs
  extract_lets t u v
  have ht : t.MemWf := State.leave_wf hs
  have hu : u.MemWf := ht
  have hv : v.MemWf := State.modGath_wf hu
  split
  · exact hv
  extract_lets w
  have hw : w.MemWf := State.wakeMsync_wf (State.setGath_wf hv)
  exact State.ite_wf (State.retireGathering_wf hw) hw

theorem State.killQuire_wf {id : Nat} (hs : s.MemWf) : (s.killQuire id).MemWf := by
  unfold State.killQuire
  split
  · exact hs
  · exact State.ite_wf (State.retireQuire_wf (State.setQuire_wf hs)) (State.setQuire_wf hs)

theorem State.stopVolume_wf {vid : Nat} (hs : s.MemWf) : (s.stopVolume vid).MemWf := by
  unfold State.stopVolume
  extract_lets t u v
  have ht : t.MemWf := State.foldl_wf (fun _ _ ht => State.modGath_wf ht) hs
  have hu : u.MemWf := State.foldl_wf (fun _ _ ht => State.killQuire_wf ht) ht
  have hv : v.MemWf := by
    refine State.foldl_wf ?_ hu
    intro _ _ ht
    split
    · exact State.ite_wf (State.retireGathering_wf ht) (State.setGath_wf ht)
    · exact ht
  exact State.foldl_wf (fun _ _ ht => State.setCore_wf ht) hv

theorem State.endVolume_wf {n k : Nat} {x : Ending} (hs : s.MemWf) : (State.endVolume n s k x).MemWf := by
  induction n generalizing s k x with
  | zero => exact hs
  | succ n ih =>
    rw [State.endVolume]
    split
    · exact hs
    refine State.foldl_wf (fun _ _ ht => ih ht) ?_
    split
    · exact State.stopVolume_wf (State.setVol_wf hs)
    · exact hs

theorem State.endLaunch_wf {vid : Nat} {e : Ending} (hs : s.MemWf) : (s.endLaunch vid e).MemWf := State.endVolume_wf hs

/-! ### Asynchronous requests -/

theorem State.atomAt_wf {op n : Nat} {x : AsqLane} (hs : s.MemWf) : (s.atomAt op n x).2.MemWf := by
  unfold State.atomAt
  split
  · exact hs
  · exact State.putMarked_wf (State.homeNum_wf hs)

theorem State.atomLanes_wf {vid core op : Nat} {wide : Bool} {dst : Option Opnd} {l : List AsqLane} (hs : s.MemWf) :
    (State.atomLanes vid core op wide dst l s).2.MemWf := by
  induction l generalizing s with
  | nil => exact hs
  | cons a l ih => exact ih (State.observed_wf (State.atomAt_wf (State.breakFor_wf hs)))

theorem State.arriveAt_wf {r : AsqReq} {x : AsqLane} (hs : s.MemWf) : (s.arriveAt r x).MemWf := by
  unfold State.arriveAt
  extract_lets _ t _ u _ v w
  have ht : t.2.MemWf := State.homeNum_wf hs
  have hu : u.MemWf := ht
  have hv : v.MemWf := State.observed_wf (State.putMarked_wf (State.breakFor_wf hu))
  have hw : w.MemWf := State.markBarrier_wf hv
  split
  · exact State.answer_wf hs
  split
  · split
    · exact hu
    · exact State.modQuire_wf (State.answer_wf hu)
  split
  · exact hv
  split
  · exact hv
  · exact State.answer_wf (State.ite_wf (State.modQuire_wf hw) hw)

theorem State.serveAsq_wf {r : AsqReq} (hs : s.MemWf) : (s.serveAsq r).MemWf := by
  unfold State.serveAsq
  split
  · exact hs
  split
  · exact State.dropAsq_wf (State.foldl_wf (fun _ _ ht => State.arriveAt_wf ht) hs)
  dsimp only
  split
  · dsimp only [State.MemWf]
    exact State.foldl_wf (fun _ _ ht => State.peerSend_wf (State.flushPeer_wf ht)) hs
  · exact State.dropAsq_wf (State.answer_wf (State.atomLanes_wf hs))

theorem State.settleAsq_wf {id : Nat} (hs : s.MemWf) : (s.settleAsq id).MemWf :=
  State.modQuire_wf (State.foldl_wf (fun _ _ ht => State.ite_wf (State.serveAsq_wf ht) ht) hs)

/-! ### Issue groups -/

theorem State.renameSpill_wf {id : Nat} {f : Nat → Option Nat} (hs : s.MemWf) : (s.renameSpill id f).MemWf := by
  unfold State.renameSpill
  split
  · exact hs
  · exact State.ite_wf hs (State.modCtx_wf hs)

theorem State.abortGroup_wf {id : Nat} (hs : s.MemWf) : (s.abortGroup id).MemWf := by
  unfold State.abortGroup
  split
  · exact hs
  dsimp only [State.MemWf]
  refine State.setQuire_wf ?_
  split
  · exact State.renameSpill_wf hs
  · exact hs

/-! ### Search trees -/

theorem tThen_wf {α β : Type} {r : Except TErr α × State} {k : α → State → Except TErr β × State} (hr : r.2.MemWf)
    (hk : ∀ a s, s.MemWf → (k a s).2.MemWf) : (tThen r k).2.MemWf := by
  unfold tThen
  split
  · exact hr
  · exact hk _ _ hr

theorem tEach_wf {α β : Type} {f : α → State → Except TErr β × State} {l : List α} (hf : ∀ a s, s.MemWf → (f a s).2.MemWf) (hs : s.MemWf) :
    (tEach f l s).2.MemWf := by
  induction l generalizing s with
  | nil => exact hs
  | cons a l ih => exact tThen_wf (hf _ _ hs) fun _ _ ht => tThen_wf (ih ht) fun _ _ hu => hu

theorem tStop_wf {α : Type} {n : Nat} (hs : s.MemWf) : (tStop (α := α) s n).2.MemWf := hs

theorem TreeEnv.pa_wf {a : TreeEnv} {va : Nat} {acc : Acc} (hs : s.MemWf) : (a.pa s va acc).2.MemWf := by
  unfold TreeEnv.pa
  split
  · next hx => exact pair_wf (State.xl_wf hs) hx
  · next hx =>
    have ht := pair_wf (State.xl_wf hs) hx
    split
    · exact tStop_wf ht
    · exact ht

theorem TreeEnv.read_wf {a : TreeEnv} {va n : Nat} (hs : s.MemWf) : (a.read s va n).2.MemWf := by
  unfold TreeEnv.read
  refine tThen_wf (TreeEnv.pa_wf hs) ?_
  intro _ _ ht
  dsimp only
  split
  · exact tStop_wf (State.recallRange_wf _ _ ht)
  · exact State.recallRange_wf _ _ ht

theorem TreeEnv.write_wf {a : TreeEnv} {l : List (Nat × List W8)} (hs : s.MemWf) : (a.write s l).2.MemWf :=
  tThen_wf (tEach_wf (fun _ _ ht => tThen_wf (TreeEnv.pa_wf ht) (fun _ _ hu => hu)) hs)
    (fun _ _ ht => State.foldl_wf (fun _ _ hu => State.putHome_wf _ _ hu) ht)

theorem State.updateNode_wf {pa : Nat} {f : Node → Node} (hs : s.MemWf) : (s.updateNode pa f).MemWf := by
  unfold State.updateNode
  dsimp only [State.MemWf]
  exact Memory.writeMarked_wf _ _ _ (State.recallRange_wf _ _ hs)

theorem TreeEnv.node_wf {a : TreeEnv} {t : Tree} {i : Nat} (hs : s.MemWf) : (a.node t s i).2.MemWf := by
  unfold TreeEnv.node
  split
  · exact tStop_wf hs
  · exact tThen_wf (TreeEnv.read_wf hs) (fun _ _ ht => ht)

theorem State.setTree_wf {t : Tree} (hs : s.MemWf) : (s.setTree t).MemWf := hs
theorem State.treeAnswer_wf {r : TreeReq} {ws : List (W32 × Bool)} (hs : s.MemWf) : (s.treeAnswer r ws).MemWf := State.modQuire_wf hs
theorem State.setTreq_wf {r : TreeReq} (hs : s.MemWf) : (s.setTreq r).MemWf := hs
theorem State.dropTreq_wf {id : Nat} (hs : s.MemWf) : (s.dropTreq id).MemWf := hs

theorem State.treeDone_wf {r : TreeReq} {ws : List (W32 × Bool)} (hs : s.MemWf) : (s.treeDone r ws).MemWf :=
  State.treeAnswer_wf (State.dropTreq_wf hs)

theorem State.treeStatus_wf {r : TreeReq} {n : Nat} (hs : s.MemWf) : (s.treeStatus r n).MemWf := State.treeDone_wf hs

theorem State.treeFault_wf {r : TreeReq} {f : XFault} (hs : s.MemWf) : (s.treeFault r f).MemWf := by
  unfold State.treeFault
  split
  · split
    · exact State.modQuire_wf (State.addFault_wf (State.abortGroup_wf hs))
    · exact State.treeAnswer_wf (State.setTreq_wf (State.addFault_wf hs))
  · exact State.dropTreq_wf hs

theorem State.treeEnd_wf {r : TreeReq} {x : Except TErr (List (W32 × Bool)) × State} (hs : x.2.MemWf) : (State.treeEnd r x).MemWf := by
  unfold State.treeEnd
  split
  · exact State.treeDone_wf hs
  · exact State.treeStatus_wf hs
  · exact State.treeFault_wf hs

theorem State.treeGoOn_wf {r : TreeReq} {x : Except TErr (Option TreeProg × List (W32 × Bool)) × State} (hs : x.2.MemWf) :
    (State.treeGoOn r x).MemWf := by
  unfold State.treeGoOn
  split
  · exact State.setTreq_wf hs
  · exact State.treeDone_wf hs
  · exact State.treeStatus_wf hs
  · exact State.treeFault_wf hs

theorem State.dropTrees_wf {id : Nat} (hs : s.MemWf) : (s.dropTrees id).MemWf := State.modQuire_wf hs

theorem State.landTrees_wf {id : Nat} (hs : s.MemWf) : (s.landTrees id).MemWf := by
  unfold State.landTrees
  extract_lets t
  have ht : t.MemWf := State.dropTrees_wf (State.modQuire_wf hs)
  split
  · exact ht
  · exact State.ite_wf (State.acquire_wf ht) ht

theorem State.dropHoming_wf {r : TreeReq} {pa : Nat} (hs : s.MemWf) : (s.dropHoming r pa).MemWf := by
  unfold State.dropHoming
  refine State.foldl_wf ?_ hs
  intro _ _ ht
  split
  · split
    · exact State.ite_wf ht (State.modQuire_wf (State.landTrees_wf ht))
    · exact ht
  · exact ht

theorem TreeEnv.init_wf {a : TreeEnv} {pa : Nat} (hs : s.MemWf) : (a.init s pa).2.MemWf := by
  unfold TreeEnv.init
  refine tThen_wf (TreeEnv.read_wf hs) ?_
  intro _ _ ht
  split
  · exact tStop_wf ht
  split
  · exact tStop_wf ht
  refine tThen_wf (TreeEnv.write_wf ht) ?_
  intro _ _ hu
  dsimp only [State.MemWf]
  exact State.dropHoming_wf hu

theorem TreeEnv.raise_wf {a : TreeEnv} {t : Tree} {i : Nat} (hs : s.MemWf) : (a.raise t s i).2.MemWf := by
  unfold TreeEnv.raise
  refine tThen_wf (TreeEnv.node_wf hs) ?_
  intro _ _ ht
  split
  · exact tStop_wf ht
  · exact tThen_wf (TreeEnv.pa_wf ht) (fun _ _ hu => State.putHome_wf _ _ hu)

theorem TreeEnv.descend_wf {a : TreeEnv} {t : Tree} {depth : Nat} {path : List (Nat × Nat)} (hs : s.MemWf) : (a.descend t s depth path).2.MemWf := by
  unfold TreeEnv.descend
  refine tThen_wf (TreeEnv.node_wf hs) ?_
  intro _ _ ht
  split
  · exact ht
  split
  · split
    · exact ht
    · exact tThen_wf (TreeEnv.write_wf ht) (fun _ _ hu => hu)
  split
  · exact ht
  split
  · exact tStop_wf ht
  · exact tThen_wf (tEach_wf (fun _ _ hu => tThen_wf (TreeEnv.node_wf hu) (fun _ _ hv => hv)) ht)
      (fun _ _ hu => tThen_wf (TreeEnv.raise_wf hu) (fun _ _ hv => hv))

theorem State.treeUndo_wf {r : TreeReq} {path : List (Nat × Nat)} {x : TErr} (hs : s.MemWf) : (s.treeUndo r path x).MemWf := by
  unfold State.treeUndo
  split
  · exact State.treeStatus_wf hs
  · exact State.treeFault_wf hs
  · exact State.setTreq_wf hs
  · exact State.setTreq_wf hs

theorem State.treeDescend_wf {a : TreeEnv} {t : Tree} {depth : Nat} {path : List (Nat × Nat)} (hs : s.MemWf) :
    (s.treeDescend a t depth path).MemWf := by
  unfold State.treeDescend
  split
  · next hx => exact State.treeUndo_wf (pair_wf (TreeEnv.descend_wf hs) hx)
  · next hx => exact State.treeGoOn_wf (pair_wf (TreeEnv.descend_wf hs) hx)

theorem TreeEnv.alloc_wf {a : TreeEnv} {t : Tree} {k n m i : Nat} (hs : s.MemWf) : (a.alloc t k n m i s).2.MemWf := by
  induction n generalizing m i s with
  | zero => exact hs
  | succ n ih =>
    rw [TreeEnv.alloc]
    split
    · next hx => exact pair_wf (TreeEnv.node_wf hs) hx
    · next hx =>
      have ht := pair_wf (TreeEnv.node_wf hs) hx
      split
      · split
        · split
          · exact ht
          · exact ih ht
        split
        · exact ht
        · exact ih ht
      · exact ih ht

theorem TreeEnv.expand_wf {a : TreeEnv} {t : Tree} {leaf gen list k : Nat} (hs : s.MemWf) : (a.expand t s leaf gen list k).2.MemWf := by
  unfold TreeEnv.expand
  split
  · exact tStop_wf hs
  refine tThen_wf (TreeEnv.node_wf hs) ?_
  intro _ _ ht
  split
  · exact tStop_wf ht
  refine tThen_wf (tEach_wf (fun _ _ hu => tThen_wf (TreeEnv.read_wf hu) (fun _ _ hv => hv)) ht) ?_
  intro _ _ hu
  split
  · exact tStop_wf hu
  split
  · exact tStop_wf hu
  split
  · exact tStop_wf hu
  refine tThen_wf (TreeEnv.alloc_wf hu) ?_
  intro _ _ hv
  split
  · exact tThen_wf (TreeEnv.write_wf hv) (fun _ _ hw => hw)
  · exact tThen_wf (TreeEnv.write_wf hv) (fun _ _ hw => State.setTree_wf hw)

theorem TreeEnv.chain_wf {a : TreeEnv} {t : Tree} {n k : Nat} (hs : s.MemWf) : (a.chain t n k s).2.MemWf := by
  induction n generalizing k s with
  | zero => exact tStop_wf hs
  | succ n ih =>
    rw [TreeEnv.chain]
    refine tThen_wf (TreeEnv.node_wf hs) ?_
    intro _ _ ht
    split
    · exact ht
    · exact tThen_wf (ih ht) (fun _ _ hu => hu)

theorem State.treeBackup_wf {t : Tree} {v : W64} {leaf neg : Bool} {l : List (Nat × Nat)} (hs : s.MemWf) : (s.treeBackup t v leaf neg l).2.MemWf := by
  cases l with
  | nil => exact hs
  | cons i rest =>
    simp only [State.treeBackup, apply_ite Prod.snd, ite_self]
    exact State.updateNode_wf hs

theorem TreeEnv.reach_wf {a : TreeEnv} {t : Tree} {l : List Nat} (hs : s.MemWf) : (a.reach t s l).2.MemWf :=
  tEach_wf (fun _ _ ht => tThen_wf (TreeEnv.pa_wf ht) (fun _ _ hu => hu)) hs

theorem TreeEnv.startBackup_wf {a : TreeEnv} {t : Tree} {leaf gen : Nat} (hs : s.MemWf) : (a.startBackup t s leaf gen).2.MemWf := by
  unfold TreeEnv.startBackup
  split
  · exact tStop_wf hs
  · exact tThen_wf (TreeEnv.chain_wf hs) (fun _ _ ht => tThen_wf (TreeEnv.reach_wf ht) (fun _ _ hu => hu))

theorem TreeEnv.subtree_wf {a : TreeEnv} {t : Tree} {n : Nat} {l l' : List Nat} (hs : s.MemWf) : (a.subtree t n l l' s).2.MemWf := by
  induction n generalizing l l' s with
  | zero => exact hs
  | succ n ih =>
    rw [TreeEnv.subtree]
    split
    · exact hs
    · exact tThen_wf (tEach_wf (fun _ _ ht => tThen_wf (TreeEnv.node_wf ht) (fun _ _ hu => hu)) hs) (fun _ _ ht => ih ht)

theorem TreeEnv.startReuse_wf {a : TreeEnv} {t : Tree} {node : Nat} (hs : s.MemWf) : (a.startReuse t s node).2.MemWf := by
  unfold TreeEnv.startReuse
  refine tThen_wf (TreeEnv.node_wf hs) ?_
  intro _ _ ht
  refine tThen_wf (TreeEnv.node_wf ht) ?_
  intro _ _ hu
  split
  · exact tStop_wf hu
  · exact tThen_wf (TreeEnv.subtree_wf hu) (fun _ _ hv => tThen_wf (TreeEnv.reach_wf hv)
      (fun _ _ hw => tThen_wf (TreeEnv.write_wf hw) (fun _ _ ht' => State.setTree_wf ht')))

theorem State.treeSweep_wf {t : Tree} {l : List (Nat × Nat)} (hs : s.MemWf) : (s.treeSweep t l).2.MemWf := by
  cases l with
  | nil => exact hs
  | cons i rest =>
    simp only [State.treeSweep, apply_ite Prod.snd, ite_self]
    exact State.updateNode_wf hs

theorem TreeEnv.readNode_wf {a : TreeEnv} {t : Tree} {i : Nat} (hs : s.MemWf) : (a.readNode t s i).2.MemWf := by
  unfold TreeEnv.readNode
  split
  · exact tStop_wf hs
  · exact tThen_wf (TreeEnv.pa_wf hs) (fun _ _ ht => State.recallRange_wf _ _ ht)

theorem TreeEnv.leaf_wf {a : TreeEnv} {t : Tree} {leaf gen tag : W32} {handles : Nat} (hs : s.MemWf) : (a.leaf t s leaf gen tag handles).2.MemWf := by
  unfold TreeEnv.leaf
  dsimp only
  split
  · exact tStop_wf hs
  split
  · split
    · exact tStop_wf hs
    · exact hs
  split
  · exact tStop_wf hs
  · exact hs

theorem State.treeAct_wf {a : TreeEnv} {pa : Nat} {t : Option Tree} (hs : s.MemWf) : (s.treeAct a pa t).MemWf := by
  unfold State.treeAct
  dsimp only
  split
  · split
    · exact State.treeEnd_wf (TreeEnv.init_wf hs)
    · exact State.treeStatus_wf hs
  split
  · exact State.treeUndo_wf (State.updateNode_wf hs)
  · exact State.treeStatus_wf hs
  · exact State.treeDescend_wf hs
  · exact State.treeGoOn_wf (State.treeBackup_wf hs)
  · exact State.treeStatus_wf hs
  · exact State.treeGoOn_wf (State.treeSweep_wf hs)
  · exact State.treeEnd_wf (TreeEnv.init_wf hs)
  · split
    · next hz => exact State.treeUndo_wf (pair_wf (TreeEnv.raise_wf hs) hz)
    · next hz => exact State.treeDescend_wf (pair_wf (TreeEnv.raise_wf hs) hz)
  · exact State.treeEnd_wf (TreeEnv.expand_wf hs)
  · exact State.treeGoOn_wf (TreeEnv.startBackup_wf hs)
  · exact State.treeEnd_wf (TreeEnv.leaf_wf hs)
  · exact State.treeGoOn_wf (TreeEnv.startReuse_wf hs)
  · exact State.treeEnd_wf (TreeEnv.readNode_wf hs)

theorem State.treeStep_wf {r : TreeReq} (hs : s.MemWf) : (s.treeStep r).MemWf := by
  unfold State.treeStep
  split
  · exact State.dropTreq_wf hs
  dsimp only
  split
  · exact State.treeAct_wf (State.setTreq_wf hs)
  split
  · next hz => exact State.treeFault_wf (pair_wf (State.translate_wf hs) hz)
  · next hz =>
    have ht := pair_wf (State.translate_wf hs) hz
    exact State.ite_wf (State.treeStatus_wf ht) (State.treeAct_wf (State.setTreq_wf ht))

theorem State.treeRun_wf {id n : Nat} (hs : s.MemWf) : (State.treeRun id n s).MemWf := by
  induction n generalizing s with
  | zero => exact hs
  | succ n ih =>
    rw [State.treeRun]
    split
    · split
      · exact hs
      · exact ih (State.treeStep_wf hs)
    · exact hs

theorem State.settleTrees_wf {id : Nat} (hs : s.MemWf) : (s.settleTrees id).MemWf := State.landTrees_wf (State.treeRun_wf hs)

/-! ### Traps, faults and ends of launches -/

theorem State.commitStores_wf {pc vid owner : Nat} {l : List StoreRec} (hs : s.MemWf) : (s.commitStores pc vid owner l).MemWf :=
  State.foldl_wf (fun _ _ ht => State.ite_wf ht (State.commitUnit_wf (State.breakFor_wf ht))) hs

theorem State.commit_wf {id : Nat} (hs : s.MemWf) : (s.commit id).MemWf := by
  unfold State.commit
  split
  · exact hs
  split
  · exact hs
  · exact State.setQuire_wf (State.commitStores_wf hs)

theorem State.accept_wf {id : Nat} {ws : List RegWrite} (hs : s.MemWf) : (s.accept id ws).MemWf := State.modQuire_wf hs

theorem State.rollback_wf {id : Nat} (hs : s.MemWf) : (s.rollback id).MemWf := by
  unfold State.rollback
  extract_lets t u
  have ht : t.MemWf := State.settleTrees_wf (State.settleAsq_wf hs)
  have hu : u.MemWf := State.renameSpill_wf ht
  split
  · exact hu
  dsimp only [State.MemWf]
  exact State.setQuire_wf hu

theorem State.finishGroup_wf {id : Nat} (hs : s.MemWf) : (s.finishGroup id).MemWf := by
  unfold State.finishGroup
  split
  · exact hs
  split
  · exact hs
  · exact State.ite_wf (State.commit_wf (State.setQuire_wf hs)) (State.setQuire_wf hs)

theorem State.putRecord_wf {vid pa : Nat} {bs : List W8} (hs : s.MemWf) : (s.putRecord vid pa bs).MemWf := by
  unfold State.putRecord
  extract_lets _ t u
  have ht : t.MemWf := State.putHome_wf _ _ (State.breakFor_wf hs)
  have hu : u.MemWf := State.ite_wf ht (State.putHome_wf _ _ ht)
  exact hu

theorem State.enterHandler_wf {id : Nat} {t : TrapInfo} {pa : Nat} (hs : s.MemWf) : (s.enterHandler id t pa).MemWf := by
  unfold State.enterHandler
  split
  · exact hs
  · exact State.setQuire_wf (State.putRecord_wf hs)

theorem State.deliver_wf {id : Nat} {t : TrapInfo} (hs : s.MemWf) : (s.deliver id t).MemWf := by
  unfold State.deliver
  split
  · exact hs
  split
  · exact State.endLaunch_wf (State.hostEvent_wf hs)
  split
  · next hz => exact State.modQuire_wf (State.addFault_wf (pair_wf (State.translate_wf hs) hz))
  · next hz =>
    have ht := pair_wf (State.translate_wf hs) hz
    exact State.ite_wf (State.endLaunch_wf ht) (State.enterHandler_wf (State.ite_wf (State.finishGroup_wf ht) ht))

theorem State.takeTrap_wf {id : Nat} {t : TrapInfo} {keep : Bool} (hs : s.MemWf) : (s.takeTrap id t keep).MemWf := by
  unfold State.takeTrap
  split
  · exact hs
  · exact State.ite_wf (State.endLaunch_wf (State.hostEvent_wf hs)) (State.ite_wf (State.deliver_wf (State.ite_wf (State.abortGroup_wf hs)
      (State.rollback_wf hs))) (State.ite_wf (State.deliver_wf hs) (State.deliver_wf (State.abortGroup_wf hs))))

theorem State.takeFlagsTrap_wf {id : Nat} {t : TrapInfo} {fl : Fl} (hs : s.MemWf) : (s.takeFlagsTrap id t fl).MemWf :=
  State.takeTrap_wf (State.modQuire_wf hs)

theorem State.parkFault_wf {f : XFault} {matrix : Bool} (hs : s.MemWf) : (s.parkFault e f matrix).MemWf :=
  State.modQuire_wf (State.addFault_wf (State.abortGroup_wf hs))

theorem State.stallOn_wf {k : Stall} (hs : s.MemWf) : (s.stallOn e k).MemWf := State.modQuire_wf (State.abortGroup_wf (State.fresh_wf hs))
theorem State.holdMember_wf {k : Stall} (hs : s.MemWf) : (s.holdMember e k).MemWf := State.modQuire_wf hs

theorem State.halt_wf {x : Halt} (hs : s.MemWf) : (s.halt e x).MemWf := by
  unfold State.halt
  split
  · exact State.takeTrap_wf hs
  · exact State.takeFlagsTrap_wf hs
  · exact State.parkFault_wf hs
  · exact State.parkFault_wf hs
  · exact State.ite_wf (State.holdMember_wf hs) (State.stallOn_wf hs)

theorem State.upd_wf {f : Quire → Quire} (hs : s.MemWf) : (s.upd e f).MemWf := State.modQuire_wf hs

/-! ### Gatherings and their parts -/

theorem State.mapEntry_wf {l : Nat} {dest : Option Nat} (hs : s.MemWf) : (s.mapEntry l dest).MemWf := by
  unfold State.mapEntry
  split
  · exact hs
  · exact State.ite_wf hs (State.ite_wf hs hs)

theorem State.mapChange_wf {m : List (Nat × Option Nat)} (hs : s.MemWf) : (s.mapChange m).MemWf :=
  State.foldl_wf (fun _ _ ht => State.mapEntry_wf ht) hs

theorem State.spillOut_wf {id x : Nat} (hs : s.MemWf) : OptWf (s.spillOut id x) := by
  unfold State.spillOut
  split
  · exact optWf_some hs
  refine optWf_bind ?_
  intro _
  dsimp only
  split
  · exact optWf_some (State.bump_wf (State.putHome_wf _ _ (State.modCtx_wf hs)))
  split
  · next hz => exact optWf_some (State.bump_wf (State.putHome_wf _ _ (State.modCtx_wf (pair_wf (State.translate_wf hs) hz))))
  · exact optWf_none

theorem State.spillRow_wf {id row : Nat} (hs : s.MemWf) : OptWf (s.spillRow id row) :=
  OptWf.map (State.spillOut_wf hs) (fun _ ht => State.modQuire_wf ht)

theorem State.takeRow_wf {p part id : Nat} (hs : s.MemWf) : OptWf (s.takeRow p part id) := by
  unfold State.takeRow
  split
  · exact optWf_some hs
  dsimp only
  split
  · split
    · exact optWf_some hs
    split
    · exact optWf_some hs
    · exact State.spillRow_wf (State.bump_wf hs)
  split
  · exact optWf_some hs
  split
  · exact optWf_some hs
  · exact State.spillRow_wf hs

theorem State.mapName_wf {p part id n : Nat} (hs : s.MemWf) : OptWf (s.mapName p part id n) := by
  unfold State.mapName
  split
  · exact optWf_some hs
  · exact OptWf.map (State.takeRow_wf (State.setQuire_wf (State.renameSpill_wf hs))) (fun _ ht => State.modQuire_wf ht)

theorem State.mapNames_wf {p part id : Nat} {l : List Nat} (hs : s.MemWf) : OptWf (State.mapNames p part id l s) := by
  induction l generalizing s with
  | nil => exact optWf_some hs
  | cons a l ih => exact OptWf.bind (State.mapName_wf hs) (fun _ ht => ih ht)

theorem State.refill_wf {p part id n : Nat} (hs : s.MemWf) : OptWf (s.refill p part id n) :=
  OptWf.map (State.takeRow_wf (State.modQuire_wf hs)) (fun _ ht => State.modQuire_wf ht)

theorem State.spillStack_wf {id : Nat} (hs : s.MemWf) : (s.spillStack id).MemWf := by
  unfold State.spillStack
  split
  · exact hs
  · exact State.foldl_wf (fun _ _ ht => OptWf.getD (State.spillOut_wf ht) ht) hs

/-! ### Records -/

theorem State.engineStore_wf {cid vid va : Nat} {bs : List W8} (hs : s.MemWf) : (s.engineStore cid vid va bs).MemWf := by
  unfold State.engineStore
  split
  · exact hs
  split
  · next hy =>
    have ht := pair_wf (State.xl_wf hs) hy
    exact State.ite_wf ht (State.putHome_wf _ _ ht)
  · next hy => exact pair_wf (State.xl_wf hs) hy

theorem State.takeCap_wf {cid : Nat} (hs : s.MemWf) : (s.takeCap cid).MemWf := State.modCtx_wf hs

theorem State.writeRecordOf_wf {cid vid : Nat} {p : Packet} {status cls contain : Nat} {mask : W64} (hs : s.MemWf) :
    (s.writeRecordOf cid vid p status cls contain mask).MemWf :=
  State.ite_wf hs (State.engineStore_wf hs)

theorem State.modQueue_wf {qk : Nat} {f : Queue → Queue} (hs : s.MemWf) : (s.modQueue qk f).MemWf := hs

theorem State.progress_wf {qk : Nat} (hs : s.MemWf) : (s.progress qk).MemWf := by
  unfold State.progress
  split
  · exact hs
  · exact State.engineStore_wf hs

theorem State.progressAll_wf (hs : s.MemWf) : s.progressAll.MemWf := State.foldl_wf (fun _ _ ht => State.progress_wf ht) hs

theorem State.finishPacket_wf {qk seq : Nat} (hs : s.MemWf) : (s.finishPacket qk seq).MemWf := by
  unfold State.finishPacket
  split
  · exact hs
  · exact State.ite_wf hs (State.progress_wf hs)

theorem State.childGone_wf {parent : Option Nat} (hs : s.MemWf) : (s.childGone parent).MemWf := by
  unfold State.childGone
  split
  · exact hs
  · exact State.modVol_wf hs

theorem State.closePacket_wf {qk : Nat} {p : Packet} {parent : Option Nat} {silent : Bool} {status cls : Nat} (hs : s.MemWf) :
    (s.closePacket qk p parent silent status cls).MemWf :=
  State.finishPacket_wf (State.modQueue_wf (State.childGone_wf (State.ite_wf hs (State.writeRecordOf_wf hs))))

theorem State.dropAccepted_wf {vid : Nat} (hs : s.MemWf) : (s.dropAccepted vid).MemWf :=
  State.foldl_wf (fun _ _ ht => State.ite_wf ht (State.progress_wf
    (State.foldl_wf (fun _ _ hu => State.closePacket_wf hu) (State.modQueue_wf ht)))) hs

theorem State.orphanPushed_wf {r : Nat} (hs : s.MemWf) : (s.orphanPushed r).MemWf := State.modVol_wf hs

/-! ### Errors and repair -/

theorem State.requestPreemption_wf {gid : Nat} {avoid : Option Nat} (hs : s.MemWf) : (s.requestPreemption gid avoid).MemWf :=
  State.foldl_wf (fun _ _ ht => State.modGath_wf ht) hs

theorem State.askWith_wf {gid : Nat} (hs : s.MemWf) : (s.askWith gid).MemWf := by
  unfold State.askWith
  split
  · exact State.modGath_wf hs
  · exact hs

theorem State.overlayParams_wf {r : Nat} (hs : s.MemWf) : (s.overlayParams r).MemWf := by
  unfold State.overlayParams
  split
  · exact hs
  split
  · exact hs
  refine State.foldl_wf ?_ hs
  intro _ _ ht
  dsimp only
  split
  · next hz => exact pair_wf (State.translate_wf ht) hz
  · next hz => exact State.putHome_wf _ _ (State.modVol_wf (pair_wf (State.translate_wf ht) hz))

theorem State.silenceFamily_wf {r : Nat} (hs : s.MemWf) : (s.silenceFamily r).MemWf := by
  unfold State.silenceFamily
  extract_lets _ t u _ v
  have ht : t.MemWf := State.foldl_wf (fun _ _ ht => State.modVol_wf (State.endLaunch_wf ht)) hs
  have hu : u.MemWf := State.foldl_wf (fun _ _ ht => State.dropAccepted_wf ht) (State.stopVolume_wf ht)
  have hv : v.MemWf := hu
  exact State.orphanPushed_wf (State.foldl_wf (fun _ _ ht => State.reapFor_wf ht) hv)

theorem State.sealedReplay_wf {r source loc count : Nat} (hs : s.MemWf) : (s.sealedReplay r source loc count).MemWf := by
  unfold State.sealedReplay
  split
  · exact hs
  · exact State.ite_wf (State.endLaunch_wf (State.errorRecord_wf hs))
      (State.overlayParams_wf (State.modVol_wf (State.silenceFamily_wf (State.discardShadow_wf (State.errorRecord_wf hs)))))

theorem State.trapRecorded_wf {t : TrapInfo} {source loc count : Nat} (hs : s.MemWf) : (s.trapRecorded e t source loc count).MemWf :=
  State.errorRecord_wf (State.takeTrap_wf hs)

theorem State.wholeLaunch_wf {id detail source loc count : Nat} (hs : s.MemWf) : (s.wholeLaunch id detail source loc count).MemWf := by
  unfold State.wholeLaunch
  split
  · exact hs
  · exact State.ite_wf (State.sealedReplay_wf hs) (State.trapRecorded_wf hs)

theorem State.datapathError_wf {id source loc count : Nat} {ckptRow : Bool} (hs : s.MemWf) : (s.datapathError id source loc count ckptRow).MemWf := by
  unfold State.datapathError
  split
  · exact hs
  extract_lets record _ t
  have hrecord : ∀ (t : State) (x : Nat), t.MemWf → (record t x).MemWf := fun _ _ ht => State.errorRecord_wf ht
  have ht : t.MemWf := State.modQuire_wf (State.rollback_wf hs)
  exact State.ite_wf (State.endLaunch_wf (hrecord _ _ hs)) (State.ite_wf (State.wholeLaunch_wf hs)
    (State.ite_wf (State.modQuire_wf (State.requestPreemption_wf (hrecord _ _ ht))) (State.ite_wf (hrecord _ _ ht) (State.wholeLaunch_wf ht))))

theorem State.signatureError_wf {id detail : Nat} (hs : s.MemWf) : (s.signatureError id detail).MemWf := by
  unfold State.signatureError
  split
  · exact hs
  · exact State.ite_wf (State.endLaunch_wf (State.errorRecord_wf hs)) (State.ite_wf (State.wholeLaunch_wf hs) (State.ite_wf (State.modQuire_wf
      (State.trapRecorded_wf hs)) (State.modQuire_wf (State.errorRecord_wf (State.rollback_wf hs)))))

/-! ### Placement -/

theorem State.addQuire_wf {gid index part : Nat} {entry : W64} {r : Regs} (hs : s.MemWf) : (s.addQuire gid index part entry r).MemWf := by
  unfold State.addQuire
  split
  · exact hs
  refine State.acquire_wf (State.modGath_wf ?_)
  dsimp only [State.MemWf]
  exact State.fresh_wf hs

theorem State.addGathering_wf {vid : Nat} {v : Volume} {role : Role} {x y z core pcore : Nat} {parent : Option (Nat × Nat)} {bin : Bool}
    (hs : s.MemWf) : (s.addGathering vid v role x y z core pcore parent bin).2.MemWf := by
  unfold State.addGathering
  refine State.askWith_wf (State.modVol_wf ?_)
  dsimp only [State.MemWf]
  exact Memory.clear_wf _ _ (State.fresh_wf (State.takeCap_wf hs))

theorem State.addQuires_wf {gid : Nat} {v : Volume} {role : Role} {parts : List Nat} (hs : s.MemWf) : (s.addQuires gid v role parts).MemWf :=
  State.foldl_wf (fun _ _ ht => State.addQuire_wf ht) hs

theorem State.putSpan_wf {vid : Nat} {v : Volume} {k : Nat} {l : List Spot'} (hs : s.MemWf) : (s.putSpan vid v k l).MemWf :=
  State.foldl_wf (fun _ _ ht => State.addQuires_wf (State.addGathering_wf ht)) hs

/-! ### Bins -/

theorem State.bindRows_wf {p part id : Nat} {b : Bin} (hs : s.MemWf) : OptWf (s.bindRows p part id b) :=
  OptWf.map (State.mapNames_wf hs) (fun _ ht => State.modQuire_wf ht)

theorem State.placeBin_wf {p n : Nat} (hs : s.MemWf) : (s.placeBin p n).MemWf := by
  unfold State.placeBin
  split
  · exact hs
  split
  · dsimp only
    split
    · split
      · next hb _ => exact OptWf.getD (State.bindRows_wf (State.addQuire_wf ((State.join_wf (State.modCore_wf hs)).some hb))) hs
      · exact hs
    split
    · exact hs
    · next hb =>
      have ht := (State.bindRows_wf (State.addQuire_wf (State.addGathering_wf (State.modCore_wf hs)))).some hb
      exact State.ite_wf (State.requestPreemption_wf ht) ht
  · exact hs

theorem State.enterBin_wf {p : Nat} {b : Bin} {width : Nat} {x : BinLane} (hs : s.MemWf) : OptWf (s.enterBin p b width x) := by
  unfold State.enterBin
  dsimp only
  split
  · split
    · exact optWf_none
    · exact optWf_some (State.ite_wf (State.placeBin_wf (State.modCore_wf hs)) (State.modCore_wf hs))
  · exact optWf_map (fun _ => State.ite_wf (State.placeBin_wf (State.modCore_wf hs)) (State.modCore_wf hs))

theorem Env.enterLanes_wf {f : FmtE} {entry : W64} {l : List Nat} (hs : s.MemWf) : OptWf (e.enterLanes f entry l s) := by
  induction l generalizing s with
  | nil => exact optWf_some hs
  | cons a l ih => exact OptWf.bind (State.enterBin_wf hs) (fun _ ht => ih ht)

/-! ### The read-only path -/

theorem State.roMiss_wf {core : Nat} {sure : Bool} (hs : s.MemWf) : (s.roMiss core sure).MemWf :=
  State.modCore_wf (State.ite_wf hs (State.bump_wf hs))

theorem State.roLine_wf {core pa u : Nat} (hs : s.MemWf) : (s.roLine core pa u).2.MemWf := by
  unfold State.roLine
  dsimp only
  split
  · exact State.roMiss_wf (State.modCore_wf hs)
  split
  · exact State.roMiss_wf hs
  · exact State.roMiss_wf (State.modCore_wf hs)

theorem State.roCut_wf {core pa n u : Nat} (hs : s.MemWf) : (s.roCut core pa n u).2.MemWf := State.roLine_wf hs
theorem State.roRead_wf {core pa n : Nat} (hs : s.MemWf) : (s.roRead core pa n).2.MemWf := State.roCut_wf hs
theorem State.roDrop_wf {pa : Nat} (hs : s.MemWf) : (s.roDrop pa).MemWf := hs
theorem State.roNone_wf (hs : s.MemWf) : s.roNone.MemWf := hs
theorem State.roClear_wf {core : Nat} (hs : s.MemWf) : (s.roClear core).MemWf := State.modCore_wf hs

/-! ### The frame of an instruction -/

theorem State.waitTrees_wf (hs : s.MemWf) : (s.waitTrees e).MemWf := by
  unfold State.waitTrees
  split
  · exact State.upd_wf hs
  · exact hs

theorem State.perform_wf {i : Instr} {body : Env → State → Res State} (hs : s.MemWf) (hb : ∀ e, ResWf (body e s)) : OutWf (s.perform i body) := by
  refine State.onQuire_wf fun e => ?_
  split
  · exact outWf_next (State.takeTrap_wf hs)
  split
  · exact outWf_next (State.waitTrees_wf (State.upd_wf hs))
  split
  · exact outWf_next (State.halt_wf hs)
  split
  · next hx => exact outWf_next ((hb e).ok hx)
  · next hx => exact outWf_next (State.halt_wf ((hb e).error hx))

theorem State.local_wf {i : Instr} {f : Env → Quire → Quire} (hs : s.MemWf) : OutWf (s.local i f) :=
  State.perform_wf hs (fun _ => Res.wf_ok (State.upd_wf hs))

theorem Env.alu_wf {x : Alu} {p : AluSpec} {pd : Option Nat} {bad : Nat → Srcs → Bool} {f : Nat → Srcs → LaneRes} (hs : s.MemWf) :
    ResWf (e.alu s x p pd bad f) := by
  unfold Env.alu
  dsimp only
  split
  · exact Res.wf_error hs
  · exact Res.wf_ok (State.upd_wf hs)

theorem State.aluOp_wf {i : Instr} {x : Alu} {p : AluSpec} {f : Env → Srcs → LaneRes} (hs : s.MemWf) : OutWf (s.aluOp i x p f) :=
  State.perform_wf hs (fun _ => Env.alu_wf hs)

/-! ### Conversions -/

theorem Env.finish_wf {d : Opnd} {words : Nat} {signed : Bool} {rs : List (LaneOut × Fl)} (hs : s.MemWf) :
    ResWf (e.finish s h d words signed rs) := by
  unfold Env.finish
  dsimp only
  split
  · exact Res.wf_error hs
  · exact Res.wf_ok (State.upd_wf hs)

theorem Env.cvtq_wf {x : Alu} (hs : s.MemWf) : ResWf (e.cvtq s x) := Env.finish_wf hs
theorem Env.bppack_wf {x : Alu} (hs : s.MemWf) : ResWf (e.bppack s x) := Env.finish_wf hs
theorem Env.bpunp_wf {x : Alu} (hs : s.MemWf) : ResWf (e.bpunp s x) := Env.finish_wf hs
theorem execCvtq_wf {f : FmtA} (hs : s.MemWf) : OutWf (execCvtq h f s) := State.perform_wf hs fun _ => Env.cvtq_wf hs
theorem execBppack_wf {f : FmtA} (hs : s.MemWf) : OutWf (execBppack h f s) := State.perform_wf hs fun _ => Env.bppack_wf hs
theorem execBpunp_wf {f : FmtA} (hs : s.MemWf) : OutWf (execBpunp h f s) := State.perform_wf hs fun _ => Env.bpunp_wf hs

/-! ### Across lanes -/

theorem Env.trapRes_wf {α : Type} {m : α → State} {code detail : Nat} (hs : s.MemWf) : Res.Wf m (e.trapRes s code detail) := Res.wf_error hs
theorem Env.poison_wf {α : Type} {m : α → State} {detail : Nat} {bad : LaneSet} (hs : s.MemWf) : Res.Wf m (e.poison s detail bad) := Res.wf_error hs

theorem Env.onceUniform_wf {k : Res State} (hs : s.MemWf) (hk : ResWf k) : ResWf (e.onceUniform s h k) := by
  unfold Env.onceUniform
  split
  · exact Res.wf_ok hs
  · exact Env.trapRes_wf hs
  · exact hk

theorem Env.pmov_wf {x : Alu} (hs : s.MemWf) : ResWf (e.pmov s x) := by
  unfold Env.pmov
  dsimp only
  split
  · exact Res.wf_ok (State.upd_wf hs)
  · exact Env.finish_wf hs

theorem Env.poll_wf {x : Alu} (hs : s.MemWf) : ResWf (e.poll s x) := by
  unfold Env.poll
  dsimp only
  split
  · exact Res.wf_ok (State.upd_wf hs)
  · exact Res.wf_ok (State.upd_wf hs)
  · exact Res.wf_ok (State.upd_wf hs)
  · exact Res.wf_ok (State.upd_wf hs)
  · split
    · split
      · exact Env.trapRes_wf hs
      · exact Env.finish_wf hs
    · exact Env.finish_wf hs
  · exact Env.finish_wf hs

theorem Env.xlane_wf {x : Alu} (hs : s.MemWf) : ResWf (e.xlane s x) := by
  unfold Env.xlane
  split
  · exact Env.trapRes_wf hs
  · exact Env.finish_wf hs

theorem Env.fold_wf {x : Alu} {scan : Bool} (hs : s.MemWf) : ResWf (e.fold s x scan) := by
  unfold Env.fold
  split
  · exact Env.trapRes_wf hs
  dsimp only
  split
  · exact Res.wf_error hs
  · exact Res.wf_ok (State.upd_wf hs)

theorem Env.matchLanes_wf {x : Alu} (hs : s.MemWf) : ResWf (e.matchLanes s x) := by
  unfold Env.matchLanes
  dsimp only
  split
  · next hx => exact Res.wf_error ((Env.finish_wf hs).error hx)
  · next hx => exact Res.wf_ok (State.upd_wf ((Env.finish_wf hs).ok hx))

theorem Env.ubcast_wf {x : Alu} (hs : s.MemWf) : ResWf (e.ubcast s x) := by
  unfold Env.ubcast
  split
  · exact Env.finish_wf hs
  · exact Env.finish_wf hs

theorem Env.sread_wf {x : Alu} (hs : s.MemWf) : ResWf (e.sread s x) := Env.finish_wf hs

theorem Env.swrite_wf {x : Alu} (hs : s.MemWf) : ResWf (e.swrite s x) := by
  unfold Env.swrite
  refine Env.onceUniform_wf hs ?_
  dsimp only
  split
  · exact Env.poison_wf hs
  split
  · split
    · exact Env.trapRes_wf hs
    · exact Res.wf_ok (State.upd_wf hs)
  · exact Res.wf_ok (State.upd_wf hs)

theorem Env.xreg_wf {x : Alu} {add : Bool} (hs : s.MemWf) : ResWf (e.xreg s x add) := by
  unfold Env.xreg
  dsimp only
  split
  · exact Env.poison_wf hs
  · exact Res.wf_ok (State.upd_wf hs)

theorem Env.claim_wf {x : Alu} (hs : s.MemWf) : ResWf (e.claim s x) := by
  unfold Env.claim
  refine Env.onceUniform_wf hs ?_
  dsimp only
  split
  · exact Env.poison_wf hs
  split
  · exact Res.wf_ok hs
  split
  · exact Env.trapRes_wf hs
  · exact Res.wf_ok (State.upd_wf hs)

theorem Env.surr_wf {x : Alu} (hs : s.MemWf) : ResWf (e.surr s x) := by
  unfold Env.surr
  refine Env.onceUniform_wf hs ?_
  dsimp only
  split
  · exact Env.poison_wf hs
  split
  · exact Env.trapRes_wf hs
  · exact Res.wf_ok (State.upd_wf hs)

theorem Env.maskrd_wf {x : Alu} (hs : s.MemWf) : ResWf (e.maskrd s x) := by
  unfold Env.maskrd
  dsimp only
  split
  · exact Env.trapRes_wf hs
  · exact Env.finish_wf hs

theorem Env.padOn_wf {x : Alu} (hs : s.MemWf) : ResWf (e.padOn s x) := by
  unfold Env.padOn
  refine Env.onceUniform_wf hs ?_
  split
  · exact Env.trapRes_wf hs
  split
  · exact Env.trapRes_wf hs
  · exact Res.wf_ok (State.upd_wf hs)

theorem Env.padOff_wf {x : Alu} (hs : s.MemWf) : ResWf (e.padOff s x) := by
  unfold Env.padOff
  refine Env.onceUniform_wf hs ?_
  split
  · exact Env.trapRes_wf hs
  · exact Res.wf_ok (State.upd_wf hs)

theorem execPlop_wf {f : FmtA} (hs : s.MemWf) : OutWf (execPlop h f s) := State.local_wf hs
theorem execPmov_wf {f : FmtA} (hs : s.MemWf) : OutWf (execPmov h f s) := State.perform_wf hs fun _ => Env.pmov_wf hs
theorem execPoll_wf {f : FmtA} (hs : s.MemWf) : OutWf (execPoll h f s) := State.perform_wf hs fun _ => Env.poll_wf hs
theorem execXlane_wf {f : FmtA} (hs : s.MemWf) : OutWf (execXlane h f s) := State.perform_wf hs fun _ => Env.xlane_wf hs
theorem execRedq_wf {f : FmtA} (hs : s.MemWf) : OutWf (execRedq h f s) := State.perform_wf hs fun _ => Env.fold_wf hs
theorem execScanq_wf {f : FmtA} (hs : s.MemWf) : OutWf (execScanq h f s) := State.perform_wf hs fun _ => Env.fold_wf hs
theorem execMatchQ_wf {f : FmtA} (hs : s.MemWf) : OutWf (execMatchQ h f s) := State.perform_wf hs fun _ => Env.matchLanes_wf hs
theorem execSread_wf {f : FmtA} (hs : s.MemWf) : OutWf (execSread h f s) := State.perform_wf hs fun _ => Env.sread_wf hs
theorem execSwrite_wf {f : FmtA} (hs : s.MemWf) : OutWf (execSwrite h f s) := State.perform_wf hs fun _ => Env.swrite_wf hs
theorem execXset_wf {f : FmtA} (hs : s.MemWf) : OutWf (execXset h f s) := State.perform_wf hs fun _ => Env.xreg_wf hs
theorem execXadd_wf {f : FmtA} (hs : s.MemWf) : OutWf (execXadd h f s) := State.perform_wf hs fun _ => Env.xreg_wf hs
theorem execClaim_wf {f : FmtA} (hs : s.MemWf) : OutWf (execClaim h f s) := State.perform_wf hs fun _ => Env.claim_wf hs
theorem execSurr_wf {f : FmtA} (hs : s.MemWf) : OutWf (execSurr h f s) := State.perform_wf hs fun _ => Env.surr_wf hs
theorem execMaskrd_wf {f : FmtA} (hs : s.MemWf) : OutWf (execMaskrd h f s) := State.perform_wf hs fun _ => Env.maskrd_wf hs
theorem execPad_wf {f : FmtA} (hs : s.MemWf) : OutWf (execPad h f s) := State.perform_wf hs fun _ => Env.padOn_wf hs
theorem execUnpad_wf {f : FmtA} (hs : s.MemWf) : OutWf (execUnpad h f s) := State.perform_wf hs fun _ => Env.padOff_wf hs
theorem execUbcast_wf {f : FmtA} (hs : s.MemWf) : OutWf (execUbcast h f s) := State.perform_wf hs fun _ => Env.ubcast_wf hs

/-! ### Control -/

theorem Env.split_wf {taken : LaneSet} {pc : W64} {rdisp : BitVec 24} (hs : s.MemWf) : ResWf (e.split s taken pc rdisp) := by
  unfold Env.split
  split
  · exact Res.wf_ok (State.upd_wf hs)
  split
  · exact Res.wf_ok hs
  split
  · exact Env.trapRes_wf hs
  dsimp only
  split
  · exact Res.wf_ok (State.upd_wf hs)
  split
  · exact Env.trapRes_wf hs
  split
  · exact Res.wf_ok (State.upd_wf hs)
  · exact Res.wf_ok (State.upd_wf hs)

theorem Env.brc_wf {f : FmtC} (hs : s.MemWf) : ResWf (e.brc s h f) := by
  unfold Env.brc
  split
  · exact Env.trapRes_wf hs
  dsimp only
  split
  · exact Env.poison_wf hs
  · exact Env.split_wf hs

theorem Env.pcOperand_wf {m : LaneSet} {o : Opnd} (hs : s.MemWf) : Res.Wf (fun _ => s) (e.pcOperand s m o) := by
  unfold Env.pcOperand
  dsimp only
  split
  · exact Env.poison_wf hs
  split
  · exact Res.wf_ok hs
  split
  · exact Res.wf_ok hs
  · exact Env.trapRes_wf hs

theorem Env.brx_wf {f : FmtC} (hs : s.MemWf) : ResWf (e.brx s h f) := by
  unfold Env.brx
  dsimp only
  split
  · exact Res.wf_ok hs
  split
  · next hy => exact Res.wf_error ((Env.pcOperand_wf hs).error hy)
  · exact Env.split_wf hs

theorem Env.callTo_wf {f : FmtC} {pc : W64} (hs : s.MemWf) : ResWf (e.callTo s f pc) := by
  unfold Env.callTo
  split
  · exact Env.trapRes_wf hs
  · exact Res.wf_ok (State.upd_wf hs)

theorem Env.callx_wf {f : FmtC} (hs : s.MemWf) : ResWf (e.callx s h f) := by
  unfold Env.callx
  refine Env.onceUniform_wf hs ?_
  split
  · next hx => exact Res.wf_error ((Env.pcOperand_wf hs).error hx)
  · exact Env.callTo_wf hs

theorem Env.ret_wf {f : FmtC} (hs : s.MemWf) : ResWf (e.ret s h f) := by
  unfold Env.ret
  refine Env.onceUniform_wf hs ?_
  dsimp only
  split
  · exact Env.poison_wf hs
  split
  · exact Res.wf_ok (State.upd_wf hs)
  · exact Env.trapRes_wf hs

theorem Env.loop_wf {f : FmtC} (hs : s.MemWf) : ResWf (e.loop s h f) := by
  unfold Env.loop
  dsimp only
  split
  · refine Env.onceUniform_wf hs ?_
    split
    · exact Env.poison_wf hs
    · exact Res.wf_ok (State.upd_wf hs)
  split
  · exact Env.poison_wf hs
  · exact Env.split_wf (State.upd_wf hs)

theorem Env.exit_wf (hs : s.MemWf) : ResWf (e.exit s h) := by
  unfold Env.exit
  dsimp only
  split
  · exact Res.wf_ok hs
  · exact Res.wf_ok (State.upd_wf (State.commit_wf hs))

theorem Env.bkpt_wf {f : FmtC} (hs : s.MemWf) : ResWf (e.bkpt s h f) := by
  unfold Env.bkpt
  split
  · exact Res.wf_ok hs
  split
  · exact Res.wf_ok (State.upd_wf hs)
  · exact Env.trapRes_wf hs

theorem Env.sigck_wf {f : FmtC} (hs : s.MemWf) : ResWf (e.sigck s f) := by
  unfold Env.sigck
  dsimp only
  split
  · exact Res.wf_ok hs
  split
  · split
    · split
      · exact Res.wf_ok (State.signatureError_wf hs)
      · exact Res.wf_ok (State.upd_wf hs)
    split
    · exact Res.wf_ok (State.signatureError_wf hs)
    · exact Res.wf_ok (State.upd_wf hs)
  split
  · split
    · exact Res.wf_ok (State.signatureError_wf hs)
    · exact Res.wf_ok (State.upd_wf hs)
  split
  · exact Res.wf_ok (State.signatureError_wf hs)
  · exact Res.wf_ok (State.upd_wf hs)

theorem Env.regionEnter_wf {f : FmtC} {live : (Nat × Nat × Nat) × (Nat × Nat) × Bool} (hs : s.MemWf) : (e.regionEnter s f live).MemWf :=
  State.upd_wf (State.modGath_wf (State.commit_wf hs))

theorem Env.region_wf {f : FmtC} (hs : s.MemWf) : ResWf (e.region s f) := by
  unfold Env.region
  dsimp only
  split
  · exact Env.trapRes_wf hs
  split
  · next hy => exact Res.wf_error (pair_wf (State.xl_wf hs) hy)
  · next hy =>
    have ht := pair_wf (State.xl_wf hs) hy
    split
    · exact Res.wf_error ht
    split
    · exact Env.trapRes_wf (State.roRead_wf ht)
    split
    · exact Env.trapRes_wf (State.roRead_wf ht)
    · exact Res.wf_ok (Env.regionEnter_wf (State.roRead_wf ht))

theorem execNop_wf {f : FmtC} (hs : s.MemWf) : OutWf (execNop h f s) := State.local_wf hs
theorem execBra_wf {f : FmtC} (hs : s.MemWf) : OutWf (execBra h f s) := State.perform_wf hs fun _ => Env.split_wf hs
theorem execBrc_wf {f : FmtC} (hs : s.MemWf) : OutWf (execBrc h f s) := State.perform_wf hs fun _ => Env.brc_wf hs
theorem execBrx_wf {f : FmtC} (hs : s.MemWf) : OutWf (execBrx h f s) := State.perform_wf hs fun _ => Env.brx_wf hs
theorem execCall_wf {f : FmtC} (hs : s.MemWf) : OutWf (execCall h f s) := State.perform_wf hs fun _ => Env.onceUniform_wf hs (Env.callTo_wf hs)
theorem execCallx_wf {f : FmtC} (hs : s.MemWf) : OutWf (execCallx h f s) := State.perform_wf hs fun _ => Env.callx_wf hs
theorem execRet_wf {f : FmtC} (hs : s.MemWf) : OutWf (execRet h f s) := State.perform_wf hs fun _ => Env.ret_wf hs
theorem execReconv_wf {f : FmtC} (hs : s.MemWf) : OutWf (execReconv h f s) := State.local_wf hs
theorem execLoop_wf {f : FmtC} (hs : s.MemWf) : OutWf (execLoop h f s) := State.perform_wf hs fun _ => Env.loop_wf hs
theorem execExit_wf {f : FmtC} (hs : s.MemWf) : OutWf (execExit h f s) := State.perform_wf hs fun _ => Env.exit_wf hs
theorem execRegion_wf {f : FmtC} (hs : s.MemWf) : OutWf (execRegion h f s) := State.perform_wf hs fun _ => Env.region_wf hs
theorem execSigck_wf {f : FmtC} (hs : s.MemWf) : OutWf (execSigck h f s) := State.perform_wf hs fun _ => Env.sigck_wf hs

theorem execYield_wf {f : FmtC} (hs : s.MemWf) : OutWf (execYield h f s) :=
  State.perform_wf hs (fun _ => Res.wf_ok (State.ite_wf hs (State.upd_wf hs)))

theorem execBkpt_wf {f : FmtC} (hs : s.MemWf) : OutWf (execBkpt h f s) := State.perform_wf hs fun _ => Env.bkpt_wf hs

/-! ### Fetch -/

theorem State.fetchLine_wf {id : Nat} (hs : s.MemWf) : (s.fetchLine id).MemWf := by
  unfold State.fetchLine
  split
  · exact hs
  dsimp only
  split
  · exact State.takeTrap_wf hs
  split
  · next hz => exact State.parkFault_wf (pair_wf (State.xl_wf hs) hz)
  · next hz =>
    have ht := pair_wf (State.xl_wf hs) hz
    split
    · exact State.takeTrap_wf ht
    split
    · exact State.takeTrap_wf (State.roCut_wf ht)
    split
    · exact State.ite_wf (State.takeTrap_wf (State.modQuire_wf (State.roCut_wf ht)))
        (State.datapathError_wf (State.modQuire_wf (State.roDrop_wf (State.roCut_wf ht))))
    split
    · exact State.takeTrap_wf (State.roCut_wf ht)
    · exact State.modQuire_wf (State.roCut_wf ht)

theorem State.mapRows_wf {l : List Member} (hs : s.MemWf) : OptWf (s.mapRows e l) := State.mapNames_wf hs
theorem State.startGroup_wf {l : List Member} {w : Nat} (hs : s.MemWf) : (s.startGroup e l w).MemWf := State.upd_wf hs

theorem State.prepare_wf {id : Nat} (hs : s.MemWf) : (s.prepare id).MemWf := by
  unfold State.prepare
  split
  · exact hs
  split
  · exact State.setQuire_wf hs
  split
  · exact hs
  split
  · exact State.ite_wf (State.retireQuire_wf hs) (State.setQuire_wf hs)
  extract_lets t u
  have ht : t.MemWf := State.setQuire_wf hs
  have hu : u.MemWf := State.ite_wf ht (State.fetchLine_wf ht)
  split
  · exact hu
  split
  · exact hu
  dsimp only
  split
  · exact State.upd_wf hu
  split
  · exact State.takeTrap_wf (State.setQuire_wf hu)
  split
  · exact State.takeTrap_wf (State.setQuire_wf hu)
  split
  · exact State.setQuire_wf hu
  split
  · exact State.ite_wf (State.upd_wf (State.setQuire_wf hu)) (State.setQuire_wf hu)
  split
  · exact State.takeTrap_wf (State.modQuire_wf (State.setQuire_wf hu))
  split
  · exact State.upd_wf (State.fresh_wf (State.setQuire_wf hu))
  · exact State.startGroup_wf (OptWf.getD (State.mapRows_wf (State.setQuire_wf hu)) (State.setQuire_wf hu))

theorem State.enterMember_wf {id : Nat} {m : Member} (hs : s.MemWf) : (s.enterMember id m).MemWf := State.modQuire_wf hs

theorem State.afterMember_wf {id : Nat} (hs : s.MemWf) : (s.afterMember id).MemWf := by
  unfold State.afterMember
  split
  · exact hs
  split
  · exact hs
  split
  · extract_lets t
    have ht : t.MemWf := State.finishGroup_wf (State.ite_wf (State.spillStack_wf hs) hs)
    split
    · exact State.deliver_wf ht
    · exact State.ite_wf (State.modQuire_wf ht) ht
  · exact hs

/-! ### Lane accesses -/

theorem State.waitsOn_wf {k : Nat} (hs : s.MemWf) : (s.waitsOn e k).MemWf := State.ite_wf (State.observed_wf hs) hs

theorem State.xlLane_wf {va : Nat} {acc : Acc} (hs : s.MemWf) : (s.xlLane e va acc).2.MemWf := by
  unfold State.xlLane
  split
  · next hx => exact pair_wf (State.xl_wf hs) hx
  · next hx => exact State.waitsOn_wf (pair_wf (State.xl_wf hs) hx)

theorem Env.spotsFrom_wf {f : FmtM} {size : Nat} {acc : Acc} {bypass : Bool} {l : List Nat} (hs : s.MemWf) :
    (e.spotsFrom f size acc bypass l s).2.MemWf := by
  induction l generalizing acc s with
  | nil => exact hs
  | cons a l ih =>
    rw [Env.spotsFrom]
    split
    · split
      · next hy => exact pair_wf (State.xl_wf hs) hy
      · next hy =>
        have ht := pair_wf (State.xl_wf hs) hy
        split
        · next hz => exact pair_wf (ih ht) hz
        · next hz => exact pair_wf (ih ht) hz
    split
    · exact ih hs
    split
    · next hz => exact pair_wf (ih hs) hz
    · next hz => exact pair_wf (ih hs) hz

theorem Env.spots_wf {f : FmtM} {size : Nat} {all : LaneSet} {bypass : Bool} {acc : Acc} {lanes : List Nat} (hs : s.MemWf) :
    Res.Wf Prod.snd (e.spots s f size all bypass acc lanes) := by
  unfold Env.spots
  split
  · exact Res.wf_error hs
  split
  · next hy => exact Res.wf_error (pair_wf (Env.spotsFrom_wf hs) hy)
  · next hy =>
    have hu := pair_wf (Env.spotsFrom_wf hs) hy
    split
    · exact Res.wf_error (State.foldl_wf (fun _ _ ht => State.waitsOn_wf ht) hu)
    · exact Res.wf_ok hu

theorem Env.padSpots_wf {f : FmtM} {size : Nat} {bypass : Bool} {lanes : List Nat} (hs : s.MemWf) : (e.padSpots s f size bypass lanes).2.MemWf := by
  unfold Env.padSpots
  refine foldl_snd_wf ?_ hs
  intro _ _ ht
  split
  · exact ht
  split
  · next hy => exact pair_wf (Env.spotsFrom_wf ht) hy
  · next hy => exact pair_wf (Env.spotsFrom_wf ht) hy

theorem State.quireWords_wf {ws : List Nat} {cached : Bool} (hs : s.MemWf) : (s.quireWords e ws cached).2.MemWf := State.coreWords_wf hs

theorem State.readWords_wf {cached : Bool} {ws l : List Nat} (hs : s.MemWf) : (State.readWords e cached ws l s).2.MemWf := by
  induction l generalizing s with
  | nil => exact hs
  | cons a l ih => exact ih (State.quireWords_wf hs)

theorem State.readKeys_wf {keys : List Nat} {cached : Bool} (hs : s.MemWf) : (s.readKeys e keys cached).2.MemWf := State.readWords_wf hs

theorem State.peerLoad_wf {sx : Bool} {keys : List Nat} {writes : List RegWrite} (hs : s.MemWf) : (s.peerLoad e sx keys writes).2.MemWf :=
  State.peerSend_wf (State.flushPeer_wf hs)

theorem State.forceCommit_wf {w : Nat} (hs : s.MemWf) : (s.forceCommit e w).MemWf := State.upd_wf (State.commit_wf (State.upd_wf hs))

theorem State.storeWord_wf {w entries : Nat} {l : List StoreRec} (hs : s.MemWf) : ResWf (s.storeWord e w entries l) := by
  unfold State.storeWord
  split
  · exact Res.wf_ok hs
  dsimp only
  split
  · split
    · exact Res.wf_error hs
    · exact Res.wf_ok (State.upd_wf (State.forceCommit_wf hs))
  · exact Res.wf_ok (State.upd_wf hs)

theorem State.storeWords_wf {entries : Nat} {l : List (Nat × List StoreRec)} {l' : List Nat} (hs : s.MemWf) :
    ResWf (State.storeWords e entries l l' s) := by
  induction l' generalizing s with
  | nil => exact Res.wf_ok hs
  | cons a l' ih =>
    rw [State.storeWords]
    split
    · next hx => exact Res.wf_error ((State.storeWord_wf hs).error hx)
    · next hx => exact ih ((State.storeWord_wf hs).ok hx)

theorem State.storeLanes_wf {onChip : Bool} {perWord : Nat} {eff : LaneSet} {l : List (Nat × List StoreRec)} (hs : s.MemWf) :
    ResWf (s.storeLanes e onChip perWord eff l) := by
  unfold State.storeLanes
  split
  · next hx => exact Res.wf_error ((State.storeWords_wf hs).error hx)
  · next hx => exact Res.wf_ok (State.upd_wf ((State.storeWords_wf hs).ok hx))

/-! ### Loads and stores -/

theorem State.countMisses_wf {n : Nat} (hs : s.MemWf) : (s.countMisses e n).MemWf := State.modCore_wf (State.bump_wf hs)

theorem State.loadSpots_wf {f : FmtM} {writes : Nat → List (W8 × Bool) → List RegWrite} {l : List Spot} (hs : s.MemWf) :
    (State.loadSpots e h f writes l s).2.2.MemWf := by
  induction l generalizing s with
  | nil => exact hs
  | cons a l ih =>
    rw [State.loadSpots]
    split
    · exact ih (State.peerLoad_wf hs)
    · exact ih (State.readKeys_wf hs)

theorem Env.loadVector_wf {f : FmtM} (hs : s.MemWf) : ResWf (e.loadVector s h f) := by
  unfold Env.loadVector
  dsimp only
  split
  · exact Res.wf_error hs
  · next hy => exact Res.wf_error ((Env.spots_wf hs).error hy)
  · next hy =>
    have ht := (Env.spots_wf hs).ok_snd hy
    split
    · exact Res.wf_error (Env.padSpots_wf ht)
    · exact Res.wf_ok (State.upd_wf (State.ite_wf (State.countMisses_wf (State.loadSpots_wf (Env.padSpots_wf ht)))
        (State.loadSpots_wf (Env.padSpots_wf ht))))

theorem Env.loadScalar_wf {f : FmtM} (hs : s.MemWf) : ResWf (e.loadScalar s h f) := by
  unfold Env.loadScalar
  dsimp only
  split
  · exact Res.wf_ok (State.upd_wf hs)
  split
  · split
    · next hz => exact Res.wf_ok (State.upd_wf (pair_wf (Env.padSpots_wf hs) hz))
    · next ha =>
      have ht := pair_wf (Env.padSpots_wf hs) ha
      split
      · exact Res.wf_error ht
      · exact Res.wf_ok (State.upd_wf (State.loadSpots_wf ht))
  split
  · next hz => exact Res.wf_error ((Env.spots_wf hs).error hz)
  · next hz =>
    have ht := (Env.spots_wf hs).ok_snd hz
    exact Res.wf_ok (State.upd_wf (State.loadSpots_wf (State.ite_wf (State.countMisses_wf ht) ht)))

theorem Env.storePlan_wf {f : FmtM} {all : LaneSet} {lanes : List Nat} (hs : s.MemWf) : Res.Wf Prod.snd (e.storePlan s f all lanes) := by
  unfold Env.storePlan
  split
  · next hx => exact Res.wf_error ((Env.spots_wf hs).error hx)
  · next hx =>
    have ht := (Env.spots_wf hs).ok_snd hx
    dsimp only
    split
    · exact Res.wf_error ht
    · exact Res.wf_ok ht

theorem Env.storeVector_wf {f : FmtM} (hs : s.MemWf) : ResWf (e.storeVector s h f) := by
  unfold Env.storeVector
  split
  · exact Res.wf_error hs
  · next hy => exact Res.wf_error ((Env.storePlan_wf hs).error hy)
  · next hy => exact State.storeLanes_wf ((Env.storePlan_wf hs).ok_snd hy)

theorem Env.storeScalar_wf {f : FmtM} (hs : s.MemWf) : ResWf (e.storeScalar s h f) := by
  unfold Env.storeScalar
  split
  · exact Res.wf_ok hs
  split
  · exact Res.wf_ok hs
  split
  · next hz => exact Res.wf_error ((Env.storePlan_wf hs).error hz)
  · next hz => exact State.storeLanes_wf ((Env.storePlan_wf hs).ok_snd hz)

theorem Env.roLanes_wf {f : FmtM} {l : List Nat} (hs : s.MemWf) : Res.Wf Prod.snd (e.roLanes h f l s) := by
  induction l generalizing s with
  | nil => exact Res.wf_ok hs
  | cons a l ih =>
    rw [Env.roLanes]
    dsimp only
    split
    · next hx => exact Res.wf_error (pair_wf (State.xlLane_wf hs) hx)
    · next hx =>
      have ht := pair_wf (State.xlLane_wf hs) hx
      split
      · exact Res.wf_error ht
      split
      · next hz => exact Res.wf_error ((ih (State.roRead_wf ht)).error hz)
      · next hz => exact Res.wf_ok ((ih (State.roRead_wf ht)).ok_snd hz)

theorem Env.roPad_wf {f : FmtM} {acc : List RegWrite × State} {l : Nat} (hs : acc.2.MemWf) : (e.roPad h f acc l).2.MemWf := by
  unfold Env.roPad
  dsimp only
  split
  · exact hs
  split
  · next hy => exact (Env.roLanes_wf hs).ok_snd hy
  · next hy => exact (Env.roLanes_wf hs).error_snd hy

theorem Env.loadRo_wf {f : FmtM} (hs : s.MemWf) : ResWf (e.loadRo s h f) := by
  unfold Env.loadRo
  dsimp only
  split
  · exact Res.wf_error hs
  split
  · next hy => exact Res.wf_error ((Env.roLanes_wf hs).error_snd hy)
  · next hz => exact Res.wf_error ((Env.roLanes_wf hs).error hz)
  · next hy => exact Res.wf_ok (State.upd_wf (foldl_snd_wf (fun _ _ ht => Env.roPad_wf ht) ((Env.roLanes_wf hs).ok_snd hy)))

theorem Env.pref_wf {f : FmtM} (hs : s.MemWf) : ResWf (e.pref s h f) := by
  unfold Env.pref
  dsimp only
  split
  · exact Res.wf_error hs
  refine Res.wf_ok (State.foldl_wf ?_ hs)
  intro _ _ ht
  split
  · exact ht
  split
  · next hz => exact pair_wf (State.xlLane_wf ht) hz
  · next hz =>
    have hv := pair_wf (State.xlLane_wf ht) hz
    exact State.ite_wf hv (State.foldl_wf (fun _ _ hu => State.fillSector_wf hu) hv)

theorem Env.namedLines_wf {f : FmtM} (hs : s.MemWf) : (e.namedLines s h f).2.MemWf := by
  unfold Env.namedLines
  dsimp only
  split
  · exact hs
  refine foldl_snd_wf ?_ hs
  intro _ _ ht
  split
  · exact ht
  split
  · next hz => exact pair_wf (State.xl_wf ht) hz
  · next hz => exact pair_wf (State.xl_wf ht) hz

theorem Env.maintain_wf {f : FmtM} {k : Option (List Nat) → State → Res State} (hs : s.MemWf) (hk : ∀ l s, s.MemWf → ResWf (k l s)) :
    ResWf (e.maintain s h f k) := by
  unfold Env.maintain
  split
  · exact Res.wf_ok hs
  split
  · exact Res.wf_error hs
  · exact hk _ _ (Env.namedLines_wf hs)

theorem State.dropClean_wf {c : Nat} {l : Option (List Nat)} (hs : s.MemWf) : (s.dropClean c l).MemWf := State.modCore_wf hs

theorem Env.cinv_wf {f : FmtM} (hs : s.MemWf) : ResWf (e.cinv s h f) :=
  Env.maintain_wf hs (fun _ _ ht => Res.wf_ok (State.ite_wf (State.modCore_wf ht) (State.dropClean_wf ht)))

theorem Env.cwb_wf {f : FmtM} (hs : s.MemWf) : ResWf (e.cwb s h f) := by
  unfold Env.cwb
  refine Env.maintain_wf hs ?_
  intro _ _ ht
  extract_lets _ t
  have ht : t.MemWf := State.recallCore_wf _ _ ht
  split
  · exact Res.wf_error ht
  split
  · exact Res.wf_ok (State.modCore_wf ht)
  · exact Res.wf_ok ht

theorem Env.ldacq_wf {f : FmtM} (hs : s.MemWf) : ResWf (e.ldacq s h f) := by
  unfold Env.ldacq
  split
  · next hx =>
    refine Res.wf_error ((?_ : ResWf _).error hx)
    split
    · exact Env.loadScalar_wf hs
    · exact Env.loadVector_wf hs
  · next hx =>
    refine Res.wf_ok ?_
    split
    · refine (?_ : ResWf _).ok hx
      split
      · exact Env.loadScalar_wf hs
      · exact Env.loadVector_wf hs
    refine State.upd_wf (State.acquire_wf ((?_ : ResWf _).ok hx))
    split
    · exact Env.loadScalar_wf hs
    · exact Env.loadVector_wf hs

theorem State.release_wf {core owner : Nat} {sc : Scope} {fence : Bool} (hs : s.MemWf) : (s.release core owner sc fence).MemWf :=
  State.ite_wf hs (State.placeToken_wf hs)

theorem Env.strel_wf {f : FmtM} (hs : s.MemWf) : ResWf (e.strel s h f) := by
  unfold Env.strel
  split
  · exact Res.wf_ok hs
  split
  · next hy => exact Res.wf_error ((Env.storePlan_wf hs).error hy)
  · next hy =>
    have ht := (Env.storePlan_wf hs).ok_snd hy
    exact State.storeLanes_wf (State.ite_wf (State.release_wf (State.commit_wf ht)) ht)

theorem execLd_wf {f : FmtM} (hs : s.MemWf) : OutWf (execLd h f s) := by
  unfold execLd
  refine State.perform_wf hs ?_
  intro _
  split
  · exact Res.wf_ok (State.upd_wf hs)
  · exact Env.loadVector_wf hs

theorem execSt_wf {f : FmtM} (hs : s.MemWf) : OutWf (execSt h f s) := by
  unfold execSt
  refine State.perform_wf hs ?_
  intro _
  split
  · exact Res.wf_ok hs
  · exact Env.storeVector_wf hs

theorem execLdro_wf {f : FmtM} (hs : s.MemWf) : OutWf (execLdro h f s) := by
  unfold execLdro
  refine State.perform_wf hs ?_
  intro _
  split
  · exact Res.wf_ok (State.upd_wf hs)
  · exact Env.loadRo_wf hs

theorem execPref_wf {f : FmtM} (hs : s.MemWf) : OutWf (execPref h f s) := State.perform_wf hs fun _ => Env.pref_wf hs
theorem execCinv_wf {f : FmtM} (hs : s.MemWf) : OutWf (execCinv h f s) := State.perform_wf hs fun _ => Env.cinv_wf hs
theorem execCwb_wf {f : FmtM} (hs : s.MemWf) : OutWf (execCwb h f s) := State.perform_wf hs fun _ => Env.cwb_wf hs
theorem execLds_wf {f : FmtM} (hs : s.MemWf) : OutWf (execLds h f s) := State.perform_wf hs fun _ => Env.loadScalar_wf hs
theorem execSts_wf {f : FmtM} (hs : s.MemWf) : OutWf (execSts h f s) := State.perform_wf hs fun _ => Env.storeScalar_wf hs
theorem execLdacq_wf {f : FmtM} (hs : s.MemWf) : OutWf (execLdacq h f s) := State.perform_wf hs fun _ => Env.ldacq_wf hs
theorem execStrel_wf {f : FmtM} (hs : s.MemWf) : OutWf (execStrel h f s) := State.perform_wf hs fun _ => Env.strel_wf hs

/-! ### Atomics -/

theorem State.sendAsq_wf {p : AtomPlan} {rel : Bool} {r : Nat × Nat × List AsqLane} (hs : s.MemWf) : (s.sendAsq e p rel r).MemWf := by
  unfold State.sendAsq
  dsimp only
  split
  · refine State.upd_wf (State.modCore_wf ?_)
    dsimp only [State.MemWf]
    exact State.fresh_wf hs
  refine State.modCore_wf ?_
  dsimp only [State.MemWf]
  exact State.fresh_wf hs

theorem State.sendAtomics_wf {p : AtomPlan} {sc : Scope} {lanes : List AsqLane} (hs : s.MemWf) : (s.sendAtomics e p sc lanes).MemWf := by
  unfold State.sendAtomics
  extract_lets t u _ v
  have ht : t.MemWf := State.commit_wf hs
  have hu : u.MemWf := State.ite_wf (State.release_wf ht) ht
  have hv : v.MemWf := State.foldl_wf (fun _ _ ht => State.sendAsq_wf ht) (State.accept_wf hu)
  exact State.ite_wf ht (State.ite_wf (State.upd_wf hv) hv)

theorem Env.atomLanes_wf {f : FmtM} {all : LaneSet} {lanes : List Nat} (hs : s.MemWf) : Res.Wf Prod.snd (e.atomLanes s f all lanes) := by
  unfold Env.atomLanes
  split
  · next hx => exact Res.wf_error ((Env.spots_wf hs).error hx)
  · next hx =>
    have ht := (Env.spots_wf hs).ok_snd hx
    dsimp only
    split
    · exact Res.wf_error ht
    · exact Res.wf_error ht
    · exact Res.wf_ok ht

theorem Env.atomic_wf {f : FmtM} {reply : Bool} (hs : s.MemWf) : ResWf (e.atomic s h f reply) := by
  unfold Env.atomic
  split
  · exact Res.wf_ok hs
  split
  · next hy => exact Res.wf_error ((Env.atomLanes_wf hs).error hy)
  · next hy => exact Res.wf_ok (State.sendAtomics_wf ((Env.atomLanes_wf hs).ok_snd hy))

theorem Env.atomicOnce_wf {f : FmtM} (hs : s.MemWf) : ResWf (e.atomicOnce s h f) := by
  unfold Env.atomicOnce
  refine Env.onceUniform_wf hs ?_
  split
  · exact Res.wf_ok hs
  split
  · next hy => exact Res.wf_error ((Env.atomLanes_wf hs).error hy)
  · next hy => exact Res.wf_ok (State.sendAtomics_wf ((Env.atomLanes_wf hs).ok_snd hy))

theorem Env.fence_wf {f : FmtM} (hs : s.MemWf) : ResWf (e.fence s h f) := by
  unfold Env.fence
  refine Env.onceUniform_wf hs ?_
  extract_lets _ _ t u
  have ht : t.MemWf := State.ite_wf hs (State.release_wf (State.commit_wf hs))
  have hu : u.MemWf := State.ite_wf ht (State.acquire_wf ht)
  split
  · exact Res.wf_ok (State.roClear_wf hs)
  split
  · exact Res.wf_ok (State.upd_wf hu)
  · exact Res.wf_ok hu

theorem execAtom_wf {f : FmtM} (hs : s.MemWf) : OutWf (execAtom h f s) := State.perform_wf hs fun _ => Env.atomic_wf hs
theorem execRed_wf {f : FmtM} (hs : s.MemWf) : OutWf (execRed h f s) := State.perform_wf hs fun _ => Env.atomic_wf hs
theorem execAtoms_wf {f : FmtM} (hs : s.MemWf) : OutWf (execAtoms h f s) := State.perform_wf hs fun _ => Env.atomicOnce_wf hs
theorem execFence_wf {f : FmtM} (hs : s.MemWf) : OutWf (execFence h f s) := State.perform_wf hs fun _ => Env.fence_wf hs

/-! ### Synchronisation -/

theorem Env.wordReady_wf {acc : Acc} {size : Nat} {p : Nat × Option Nat} (hs : s.MemWf) : Res.Wf Prod.snd (e.wordReady s acc size p) := by
  unfold Env.wordReady
  split
  · exact Res.wf_error hs
  · exact Res.wf_ok hs

theorem State.wordAt_wf {sp : Space} {a size : Nat} {acc : Acc} (hs : s.MemWf) : Res.Wf Prod.snd (s.wordAt e sp a size acc) := by
  unfold State.wordAt
  dsimp only
  split
  · split
    · exact Res.wf_error hs
    split
    · exact Res.wf_error hs
    split
    · next ha => exact Res.wf_error (pair_wf (State.xlLane_wf hs) ha)
    · next ha =>
      have ht := pair_wf (State.xlLane_wf hs) ha
      split
      · exact Res.wf_error ht
      · exact Env.wordReady_wf ht
  split
  · exact Res.wf_error hs
  split
  · exact Res.wf_error hs
  · exact Env.wordReady_wf hs

theorem State.track_wf {gid k : Nat} (hs : s.MemWf) : (s.track gid k).MemWf := by
  unfold State.track
  dsimp only
  split
  · exact State.modGath_wf hs
  · exact State.foldl_wf (fun _ _ ht => State.modQuire_wf ht) (State.modGath_wf hs)

theorem State.loseWaiters_wf {k : Nat} (hs : s.MemWf) : (s.loseWaiters k).MemWf := hs

theorem Env.barinit_wf {f : FmtE} (hs : s.MemWf) : ResWf (e.barinit s h f) := by
  unfold Env.barinit
  refine Env.onceUniform_wf hs ?_
  extract_lets a n track enrol
  split
  · exact Env.trapRes_wf hs
  split
  · exact Env.trapRes_wf hs
  split
  · next hx => exact Res.wf_error ((State.wordAt_wf hs).error hx)
  next hx =>
  have ht := (State.wordAt_wf hs).ok_snd hx
  extract_lets k t u v
  have hc : t.MemWf := State.commit_wf ht
  have hu : u.MemWf := State.ite_wf hc (State.markBarrier_wf (State.putHomeNum_wf (State.breakFor_wf (State.homeNum_wf hc))))
  have hv : v.MemWf := State.ite_wf hu (State.loseWaiters_wf (State.observed_wf hu))
  split
  · exact Env.trapRes_wf ht
  split
  · exact Res.wf_error hc
  · exact Res.wf_ok (State.accept_wf (State.ite_wf (State.track_wf hv) hv))

theorem Env.bararv_wf {f : FmtE} (hs : s.MemWf) : ResWf (e.bararv s h f) := by
  unfold Env.bararv
  refine Env.onceUniform_wf hs ?_
  dsimp only
  split
  · exact Env.trapRes_wf hs
  split
  · next hy => exact Res.wf_error ((State.wordAt_wf hs).error hy)
  · next hy => exact Res.wf_ok (State.sendAtomics_wf ((State.wordAt_wf hs).ok_snd hy))

theorem State.barrierPassed_wf {k : Nat} {sc : Scope} (hs : s.MemWf) : (s.barrierPassed e k sc).MemWf :=
  State.upd_wf (State.acquire_wf (State.observed_wf hs))

theorem Env.barwait_wf {f : FmtE} (hs : s.MemWf) : ResWf (e.barwait s h f) := by
  unfold Env.barwait
  refine Env.onceUniform_wf hs ?_
  dsimp only
  split
  · exact Env.trapRes_wf hs
  split
  · next hy => exact Res.wf_error ((State.wordAt_wf hs).error hy)
  · next hy =>
    have ht := (State.wordAt_wf hs).ok_snd hy
    split
    · exact Res.wf_ok (State.barrierPassed_wf ht)
    · exact Res.wf_ok (State.upd_wf ht)

theorem Env.bartry_wf {f : FmtE} (hs : s.MemWf) : ResWf (e.bartry s h f) := by
  unfold Env.bartry
  refine Env.onceUniform_wf hs ?_
  dsimp only
  split
  · exact Env.trapRes_wf hs
  split
  · next hy => exact Res.wf_error ((State.wordAt_wf hs).error hy)
  · next hy =>
    have ht := (State.wordAt_wf hs).ok_snd hy
    exact Res.wf_ok (State.upd_wf (State.ite_wf (State.barrierPassed_wf ht) ht))

theorem State.tryDone_wf {id core : Nat} {t : TryWait} {hit : Bool} (hs : s.MemWf) : (s.tryDone id core t hit).MemWf :=
  State.modQuire_wf (State.ite_wf hs (State.ite_wf (State.acquire_wf hs) (State.acquire_wf (State.observed_wf hs))))

theorem Env.tryPark_wf {t : TryWait} {limit : Nat} (hs : s.MemWf) : (e.tryPark s t limit).MemWf :=
  State.ite_wf (State.tryDone_wf hs) (State.ite_wf (State.tryDone_wf hs) (State.upd_wf hs))

theorem Env.trywait_wf {f : FmtE} (hs : s.MemWf) : ResWf (e.trywait s h f) := by
  unfold Env.trywait
  refine Env.onceUniform_wf hs ?_
  dsimp only
  split
  · split
    · exact Env.trapRes_wf hs
    split
    · exact Env.trapRes_wf hs
    · exact Res.wf_ok (Env.tryPark_wf hs)
  split
  · exact Env.trapRes_wf hs
  split
  · next hz => exact Res.wf_error ((State.wordAt_wf hs).error hz)
  · next hz => exact Res.wf_ok (Env.tryPark_wf ((State.wordAt_wf hs).ok_snd hz))

theorem Env.msync_wf {f : FmtE} (hs : s.MemWf) : ResWf (e.msync s h f) := by
  unfold Env.msync
  refine Env.onceUniform_wf hs ?_
  dsimp only
  split
  · exact Env.trapRes_wf hs
  split
  · exact Env.trapRes_wf hs
  split
  · exact Env.trapRes_wf hs
  split
  · exact Env.trapRes_wf hs
  split
  · exact Env.trapRes_wf hs
  · exact Res.wf_ok (State.wakeMsync_wf (State.modGath_wf (State.upd_wf (State.setGath_wf hs))))

theorem State.returned_wf {id : Nat} {ws : List RegWrite} (hs : s.MemWf) : (s.returned id ws).MemWf := State.modQuire_wf hs

theorem Env.attach_wf {f : FmtE} (hs : s.MemWf) : ResWf (e.attach s h f) := by
  unfold Env.attach
  refine Env.onceUniform_wf hs ?_
  dsimp only
  split
  · exact Env.trapRes_wf hs
  split
  · exact Env.trapRes_wf hs
  · exact Res.wf_ok (State.returned_wf (State.modGath_wf (State.accept_wf (State.commit_wf hs))))

theorem Env.detach_wf (hs : s.MemWf) : ResWf (e.detach s h) := Env.onceUniform_wf hs (Res.wf_ok (State.upd_wf (State.commit_wf hs)))

theorem Env.spawn_wf {f : FmtE} (hs : s.MemWf) : ResWf (e.spawn s h f) := by
  unfold Env.spawn
  dsimp only
  split
  · exact Res.wf_ok (State.ite_wf hs (State.commit_wf hs))
  split
  · exact Env.poison_wf hs
  split
  · exact Env.trapRes_wf hs
  split
  · exact Res.wf_error hs
  · next ha =>
    have ht := (Env.enterLanes_wf (State.commit_wf hs)).some ha
    exact Res.wf_ok (State.ite_wf (State.upd_wf (State.accept_wf ht)) (State.accept_wf ht))

theorem State.queues_wf {q : FMap Queue} (hs : s.MemWf) : State.MemWf { s with queues := q } := hs

theorem State.pushTry_wf {qk : Nat} {pkt : List W8} {sd : Opnd} (hs : s.MemWf) : TryWf OptWf (s.pushTry e qk pkt sd) := by
  unfold State.pushTry
  dsimp only
  split
  · exact tryWf_ok optWf_none hs
  split
  · next hx => exact tryWf_error (pair_wf (State.translate_wf hs) hx)
  next x _ hx =>
  have ht := State.homeNum_wf (k := x.pa) (n := 4) (pair_wf (State.translate_wf hs) hx)
  split
  · next hy => exact tryWf_error (pair_wf (State.translate_wf ht) hy)
  next hy =>
  have hu := pair_wf (State.translate_wf ht) hy
  split
  · exact tryWf_ok optWf_none hu
  refine tryWf_ok (optWf_some (State.upd_wf (State.returned_wf (State.modVol_wf (State.queues_wf ?_))))) (State.modVol_wf (State.queues_wf ?_)) <;>
    exact State.observed_wf (State.observed_wf (State.putHome_wf _ _
      (State.putHome_wf _ _ (State.breakFor_wf (State.breakFor_wf (State.accept_wf hu))))))

theorem Env.qpush_wf {f : FmtE} (hs : s.MemWf) : ResWf (e.qpush s h f) := by
  unfold Env.qpush
  refine Env.onceUniform_wf hs ?_
  extract_lets qn pv qk isOpen
  split
  · exact Env.trapRes_wf hs
  split
  · exact Env.trapRes_wf hs
  split
  · exact Env.trapRes_wf hs
  split
  · exact Res.wf_error hs
  split
  · next hx => exact Res.wf_error ((State.wordAt_wf hs).error hx)
  next p _ hx =>
  dsimp only
  have ht := (State.wordAt_wf hs).ok_snd hx
  split
  · exact Env.trapRes_wf (State.readKeys_wf ht)
  have hread := State.readKeys_wf (e := e) (keys := runKeys p.1 128) (cached := true) ht
  have hu := State.release_wf (core := e.g.pcore) (owner := e.id) (sc := .dev) (fence := false) (State.commit_wf (id := e.id) hread)
  split
  · next hy => exact Res.wf_error ((State.pushTry_wf hu).state hy)
  · next hy => exact Res.wf_ok (((State.pushTry_wf hu).ok hy).some rfl)
  · next hy => exact Res.wf_ok (State.upd_wf ((State.pushTry_wf hu).state hy))

theorem execBarinit_wf {f : FmtE} (hs : s.MemWf) : OutWf (execBarinit h f s) := State.perform_wf hs fun _ => Env.barinit_wf hs
theorem execBararv_wf {f : FmtE} (hs : s.MemWf) : OutWf (execBararv h f s) := State.perform_wf hs fun _ => Env.bararv_wf hs
theorem execBarwait_wf {f : FmtE} (hs : s.MemWf) : OutWf (execBarwait h f s) := State.perform_wf hs fun _ => Env.barwait_wf hs
theorem execBartry_wf {f : FmtE} (hs : s.MemWf) : OutWf (execBartry h f s) := State.perform_wf hs fun _ => Env.bartry_wf hs
theorem execTrywait_wf {f : FmtE} (hs : s.MemWf) : OutWf (execTrywait h f s) := State.perform_wf hs fun _ => Env.trywait_wf hs
theorem execMsync_wf {f : FmtE} (hs : s.MemWf) : OutWf (execMsync h f s) := State.perform_wf hs fun _ => Env.msync_wf hs
theorem execAttach_wf {f : FmtE} (hs : s.MemWf) : OutWf (execAttach h f s) := State.perform_wf hs fun _ => Env.attach_wf hs
theorem execDetach_wf {f : FmtE} (hs : s.MemWf) : OutWf (execDetach h f s) := State.perform_wf hs fun _ => Env.detach_wf hs
theorem execSpawn_wf {f : FmtE} (hs : s.MemWf) : OutWf (execSpawn h f s) := State.perform_wf hs fun _ => Env.spawn_wf hs
theorem execQpush_wf {f : FmtE} (hs : s.MemWf) : OutWf (execQpush h f s) := State.perform_wf hs fun _ => Env.qpush_wf hs

/-! ### The streamer -/

theorem Env.handleOp_wf {o : Opnd} {producer : Bool} {others : List (Val × Nat)} {k : Nat → Res State} (hs : s.MemWf)
    (hk : ∀ (x : Nat), ResWf (k x)) : ResWf (e.handleOp s h o producer others k) := by
  unfold Env.handleOp
  refine Env.onceUniform_wf hs ?_
  split
  · exact Res.wf_ok hs
  split
  · exact Env.trapRes_wf hs
  split
  · exact Env.trapRes_wf hs
  · exact hk _

theorem Env.checkVal_wf {bad : Bool} {code addr : Nat} {k : Res State} (hs : s.MemWf) (ht : ResWf k) : ResWf (e.checkVal s bad code addr k) := by
  unfold Env.checkVal
  split
  · exact Res.wf_error hs
  · exact ht

theorem Env.addrChecks_wf {dspad : Bool} {a len : Nat} {k : Res State} (hs : s.MemWf) (ht : ResWf k) : ResWf (e.addrChecks s dspad a len k) :=
  Env.checkVal_wf hs (Env.checkVal_wf hs (Env.checkVal_wf hs ht))

theorem State.queueXfer_wf {gid n : Nat} {kind : XferKind} {bytes : Nat} (hs : s.MemWf) : (s.queueXfer e gid n kind bytes).MemWf := by
  unfold State.queueXfer
  dsimp only
  split
  · refine State.xferStart_wf ?_
    dsimp only [State.MemWf]
    exact State.fresh_wf hs
  dsimp only [State.MemWf]
  exact State.fresh_wf hs

theorem Env.issue_wf {n : Nat} {kind : XferKind} {bytes : Nat} (hs : s.MemWf) : ResWf (e.issue s n kind bytes) := by
  unfold Env.issue
  split
  · exact Env.trapRes_wf hs
  · exact Res.wf_ok (State.accept_wf (State.queueXfer_wf (State.commit_wf hs)))

theorem Env.copy_wf {f : FmtE} {out : Bool} (hs : s.MemWf) : ResWf (e.copy s h f out) :=
  Env.handleOp_wf hs (fun _ => Env.checkVal_wf hs (Env.addrChecks_wf hs (Env.issue_wf hs)))

theorem Env.copy2d_wf {f : FmtE} (hs : s.MemWf) : ResWf (e.copy2d s h f) :=
  Env.handleOp_wf hs (fun _ => Env.checkVal_wf hs (Env.checkVal_wf hs (Env.addrChecks_wf hs (Env.issue_wf hs))))

theorem Env.copyTensor_wf {f : FmtE} (hs : s.MemWf) : ResWf (e.copyTensor s h f) :=
  Env.handleOp_wf hs (fun _ => Env.checkVal_wf hs (Env.checkVal_wf hs (Env.issue_wf hs)))

theorem Env.copyMulti_wf {f : FmtE} (hs : s.MemWf) : ResWf (e.copyMulti s h f) := by
  unfold Env.copyMulti
  refine Env.handleOp_wf hs ?_
  intro _
  refine Env.checkVal_wf hs (Env.checkVal_wf hs (Env.addrChecks_wf hs ?_))
  split
  · exact Env.trapRes_wf hs
  refine Res.wf_ok (State.accept_wf (State.foldl_wf ?_ (State.fresh_wf (State.commit_wf hs))))
  intro _ _ ht
  split
  · exact ht
  · exact State.queueXfer_wf ht

theorem Env.copyFill_wf {f : FmtE} (hs : s.MemWf) : ResWf (e.copyFill s h f) := Env.handleOp_wf hs (fun _ => Env.checkVal_wf hs (Env.issue_wf hs))

theorem Env.hset_wf {f : FmtE} (hs : s.MemWf) : ResWf (e.hset s h f) := by
  unfold Env.hset
  refine Env.handleOp_wf hs ?_
  intro _
  refine Env.checkVal_wf hs (Env.checkVal_wf hs ?_)
  split
  · exact Env.trapRes_wf hs
  · exact Res.wf_ok (State.accept_wf (State.modHandle_wf (State.commit_wf hs)))

theorem Env.handleReached_wf {n : Nat} {full : Bool} (hs : s.MemWf) : ResWf (e.handleReached s n full) := by
  unfold Env.handleReached
  dsimp only
  split
  · exact Res.wf_error hs
  · exact Res.wf_ok (State.ite_wf (State.acquire_wf hs) hs)

theorem Env.hwait_wf {f : FmtE} (hs : s.MemWf) : ResWf (e.hwait s h f) := by
  unfold Env.hwait
  refine Env.handleOp_wf hs ?_
  intro _
  split
  · split
    · exact Env.handleReached_wf hs
    · exact Res.wf_ok (State.upd_wf hs)
  split
  · exact Env.handleReached_wf hs
  · exact Res.wf_ok (State.upd_wf hs)

theorem Env.hdrain_wf {f : FmtE} (hs : s.MemWf) : ResWf (e.hdrain s h f) := by
  unfold Env.hdrain
  refine Env.handleOp_wf hs ?_
  intro _
  split
  · exact Env.trapRes_wf hs
  · exact Res.wf_ok (State.accept_wf (State.modHandle_wf (State.commit_wf hs)))

theorem State.freeHandle_wf {gid n : Nat} (hs : s.MemWf) : (s.freeHandle gid n).MemWf := by
  unfold State.freeHandle
  refine State.startHeld_wf ?_
  dsimp only [State.MemWf]
  exact State.modHandle_wf hs

theorem Env.hfree_wf {f : FmtE} (hs : s.MemWf) : ResWf (e.hfree s h f) := by
  unfold Env.hfree
  refine Env.handleOp_wf hs ?_
  intro _
  split
  · exact Env.trapRes_wf hs
  · exact Res.wf_ok (State.accept_wf (State.freeHandle_wf (State.commit_wf hs)))

theorem Env.hstat_wf {f : FmtE} (hs : s.MemWf) : ResWf (e.hstat s h f) :=
  Env.handleOp_wf hs (fun _ => Res.wf_ok (State.upd_wf (State.ite_wf (State.acquire_wf hs) hs)))

theorem execCpy_wf {f : FmtE} (hs : s.MemWf) : OutWf (execCpy h f s) := State.perform_wf hs fun _ => Env.copy_wf hs
theorem execCpy2d_wf {f : FmtE} (hs : s.MemWf) : OutWf (execCpy2d h f s) := State.perform_wf hs fun _ => Env.copy2d_wf hs
theorem execCpyt_wf {f : FmtE} (hs : s.MemWf) : OutWf (execCpyt h f s) := State.perform_wf hs fun _ => Env.copyTensor_wf hs
theorem execCpymc_wf {f : FmtE} (hs : s.MemWf) : OutWf (execCpymc h f s) := State.perform_wf hs fun _ => Env.copyMulti_wf hs
theorem execCpyout_wf {f : FmtE} (hs : s.MemWf) : OutWf (execCpyout h f s) := State.perform_wf hs fun _ => Env.copy_wf hs
theorem execCpyfill_wf {f : FmtE} (hs : s.MemWf) : OutWf (execCpyfill h f s) := State.perform_wf hs fun _ => Env.copyFill_wf hs
theorem execHset_wf {f : FmtE} (hs : s.MemWf) : OutWf (execHset h f s) := State.perform_wf hs fun _ => Env.hset_wf hs
theorem execHwait_wf {f : FmtE} (hs : s.MemWf) : OutWf (execHwait h f s) := State.perform_wf hs fun _ => Env.hwait_wf hs
theorem execHdrain_wf {f : FmtE} (hs : s.MemWf) : OutWf (execHdrain h f s) := State.perform_wf hs fun _ => Env.hdrain_wf hs
theorem execHfree_wf {f : FmtE} (hs : s.MemWf) : OutWf (execHfree h f s) := State.perform_wf hs fun _ => Env.hfree_wf hs
theorem execHstat_wf {f : FmtE} (hs : s.MemWf) : OutWf (execHstat h f s) := State.perform_wf hs fun _ => Env.hstat_wf hs

/-! ### The matrix unit -/

theorem State.operandPeer_wf {pa n : Nat} (hs : s.MemWf) : (s.operandPeer e pa n).2.MemWf := by
  unfold State.operandPeer
  split
  · exact hs
  dsimp only
  split
  · exact hs
  split
  · exact hs
  · exact State.peerSend_wf (State.flushPeer_wf hs)

theorem State.operandBytes_wf {far : Bool} {va n : Nat} (hs : s.MemWf) : (s.operandBytes e far va n).2.MemWf := by
  unfold State.operandBytes
  dsimp only
  split
  · next hx => exact pair_wf (State.xlLane_wf hs) hx
  · next hx =>
    have ht := pair_wf (State.xlLane_wf hs) hx
    split
    · split
      · exact State.operandPeer_wf ht
      · exact ht
    · exact State.readKeys_wf ht

theorem State.rowElem_wf {far : Bool} {code va c : Nat} (hs : s.MemWf) : (s.rowElem e far code va c).2.MemWf := by
  unfold State.rowElem
  dsimp only
  split
  · next hx => exact pair_wf (State.operandBytes_wf hs) hx
  · next hx => exact pair_wf (State.operandBytes_wf hs) hx

theorem State.planeElem_wf {far signed : Bool} {b j0 va c : Nat} (hs : s.MemWf) : (s.planeElem e far signed b j0 va c).2.MemWf := by
  unfold State.planeElem
  extract_lets step r
  have hr : r.2.MemWf := by
    refine foldl_snd_wf (fun _ _ ht => ?_) hs
    unfold step
    split
    · exact ht
    split
    · next hx => exact pair_wf (State.operandBytes_wf ht) hx
    · next hx => exact pair_wf (State.operandBytes_wf ht) hx
  clear_value r
  split
  · exact hr
  · exact hr

theorem State.operandElem_wf {f : FmtE} {far : Bool} {code base : Nat} {stride : Int} {along : Bool} {vector kk : Nat} (hs : s.MemWf) :
    (s.operandElem e f far code base stride along vector kk).2.MemWf := by
  unfold State.operandElem
  split
  · exact State.planeElem_wf hs
  split
  · exact State.rowElem_wf hs
  · exact State.rowElem_wf hs

theorem Env.matrixOp_wf {k : Res State} (hs : s.MemWf) (ht : ResWf k) : ResWf (e.matrixOp s h k) := by
  unfold Env.matrixOp
  dsimp only
  split
  · exact Res.wf_ok hs
  split
  · exact Env.trapRes_wf hs
  split
  · exact Env.trapRes_wf hs
  · exact ht

theorem Env.matrixChecks_wf {addrs others : List Val} {bases scales : List Nat} {strides : List Int} {k : Res State} (hs : s.MemWf) (hk : ResWf k) :
    ResWf (e.matrixChecks s addrs others bases scales strides k) := by
  unfold Env.matrixChecks
  extract_lets detail
  split
  · exact Env.trapRes_wf hs
  split
  · exact Res.wf_error hs
  · exact Env.trapRes_wf hs
  · exact Res.wf_error hs
  · exact hk

theorem State.takeJob_wf {i : Instr} {req : Nat} {fl : Fl} {log : List Mel} {stores : List (Nat × List W8)} (hs : s.MemWf) :
    (s.takeJob e i req fl log stores).MemWf :=
  hs

theorem State.queueMatrix_wf {i : Instr} {o : Opnd} {n : Nat} {t : Tile} {log : List Mel} (hs : s.MemWf) : (s.queueMatrix e i o n t log).MemWf :=
  State.upd_wf (State.takeJob_wf (State.fresh_wf hs))

theorem State.dropHeld_wf (hs : s.MemWf) : (s.dropHeld e).MemWf := hs

theorem Reads.elem_wf {r : Reads} {read : State → Except Halt Mel × State} (hs : r.s.MemWf) (hk : ∀ (t : State), t.MemWf → (read t).2.MemWf) :
    (r.elem read).2.s.MemWf := by
  unfold Reads.elem
  split
  · split
    · next hy => exact pair_wf (hk _ hs) hy
    · next hy => exact pair_wf (hk _ hs) hy
  dsimp only
  split
  · split
    · exact hs
    · exact State.bump_wf hs
  split
  · exact hs
  · exact State.bump_wf hs

theorem readList_wf {read : Nat → Reads → Except Halt Mel × Reads} {l : List Nat} {x : Reads}
    (hk : ∀ (x : Nat) (r : Reads), r.s.MemWf → (read x r).2.s.MemWf) (hs : x.s.MemWf) : (readList read l x).2.s.MemWf := by
  induction l generalizing x with
  | nil => exact hs
  | cons a l ih =>
    rw [readList]
    split
    · next hx => exact pairReads_wf (hk _ _ hs) hx
    · next hx =>
      have ht := pairReads_wf (hk _ _ hs) hx
      split
      · next hy => exact pairReads_wf (ih ht) hy
      · next hy => exact pairReads_wf (ih ht) hy

theorem readB_wf {f : FmtE} {x : MmaPlan} {r : Reads} (hs : r.s.MemWf) : (readB e f x r).2.s.MemWf := by
  unfold readB
  refine foldl_reads_wf (fun _ _ ht => ?_) hs
  split
  · exact ht
  split
  · next hx => exact pairReads_wf (readList_wf (fun _ _ hu => Reads.elem_wf hu fun _ hv => State.operandElem_wf hv) ht) hx
  next hx =>
  have hw := pairReads_wf (readList_wf (fun _ _ hu => Reads.elem_wf hu fun _ hv => State.operandElem_wf hv) ht) hx
  split
  · next hy => exact pairReads_wf (readList_wf (fun _ _ hu => Reads.elem_wf hu fun _ hv => State.operandBytes_wf hv) hw) hy
  · next hy => exact pairReads_wf (readList_wf (fun _ _ hu => Reads.elem_wf hu fun _ hv => State.operandBytes_wf hv) hw) hy

theorem readA_wf {f : FmtE} {x : MmaPlan} {i : Nat} {r : Reads} (hs : r.s.MemWf) : (readA e f x i r).2.s.MemWf := by
  unfold readA
  extract_lets row
  have hrow : row.2.s.MemWf := by
    unfold row
    split
    · exact hs
    · exact readList_wf (fun _ _ ht => Reads.elem_wf ht fun _ hu => State.operandElem_wf hu) hs
  clear_value row
  split
  · exact hrow
  split
  · next hy => exact pairReads_wf (readList_wf (fun _ _ ht => Reads.elem_wf ht fun _ hu => State.operandBytes_wf hu) hrow) hy
  · next hy => exact pairReads_wf (readList_wf (fun _ _ ht => Reads.elem_wf ht fun _ hu => State.operandBytes_wf hu) hrow) hy

theorem mmaRows_wf {f : FmtE} {x : MmaPlan} {b : List (List Mel) × List (List Mel)} {l : List Nat} {y : Reads} (hs : y.s.MemWf) :
    (mmaRows e f x b l y).2.s.MemWf := by
  induction l generalizing y with
  | nil => exact hs
  | cons a l ih =>
    rw [mmaRows]
    split
    · next hx => exact pairReads_wf (readA_wf hs) hx
    · next hx => exact ih (pairReads_wf (readA_wf hs) hx)

theorem mmaCalc_wf {f : FmtE} {x : MmaPlan} {r : Reads} (hs : r.s.MemWf) : (mmaCalc e f x r).2.2.s.MemWf := by
  unfold mmaCalc
  dsimp only
  split
  · next hx => exact pairReads_wf (readB_wf hs) hx
  · next hx => exact mmaRows_wf (pairReads_wf (readB_wf hs) hx)

theorem Env.matrixRun_wf {i : Instr} {o : Opnd} {n : Nat} {tile : Reads → Except Halt Tile × Reads} (hs : s.MemWf)
    (hk : ∀ r, r.s.MemWf → (tile r).2.s.MemWf) : ResWf (e.matrixRun s i o n tile) := by
  have htile := hk { s := s.dropHeld e, old := [], landing := false, log := [] } (State.dropHeld_wf (e := e) hs)
  unfold Env.matrixRun
  split
  · next hx => exact Res.wf_error (pairReads_wf htile hx)
  · next hx => exact Res.wf_ok (State.queueMatrix_wf (pairReads_wf htile hx))

theorem State.keepRows_wf {fromRegs : Bool} {ws : List RegWrite} {fl : Fl} {r : Nat} (hs : s.MemWf) : (s.keepRows e fromRegs ws fl r).MemWf :=
  State.ite_wf hs (State.upd_wf hs)

theorem Env.mmaRun_wf {i : Instr} {f : FmtE} {x : MmaPlan} (hs : s.MemWf) : ResWf (e.mmaRun s i h f x) := by
  unfold Env.mmaRun
  extract_lets _ _ _ t u v _ w
  have ht : t.2.2.s.MemWf := mmaCalc_wf (State.dropHeld_wf hs)
  have hu : u.MemWf := ht
  have hv : v.MemWf := State.queueMatrix_wf hu
  have hw : w.MemWf := State.ite_wf hv hv
  split
  · exact Res.wf_error (State.keepRows_wf hu)
  · exact Res.wf_error hu
  · exact Res.wf_error hu
  · exact Res.wf_ok (State.upd_wf hw)

theorem Env.mma_wf {f : FmtE} (hs : s.MemWf) : ResWf (e.mma s h f) := by
  unfold Env.mma
  split
  · exact Env.trapRes_wf hs
  · exact Env.matrixOp_wf hs (Env.matrixChecks_wf hs (Env.mmaRun_wf hs))

theorem Env.mmas_wf {f : FmtE} (hs : s.MemWf) : ResWf (e.mmas s h f) := by
  unfold Env.mmas
  split
  · exact Env.trapRes_wf hs
  · exact Env.matrixOp_wf hs (Env.matrixChecks_wf hs (Env.mmaRun_wf hs))

theorem Env.mmar_wf {f : FmtE} (hs : s.MemWf) : ResWf (e.mmar s h f) := by
  unfold Env.mmar
  split
  · exact Env.trapRes_wf hs
  · exact Env.matrixOp_wf hs (Env.matrixChecks_wf hs (Env.mmaRun_wf hs))

theorem mldcCalc_wf {f : FmtE} {r : Reads} (hs : r.s.MemWf) : (mldcCalc e h f r).2.s.MemWf := by
  unfold mldcCalc
  dsimp only
  split
  · next hx =>
    refine pairReads_wf ?_ hx
    refine readList_wf ?_ hs
    intro _ _ ht
    refine Reads.elem_wf ht ?_
    intro _ hu
    split
    · next hy => exact pair_wf (State.rowElem_wf hu) hy
    · exact State.rowElem_wf hu
  · next hx =>
    refine pairReads_wf ?_ hx
    refine readList_wf ?_ hs
    intro _ _ ht
    refine Reads.elem_wf ht ?_
    intro _ hu
    split
    · next hy => exact pair_wf (State.rowElem_wf hu) hy
    · exact State.rowElem_wf hu

theorem Env.mldc_wf {f : FmtE} (hs : s.MemWf) : ResWf (e.mldc s h f) := by
  unfold Env.mldc
  refine Env.matrixOp_wf hs (Env.matrixChecks_wf hs ?_)
  split
  · exact Res.wf_error hs
  · exact Env.matrixRun_wf hs (fun _ ht => mldcCalc_wf ht)

theorem State.tilePlaces_wf {l : List Nat} (hs : s.MemWf) : (s.tilePlaces e l).2.MemWf := by
  induction l generalizing s with
  | nil => exact hs
  | cons a l ih =>
    rw [State.tilePlaces]
    split
    · next hx => exact pair_wf (State.xlLane_wf hs) hx
    · next hx =>
      have ht := pair_wf (State.xlLane_wf hs) hx
      split
      · next hy => exact pair_wf (ih ht) hy
      · next hy => exact pair_wf (ih ht) hy

theorem State.tileWrite_wf {c vid : Nat} {x : Nat × List W8} (hs : s.MemWf) : (s.tileWrite c vid x).MemWf := by
  unfold State.tileWrite
  extract_lets t
  have ht : t.MemWf := State.breakFor_wf hs
  exact State.ite_wf (State.modCore_wf (State.peerSend_wf (State.flushPeer_wf ht))) (State.observed_wf (State.engineWrite_wf ht))

theorem Env.mstc_wf {f : FmtE} (hs : s.MemWf) : ResWf (e.mstc s h f) := by
  unfold Env.mstc
  refine Env.matrixOp_wf hs (Env.matrixChecks_wf hs ?_)
  extract_lets t
  have ht : t.MemWf := State.dropHeld_wf hs
  split
  · exact Res.wf_error ht
  · next hy => exact Res.wf_error (pair_wf (State.tilePlaces_wf ht) hy)
  · next hy =>
    have hu := pair_wf (State.tilePlaces_wf ht) hy
    split
    · exact Env.poison_wf hu
    · exact Res.wf_ok (State.upd_wf (State.takeJob_wf (State.fresh_wf (State.accept_wf (State.commit_wf hu)))))

theorem Env.mzero_wf {f : FmtE} (hs : s.MemWf) : ResWf (e.mzero s h f) := Env.matrixOp_wf hs (Env.matrixRun_wf hs (fun _ ht => ht))

theorem mactCalc_wf {f : FmtE} {r : Reads} (hs : r.s.MemWf) : (mactCalc e h f r).2.s.MemWf := by
  unfold mactCalc
  dsimp only
  split
  · next hx =>
    refine pairReads_wf ?_ hx
    split
    · exact hs
    · exact readList_wf (fun _ _ ht => Reads.elem_wf ht (fun _ hu => State.operandBytes_wf hu)) hs
  · next hx =>
    refine pairReads_wf ?_ hx
    split
    · exact hs
    · exact readList_wf (fun _ _ ht => Reads.elem_wf ht (fun _ hu => State.operandBytes_wf hu)) hs

theorem Env.mact_wf {f : FmtE} (hs : s.MemWf) : ResWf (e.mact s h f) := by
  unfold Env.mact
  refine Env.matrixOp_wf hs (Env.matrixChecks_wf hs ?_)
  split
  · exact Res.wf_error hs
  · exact Env.matrixRun_wf hs (fun _ ht => mactCalc_wf ht)

theorem State.landTile_wf {j : MatrixJob} (hs : s.MemWf) : (s.landTile j).2.MemWf := by
  unfold State.landTile
  split
  · exact hs
  dsimp only
  split
  · split
    · exact hs
    split
    · exact hs
    · exact hs
  · split
    · exact hs
    split
    · exact hs
    · exact hs
  · split
    · exact hs
    split
    · exact hs
    · exact hs
  · split
    · exact hs
    · exact hs
  · split
    · exact hs
    · exact hs
  · exact hs

theorem execMma_wf {f : FmtE} (hs : s.MemWf) : OutWf (execMma h f s) := State.perform_wf hs fun _ => Env.mma_wf hs
theorem execMmas_wf {f : FmtE} (hs : s.MemWf) : OutWf (execMmas h f s) := State.perform_wf hs fun _ => Env.mmas_wf hs
theorem execMmar_wf {f : FmtE} (hs : s.MemWf) : OutWf (execMmar h f s) := State.perform_wf hs fun _ => Env.mmar_wf hs
theorem execMldc_wf {f : FmtE} (hs : s.MemWf) : OutWf (execMldc h f s) := State.perform_wf hs fun _ => Env.mldc_wf hs
theorem execMstc_wf {f : FmtE} (hs : s.MemWf) : OutWf (execMstc h f s) := State.perform_wf hs fun _ => Env.mstc_wf hs
theorem execMzero_wf {f : FmtE} (hs : s.MemWf) : OutWf (execMzero h f s) := State.perform_wf hs fun _ => Env.mzero_wf hs
theorem execMact_wf {f : FmtE} (hs : s.MemWf) : OutWf (execMact h f s) := State.perform_wf hs fun _ => Env.mact_wf hs

/-! ### Sampling -/

theorem andThen_wf {α β : Type} {r : Except Halt α × State} {k : α → State → Except Halt β × State} (hs : r.2.MemWf)
    (hk : ∀ (x : α) (t : State), t.MemWf → (k x t).2.MemWf) : (andThen r k).2.MemWf := by
  unfold andThen
  split
  · exact hs
  · exact hk _ _ hs

theorem eachOf_wf {α β : Type} {f : α → State → Except Halt β × State} {l : List α} (hk : ∀ (x : α) (t : State), t.MemWf → (f x t).2.MemWf)
    (hs : s.MemWf) : (eachOf f l s).2.MemWf := by
  induction l generalizing s with
  | nil => exact hs
  | cons a l ih => exact andThen_wf (hk _ _ hs) (fun _ _ ht => andThen_wf (ih ht) (fun _ _ hu => hu))

theorem eachLane_wf {α β : Type} {laneOf : α → Nat} {f : α → State → Except Halt β × State} {l : List α}
    (hf : ∀ a s, s.MemWf → (f a s).2.MemWf) (hs : s.MemWf) : (eachLane laneOf f l s).2.MemWf := by
  have hall := foldl_keeps (fun p : List β × List (Nat × Halt) × State => p.2.2.MemWf)
    (fun acc a => match f a acc.2.2 with
      | (.ok b, s) => (acc.1 ++ [b], acc.2.1, s)
      | (.error k, s) => (acc.1, acc.2.1 ++ [(laneOf a, k)], s)) ?_ l (b := ([], [], s)) hs
  · unfold eachLane
    dsimp only
    split <;> exact hall
  · intro p a hp
    split
    · next hx => exact pair_wf (hf _ _ hp) hx
    · next hx => exact pair_wf (hf _ _ hp) hx

theorem stepRes_ok_wf {t : State} (hs : s.MemWf) : ResWf (stepRes (.ok s, t)) := Res.wf_ok hs
theorem stepRes_error_wf {x : Halt} (hs : s.MemWf) : ResWf (stepRes (.error x, s)) := Res.wf_error hs

theorem stepRes_andThen_wf {α : Type} {r : Except Halt α × State} {k : α → State → Except Halt State × State} (hr : r.2.MemWf)
    (hk : ∀ a s, s.MemWf → ResWf (stepRes (k a s))) : ResWf (stepRes (andThen r k)) := by
  unfold andThen
  split
  · exact stepRes_error_wf hr
  · exact hk _ _ hr

theorem State.laneAt_wf {α : Type} {lane va : Nat} {acc : Acc} {k : Xlated → State → Except Halt α × State} (hs : s.MemWf)
    (hk : ∀ (x : Xlated) (t : State), t.MemWf → (k x t).2.MemWf) : (s.laneAt e lane va acc k).2.MemWf := by
  unfold State.laneAt
  dsimp only
  split
  · exact hs
  split
  · next hy => exact pair_wf (State.xlLane_wf hs) hy
  · next hz => exact pair_wf (State.xlLane_wf hs) hz
  · next hy =>
    have ht := pair_wf (State.xlLane_wf hs) hy
    split
    · exact ht
    · exact hk _ _ ht

theorem State.roAt_wf {lane va n : Nat} (hs : s.MemWf) : (s.roAt e lane va n).2.MemWf := State.laneAt_wf hs (fun _ _ ht => State.roRead_wf ht)

theorem State.loadAt_wf {lane va n : Nat} (hs : s.MemWf) : (s.loadAt e lane va n).2.MemWf := by
  unfold State.loadAt
  refine State.laneAt_wf hs ?_
  intro _ _ ht
  split
  · exact ht
  · exact State.readKeys_wf ht

theorem State.numAt_wf {lane va n : Nat} (hs : s.MemWf) : (s.numAt e lane va n).2.MemWf := by
  unfold State.numAt
  dsimp only
  split
  · exact andThen_wf (State.loadAt_wf hs) (fun _ _ ht => ht)
  · exact andThen_wf (eachOf_wf (fun _ _ ht => State.loadAt_wf ht) hs) (fun _ _ ht => ht)

theorem Env.records_wf {align : Nat} {l : List RecAt} (hs : s.MemWf) : (e.records s align l).2.MemWf := by
  unfold Env.records
  dsimp only
  split
  · exact hs
  refine andThen_wf (eachLane_wf (fun _ _ ht => andThen_wf (State.roAt_wf ht) (fun _ _ hu => hu)) hs) ?_
  intro _ _ ht
  split
  · exact ht
  · exact ht

theorem Env.padRecords_wf {align : Nat} {l : List RecAt} (hs : s.MemWf) : (e.padRecords s align l).2.MemWf := by
  unfold Env.padRecords
  refine foldl_snd_wf ?_ hs
  intro _ _ ht
  split
  · next hx => exact pair_wf (Env.records_wf ht) hx
  · exact ht

theorem Env.readRecords_wf {α : Type} {align : Nat} {l : List RecAt} {parse : List W8 → Except Nat α} (hs : s.MemWf) :
    (e.readRecords s align l parse).2.MemWf :=
  andThen_wf (Env.records_wf hs) (fun _ _ ht => Env.padRecords_wf ht)

theorem State.alsoMaps_wf {names : List Nat} (hs : s.MemWf) : OptWf (s.alsoMaps e names) := State.mapNames_wf (State.upd_wf hs)
theorem State.alsoWrites_wf {names : List Nat} (hs : s.MemWf) : (s.alsoWrites e names).MemWf := OptWf.getD (State.alsoMaps_wf hs) hs

theorem State.engineReturn_wf {d : Opnd} {n : Nat} {padN : Nat → Nat} {rs : List (Nat × List (W32 × Bool))} (hs : s.MemWf) :
    (s.engineReturn e h d n padN rs).MemWf :=
  State.upd_wf (State.alsoWrites_wf hs)

theorem State.texel_wf {lane : Nat} {t : Tex} {j x y z : Nat} (hs : s.MemWf) : (s.texel e lane t j x y z).2.MemWf :=
  andThen_wf (State.roAt_wf hs) (fun _ _ ht => ht)

theorem State.corner_wf {lane : Nat} {t : Tex} {sm : Sampler} {j layer : Nat} {axes : List Axis} {c : Nat} (hs : s.MemWf) :
    (s.corner e lane t sm j layer axes c).2.MemWf := by
  unfold State.corner
  dsimp only
  split
  · exact hs
  · exact andThen_wf (State.texel_wf hs) (fun _ _ ht => ht)

theorem State.footprint_wf {lane : Nat} {t : Tex} {sm : Sampler} {linear : Bool} {j layer : Nat} {u : List Num} (hs : s.MemWf) :
    (s.footprint e lane t sm linear j layer u).2.MemWf :=
  eachOf_wf (fun _ _ ht => State.corner_wf ht) hs

theorem State.texLane_wf {lane : Nat} {x : Sampled} (hs : s.MemWf) : (s.texLane e lane x).2.MemWf := by
  unfold State.texLane
  refine andThen_wf (andThen_wf (State.footprint_wf hs) (fun _ _ ht => ht)) ?_
  intro _ _ ht
  split
  · exact ht
  · exact andThen_wf (andThen_wf (State.footprint_wf ht) (fun _ _ hu => hu)) (fun _ _ hu => hu)

theorem Env.texPlan_wf {f : FmtE} {gath : Bool} {lanes : List Nat} (hs : s.MemWf) : (e.texPlan s f gath lanes).2.MemWf := by
  unfold Env.texPlan
  split
  · exact hs
  refine andThen_wf (Env.readRecords_wf hs) ?_
  intro _ _ ht
  refine andThen_wf (Env.readRecords_wf ht) ?_
  intro _ _ hu
  dsimp only
  split
  · exact hu
  · exact hu

theorem Env.tex_wf {f : FmtE} (hs : s.MemWf) : ResWf (e.tex s h f) :=
  stepRes_andThen_wf (Env.texPlan_wf hs) (fun _ _ ht => stepRes_andThen_wf
    (eachLane_wf (fun _ _ hu => andThen_wf (State.texLane_wf hu) (fun _ _ hv => hv)) ht) (fun _ _ hu => stepRes_ok_wf (State.engineReturn_wf hu)))

theorem Env.tgath_wf {f : FmtE} (hs : s.MemWf) : ResWf (e.tgath s h f) :=
  stepRes_andThen_wf (Env.texPlan_wf hs) (fun _ _ ht => stepRes_andThen_wf
    (eachLane_wf (fun _ _ hu => andThen_wf (State.footprint_wf hu) (fun _ _ hv => hv)) ht) (fun _ _ hu => stepRes_ok_wf (State.engineReturn_wf hu)))

theorem Env.tld_wf {f : FmtE} (hs : s.MemWf) : ResWf (e.tld s h f) := by
  unfold Env.tld
  dsimp only
  split
  · exact Res.wf_error hs
  refine stepRes_andThen_wf (Env.readRecords_wf hs) ?_
  intro _ _ ht
  refine stepRes_andThen_wf (eachLane_wf ?_ ht) (fun _ _ hu => stepRes_ok_wf (State.engineReturn_wf hu))
  intro _ _ hu
  split
  · exact andThen_wf (State.texel_wf hu) (fun _ _ hv => hv)
  · exact hu

theorem Env.tqry_wf {f : FmtE} (hs : s.MemWf) : ResWf (e.tqry s h f) := by
  unfold Env.tqry
  dsimp only
  split
  · exact Res.wf_error hs
  · exact stepRes_andThen_wf (Env.readRecords_wf hs) (fun _ _ ht => stepRes_ok_wf (State.engineReturn_wf ht))

theorem State.gridFeatures_wf {lane : Nat} {g : Grid} {xs : List Num} (hs : s.MemWf) : (s.gridFeatures e lane g xs).2.MemWf :=
  andThen_wf (eachOf_wf (fun _ _ ht => eachOf_wf (fun _ _ hu => andThen_wf
    (eachOf_wf (fun _ _ hv => andThen_wf (State.numAt_wf hv) (fun _ _ hw => hw)) hu) (fun _ _ hv => hv)) ht) hs) (fun _ _ ht => ht)

theorem Env.hgfetch_wf {f : FmtE} (hs : s.MemWf) : ResWf (e.hgfetch s h f) := by
  unfold Env.hgfetch
  dsimp only
  split
  · exact Res.wf_error hs
  refine stepRes_andThen_wf (Env.readRecords_wf hs) ?_
  intro _ _ ht
  split
  · exact stepRes_error_wf ht
  refine stepRes_andThen_wf (eachLane_wf (fun _ _ hu => andThen_wf (State.gridFeatures_wf hu) (fun _ _ hv => hv)) ht) ?_
  intro _ _ hu
  split
  · exact stepRes_ok_wf (State.engineReturn_wf hu)
  · exact stepRes_error_wf hu

theorem asAtomic_wf {α : Type} {r : Except Halt α × State} (hs : r.2.MemWf) : (asAtomic r).2.MemWf := by
  unfold asAtomic
  split
  · exact hs
  · exact hs

theorem Env.hgscat_wf {f : FmtE} (hs : s.MemWf) : ResWf (e.hgscat s h f) := by
  unfold Env.hgscat
  dsimp only
  split
  · exact Res.wf_ok hs
  split
  · exact Res.wf_error hs
  refine stepRes_andThen_wf (asAtomic_wf (Env.readRecords_wf hs)) ?_
  intro _ _ ht
  split
  · exact stepRes_error_wf ht
  · exact stepRes_andThen_wf (eachLane_wf (fun _ _ hu => State.laneAt_wf hu (fun _ _ hv => hv)) ht)
      (fun _ _ hu => stepRes_ok_wf (State.sendAtomics_wf hu))

theorem State.layer_wf {lane w b : Nat} {act : Bool} {xs : List (Nat × Bool)} (hs : s.MemWf) : (s.layer e lane w b act xs).2.MemWf :=
  eachOf_wf (fun _ _ ht => andThen_wf (State.numAt_wf ht) (fun _ _ hu => andThen_wf (eachOf_wf (fun _ _ hv => State.numAt_wf hv) hu)
    (fun _ _ hv => hv))) hs

theorem State.ntexLane_wf {f : FmtE} {lane : Nat} {n : Neural} {g : Grid} (hs : s.MemWf) : (s.ntexLane e f lane n g).2.MemWf := by
  unfold State.ntexLane
  refine andThen_wf (State.gridFeatures_wf hs) ?_
  intro _ _ ht
  refine andThen_wf (State.layer_wf ht) ?_
  intro _ _ hu
  split
  · exact hu
  · exact andThen_wf (State.layer_wf hu) (fun _ _ hv => hv)

theorem Env.ntex_wf {f : FmtE} (hs : s.MemWf) : ResWf (e.ntex s h f) := by
  unfold Env.ntex
  dsimp only
  split
  · exact Res.wf_error hs
  refine stepRes_andThen_wf (Env.readRecords_wf hs) ?_
  intro _ _ ht
  refine stepRes_andThen_wf (Env.readRecords_wf ht) ?_
  intro _ _ hu
  split
  · exact stepRes_error_wf hu
  refine stepRes_andThen_wf (eachLane_wf ?_ hu) (fun _ _ hv => stepRes_ok_wf (State.engineReturn_wf hv))
  intro _ _ hv
  split
  · exact hv
  · exact andThen_wf (State.ntexLane_wf hv) (fun _ _ hw => hw)

theorem Env.anyLane_wf {k : Res State} (hs : s.MemWf) (ht : ResWf k) : ResWf (e.anyLane s h k) := by
  unfold Env.anyLane
  split
  · exact Res.wf_ok hs
  · exact ht

theorem execTex_wf {f : FmtE} (hs : s.MemWf) : OutWf (execTex h f s) := State.perform_wf hs fun _ => Env.anyLane_wf hs (Env.tex_wf hs)
theorem execTld_wf {f : FmtE} (hs : s.MemWf) : OutWf (execTld h f s) := State.perform_wf hs fun _ => Env.anyLane_wf hs (Env.tld_wf hs)
theorem execTgath_wf {f : FmtE} (hs : s.MemWf) : OutWf (execTgath h f s) := State.perform_wf hs fun _ => Env.anyLane_wf hs (Env.tgath_wf hs)
theorem execTqry_wf {f : FmtE} (hs : s.MemWf) : OutWf (execTqry h f s) := State.perform_wf hs fun _ => Env.anyLane_wf hs (Env.tqry_wf hs)
theorem execHgfetch_wf {f : FmtE} (hs : s.MemWf) : OutWf (execHgfetch h f s) := State.perform_wf hs fun _ => Env.anyLane_wf hs (Env.hgfetch_wf hs)
theorem execHgscat_wf {f : FmtE} (hs : s.MemWf) : OutWf (execHgscat h f s) := State.perform_wf hs fun _ => Env.hgscat_wf hs
theorem execNtex_wf {f : FmtE} (hs : s.MemWf) : OutWf (execNtex h f s) := State.perform_wf hs fun _ => Env.anyLane_wf hs (Env.ntex_wf hs)

/-! ### Raster -/

theorem Env.inKernel_wf {role : Role} {k : Render → Res State} (hs : s.MemWf) (hk : ∀ (x : Render), ResWf (k x)) : ResWf (e.inKernel s role k) := by
  unfold Env.inKernel
  split
  · split
    · exact hk _
    · exact Env.trapRes_wf hs
  · exact Env.trapRes_wf hs

theorem Env.orTrap_wf {t : Option TrapInfo} {k : Res State} (hs : s.MemWf) (ht : ResWf k) : ResWf (Env.orTrap s t k) := by
  unfold Env.orTrap
  split
  · exact Res.wf_error hs
  · exact ht

theorem State.takeSlot_wf {id slot off bytes n payload : Nat} (hs : s.MemWf) : (s.takeSlot id slot off bytes n payload).MemWf := by
  unfold State.takeSlot
  split
  · exact hs
  split
  · exact hs
  · exact State.accept_wf (State.modGath_wf (State.engineWrite_wf hs))

theorem Env.tpay_wf {f : FmtE} (hs : s.MemWf) : ResWf (e.tpay s h f) := by
  unfold Env.tpay
  refine Env.inKernel_wf hs ?_
  intro _
  refine Env.onceUniform_wf hs ?_
  split
  · exact Res.wf_ok hs
  dsimp only
  split
  · exact Env.trapRes_wf hs
  split
  · exact Env.trapRes_wf hs
  split
  · exact Env.trapRes_wf hs
  split
  · exact Env.trapRes_wf hs
  split
  · exact Res.wf_ok (State.takeSlot_wf (State.commit_wf hs))
  · exact Res.wf_ok (State.upd_wf (State.commit_wf hs))

theorem Env.mvtx_wf {f : FmtE} (hs : s.MemWf) : ResWf (e.mvtx s h f) := by
  unfold Env.mvtx
  refine Env.inKernel_wf hs ?_
  intro _
  dsimp only
  split
  · exact Res.wf_ok hs
  · exact Env.orTrap_wf hs (Res.wf_ok (State.accept_wf (State.modGath_wf (State.commit_wf hs))))

theorem Env.mprim_wf {f : FmtE} (hs : s.MemWf) : ResWf (e.mprim s h f) := by
  unfold Env.mprim
  refine Env.inKernel_wf hs ?_
  intro _
  dsimp only
  split
  · exact Res.wf_ok hs
  · exact Env.orTrap_wf hs (Res.wf_ok (State.accept_wf (State.modGath_wf (State.commit_wf hs))))

theorem State.engineSpots_wf {die vid cid root : Nat} {l : List Nat} (hs : s.MemWf) : (State.engineSpots die vid cid root l s).2.MemWf := by
  induction l generalizing s with
  | nil => exact hs
  | cons a l ih =>
    rw [State.engineSpots]
    split
    · next hx => exact pair_wf (State.xl_wf hs) hx
    · next hx =>
      have ht := pair_wf (State.xl_wf hs) hx
      split
      · exact ht
      split
      · next hz => exact pair_wf (ih ht) hz
      · next hz => exact pair_wf (ih ht) hz

theorem State.writeRecord_wf {vid serial : Nat} (hs : s.MemWf) : (s.writeRecord vid serial).MemWf := by
  unfold State.writeRecord
  split
  · exact hs
  split
  · split
    · exact hs
    dsimp only
    split
    · next hb => exact State.addFault_wf (pair_wf (State.engineSpots_wf hs) hb)
    · next hb => exact State.modVol_wf (State.foldl_wf (fun _ _ ht => State.engineWrite_wf ht) (pair_wf (State.engineSpots_wf hs) hb))
  · exact hs

theorem Env.mdone_wf {f : FmtE} (hs : s.MemWf) : ResWf (e.mdone s h f) := by
  unfold Env.mdone
  refine Env.inKernel_wf hs ?_
  intro _
  refine Env.onceUniform_wf hs ?_
  split
  · exact Res.wf_ok hs
  extract_lets _ _ _ _ _ t _ u v
  have ht : t.MemWf := State.accept_wf (State.modGath_wf (State.commit_wf hs))
  have hu : u.MemWf := State.modVol_wf ht
  have hv : v.MemWf := State.foldl_wf (fun _ _ ht => State.writeRecord_wf ht) hu
  split
  · exact Env.trapRes_wf hs
  split
  · exact Env.trapRes_wf hs
  · exact Res.wf_ok (State.returned_wf hv)

theorem Env.visrd_wf {f : FmtE} (hs : s.MemWf) : ResWf (e.visrd s h f) := by
  unfold Env.visrd
  refine Env.inKernel_wf hs ?_
  intro _
  dsimp only
  split
  · exact Res.wf_ok hs
  · exact Env.orTrap_wf hs (Res.wf_ok (State.engineReturn_wf hs))

theorem Env.attr_wf {f : FmtE} (hs : s.MemWf) : ResWf (e.attr s h f) := by
  unfold Env.attr
  refine Env.inKernel_wf hs ?_
  intro _
  dsimp only
  split
  · exact Res.wf_ok hs
  refine Env.orTrap_wf hs (stepRes_andThen_wf ?_ ?_)
  · refine eachLane_wf ?_ hs
    intro _ _ ht
    split
    · exact ht
    · exact andThen_wf (eachOf_wf (fun _ _ hu => State.loadAt_wf hu) ht) (fun _ _ hu => hu)
  · intro _ _ ht
    split
    · split
      · exact stepRes_ok_wf (State.engineReturn_wf (State.ite_wf ht (State.upd_wf ht)))
      · exact stepRes_error_wf ht
    split
    · exact stepRes_ok_wf (State.engineReturn_wf (State.ite_wf ht (State.upd_wf ht)))
    · exact stepRes_error_wf ht

theorem Env.pixout_wf {f : FmtE} (hs : s.MemWf) : ResWf (e.pixout s h f) := by
  unfold Env.pixout
  refine Env.inKernel_wf hs ?_
  intro _
  dsimp only
  split
  · exact Res.wf_ok hs
  refine Env.orTrap_wf hs (stepRes_andThen_wf ?_ ?_)
  · refine eachLane_wf ?_ hs
    intro _ _ ht
    refine State.laneAt_wf ht ?_
    intro _ _ hu
    split
    · exact State.laneAt_wf hu (fun _ _ hv => hv)
    · exact hu
  · intro _ _ ht
    refine stepRes_ok_wf (State.accept_wf (State.foldl_wf ?_ (State.commit_wf ht)))
    intro _ _ hu
    split
    · exact State.engineWrite_wf (State.breakFor_wf hu)
    · exact State.putMarked_wf (State.homeNum_wf (State.breakFor_wf (State.engineWrite_wf (State.breakFor_wf hu))))

theorem execTpay_wf {f : FmtE} (hs : s.MemWf) : OutWf (execTpay h f s) := State.perform_wf hs fun _ => Env.tpay_wf hs
theorem execMvtx_wf {f : FmtE} (hs : s.MemWf) : OutWf (execMvtx h f s) := State.perform_wf hs fun _ => Env.mvtx_wf hs
theorem execMprim_wf {f : FmtE} (hs : s.MemWf) : OutWf (execMprim h f s) := State.perform_wf hs fun _ => Env.mprim_wf hs
theorem execMdone_wf {f : FmtE} (hs : s.MemWf) : OutWf (execMdone h f s) := State.perform_wf hs fun _ => Env.mdone_wf hs
theorem execVisrd_wf {f : FmtE} (hs : s.MemWf) : OutWf (execVisrd h f s) := State.perform_wf hs fun _ => Env.visrd_wf hs
theorem execAttr_wf {f : FmtE} (hs : s.MemWf) : OutWf (execAttr h f s) := State.perform_wf hs fun _ => Env.attr_wf hs
theorem execPixout_wf {f : FmtE} (hs : s.MemWf) : OutWf (execPixout h f s) := State.perform_wf hs fun _ => Env.pixout_wf hs

/-! ### Rays -/

theorem State.advance_wf {cid n : Nat} {x : RayQuery} (hs : s.MemWf) : (s.advance cid n x).2.MemWf := by
  induction n generalizing s x with
  | zero => exact hs
  | succ n ih =>
    rw [State.advance]
    split
    · exact hs
    dsimp only
    split
    · exact ih (State.bump_wf hs)
    · split
      · exact State.bump_wf hs
      · exact ih (State.bump_wf hs)
    · exact State.bump_wf hs

theorem State.buildBytes_wf {x : Transfer} {pc root va n : Nat} (hs : s.MemWf) : (s.buildBytes x pc root va n).2.MemWf := by
  unfold State.buildBytes
  split
  · next hx => exact pair_wf (State.engineVaBytes_wf hs) hx
  · next hx =>
    have ht := pair_wf (State.engineVaBytes_wf hs) hx
    split
    · exact ht
    · exact ht

theorem buildThen_wf {α β : Type} {r : Except BuildStop α × State} {k : α → State → Except BuildStop β × State} (hs : r.2.MemWf)
    (hk : ∀ (x : α) (t : State), t.MemWf → (k x t).2.MemWf) : (buildThen r k).2.MemWf := by
  unfold buildThen
  split
  · exact hs
  · exact hk _ _ hs

theorem buildEach_wf {α β : Type} {f : α → State → Except BuildStop β × State} {l : List α}
    (hk : ∀ (x : α) (t : State), t.MemWf → (f x t).2.MemWf) (hs : s.MemWf) : (buildEach f l s).2.MemWf := by
  induction l generalizing s with
  | nil => exact hs
  | cons a l ih => exact buildThen_wf (hk _ _ hs) (fun _ _ ht => buildThen_wf (ih ht) (fun _ _ hu => hu))

theorem State.buildPrim_wf {x : Transfer} {pc root : Nat} {d : BuildDesc} {p : Nat} (hs : s.MemWf) : (s.buildPrim x pc root d p).2.MemWf := by
  unfold State.buildPrim
  split
  · refine buildThen_wf ?_ ?_
    · refine buildEach_wf ?_ hs
      intro _ _ ht
      split
      · exact ht
      · exact buildThen_wf (State.buildBytes_wf ht) (fun _ _ hu => hu)
    · intro _ _ ht
      split
      · exact ht
      · exact buildThen_wf (buildEach_wf (fun _ _ hu => State.buildBytes_wf hu) ht) (fun _ _ hu => hu)
  · exact buildThen_wf (State.buildBytes_wf hs) (fun _ _ ht => ht)
  refine buildThen_wf (State.buildBytes_wf hs) ?_
  intro _ _ ht
  dsimp only
  split
  · exact ht
  · exact ht

theorem State.buildWrite_wf {x : Transfer} {pc root va n : Nat} (hs : s.MemWf) : (s.buildWrite x pc root va n).2.MemWf := by
  unfold State.buildWrite
  refine buildThen_wf (buildEach_wf ?_ hs) (fun _ _ ht => ht)
  intro _ _ ht
  split
  · next hx => exact pair_wf (State.xl_wf ht) hx
  · next hx =>
    have hu := pair_wf (State.xl_wf ht) hx
    split
    · exact hu
    · exact State.engineWrite_wf (State.bump_wf hu)

theorem State.beginStructure_wf {id : Nat} {x : Transfer} {dst : W64} (hs : s.MemWf) : (s.beginStructure id x dst).MemWf := hs

theorem State.buildRun_wf {id : Nat} (hs : s.MemWf) : (s.buildRun id).MemWf := by
  unfold State.buildRun
  split
  · exact hs
  split
  · extract_lets size pc r x
    refine State.ite_wf hs ?_
    have hr : r.2.MemWf := by
      refine buildThen_wf (State.buildBytes_wf hs) fun _ _ ht => ?_
      split
      · exact ht
      refine State.pairIte_wf ht (buildThen_wf (buildEach_wf (fun _ _ hu => State.buildPrim_wf hu) ht) fun _ _ hu => ?_)
      exact buildThen_wf (State.buildWrite_wf hu) fun _ _ hv =>
        buildThen_wf (State.buildWrite_wf (State.beginStructure_wf hv)) fun _ _ hw => State.fresh_wf hw
    clear_value r
    split
    · exact State.xferFault_wf hr
    · exact State.xferEnd_wf hr
    · exact State.xferEnd_wf hr
  · exact hs

theorem State.readStructure_wf {lane : Nat} {root : W64} {x : W64 × Nat} (hs : s.MemWf) : (s.readStructure e lane root x).2.MemWf := by
  unfold State.readStructure
  dsimp only
  split
  · exact hs
  · exact andThen_wf (eachOf_wf (fun _ _ ht => State.laneAt_wf ht (fun _ _ hu => hu)) hs) (fun _ _ ht => ht)

theorem Env.rayq_wf {f : FmtE} (hs : s.MemWf) : ResWf (e.rayq s h f) := Env.orTrap_wf hs (Res.wf_ok (State.upd_wf hs))

theorem State.rayNextLane_wf {lane : Nat} (hs : s.MemWf) : (s.rayNextLane e lane).2.MemWf := by
  unfold State.rayNextLane
  split
  · exact hs
  dsimp only
  split
  · exact State.upd_wf hs
  refine andThen_wf (eachOf_wf (fun _ _ ht => State.readStructure_wf ht) hs) ?_
  intro _ _ ht
  split
  · exact State.upd_wf (State.advance_wf ht)
  · exact State.upd_wf (State.advance_wf ht)

theorem Env.raynext_wf {f : FmtE} (hs : s.MemWf) : ResWf (e.raynext s h f) := by
  unfold Env.raynext
  split
  · next hx => exact Res.wf_error (State.upd_wf (pair_wf (eachLane_wf (fun _ _ ht => State.rayNextLane_wf ht) hs) hx))
  · next hx => exact Res.wf_ok (State.engineReturn_wf (pair_wf (eachLane_wf (fun _ _ ht => State.rayNextLane_wf ht) hs) hx))

theorem Env.rayacc_wf {f : FmtE} (hs : s.MemWf) : ResWf (e.rayacc s h f) := Res.wf_ok (State.upd_wf hs)
theorem Env.rayend_wf {f : FmtE} (hs : s.MemWf) : ResWf (e.rayend s h f) := Res.wf_ok (State.engineReturn_wf (State.upd_wf hs))
theorem Env.rayget_wf {f : FmtE} (hs : s.MemWf) : ResWf (e.rayget s h f) := Res.wf_ok (State.engineReturn_wf hs)

theorem Env.asbuild_wf {f : FmtE} (hs : s.MemWf) : ResWf (e.asbuild s h f) :=
  Env.handleOp_wf hs (fun _ => Env.checkVal_wf hs (Env.checkVal_wf hs (Env.issue_wf hs)))

theorem Env.asinfo_wf {f : FmtE} (hs : s.MemWf) : ResWf (e.asinfo s h f) := by
  unfold Env.asinfo
  refine Env.onceUniform_wf hs ?_
  split
  · exact Res.wf_ok hs
  dsimp only
  split
  · exact Env.trapRes_wf hs
  split
  · exact stepRes_error_wf hs
  split
  · exact stepRes_error_wf hs
  · exact stepRes_andThen_wf (State.roAt_wf hs) (fun _ _ ht => stepRes_ok_wf (State.upd_wf ht))

theorem execRayq_wf {f : FmtE} (hs : s.MemWf) : OutWf (execRayq h f s) := State.perform_wf hs fun _ => Env.rayq_wf hs
theorem execRaynext_wf {f : FmtE} (hs : s.MemWf) : OutWf (execRaynext h f s) := State.perform_wf hs fun _ => Env.anyLane_wf hs (Env.raynext_wf hs)
theorem execRayacc_wf {f : FmtE} (hs : s.MemWf) : OutWf (execRayacc h f s) := State.perform_wf hs fun _ => Env.rayacc_wf hs
theorem execRayend_wf {f : FmtE} (hs : s.MemWf) : OutWf (execRayend h f s) := State.perform_wf hs fun _ => Env.anyLane_wf hs (Env.rayend_wf hs)
theorem execRayget_wf {f : FmtE} (hs : s.MemWf) : OutWf (execRayget h f s) := State.perform_wf hs fun _ => Env.anyLane_wf hs (Env.rayget_wf hs)
theorem execAsbuild_wf {f : FmtE} (hs : s.MemWf) : OutWf (execAsbuild h f s) := State.perform_wf hs fun _ => Env.asbuild_wf hs
theorem execAsinfo_wf {f : FmtE} (hs : s.MemWf) : OutWf (execAsinfo h f s) := State.perform_wf hs fun _ => Env.asinfo_wf hs

/-! ### Tree instructions -/

theorem State.sendTree_wf {f : FmtE} {words : Nat} {lanes : List Nat} {op : Nat → TreeOp} (hs : s.MemWf) : (s.sendTree e h f words lanes op).MemWf :=
  State.upd_wf hs

theorem Env.treeOp_wf {f : FmtE} {words : Nat} {commits : Bool} {poison : List (Nat × (Nat → Bool))} {list : Nat → Option Nat} {op : Nat → TreeOp}
    (hs : s.MemWf) : ResWf (e.treeOp s h f words commits poison list op) := by
  unfold Env.treeOp
  split
  · exact Res.wf_ok hs
  dsimp only
  split
  · exact Res.wf_error hs
  · exact Res.wf_ok (State.sendTree_wf (State.ite_wf (State.accept_wf (State.commit_wf hs)) hs))

theorem Env.treeOnce_wf {f : FmtE} {poison : List (Nat × (Nat → Bool))} {op : Nat → TreeOp} (hs : s.MemWf) : ResWf (e.treeOnce s h f poison op) := by
  unfold Env.treeOnce
  refine Env.onceUniform_wf hs ?_
  split
  · exact Res.wf_ok hs
  dsimp only
  split
  · exact Res.wf_error hs
  · exact Res.wf_ok (State.sendTree_wf (State.accept_wf (State.commit_wf hs)))

theorem execTinit_wf {f : FmtE} (hs : s.MemWf) : OutWf (execTinit h f s) := State.perform_wf hs fun _ => Env.treeOnce_wf hs
theorem execTsel_wf {f : FmtE} (hs : s.MemWf) : OutWf (execTsel h f s) := State.perform_wf hs fun _ => Env.treeOp_wf hs
theorem execTexp_wf {f : FmtE} (hs : s.MemWf) : OutWf (execTexp h f s) := State.perform_wf hs fun _ => Env.treeOp_wf hs
theorem execTback_wf {f : FmtE} (hs : s.MemWf) : OutWf (execTback h f s) := State.perform_wf hs fun _ => Env.treeOp_wf hs
theorem execTleaf_wf {f : FmtE} (hs : s.MemWf) : OutWf (execTleaf h f s) := State.perform_wf hs fun _ => Env.treeOp_wf hs
theorem execTreuse_wf {f : FmtE} (hs : s.MemWf) : OutWf (execTreuse h f s) := State.perform_wf hs fun _ => Env.treeOnce_wf hs
theorem execTread_wf {f : FmtE} (hs : s.MemWf) : OutWf (execTread h f s) := State.perform_wf hs fun _ => Env.treeOp_wf hs

/-! ### Collectives -/

theorem CollEnv.pa_wf {a : CollEnv} {va : Nat} {acc : Acc} (hs : s.MemWf) : (a.pa s va acc).2.MemWf := by
  unfold CollEnv.pa
  split
  · next hx => exact pair_wf (State.xl_wf hs) hx
  · next hx =>
    have ht := pair_wf (State.xl_wf hs) hx
    split
    · exact tStop_wf ht
    · exact ht

theorem CollEnv.read_wf {a : CollEnv} {va n : Nat} (hs : s.MemWf) : (a.read s va n).2.MemWf :=
  tThen_wf (tEach_wf (fun _ _ ht => tThen_wf (CollEnv.pa_wf ht) (fun _ _ hu => hu)) hs) (fun _ _ ht => ht)

theorem CollEnv.write_wf {a : CollEnv} {va : Nat} {bs : List (W8 × Bool)} (hs : s.MemWf) : (a.write s va bs).2.MemWf := by
  unfold CollEnv.write
  refine tThen_wf (tEach_wf (fun _ _ ht => tThen_wf (CollEnv.pa_wf ht) (fun _ _ hu => hu)) hs) ?_
  intro _ _ ht
  refine State.foldl_wf ?_ ht
  intro _ _ hu
  dsimp only [State.MemWf]
  exact Memory.writeMarked_wf _ _ _ hu

theorem CollEnv.clear_wf {a : CollEnv} {va n : Nat} (hs : s.MemWf) : (a.clear s va n).2.MemWf := by
  unfold CollEnv.clear
  refine foldl_snd_wf ?_ hs
  intro _ _ ht
  split
  · exact ht
  · exact State.recallRange_wf _ _ ht

theorem State.setColl_wf {id : Nat} {c : Coll} (hs : s.MemWf) : (s.setColl id c).MemWf := hs
theorem State.modColl_wf {id : Nat} {f : Coll → Coll} (hs : s.MemWf) : (s.modColl id f).MemWf := hs

theorem State.tell_wf {c : Coll} {rank : Nat} {m : CollMsg} (hs : s.MemWf) : (s.tell c rank m).MemWf := by
  unfold State.tell
  dsimp only
  split
  · exact hs
  dsimp only [State.MemWf]
  exact State.flit_wf hs

theorem State.tellAll_wf {c : Coll} {l : List Nat} {m : Nat → CollMsg} (hs : s.MemWf) : (s.tellAll c l m).MemWf :=
  State.foldl_wf (fun _ _ ht => State.tell_wf ht) hs

theorem CollEnv.own_wf {a : CollEnv} {c : Coll} (hs : s.MemWf) : (a.own s c).MemWf := by
  unfold CollEnv.own
  refine State.foldl_wf ?_ hs
  intro _ _ ht
  split
  · next hx => exact State.recall_wf (pair_wf (State.translate_wf ht) hx)
  · next hx => exact pair_wf (State.translate_wf ht) hx

theorem State.collOpen_wf {xid id : Nat} (hs : s.MemWf) : (s.collOpen xid id).MemWf := by
  unfold State.collOpen
  split
  · split
    · exact hs
    split
    · exact hs
    extract_lets r
    have hr : r.2.MemWf := by
      refine tThen_wf (CollEnv.read_wf hs) fun _ _ ht => ?_
      refine State.pairIte_wf ht (tThen_wf (CollEnv.read_wf ht) fun _ _ hu => ?_)
      exact State.pairIte_wf hu (tThen_wf (CollEnv.read_wf hu) fun _ _ hv => hv)
    clear_value r
    split
    · exact State.xferFault_wf hr
    · exact State.setColl_wf hr
    split
    · exact State.setColl_wf hr
    split
    · exact State.setColl_wf hr
    split
    · next hy => exact State.xferFault_wf (pair_wf (CollEnv.read_wf hr) hy)
    · next hy => exact State.setColl_wf (pair_wf (CollEnv.read_wf hr) hy)
    · next hy => exact State.tellAll_wf (State.setColl_wf (CollEnv.own_wf (pair_wf (CollEnv.read_wf hr) hy)))
  · exact hs

theorem State.collRound_wf {id : Nat} {c : Coll} (hs : s.MemWf) : (s.collRound id c).MemWf := State.tellAll_wf (State.setColl_wf hs)
theorem State.collDecide_wf {id : Nat} {c : Coll} (hs : s.MemWf) : (s.collDecide id c).MemWf := State.tellAll_wf (State.setColl_wf hs)

theorem CollEnv.stepData_wf {a : CollEnv} {c : Coll} (hs : s.MemWf) : (a.stepData s c).2.MemWf := by
  unfold CollEnv.stepData
  split
  · exact hs
  · exact tThen_wf (CollEnv.read_wf hs) (fun _ _ ht => tThen_wf (tEach_wf (fun _ _ hu => tThen_wf (tEach_wf (fun _ _ hv => CollEnv.pa_wf hv) hu)
      (fun _ _ hv => hv)) ht) (fun _ _ hu => tThen_wf (tEach_wf (fun _ _ hv => CollEnv.write_wf hv) hu) (fun _ _ hv => hv)))

theorem CollEnv.inFlight_wf {a : CollEnv} {c : Coll} (hs : s.MemWf) : (a.inFlight s c).MemWf := by
  unfold CollEnv.inFlight
  split
  · exact hs
  refine State.foldl_wf ?_ hs
  intro _ _ ht
  split
  · next hy => exact pair_wf (CollEnv.pa_wf ht) hy
  · next hy =>
    refine State.foldl_wf ?_ (pair_wf (CollEnv.pa_wf ht) hy)
    intro _ _ hu
    dsimp only
    split
    · exact State.bump_wf hu
    refine State.bump_wf ?_
    dsimp only [State.MemWf]
    exact Memory.writeMarked_wf _ _ _ hu

theorem CollEnv.stepMask_wf {a : CollEnv} {c : Coll} (hs : s.MemWf) : (a.stepMask s c).2.MemWf := by
  unfold CollEnv.stepMask
  refine tThen_wf ?_ (fun _ _ ht => ht)
  split
  · exact hs
  · exact CollEnv.write_wf hs

theorem CollEnv.stepRecord_wf {a : CollEnv} {xid id : Nat} {x : Transfer} {c : Coll} (hs : s.MemWf) : (a.stepRecord s xid id x c).2.MemWf := by
  unfold CollEnv.stepRecord
  refine tThen_wf (State.pairIte_wf hs (CollEnv.pa_wf hs)) fun _ _ ht => ?_
  extract_lets t u v
  have ht : t.MemWf := State.xferEnd_wf (State.setColl_wf ht)
  have hu : u.MemWf := State.ite_wf ht ht
  have hv : v.MemWf := State.ite_wf (State.modVol_wf hu) hu
  exact State.pairIte_wf hv (CollEnv.write_wf hv)

theorem CollEnv.clearAll_wf {a : CollEnv} {c : Coll} (hs : s.MemWf) : (a.clearAll s c).2.MemWf := by
  unfold CollEnv.clearAll
  refine foldl_snd_wf (fun _ _ ht => ?_) hs
  exact CollEnv.clear_wf ht

theorem State.collEnd_wf {xid id : Nat} (hs : s.MemWf) : (s.collEnd xid id).MemWf := by
  unfold State.collEnd
  split
  · split
    · exact hs
    split
    · exact hs
    extract_lets _ t u
    have ht : t.2.MemWf := CollEnv.clearAll_wf hs
    have hu : u.MemWf := ht
    split
    · exact hu
    split
    · next hc => exact State.xferFault_wf (pair_wf (CollEnv.stepData_wf hu) hc)
    · next hc => exact State.setColl_wf (pair_wf (CollEnv.stepData_wf hu) hc)
    · next hc =>
      have hv := pair_wf (CollEnv.stepData_wf hu) hc
      dsimp only
      split
      · next hd => exact State.xferFault_wf (pair_wf (CollEnv.stepMask_wf (State.setColl_wf (CollEnv.inFlight_wf (State.bump_wf hv)))) hd)
      · next hd => exact State.setColl_wf (pair_wf (CollEnv.stepMask_wf (State.setColl_wf (CollEnv.inFlight_wf (State.bump_wf hv)))) hd)
      · next hd =>
        have ht := pair_wf (CollEnv.stepMask_wf (State.setColl_wf (CollEnv.inFlight_wf (State.bump_wf hv)))) hd
        split
        · next he => exact State.xferFault_wf (pair_wf (CollEnv.stepRecord_wf (State.setColl_wf ht)) he)
        · next he => exact State.setColl_wf (pair_wf (CollEnv.stepRecord_wf (State.setColl_wf ht)) he)
        · next he => exact pair_wf (CollEnv.stepRecord_wf (State.setColl_wf ht)) he
  · exact hs

theorem Env.coll_wf {f : FmtE} (hs : s.MemWf) : ResWf (e.coll s h f) := by
  unfold Env.coll
  refine Env.handleOp_wf hs ?_
  intro _
  refine Env.checkVal_wf hs (Env.checkVal_wf hs ?_)
  split
  · exact Env.trapRes_wf hs
  · exact Res.wf_ok (State.accept_wf (State.queueXfer_wf (State.setColl_wf (State.fresh_wf (State.commit_wf hs)))))

theorem Env.collinfo_wf {f : FmtE} (hs : s.MemWf) : ResWf (e.collinfo s h f) := by
  unfold Env.collinfo
  refine Env.onceUniform_wf hs ?_
  split
  · exact Res.wf_ok hs
  dsimp only
  split
  · exact Env.trapRes_wf hs
  split
  · exact Env.trapRes_wf hs
  · exact Res.wf_ok (State.upd_wf hs)

theorem execColl_wf {f : FmtE} (hs : s.MemWf) : OutWf (execColl h f s) := State.perform_wf hs fun _ => Env.coll_wf hs
theorem execCollinfo_wf {f : FmtE} (hs : s.MemWf) : OutWf (execCollinfo h f s) := State.perform_wf hs fun _ => Env.collinfo_wf hs

/-! ### System instructions -/

theorem Env.whenActive_wf {k : Res State} (hs : s.MemWf) (ht : ResWf k) : ResWf (e.whenActive s h k) := by
  unfold Env.whenActive
  split
  · exact Res.wf_ok hs
  · exact ht

theorem Env.uniformActive_wf {k : Res State} (hs : s.MemWf) (ht : ResWf k) : ResWf (e.uniformActive s h k) :=
  Env.onceUniform_wf hs (Env.whenActive_wf hs ht)

theorem Env.trapNow_wf {f : FmtE} (hs : s.MemWf) : ResWf (e.trapNow s h f) := Env.whenActive_wf hs (Res.wf_error hs)

theorem Env.tret_wf (hs : s.MemWf) : ResWf (e.tret s h) := by
  unfold Env.tret
  refine Env.uniformActive_wf hs ?_
  split
  · exact Env.trapRes_wf hs
  · refine stepRes_andThen_wf (State.numAt_wf hs) ?_
    intro _ _ ht
    split
    · exact stepRes_error_wf ht
    · exact stepRes_ok_wf (State.upd_wf ht)
  · exact Env.trapRes_wf hs

theorem Env.tkill_wf {f : FmtE} (hs : s.MemWf) : ResWf (e.tkill s h f) :=
  Env.uniformActive_wf hs (Res.wf_ok (State.ite_wf (State.endLaunch_wf hs) (State.killQuire_wf hs)))

theorem State.callSlot_wf (hs : s.MemWf) : (s.callSlot e).2.MemWf := by
  unfold State.callSlot
  split
  · next hx => exact pair_wf (State.translate_wf hs) hx
  · next hx => exact State.homeNum_wf (pair_wf (State.translate_wf hs) hx)

theorem State.callSend_wf {c : CallWait} (hs : s.MemWf) : TryWf State.MemWf (s.callSend e c) := by
  unfold State.callSend
  split
  · next hx => exact tryWf_error (pair_wf (State.callSlot_wf hs) hx)
  · next hx => exact tryWf_ok (State.upd_wf (pair_wf (State.callSlot_wf hs) hx)) (pair_wf (State.callSlot_wf hs) hx)
  · next hx =>
    refine tryWf_ok (State.upd_wf ?_) ?_ <;>
      exact State.bump_wf (State.hostEvent_wf (State.modCtx_wf (State.putHome_wf _ _ (State.breakFor_wf (pair_wf (State.callSlot_wf hs) hx)))))

theorem State.callDone_wf {c : CallWait} (hs : s.MemWf) : (s.callDone e c).MemWf := State.upd_wf (State.returned_wf (State.accept_wf hs))

theorem Env.trapcall_wf {f : FmtE} (hs : s.MemWf) : ResWf (e.trapcall s h f) := by
  refine Env.whenActive_wf hs ?_
  have ht := State.commit_wf (id := e.id) hs
  dsimp only
  split
  · exact Res.wf_error ht
  split
  · exact Res.wf_ok (State.upd_wf ht)
  split
  · next hx => exact Res.wf_error ((State.callSend_wf ht).state hx)
  · next hx => exact Res.wf_ok ((State.callSend_wf ht).ok hx)

theorem Env.perf_wf {f : FmtE} (hs : s.MemWf) : ResWf (e.perf s h f) := by
  unfold Env.perf
  refine Env.uniformActive_wf hs ?_
  dsimp only
  split
  · exact Env.trapRes_wf hs
  · exact Res.wf_ok (State.upd_wf hs)

theorem State.tables_wf {l : FMap (List W16)} (hs : s.MemWf) : State.MemWf { s with tables := l } := hs

theorem Env.decsel_wf {f : FmtE} (hs : s.MemWf) : ResWf (e.decsel s h f) := by
  unfold Env.decsel
  refine Env.uniformActive_wf hs ?_
  extract_lets n a l status select
  have hstatus : ∀ (s : State) v, s.MemWf → (status s v).MemWf := fun _ _ ht => State.upd_wf ht
  have hselect : ∀ s : State, s.MemWf → (select s).MemWf := fun _ ht => hstatus _ _ (State.modCtx_wf ht)
  split
  · exact Env.trapRes_wf hs
  split
  · exact Env.trapRes_wf hs
  split
  · exact Res.wf_ok (hselect _ hs)
  split
  · exact Res.wf_ok (hstatus _ _ hs)
  refine stepRes_andThen_wf (eachOf_wf (fun _ _ ht => State.loadAt_wf ht) hs) fun _ _ ht => ?_
  split
  · exact stepRes_ok_wf (hstatus _ _ ht)
  · exact stepRes_ok_wf (hselect _ (State.tables_wf ht))

theorem execTrap_wf {f : FmtE} (hs : s.MemWf) : OutWf (execTrap h f s) := State.perform_wf hs fun _ => Env.trapNow_wf hs
theorem execTrapcall_wf {f : FmtE} (hs : s.MemWf) : OutWf (execTrapcall h f s) := State.perform_wf hs fun _ => Env.trapcall_wf hs
theorem execTret_wf {f : FmtE} (hs : s.MemWf) : OutWf (execTret h f s) := State.perform_wf hs fun _ => Env.tret_wf hs
theorem execTkill_wf {f : FmtE} (hs : s.MemWf) : OutWf (execTkill h f s) := State.perform_wf hs fun _ => Env.tkill_wf hs
theorem execPerf_wf {f : FmtE} (hs : s.MemWf) : OutWf (execPerf h f s) := State.perform_wf hs fun _ => Env.perf_wf hs
theorem execDecsel_wf {f : FmtE} (hs : s.MemWf) : OutWf (execDecsel h f s) := State.perform_wf hs fun _ => Env.decsel_wf hs

/-! ### Packets -/

theorem State.namedPa_wf {cid : Nat} {c : Context} {vid va : Nat} (hs : s.MemWf) : (s.namedPa cid c vid va).2.MemWf := by
  unfold State.namedPa
  split
  · next hx => exact pair_wf (State.xl_wf hs) hx
  · next hx => exact pair_wf (State.xl_wf hs) hx

theorem State.named_wf {cid : Nat} {c : Context} {vid va : Nat} {nonzero : Bool} (hs : s.MemWf) : (s.named cid c vid va nonzero).2.MemWf := by
  unfold State.named
  split
  · exact hs
  split
  · next hy => exact pair_wf (State.namedPa_wf hs) hy
  · next hy => exact pair_wf (State.namedPa_wf hs) hy

theorem State.launchCheck_wf {cid : Nat} {c : Context} {vid : Nat} {bs : List W8} (hs : s.MemWf) : (s.launchCheck cid c vid bs).2.MemWf := by
  unfold State.launchCheck
  dsimp only
  split
  · exact State.named_wf hs
  · exact State.named_wf (State.named_wf (State.named_wf (State.named_wf hs)))

theorem State.packetCheck_wf {cid : Nat} {c : Context} {vid : Nat} {bs : List W8} (hs : s.MemWf) : (s.packetCheck cid c vid bs).2.MemWf := by
  unfold State.packetCheck
  dsimp only
  split
  · exact hs
  split
  · exact hs
  · exact State.launchCheck_wf hs

/-! ### Launches -/

theorem State.haltQueue_wf {qk fault : Nat} (hs : s.MemWf) : (s.haltQueue qk fault).MemWf := State.progress_wf (State.modQueue_wf hs)

theorem State.readParams_wf {cid vid root va n : Nat} (hs : s.MemWf) : (s.readParams cid vid root va n).2.MemWf := by
  induction n generalizing s with
  | zero => exact hs
  | succ n ih =>
    rw [State.readParams]
    split
    · exact ih hs
    split
    · next hy =>
      have ht := pair_wf (State.xl_wf (ih hs)) hy
      split
      · exact ht
      · exact ht
    · next hy => exact pair_wf (State.xl_wf (ih hs)) hy

theorem State.beginLaunch_wf {qk : Nat} {c : Context} {x : Parsed} {parent : Option Nat} (hs : s.MemWf) : (s.beginLaunch qk c x parent).MemWf := by
  unfold State.beginLaunch
  split
  · exact hs
  extract_lets _ t _ u v w
  have ht : t.2.MemWf := State.fresh_wf hs
  have hu : u.MemWf := State.takeCap_wf ht
  have hv : v.MemWf := State.roNone_wf (State.setVol_wf hu)
  have hw : w.2.MemWf := State.readParams_wf hv
  exact State.ite_wf (State.closePacket_wf hu) (State.ite_wf (State.modVol_wf hw) hv)

theorem State.depHolds_wf {cid vid root : Nat} {p : Packet} (hs : s.MemWf) : (s.depHolds cid vid root p).2.MemWf := by
  unfold State.depHolds
  split
  · exact hs
  split
  · next hy => exact pair_wf (State.xl_wf hs) hy
  · next hy => exact pair_wf (State.xl_wf hs) hy

theorem State.blockedHolds_wf {qk root : Nat} {p : Packet} (hs : s.MemWf) : (s.blockedHolds qk root p).2.MemWf := State.depHolds_wf hs

theorem State.tryUnblock_wf {qk : Nat} (hs : s.MemWf) : (s.tryUnblock qk).MemWf := by
  unfold State.tryUnblock
  split
  · split
    · exact hs
    extract_lets t u
    have ht : t.2.MemWf := State.blockedHolds_wf hs
    have hu : u.MemWf := State.modQueue_wf ht
    exact State.ite_wf ht (State.ite_wf (State.modCtx_wf ht) (State.progress_wf (State.ite_wf (State.closePacket_wf hu) hu)))
  · exact hs

theorem State.newRound_wf {ceiling : Nat} (hs : s.MemWf) : (s.newRound ceiling).MemWf := State.ite_wf hs hs

theorem State.takePacket_wf {qk : Nat} {c : Context} {bs : List W8} (hs : s.MemWf) : (s.takePacket qk c bs).MemWf := by
  unfold State.takePacket
  split
  · exact hs
  extract_lets _ _ t u _ v w
  have ht : t.MemWf := State.modQueue_wf hs
  have hu : u.2.MemWf := State.packetCheck_wf ht
  have hv : v.MemWf := hu
  have hw : w.MemWf := by
    unfold w
    split
    · exact State.closePacket_wf hv
    · exact State.closePacket_wf hv
    split
    · exact State.modQueue_wf hv
    extract_lets t'
    have ht' : t'.MemWf := State.ite_wf hv (State.modQueue_wf (State.beginLaunch_wf hv))
    exact State.ite_wf (State.tryUnblock_wf (State.modQueue_wf ht')) ht'
  exact State.progress_wf hw

theorem State.acceptNext_wf {qk : Nat} (hs : s.MemWf) : (s.acceptNext qk).MemWf := by
  unfold State.acceptNext
  split
  · extract_lets t
    have ht : t.MemWf := State.newRound_wf hs
    split
    · exact ht
    split
    · next ha => exact State.haltQueue_wf (pair_wf (State.translate_wf ht) ha)
    · next ha =>
      have hu := pair_wf (State.translate_wf ht) ha
      exact State.ite_wf (State.haltQueue_wf hu) (State.ite_wf (State.haltQueue_wf hu) (State.takePacket_wf hu))
  · exact hs

theorem State.acceptAll_wf {qk n : Nat} (hs : s.MemWf) : (State.acceptAll qk n s).MemWf := by
  induction n generalizing s with
  | zero => exact hs
  | succ n ih =>
    rw [State.acceptAll]
    split
    · exact State.ite_wf (ih (State.acceptNext_wf hs)) hs
    · exact hs

theorem State.wakeQueue_wf {qk : Nat} (hs : s.MemWf) : (s.wakeQueue qk).MemWf := by
  unfold State.wakeQueue
  dsimp only
  split
  · split
    · exact State.setCtx_wf hs
    split
    · exact hs
    split
    · next hx => exact State.haltQueue_wf (pair_wf (State.translate_wf hs) hx)
    next hx =>
    have ht := pair_wf (State.translate_wf hs) hx
    refine State.ite_wf (State.haltQueue_wf ht) (State.ite_wf (State.haltQueue_wf ?_) (State.acceptAll_wf ?_)) <;>
      exact State.ite_wf (State.modQueue_wf ht) (State.progress_wf (State.modQueue_wf ht))
  · exact hs

theorem State.flushAll_wf (hs : s.MemWf) : s.flushAll.MemWf := by
  unfold State.flushAll
  extract_lets drain
  have hdrain : ∀ (t : State), t.MemWf → (drain t).MemWf := fun _ ht => State.foldl_wf (fun _ _ hu => State.drainCore_wf hu) ht
  exact hdrain _ (State.foldl_wf (fun _ _ ht => State.ite_wf (State.serveAsq_wf ht) ht) (hdrain _ hs))

theorem State.sealEnd_wf {vid : Nat} {v : Volume} (hs : s.MemWf) : (s.sealEnd vid v).MemWf :=
  State.ite_wf (State.ite_wf hs (State.modVol_wf (State.dropCopies_wf hs)))
    (State.modVol_wf (State.ite_wf (State.dropCopies_wf (State.copyBack_wf hs)) (State.discardShadow_wf hs)))

theorem State.completeVolume_wf {vid : Nat} (hs : s.MemWf) : (s.completeVolume vid).MemWf := by
  unfold State.completeVolume
  split
  · exact hs
  split
  · exact hs
  extract_lets t u _ _ v w t'
  have ht : t.MemWf := State.flushAll_wf hs
  have hu : u.MemWf := State.sealEnd_wf ht
  have hv : v.MemWf := State.ite_wf hu (State.writeRecordOf_wf hu)
  have hw : w.MemWf := State.finishPacket_wf (State.childGone_wf hv)
  have ht' : t'.MemWf := hw
  split
  · exact ht
  split
  · exact State.ite_wf (State.progress_wf (State.modQueue_wf ht')) ht'
  · exact ht'

theorem State.actSignal_wf {qk : Nat} (hs : s.MemWf) : (s.actSignal qk).MemWf := by
  unfold State.actSignal
  split
  · split
    · split
      · exact hs
      split
      · exact State.modCtx_wf hs
      extract_lets t u
      have ht : t.MemWf := State.flushAll_wf hs
      have hu : u.MemWf := State.ite_wf ht (State.engineStore_wf ht)
      exact State.ite_wf ht (State.closePacket_wf (State.modQueue_wf hu))
    · exact hs
  · exact hs

theorem execQueueWake_wf {ctx q : Nat} (hs : s.MemWf) : OutWf (execQueueWake ctx q s) := outWf_next (State.wakeQueue_wf hs)
theorem execDependencyWordWrite_wf {ctx q : Nat} (hs : s.MemWf) : OutWf (execDependencyWordWrite ctx q s) := outWf_next (State.tryUnblock_wf hs)
theorem execSignalPacketEffect_wf {ctx q : Nat} (hs : s.MemWf) : OutWf (execSignalPacketEffect ctx q s) := outWf_next (State.actSignal_wf hs)
theorem execVolumeCompletion_wf {vol : Nat} (hs : s.MemWf) : OutWf (execVolumeCompletion vol s) := outWf_next (State.completeVolume_wf hs)

/-! ### Waits -/

theorem State.wake_wf {id : Nat} (hs : s.MemWf) : (s.wake id).MemWf := State.modQuire_wf hs

theorem State.forQuire_wf {id : Nat} {k : Env → State} (hs : s.MemWf) (hk : ∀ (x : Env), (k x).MemWf) : (s.forQuire id k).MemWf := by
  unfold State.forQuire
  split
  · exact hs
  · exact hk _

theorem State.grantClaim_wf {id : Nat} (hs : s.MemWf) : (s.grantClaim id).MemWf := by
  unfold State.grantClaim
  refine State.forQuire_wf hs ?_
  intro _
  split
  · exact State.ite_wf hs (State.upd_wf hs)
  · exact hs

theorem State.slotForTpay_wf {id : Nat} (hs : s.MemWf) : (s.slotForTpay id).MemWf := by
  unfold State.slotForTpay
  refine State.forQuire_wf hs ?_
  intro _
  split
  · exact State.wake_wf (State.takeSlot_wf hs)
  · exact hs

theorem State.roomForPush_wf {id : Nat} (hs : s.MemWf) : (s.roomForPush id).MemWf := by
  refine State.forQuire_wf hs fun _ => ?_
  split
  · split
    · next hx => exact State.parkFault_wf ((State.pushTry_wf hs).state hx)
    · next hx => exact ((State.pushTry_wf hs).ok hx).some rfl
    · next hx => exact (State.pushTry_wf hs).state hx
  · exact hs

theorem State.wakeBarrier_wf {id : Nat} (hs : s.MemWf) : (s.wakeBarrier id).MemWf := by
  unfold State.wakeBarrier
  refine State.forQuire_wf hs ?_
  intro _
  split
  · exact State.ite_wf hs (State.wake_wf (State.barrierPassed_wf hs))
  · exact hs

theorem State.lookAgain_wf {id : Nat} (hs : s.MemWf) : (s.lookAgain id).MemWf := by
  unfold State.lookAgain
  refine State.forQuire_wf hs ?_
  intro _
  split
  · exact State.ite_wf (State.tryDone_wf hs) hs
  · exact hs

theorem State.tryExpired_wf {id : Nat} (hs : s.MemWf) : (s.tryExpired id).MemWf := by
  unfold State.tryExpired
  refine State.forQuire_wf hs ?_
  intro _
  split
  · exact State.ite_wf (State.tryDone_wf hs) hs
  · exact hs

theorem State.wakeHandle_wf {id : Nat} (hs : s.MemWf) : (s.wakeHandle id).MemWf := by
  unfold State.wakeHandle
  refine State.forQuire_wf hs ?_
  intro _
  split
  · split
    · split
      · split
        · next ha => exact State.wake_wf ((Env.handleReached_wf hs).ok ha)
        · next ha => exact State.halt_wf ((Env.handleReached_wf hs).error_snd ha)
      · exact hs
    split
    · split
      · next ha => exact State.wake_wf ((Env.handleReached_wf hs).ok ha)
      · next ha => exact State.halt_wf ((Env.handleReached_wf hs).error_snd ha)
    · exact hs
  · exact hs

theorem State.refillRow_wf {id : Nat} (hs : s.MemWf) : (s.refillRow id).MemWf := by
  unfold State.refillRow
  refine State.forQuire_wf hs ?_
  intro _
  split
  · exact hs
  · exact OptWf.getD (State.refill_wf hs) hs

theorem State.lineArrives_wf {id : Nat} (hs : s.MemWf) : (s.lineArrives id).MemWf := by
  unfold State.lineArrives
  refine State.forQuire_wf hs ?_
  intro _
  split
  · exact State.fetchLine_wf (State.setQuire_wf hs)
  · exact hs

theorem State.deadlockFires_wf {cid : Nat} (hs : s.MemWf) : (s.deadlockFires cid).MemWf := by
  unfold State.deadlockFires
  split
  · exact hs
  · exact State.ite_wf hs (State.modCtx_wf (State.hostEvent_wf (State.foldl_wf (fun _ _ ht => State.endLaunch_wf ht) hs)))

theorem State.externalTimeout_wf {id : Nat} (hs : s.MemWf) : (s.externalTimeout id).MemWf :=
  State.forQuire_wf hs (fun _ => State.ite_wf (State.takeTrap_wf hs) hs)

theorem State.budgetTrap_wf {id : Nat} (hs : s.MemWf) : (s.budgetTrap id).MemWf := by
  unfold State.budgetTrap
  refine State.forQuire_wf hs ?_
  intro _
  split
  · exact hs
  · exact State.ite_wf (State.takeTrap_wf (State.modQuire_wf hs)) hs

theorem State.callOn_wf {c : CallWait} (hs : s.MemWf) : (s.callOn e c).MemWf := by
  unfold State.callOn
  split
  · exact State.callDone_wf hs
  split
  · next hx => exact State.parkFault_wf (State.upd_wf ((State.callSend_wf hs).state hx))
  · next hx => exact (State.callSend_wf hs).ok hx

theorem State.callReply_wf {id : Nat} (hs : s.MemWf) : (s.callReply id).MemWf := by
  unfold State.callReply
  refine State.forQuire_wf hs ?_
  intro _
  split
  · split
    · exact State.ite_wf hs (State.callOn_wf hs)
    extract_lets t u v
    have ht : t.2.MemWf := State.homeNum_wf hs
    have hu : u.MemWf := ht
    have hv : v.MemWf := State.recallRange_wf _ _ hu
    exact State.ite_wf hu (State.ite_wf (State.endLaunch_wf hu) (State.callOn_wf (State.putHome_wf _ _ hv)))
  · exact hs

theorem execClaimGrant_wf {quire : Nat} (hs : s.MemWf) : OutWf (execClaimGrant quire s) := outWf_next (State.grantClaim_wf hs)
theorem execTpaySlotTaken_wf {quire : Nat} (hs : s.MemWf) : OutWf (execTpaySlotTaken quire s) := outWf_next (State.slotForTpay_wf hs)
theorem execQpushRingRoom_wf {quire : Nat} (hs : s.MemWf) : OutWf (execQpushRingRoom quire s) := outWf_next (State.roomForPush_wf hs)
theorem execBarrierWake_wf {quire : Nat} (hs : s.MemWf) : OutWf (execBarrierWake quire s) := outWf_next (State.wakeBarrier_wf hs)
theorem execTrywaitReevaluation_wf {quire : Nat} (hs : s.MemWf) : OutWf (execTrywaitReevaluation quire s) := outWf_next (State.lookAgain_wf hs)
theorem execTrywaitTimeout_wf {quire : Nat} (hs : s.MemWf) : OutWf (execTrywaitTimeout quire s) := outWf_next (State.tryExpired_wf hs)
theorem execHwaitWake_wf {quire : Nat} (hs : s.MemWf) : OutWf (execHwaitWake quire s) := outWf_next (State.wakeHandle_wf hs)
theorem execRowRefill_wf {quire : Nat} (hs : s.MemWf) : OutWf (execRowRefill quire s) := outWf_next (State.refillRow_wf hs)
theorem execLineFetch_wf {quire : Nat} (hs : s.MemWf) : OutWf (execLineFetch quire s) := outWf_next (State.lineArrives_wf hs)
theorem execDeadlockWatchdog_wf {ctx : Nat} (hs : s.MemWf) : OutWf (execDeadlockWatchdog ctx s) := outWf_next (State.deadlockFires_wf hs)
theorem execExternalWaitTimeout_wf {quire : Nat} (hs : s.MemWf) : OutWf (execExternalWaitTimeout quire s) := outWf_next (State.externalTimeout_wf hs)
theorem execBudgetExhausted_wf {quire : Nat} (hs : s.MemWf) : OutWf (execBudgetExhausted quire s) := outWf_next (State.budgetTrap_wf hs)
theorem execTrapcallReply_wf {quire : Nat} (hs : s.MemWf) : OutWf (execTrapcallReply quire s) := outWf_next (State.callReply_wf hs)

/-! ### Landings -/

theorem State.landLoad_wf {id : Nat} (hs : s.MemWf) : (s.landLoad id).MemWf := by
  unfold State.landLoad
  refine State.forQuire_wf hs ?_
  intro _
  extract_lets _ t
  have ht : t.MemWf := State.upd_wf hs
  split
  · exact ht
  dsimp only
  split
  · exact State.ite_wf (State.acquire_wf ht) (State.wake_wf (State.acquire_wf ht))
  · exact State.acquire_wf ht

theorem State.landMatrix_wf {core part : Nat} (hs : s.MemWf) : (s.landMatrix core part).MemWf := by
  unfold State.landMatrix
  split
  · exact hs
  split
  · exact State.ite_wf hs (State.foldl_wf (fun _ _ ht => State.tileWrite_wf ht) hs)
  refine State.modQuire_wf (State.acquire_wf ?_)
  dsimp only [State.MemWf]
  exact State.landTile_wf hs

theorem State.engineLands_wf {id : Nat} (hs : s.MemWf) : (s.engineLands id).MemWf :=
  State.forQuire_wf hs (fun _ => State.ite_wf (State.upd_wf (State.acquire_wf hs)) hs)

theorem State.wakeFences_wf {c : Nat} (hs : s.MemWf) : (s.wakeFences c).MemWf := hs

theorem State.storeHome_wf {c k : Nat} (hs : s.MemWf) : (s.storeHome c k).MemWf := by
  unfold State.storeHome
  split
  · exact State.ite_wf hs (State.ite_wf (State.modCore_wf (State.peerSend_wf hs)) (State.acceptOut_wf hs))
  · exact hs

theorem State.serveNext_wf {id : Nat} (hs : s.MemWf) : (s.serveNext id).MemWf := by
  unfold State.serveNext
  split
  · exact hs
  · exact State.ite_wf (State.wakeFences_wf (State.serveAsq_wf hs)) hs

theorem State.replyLands_wf {id : Nat} (hs : s.MemWf) : (s.replyLands id).MemWf := by
  unfold State.replyLands
  refine State.forQuire_wf hs ?_
  intro _
  extract_lets _ t
  have ht : t.MemWf := State.foldl_wf (fun _ _ ht => State.acquire_wf ht) (State.upd_wf hs)
  split
  · exact State.ite_wf ht (State.wake_wf ht)
  · exact State.ite_wf ht (State.ite_wf (State.takeTrap_wf (State.wake_wf ht)) (State.wake_wf ht))
  · exact ht

theorem State.transferStarts_wf {id : Nat} (hs : s.MemWf) : (s.transferStarts id).MemWf := by
  unfold State.transferStarts
  split
  · exact hs
  · exact State.ite_wf (State.xferStart_wf hs) hs

theorem State.transferMoves_wf {id p : Nat} (hs : s.MemWf) : (s.transferMoves id p).MemWf := by
  unfold State.transferMoves
  split
  · exact hs
  refine State.reapFor_wf ?_
  split
  · exact State.buildRun_wf hs
  · exact State.collOpen_wf hs
  · exact State.xferPiece_wf hs

theorem State.treeTurn_wf {id : Nat} (hs : s.MemWf) : (s.treeTurn id).MemWf := by
  unfold State.treeTurn
  split
  · exact hs
  · exact State.ite_wf (State.treeStep_wf hs) hs

theorem State.treeLands_wf {id : Nat} (hs : s.MemWf) : (s.treeLands id).MemWf := by
  unfold State.treeLands
  refine State.forQuire_wf hs ?_
  intro _
  split
  · exact hs
  extract_lets t
  have ht : t.MemWf := State.landTrees_wf hs
  split
  · exact State.ite_wf ht (State.upd_wf ht)
  · exact State.ite_wf ht (State.upd_wf ht)
  · exact State.ite_wf ht (State.wake_wf ht)
  · exact State.ite_wf ht (State.wake_wf ht)
  · exact ht

theorem State.apps_wf {l : List Append} (hs : s.MemWf) : State.MemWf { s with apps := l } := hs

theorem State.appendLands_wf {k : Nat} (hs : s.MemWf) : (s.appendLands k).MemWf := by
  unfold State.appendLands
  split
  · exact hs
  split
  · exact State.apps_wf hs
  exact State.ite_wf hs (State.apps_wf (State.modGath_wf (State.engineWrite_wf hs)))

theorem State.batchExpires_wf {gid n : Nat} (hs : s.MemWf) : (s.batchExpires gid n).MemWf := by
  unfold State.batchExpires
  split
  · exact hs
  split
  · exact hs
  · exact State.ite_wf hs (State.setGath_wf hs)

theorem State.markLost_wf (hs : s.MemWf) : s.markLost.MemWf := hs
theorem State.countLoss_wf {o : PeerOut} (hs : s.MemWf) : (s.countLoss o).MemWf := State.hostEvent_wf hs

theorem State.peerDone_wf {o : PeerOut} {ok : Bool} {data : List W8} {marks : List Nat} (hs : s.MemWf) : (s.peerDone o ok data marks).MemWf := by
  unfold State.peerDone
  extract_lets t u _ v
  have ht : t.MemWf := hs
  have hu : u.MemWf := State.ite_wf ht (State.countLoss_wf ht)
  have hv : v.MemWf := State.bump_wf hu
  split
  · exact State.modQuire_wf hv
  · exact State.gotBytes_wf hv
  · split
    · exact hv
    · exact State.reapFor_wf (State.pieceDone_wf hv)
  · exact State.modQuire_wf hv
  · exact State.wakeFences_wf (State.settle_wf (State.modCore_wf hv))
  · exact hv
  split
  · exact hv
  · exact State.ite_wf (State.answer_wf hv) (State.wakeFences_wf (State.dropAsq_wf (State.answer_wf hv)))

theorem State.peerAnswers_wf {req : Nat} {ok : Bool} {data : List W8} {marks : List Nat} (hs : s.MemWf) :
    (s.peerAnswers req ok data marks).MemWf := by
  unfold State.peerAnswers
  split
  · exact hs
  · exact State.peerDone_wf hs

theorem State.peerExpires_wf {req : Nat} (hs : s.MemWf) : (s.peerExpires req).MemWf := by
  unfold State.peerExpires
  split
  · exact hs
  · exact State.ite_wf (State.peerDone_wf hs) hs

theorem State.stationDown_wf {k : Nat} (hs : s.MemWf) : (s.stationDown k).MemWf := State.ite_wf (State.markLost_wf hs) hs

theorem State.linkAck_wf {k : Nat} (hs : s.MemWf) : (s.linkAck k).MemWf := by
  unfold State.linkAck
  dsimp only [State.MemWf]
  exact State.bump_wf hs

theorem execLoadDataReturn_wf {quire : Nat} (hs : s.MemWf) : OutWf (execLoadDataReturn quire s) := outWf_next (State.landLoad_wf hs)
theorem execEngineResultReturn_wf {quire : Nat} (hs : s.MemWf) : OutWf (execEngineResultReturn quire s) := outWf_next (State.engineLands_wf hs)

theorem execMatrixResultLanding_wf {core part : Nat} (hs : s.MemWf) : OutWf (execMatrixResultLanding core part s) :=
  outWf_next (State.landMatrix_wf hs)

theorem execHomeAccept_wf {core k : Nat} (hs : s.MemWf) : OutWf (execHomeAccept core k s) := outWf_next (State.storeHome_wf hs)

theorem execStoreAcknowledge_wf {core die : Nat} (hs : s.MemWf) : OutWf (execStoreAcknowledge core die s) :=
  outWf_next (State.wakeFences_wf (State.ackOut_wf hs))

theorem execAsqRequest_wf {k : Nat} (hs : s.MemWf) : OutWf (execAsqRequest k s) := outWf_next (State.serveNext_wf hs)
theorem execAsqReply_wf {quire : Nat} (hs : s.MemWf) : OutWf (execAsqReply quire s) := outWf_next (State.replyLands_wf hs)
theorem execTransferStart_wf {xfer : Nat} (hs : s.MemWf) : OutWf (execTransferStart xfer s) := outWf_next (State.transferStarts_wf hs)
theorem execTransferPiece_wf {xfer piece : Nat} (hs : s.MemWf) : OutWf (execTransferPiece xfer piece s) := outWf_next (State.transferMoves_wf hs)
theorem execTreeOperation_wf {k : Nat} (hs : s.MemWf) : OutWf (execTreeOperation k s) := outWf_next (State.treeTurn_wf hs)
theorem execTreeResultLanding_wf {quire : Nat} (hs : s.MemWf) : OutWf (execTreeResultLanding quire s) := outWf_next (State.treeLands_wf hs)
theorem execTleafAppend_wf {k : Nat} (hs : s.MemWf) : OutWf (execTleafAppend k s) := outWf_next (State.appendLands_wf hs)

theorem execBatchTimerExpiry_wf {gath handle : Nat} (hs : s.MemWf) : OutWf (execBatchTimerExpiry gath handle s) :=
  outWf_next (State.batchExpires_wf hs)

theorem execPeerCompletion_wf {req : Nat} {ok : Bool} {data : List W8} {marks : List Nat} (hs : s.MemWf) :
    OutWf (execPeerCompletion req ok data marks s) :=
  outWf_next (State.peerAnswers_wf hs)

theorem execPeerRequestTimeout_wf {req : Nat} (hs : s.MemWf) : OutWf (execPeerRequestTimeout req s) := outWf_next (State.peerExpires_wf hs)

theorem execStationReplayFailure_wf {station : Nat} (hs : s.MemWf) : OutWf (execStationReplayFailure station s) :=
  outWf_next (State.stationDown_wf hs)

theorem execStationAckTimeout_wf {station : Nat} (hs : s.MemWf) : OutWf (execStationAckTimeout station s) :=
  outWf_next (State.ite_wf (State.stationDown_wf hs) hs)

theorem execLinkLevelAcknowledgement_wf {station : Nat} (hs : s.MemWf) : OutWf (execLinkLevelAcknowledgement station s) :=
  outWf_next (State.linkAck_wf hs)

/-! ### The network -/

theorem State.inFlight_wf {id : Nat} {k : Coll → State} (hs : s.MemWf) (hk : ∀ (x : Coll), (k x).MemWf) : (s.inFlight id k).MemWf := by
  unfold State.inFlight
  split
  · exact hs
  · exact State.ite_wf (hk _) hs

theorem State.exchange_wf {id rank : Nat} {params : CollParams} {data : List W8} (hs : s.MemWf) : (s.exchange id rank params data).MemWf :=
  State.inFlight_wf hs (fun _ => State.ite_wf hs (State.ite_wf (State.setColl_wf hs) (State.setColl_wf hs)))

theorem State.sendHeartbeats_wf {id : Nat} (hs : s.MemWf) : (s.sendHeartbeats id).MemWf :=
  State.inFlight_wf hs (fun _ => State.ite_wf hs (State.tellAll_wf (State.setColl_wf hs)))

theorem State.heartbeat_wf {id rank : Nat} (hs : s.MemWf) : (s.heartbeat id rank).MemWf :=
  State.inFlight_wf hs (fun _ => State.ite_wf (State.setColl_wf hs) hs)

theorem State.decideIfReady_wf {id : Nat} (hs : s.MemWf) : (s.decideIfReady id).MemWf :=
  State.inFlight_wf hs (fun _ => State.ite_wf (State.collDecide_wf hs) hs)

theorem State.declareLost_wf {id rank : Nat} (hs : s.MemWf) : (s.declareLost id rank).MemWf :=
  State.inFlight_wf hs (fun _ => State.ite_wf (State.decideIfReady_wf (State.collRound_wf hs)) hs)

theorem State.takeView_wf {id rank view : Nat} (hs : s.MemWf) : (s.takeView id rank view).MemWf :=
  State.inFlight_wf hs (fun _ => State.ite_wf hs (State.decideIfReady_wf (State.ite_wf (State.collRound_wf hs) (State.setColl_wf hs))))

theorem State.coordinatorWaited_wf {id : Nat} (hs : s.MemWf) : (s.coordinatorWaited id).MemWf := by
  unfold State.coordinatorWaited
  refine State.inFlight_wf hs ?_
  intro _
  split
  · exact State.ite_wf (State.collDecide_wf hs) hs
  · exact hs

theorem State.receiveMask_wf {id rank mask : Nat} (hs : s.MemWf) : (s.receiveMask id rank mask).MemWf :=
  State.inFlight_wf hs (fun _ => State.ite_wf hs (State.setColl_wf hs))

theorem State.maskLate_wf {id : Nat} (hs : s.MemWf) : (s.maskLate id).MemWf := State.inFlight_wf hs (fun _ => State.ite_wf (State.setColl_wf hs) hs)

theorem State.endColl_wf {id : Nat} (hs : s.MemWf) : (s.endColl id).MemWf := by
  unfold State.endColl
  split
  · exact hs
  split
  · exact hs
  · exact State.reapFor_wf (State.collEnd_wf hs)

theorem State.windowPas_wf {w : Window} {root : Nat} {acc : Acc} {n k : Nat} (hs : s.MemWf) : (s.windowPas w root acc n k).2.MemWf := by
  induction n generalizing s acc k with
  | zero => exact hs
  | succ n ih =>
    rw [State.windowPas]
    split
    · next hx => exact pair_wf (State.translate_wf hs) hx
    · next hx =>
      have ht := pair_wf (State.translate_wf hs) hx
      split
      · exact ht
      split
      · next hz => exact pair_wf (ih ht) hz
      · next hz => exact pair_wf (ih ht) hz

theorem State.outsideWrite_wf {l : List (Nat × W8)} (hs : s.MemWf) : (s.outsideWrite l).MemWf :=
  State.foldl_wf (fun _ _ ht => State.putHome_wf _ _ (State.foldl_wf (fun _ _ hu => State.breakSeals_wf hu) ht)) hs

theorem State.outsideRead_wf {l : List Nat} (hs : s.MemWf) : (s.outsideRead l).MemWf := by
  unfold State.outsideRead
  dsimp only [State.MemWf]
  exact State.foldl_wf (fun _ _ ht => State.recallRange_wf _ _ ht) hs

theorem State.performReq_wf {r : PeerReq} {pas : List Nat} (hs : s.MemWf) : (s.performReq r pas).MemWf := by
  unfold State.performReq
  split
  · exact State.outsideRead_wf hs
  · dsimp only [State.MemWf]
    exact State.outsideWrite_wf hs
  dsimp only [State.MemWf]
  exact State.atomAt_wf (State.breakSeals_wf hs)

theorem State.peerServe_wf {r : PeerReq} (hs : s.MemWf) : (s.peerServe r).MemWf := by
  unfold State.peerServe
  split
  · dsimp only
    split
    · exact hs
    split
    · exact hs
    split
    · split
      · exact hs
      split
      · next hb =>
        dsimp only [State.MemWf]
        exact pair_wf (State.windowPas_wf hs) hb
      · next hb => exact State.performReq_wf (pair_wf (State.windowPas_wf hs) hb)
    split
    · exact hs
    split
    · next hc =>
      dsimp only [State.MemWf]
      exact pair_wf (State.windowPas_wf hs) hc
    · next hc => exact State.performReq_wf (pair_wf (State.windowPas_wf hs) hc)

theorem State.peerAsks_wf {r : PeerReq} (hs : s.MemWf) : (s.peerAsks r).MemWf := State.flit_wf (State.peerServe_wf hs)

theorem State.hostAct_wf {a : HostAcc} (hs : s.MemWf) : (s.hostAct a).MemWf := by
  unfold State.hostAct
  split
  · exact State.ite_wf (State.outsideRead_wf hs) hs
  split
  · dsimp only [State.MemWf]
    exact State.outsideWrite_wf hs
  · exact hs

theorem execCollectiveExchange_wf {coll rank : Nat} {params : CollParams} {data : List W8} (hs : s.MemWf) :
    OutWf (execCollectiveExchange coll rank params data s) :=
  outWf_next (State.exchange_wf hs)

theorem execHeartbeatSend_wf {coll : Nat} (hs : s.MemWf) : OutWf (execHeartbeatSend coll s) := outWf_next (State.sendHeartbeats_wf hs)
theorem execHeartbeatReceive_wf {coll rank : Nat} (hs : s.MemWf) : OutWf (execHeartbeatReceive coll rank s) := outWf_next (State.heartbeat_wf hs)
theorem execMemberLost_wf {coll rank : Nat} (hs : s.MemWf) : OutWf (execMemberLost coll rank s) := outWf_next (State.declareLost_wf hs)
theorem execViewMessage_wf {coll rank view : Nat} (hs : s.MemWf) : OutWf (execViewMessage coll rank view s) := outWf_next (State.takeView_wf hs)
theorem execCoordinatorTimeout_wf {coll : Nat} (hs : s.MemWf) : OutWf (execCoordinatorTimeout coll s) := outWf_next (State.coordinatorWaited_wf hs)

theorem execFinalMaskReceive_wf {coll rank mask : Nat} (hs : s.MemWf) : OutWf (execFinalMaskReceive coll rank mask s) :=
  outWf_next (State.receiveMask_wf hs)

theorem execFinalMaskTimeout_wf {coll : Nat} (hs : s.MemWf) : OutWf (execFinalMaskTimeout coll s) := outWf_next (State.maskLate_wf hs)
theorem execCollectiveCompletion_wf {coll : Nat} (hs : s.MemWf) : OutWf (execCollectiveCompletion coll s) := outWf_next (State.endColl_wf hs)
theorem execPeerInboundRequest_wf {r : PeerReq} (hs : s.MemWf) : OutWf (execPeerInboundRequest r s) := outWf_next (State.peerAsks_wf hs)
theorem execHostAccess_wf {a : HostAcc} (hs : s.MemWf) : OutWf (execHostAccess a s) := outWf_next (State.hostAct_wf hs)

/-! ### Placing -/

theorem State.expireBin_wf {p n : Nat} (hs : s.MemWf) : (s.expireBin p n).MemWf := by
  unfold State.expireBin
  split
  · exact hs
  · exact State.ite_wf (State.placeBin_wf (State.modCore_wf hs)) hs

theorem State.placeMesh_wf {gid : Nat} (hs : s.MemWf) : (s.placeMesh gid).MemWf := by
  unfold State.placeMesh
  split
  · exact hs
  split
  · refine State.reap_wf (State.modGath_wf ?_)
    split
    · exact State.copyBytes_wf (State.addQuires_wf (State.addGathering_wf hs))
    · exact State.addQuires_wf (State.addGathering_wf hs)
  · exact hs

theorem State.createPending_wf {gid : Nat} (hs : s.MemWf) : (s.createPending gid).MemWf := by
  unfold State.createPending
  split
  · exact hs
  split
  · next ha => exact State.addQuire_wf (State.modGath_wf ((State.join_wf hs).some ha))
  · exact hs

theorem State.clearTiles_wf {c : Context} {t : Target} (hs : s.MemWf) : (s.clearTiles c t).MemWf := by
  unfold State.clearTiles
  dsimp only [State.MemWf]
  exact Memory.foldl_wf (fun _ _ ht => Memory.writeClean_wf _ _ ht) hs

theorem State.prepareTiles_wf {v : Volume} (hs : s.MemWf) : (s.prepareTiles v).MemWf := by
  unfold State.prepareTiles
  split
  · exact State.ite_wf (State.clearTiles_wf hs) hs
  · exact hs

theorem State.placeFirst_wf {isOpen : Nat → Bool} {oldest : Bool} {l : List (Nat × Volume)} {t : State} (hs : s.MemWf)
    (h : s.placeFirst isOpen oldest l = .done t) : t.MemWf := by
  induction l generalizing oldest with
  | nil => cases h
  | cons a l ih =>
    rw [State.placeFirst] at h
    split at h
    · cases h
      exact State.modVol_wf (State.foldl_wf (fun _ _ ht => State.putSpan_wf ht) (State.prepareTiles_wf hs))
    split at h
    · cases h
    · exact ih h

theorem State.placeClasses_wf {n c : Nat} (hs : s.MemWf) : OptWf (s.placeClasses n c) := by
  induction n generalizing c with
  | zero => exact optWf_none
  | succ n ih =>
    rw [State.placeClasses]
    split
    · exact ih
    split
    · exact optWf_none
    split
    · next hx => exact optWf_some (State.placeFirst_wf hs hx)
    · exact optWf_none
    · exact ih

theorem State.askUnits_wf {fits : State → Bool} {l : List Nat} (hs : s.MemWf) : (State.askUnits fits l s).MemWf := by
  induction l generalizing s with
  | nil => exact hs
  | cons a l ih => exact State.ite_wf hs (ih (State.ite_wf hs (State.requestPreemption_wf hs)))

theorem State.askFor_wf {v : Volume} (hs : s.MemWf) : (s.askFor v).MemWf := by
  unfold State.askFor
  split
  · exact hs
  · exact State.askUnits_wf hs

theorem State.askAll_wf (hs : s.MemWf) : s.askAll.MemWf := State.foldl_wf (fun _ _ ht => State.askFor_wf ht) hs

theorem State.placeNext_wf (hs : s.MemWf) : s.placeNext.MemWf := by
  unfold State.placeNext
  split
  · next hx => exact (State.placeClasses_wf hs).some hx
  · exact State.askAll_wf hs

theorem State.reshrink_wf (hs : s.MemWf) : s.reshrink.MemWf := hs
theorem execGatheringPlacement_wf (hs : s.MemWf) : OutWf (execGatheringPlacement s) := outWf_next (State.placeNext_wf hs)
theorem execBinQuirePlacement_wf {core bin : Nat} (hs : s.MemWf) : OutWf (execBinQuirePlacement core bin s) := outWf_next (State.placeBin_wf hs)
theorem execBinTimerExpiry_wf {core bin : Nat} (hs : s.MemWf) : OutWf (execBinTimerExpiry core bin s) := outWf_next (State.expireBin_wf hs)
theorem execMeshGatheringPlacement_wf {gath : Nat} (hs : s.MemWf) : OutWf (execMeshGatheringPlacement gath s) := outWf_next (State.placeMesh_wf hs)
theorem execPendingQuireCreation_wf {gath : Nat} (hs : s.MemWf) : OutWf (execPendingQuireCreation gath s) := outWf_next (State.createPending_wf hs)

/-! ### Pixels -/

theorem State.resolvePixel_wf {vid serial : Nat} (hs : s.MemWf) : (s.resolvePixel vid serial).MemWf := by
  unfold State.resolvePixel
  split
  · exact hs
  split
  · split
    · exact hs
    dsimp only
    split
    · exact State.modVol_wf hs
    · exact State.modVol_wf (State.putMarked_wf (State.homeNum_wf hs))
  · exact hs

theorem State.makeFinal_wf {vid : Nat} {c : Context} {r : Render} (hs : s.MemWf) : (s.makeFinal vid c r).MemWf := State.modVol_wf hs

theorem State.clearPixel_wf {vid : Nat} {v : Volume} {c : Context} {r : Render} (hs : s.MemWf) : (s.clearPixel vid v c r).MemWf := by
  unfold State.clearPixel
  split
  · exact hs
  split
  · exact hs
  dsimp only
  split
  · next hz => exact State.addFault_wf (pair_wf (State.engineSpots_wf hs) hz)
  · next hz => exact State.modVol_wf (State.engineWrite_wf (pair_wf (State.engineSpots_wf hs) hz))

theorem State.spawnPixel_wf {vid : Nat} {v : Volume} {c : Context} {r : Render} (hs : s.MemWf) : (s.spawnPixel vid v c r).MemWf := by
  unfold State.spawnPixel
  dsimp only
  split
  · exact State.modVol_wf hs
  split
  · exact hs
  · next hy => exact State.modVol_wf ((State.enterBin_wf hs).some hy)

theorem State.finality_wf {vid : Nat} (hs : s.MemWf) : (s.finality vid).MemWf := by
  unfold State.finality
  split
  · exact hs
  split
  · exact State.ite_wf hs (State.ite_wf (State.ite_wf (State.makeFinal_wf hs) hs) (State.spawnPixel_wf (State.clearPixel_wf hs)))
  · exact hs

theorem execVisibilityResolve_wf {vol k : Nat} (hs : s.MemWf) : OutWf (execVisibilityResolve vol k s) := outWf_next (State.resolvePixel_wf hs)
theorem execTileFinality_wf {vol : Nat} (hs : s.MemWf) : OutWf (execTileFinality vol s) := outWf_next (State.finality_wf hs)

/-! ### Pre-emption -/

theorem State.reachPoint_wf {id : Nat} (hs : s.MemWf) : (s.reachPoint id).MemWf :=
  State.forQuire_wf hs (fun _ => State.ite_wf (State.modQuire_wf (State.rollback_wf hs)) hs)

theorem State.releaseCores_wf {cores : List Nat} (hs : s.MemWf) : (s.releaseCores cores).MemWf :=
  State.foldl_wf (fun _ _ ht => State.drainCore_wf ht) hs

theorem State.takeBins_wf {gid : Nat} {g : Gathering} (hs : s.MemWf) : (s.takeBins gid g).MemWf :=
  State.ite_wf hs (State.modGath_wf (State.modCore_wf hs))

theorem State.writePool_wf {die cid off size : Nat} (hs : s.MemWf) : (s.writePool die cid off size).MemWf := by
  unfold State.writePool
  split
  · exact hs
  refine State.foldl_wf ?_ hs
  intro _ _ ht
  dsimp only
  split
  · next hy => exact pair_wf (State.translate_wf ht) hy
  · next hy =>
    have hu := pair_wf (State.translate_wf ht) hy
    exact State.ite_wf hu (State.bump_wf (State.putHome_wf _ _ hu))

theorem State.saveGath_wf {cid gid : Nat} (hs : s.MemWf) : (s.saveGath cid gid).MemWf := by
  unfold State.saveGath
  split
  · exact State.writePool_wf (State.foldl_wf (fun _ _ ht => State.modQuire_wf ht) (State.takeBins_wf (State.setGath_wf hs)))
  · exact hs

theorem State.withdraw_wf {unit : List Nat} (hs : s.MemWf) : (s.withdraw unit).MemWf := by
  unfold State.withdraw
  refine State.foldl_wf ?_ hs
  intro _ _ ht
  split
  · exact ht
  · exact State.foldl_wf (fun _ _ hu => State.modQuire_wf hu) (State.setGath_wf ht)

theorem State.saveUnit_wf {gid : Nat} (hs : s.MemWf) : (s.saveUnit gid).MemWf := by
  unfold State.saveUnit
  extract_lets _ _ _ t
  have ht : t.MemWf := State.releaseCores_wf hs
  split
  · exact hs
  split
  · exact ht
  split
  · exact ht
  · exact State.ite_wf (State.withdraw_wf ht) (State.foldl_wf (fun _ _ ht => State.saveGath_wf ht) ht)

theorem State.fillPortion_wf {pcore base size : Nat} {l : List SavedByte} (hs : s.MemWf) : (s.fillPortion pcore base size l).MemWf := by
  unfold State.fillPortion
  dsimp only [State.MemWf]
  exact Memory.foldl_wf (fun _ _ ht => Memory.setBad_wf _ _ (Memory.setByte_wf _ _ ht))
    (Memory.foldl_wf (fun _ _ ht => Memory.setByte_wf _ _ ht) (Memory.clear_wf _ _ hs))

theorem State.returnQuire_wf {p : Nat} {x : Nat × Nat} (hs : s.MemWf) : (s.returnQuire p x).MemWf := State.modQuire_wf hs

theorem State.returnGath_wf {r : Return'} (hs : s.MemWf) : (s.returnGath r).1.MemWf := by
  unfold State.returnGath
  split
  · exact hs
  · exact State.foldl_wf (fun _ _ ht => State.modCore_wf ht) (State.acquire_wf
      (State.foldl_wf (fun _ _ ht => State.returnQuire_wf ht) (State.setGath_wf (State.fresh_wf (State.fillPortion_wf hs)))))

theorem State.rekey_wf {unit : List Nat} {m : Moves} (hs : s.MemWf) : (s.rekey unit m).MemWf := by
  unfold State.rekey
  refine State.foldl_wf ?_ hs
  intro _ _ ht
  split
  · exact ht
  · exact State.foldl_wf (fun _ _ hu => State.modQuire_wf hu) (State.setGath_wf ht)

theorem State.returnUnit_wf {gid : Nat} (hs : s.MemWf) : (s.returnUnit gid).MemWf := by
  unfold State.returnUnit
  split
  · refine State.ite_wf hs (State.rekey_wf (foldl_fst_wf (fun _ _ ht => ?_) hs))
    exact State.returnGath_wf ht
  · exact hs

theorem State.leaveBegin_wf {cid : Nat} (hs : s.MemWf) : (s.leaveBegin cid).MemWf := by
  unfold State.leaveBegin
  refine State.foldl_wf ?_ (State.modCtx_wf hs)
  intro _ _ ht
  split
  · exact State.ite_wf (State.requestPreemption_wf ht) ht
  · exact ht

theorem State.leaveEnd_wf {cid : Nat} (hs : s.MemWf) : (s.leaveEnd cid).MemWf := by
  unfold State.leaveEnd
  split
  · exact hs
  split
  · exact hs
  extract_lets t _ u
  have ht : t.MemWf := State.foldl_wf (fun _ _ ht => State.recallCore_wf _ _ ht) hs
  have hu : u.MemWf := State.writePool_wf (State.setCtx_wf ht)
  exact State.ite_wf ht hu

theorem State.enterSlot_wf {cid : Nat} {c : Context} (hs : s.MemWf) : (s.enterSlot cid c).MemWf := by
  unfold State.enterSlot
  refine State.setCtx_wf ?_
  dsimp only [State.MemWf]
  exact Memory.foldl_wf (fun _ _ ht => Memory.setBad_wf _ _ ht) (Memory.foldl_wf (fun _ _ ht => Memory.setByte_wf _ _ ht) (Memory.only_wf _ hs))

theorem State.switchIn_wf {cid : Nat} {late : Bool} (hs : s.MemWf) : (s.switchIn cid late).MemWf := by
  unfold State.switchIn
  split
  · exact hs
  split
  · exact hs
  extract_lets t
  have ht : t.MemWf := State.foldl_wf (fun _ _ ht => State.leaveEnd_wf (State.leaveBegin_wf ht)) hs
  split
  · exact State.enterSlot_wf ht
  split
  · exact ht
  split
  · exact ht
  · exact State.leaveEnd_wf (State.leaveBegin_wf ht)

theorem execPreemptionTimeout_wf {quire : Nat} (hs : s.MemWf) : OutWf (execPreemptionTimeout quire s) := outWf_next (State.reachPoint_wf hs)
theorem execUnitSave_wf {gath : Nat} (hs : s.MemWf) : OutWf (execUnitSave gath s) := outWf_next (State.saveUnit_wf hs)
theorem execUnitRestore_wf {gath : Nat} (hs : s.MemWf) : OutWf (execUnitRestore gath s) := outWf_next (State.returnUnit_wf hs)

theorem State.holdoffEnds_wf {gid : Nat} (hs : s.MemWf) : (s.holdoffEnds gid).MemWf := by
  unfold State.holdoffEnds
  split
  · exact hs
  · exact State.ite_wf hs (State.ite_wf (State.requestPreemption_wf (State.setGath_wf hs)) (State.setGath_wf hs))

theorem execPreemptionHoldoffExpiry_wf {gath : Nat} (hs : s.MemWf) : OutWf (execPreemptionHoldoffExpiry gath s) :=
  outWf_next (State.holdoffEnds_wf hs)

theorem execContextSwitchIn_wf {ctx : Nat} (hs : s.MemWf) : OutWf (execContextSwitchIn ctx s) := outWf_next (State.switchIn_wf hs)

theorem execCandidateWaitExpiry_wf {ctx : Nat} (hs : s.MemWf) : OutWf (execCandidateWaitExpiry ctx s) :=
  outWf_next (State.ite_wf (State.switchIn_wf hs) hs)

/-! ### Containment -/

theorem State.countEvent_wf {key : Nat} (hs : s.MemWf) : (s.countEvent key).2.MemWf := hs
theorem State.moveAsqs_wf {p : Nat} (hs : s.MemWf) : (s.moveAsqs p).MemWf := hs

theorem State.retireCore_wf {p : Nat} (hs : s.MemWf) : (s.retireCore p).MemWf := by
  unfold State.retireCore
  split
  · exact hs
  refine State.foldl_wf (fun _ _ ht => State.requestPreemption_wf ht) (State.mapChange_wf ?_)
  dsimp only [State.MemWf]
  exact State.moveAsqs_wf hs

theorem State.retireLane_wf {p part n seq ctx mode : Nat} (hs : s.MemWf) : (s.retireLane p part n seq ctx mode).MemWf := by
  unfold State.retireLane
  dsimp only
  split
  · exact State.retireCore_wf (State.errorRecord_wf hs)
  · exact State.errorRecord_wf (State.foldl_wf (fun _ _ ht => State.modQuire_wf ht) hs)

theorem State.copyLane_wf {id : Nat} (hs : s.MemWf) : (s.copyLane id).MemWf :=
  State.forQuire_wf hs (fun _ => State.ite_wf (State.modQuire_wf (State.rollback_wf hs)) hs)

theorem State.damageWord_wf {w : Nat} (hs : s.MemWf) : (s.damageWord w).MemWf := by
  unfold State.damageWord
  dsimp only [State.MemWf]
  exact Memory.setBad_wf _ _ (Memory.setNum_wf _ _ _ hs)

theorem State.damageIn_wf {array core w : Nat} (hs : s.MemWf) : (s.damageIn array core w).MemWf :=
  State.ite_wf (State.bump_wf (State.modCore_wf hs)) (State.ite_wf (State.bump_wf (State.modCore_wf hs)) (State.damageWord_wf hs))

theorem State.loseWord_wf {w : Nat} (hs : s.MemWf) : (s.loseWord w).MemWf := by
  unfold State.loseWord
  dsimp only [State.MemWf]
  exact State.damageWord_wf hs

theorem State.retireWay_wf {array core bank way : Nat} (hs : s.MemWf) : (s.retireWay array core bank way).MemWf := by
  unfold State.retireWay
  dsimp only
  split
  · exact State.errorRecord_wf hs
  split
  · exact State.retireCore_wf (State.errorRecord_wf hs)
  refine State.errorRecord_wf ?_
  dsimp only [State.MemWf]
  exact State.bump_wf (State.ite_wf (State.modCore_wf (State.recallCore_wf _ _ hs)) (State.ite_wf (State.modCore_wf hs) hs))

theorem State.countWay_wf {x : CacheWay} {act : State → Nat → State} (hs : s.MemWf) (hk : ∀ (t : State) (x : Nat), t.MemWf → (act t x).MemWf) :
    (s.countWay x act).MemWf := by
  unfold State.countWay
  split
  · exact hk _ _ hs
  extract_lets t u
  have ht : t.2.MemWf := State.countEvent_wf hs
  have hu : u.MemWf := hk _ _ ht
  exact State.ite_wf (State.retireWay_wf hu) hu

theorem State.wayEvent_wf {x : CacheWay} {corrected : Bool} {w : Nat} (hs : s.MemWf) : (s.wayEvent x corrected w).MemWf :=
  State.ite_wf hs (State.countWay_wf hs (fun _ _ ht => State.errorRecord_wf (State.ite_wf ht (State.damageIn_wf ht))))

theorem State.pathError_wf {id : Nat} {x : PathErr} (hs : s.MemWf) : (s.pathError id x).MemWf := by
  unfold State.pathError
  refine State.forQuire_wf hs fun e => ?_
  extract_lets p counted r t u
  have hr : r.2.MemWf := by
    unfold r counted
    split
    · exact State.countEvent_wf hs
    · exact hs
  have ht : t.MemWf := State.ite_wf (State.withdraw_wf hr) hr
  have hu : u.MemWf := by
    unfold u
    split
    · exact State.countWay_wf ht fun _ _ hv => State.datapathError_wf hv
    · exact State.datapathError_wf ht
  split
  · exact hs
  unfold counted
  split
  · exact State.ite_wf (State.retireLane_wf hu) hu
  · exact hu

theorem State.retireRow_wf {pa source : Nat} (hs : s.MemWf) : (s.retireRow pa source).MemWf :=
  State.ite_wf (State.errorRecord_wf hs) (State.errorRecord_wf hs)

theorem State.sectorEvent_wf {pa : Nat} {corrected : Bool} (hs : s.MemWf) : (s.sectorEvent pa corrected).MemWf := by
  unfold State.sectorEvent
  split
  · exact hs
  extract_lets _ t _ u v
  have ht : t.MemWf := State.ite_wf hs (State.foldl_wf (fun _ _ ht => State.damageWord_wf ht) hs)
  have hu : u.2.MemWf := State.countEvent_wf ht
  have hv : v.MemWf := State.errorRecord_wf hu
  exact State.ite_wf (State.retireRow_wf hv) hv

theorem State.loseLaunch_wf {on : Nat → Bool} {loc count : Nat} {a : List Nat × State} {vid : Nat} (hs : a.2.MemWf) :
    (State.loseLaunch on loc count a vid).2.MemWf := by
  unfold State.loseLaunch
  dsimp only
  split
  · exact hs
  split
  · exact hs
  split
  · exact State.sealedReplay_wf hs
  · exact State.endLaunch_wf (State.errorRecord_wf hs)

theorem State.lost_wf {on : Nat → Bool} {words : List Nat} {loc count : Nat} (hs : s.MemWf) : (s.lost on words loc count).MemWf :=
  foldl_snd_wf (fun _ _ ht => State.loseLaunch_wf ht) (State.foldl_wf (fun _ _ ht => State.errorRecord_wf (State.loseWord_wf ht)) hs)

theorem State.spoilResult_wf {id k : Nat} (hs : s.MemWf) : (s.spoilResult id k).MemWf := State.errorRecord_wf (State.bump_wf (State.modQuire_wf hs))

theorem State.ecc_wf {x : EccErr} (hs : s.MemWf) : (s.ecc x).MemWf := by
  unfold State.ecc
  split
  · exact State.wayEvent_wf hs
  · exact State.sectorEvent_wf hs
  · exact State.errorRecord_wf (State.bump_wf (State.ite_wf hs (State.damageWord_wf hs)))
  · split
    · exact hs
    split
    · exact State.countWay_wf hs (fun _ _ ht => State.errorRecord_wf ht)
    · exact State.errorRecord_wf (State.bump_wf hs)
  · split
    · exact State.countWay_wf hs (fun _ _ ht => State.lost_wf ht)
    · exact State.lost_wf (State.bump_wf hs)
  · exact State.lost_wf (State.bump_wf hs)
  · exact State.ite_wf (State.spoilResult_wf hs) hs

theorem execDatapathError_wf {quire : Nat} {e : PathErr} (hs : s.MemWf) : OutWf (execDatapathError quire e s) := outWf_next (State.pathError_wf hs)
theorem execEccEvent_wf {e : EccErr} (hs : s.MemWf) : OutWf (execEccEvent e s) := outWf_next (State.ecc_wf hs)

theorem execPatrolScrub_wf {e : EccErr} (hs : s.MemWf) : OutWf (execPatrolScrub e s) := by
  unfold execPatrolScrub
  refine outWf_next ?_
  split
  · exact State.sectorEvent_wf hs
  · exact hs

theorem execLaneRemapTimeout_wf {quire : Nat} (hs : s.MemWf) : OutWf (execLaneRemapTimeout quire s) := outWf_next (State.copyLane_wf hs)

/-! ### Faults resolved -/

theorem State.resolveQuire_wf {id entry : Nat} {v : Verdict} (hs : s.MemWf) : (s.resolveQuire id entry v).MemWf := by
  unfold State.resolveQuire
  refine State.forQuire_wf hs ?_
  intro _
  split
  · split
    · exact hs
    split
    · exact State.endLaunch_wf hs
    · exact State.ite_wf (State.wake_wf hs) (State.rollback_wf hs)
    · exact State.takeTrap_wf (State.wake_wf hs)
  · exact hs

theorem State.resolveDelivery_wf {id entry : Nat} {v : Verdict} (hs : s.MemWf) : (s.resolveDelivery id entry v).MemWf := by
  unfold State.resolveDelivery
  refine State.forQuire_wf hs ?_
  intro _
  split
  · split
    · exact hs
    split
    · exact State.endLaunch_wf hs
    · exact State.deliver_wf (State.wake_wf hs)
    · exact State.endLaunch_wf hs
  · exact hs

theorem State.resolveTransfer_wf {id entry code : Nat} {v : Verdict} (hs : s.MemWf) : (s.resolveTransfer id entry code v).MemWf := by
  unfold State.resolveTransfer
  dsimp only
  split
  · exact hs
  split
  · exact hs
  split
  · split
    · refine State.modColl_wf ?_
      dsimp only [State.MemWf]
      exact State.endLaunch_wf hs
    · exact State.ite_wf (State.reapFor_wf (State.xferEnd_wf (State.endLaunch_wf hs))) (State.endLaunch_wf hs)
  · exact State.ite_wf (State.xferStart_wf hs) hs
  split
  · exact State.modColl_wf hs
  · exact State.reapFor_wf (State.xferEnd_wf hs)

theorem State.resolveTree_wf {req entry code : Nat} {v : Verdict} (hs : s.MemWf) : (s.resolveTree req entry code v).MemWf := by
  unfold State.resolveTree
  split
  · exact hs
  split
  · exact hs
  split
  · exact State.endLaunch_wf hs
  · exact State.setTreq_wf hs
  extract_lets _ t u
  have ht : t.MemWf := State.settleTrees_wf hs
  have hu : u.MemWf := State.dropTrees_wf ht
  exact State.forQuire_wf hu (fun _ => State.ite_wf hu (State.ite_wf (State.endLaunch_wf (State.hostEvent_wf hu))
    (State.modQuire_wf (State.wake_wf hu))))

theorem State.resolveRecords_wf {vid code : Nat} {v : Verdict} (hs : s.MemWf) : (s.resolveRecords vid code v).MemWf := by
  unfold State.resolveRecords
  split
  · exact hs
  split
  · exact State.endLaunch_wf hs
  · exact State.endLaunch_wf hs
  split
  · exact hs
  · exact State.foldl_wf (fun _ _ ht => State.writeRecord_wf ht) hs

theorem State.resolveClears_wf {vid code : Nat} {v : Verdict} (hs : s.MemWf) : (s.resolveClears vid code v).MemWf := by
  unfold State.resolveClears
  split
  · exact State.endLaunch_wf hs
  · exact hs
  · exact State.modVol_wf hs

theorem State.resolveWaiter_wf {entry : Nat} {f : FaultEnt} {v : Verdict} {x : Waiter} (hs : s.MemWf) : (s.resolveWaiter entry f v x).MemWf := by
  unfold State.resolveWaiter
  split
  · exact State.resolveQuire_wf hs
  · exact State.resolveDelivery_wf hs
  · exact State.resolveTransfer_wf hs
  · exact State.resolveTree_wf hs
  · exact State.resolveRecords_wf hs
  · exact State.resolveClears_wf hs

theorem State.resolve_wf {cid entry res : Nat} (hs : s.MemWf) : (s.resolve cid entry res).MemWf := by
  unfold State.resolve
  split
  · exact hs
  split
  · exact hs
  split
  · exact hs
  extract_lets t u
  have ht : t.MemWf := State.setCtx_wf hs
  have hu : u.MemWf := State.foldl_wf (fun _ _ ht => State.resolveWaiter_wf ht) ht
  split
  · next ha => exact State.putHome_wf _ _ (pair_wf (State.translate_wf hu) ha)
  · next ha => exact pair_wf (State.translate_wf hu) ha

theorem State.retryFaults_wf {cid : Nat} (hs : s.MemWf) : (s.retryFaults cid).MemWf := by
  unfold State.retryFaults
  split
  · exact hs
  · exact State.foldl_wf (fun _ _ ht => State.writeFault_wf ht) hs

theorem execFaultEntryRetry_wf {ctx : Nat} (hs : s.MemWf) : OutWf (execFaultEntryRetry ctx s) := outWf_next (State.retryFaults_wf hs)
theorem execFaultResolution_wf {ctx entry res : Nat} (hs : s.MemWf) : OutWf (execFaultResolution ctx entry res s) := outWf_next (State.resolve_wf hs)

/-! ### Integer instructions -/

theorem State.icmp_wf {i : Instr} {x : Alu} (hs : s.MemWf) : OutWf (s.icmp i x) := State.perform_wf hs (fun _ => Env.alu_wf hs)

theorem State.sel_wf {i : Instr} {x : Alu} (hs : s.MemWf) : OutWf (s.sel i x) := by
  unfold State.sel
  refine State.perform_wf hs ?_
  intro _
  dsimp only
  split
  · exact Env.trapRes_wf hs
  · exact Env.alu_wf hs

theorem execIcmp_wf {f : FmtA} (hs : s.MemWf) : OutWf (execIcmp h f s) := State.icmp_wf hs
theorem execIcmpI_wf {f : FmtI} (hs : s.MemWf) : OutWf (execIcmpI h f s) := State.icmp_wf hs
theorem execSel_wf {f : FmtA} (hs : s.MemWf) : OutWf (execSel h f s) := State.sel_wf hs
theorem execSelI_wf {f : FmtI} (hs : s.MemWf) : OutWf (execSelI h f s) := State.sel_wf hs

/-! ### Management -/

theorem State.setClock_wf (hs : s.MemWf) : s.setClock.MemWf := State.ite_wf hs (State.ite_wf hs hs)
theorem State.writePower_wf {v : W64} (hs : s.MemWf) : (s.writePower v).MemWf := State.ite_wf hs hs
theorem State.writeClock_wf {v : W64} (hs : s.MemWf) : (s.writeClock v).MemWf := State.ite_wf hs (State.setClock_wf hs)
theorem State.writeEvents_wf {v : W64} (hs : s.MemWf) : (s.writeEvents v).MemWf := State.ite_wf hs hs
theorem State.writeErrors_wf {v : W64} (hs : s.MemWf) : (s.writeErrors v).MemWf := hs

theorem State.writeMg_wf {off : Nat} {v : W64} (hs : s.MemWf) : (s.writeMg off v).MemWf := by
  unfold State.writeMg
  split
  · exact State.writePower_wf hs
  · exact State.writeClock_wf hs
  · exact State.writeEvents_wf hs
  · exact State.writeErrors_wf hs
  · exact hs

theorem State.fallBack_wf (hs : s.MemWf) : s.fallBack.MemWf := State.ite_wf (State.hostEvent_wf hs) hs
theorem State.adapt_wf {step : Nat} (hs : s.MemWf) : (s.adapt step).MemWf := State.ite_wf hs hs

theorem State.outAtReset_wf (hs : s.MemWf) : s.outAtReset.MemWf :=
  State.ite_wf (State.bump_wf hs) (State.bump_wf (State.foldl_wf (fun _ _ ht => State.drainCore_wf ht) hs))

theorem State.verifyImage_wf (hs : s.MemWf) : s.verifyImage.MemWf := State.ite_wf hs hs
theorem State.managed_wf {k : State} (hs : s.MemWf) (ht : k.MemWf) : (s.managed k).MemWf := State.ite_wf ht hs

theorem State.restartFirmware_wf (hs : s.MemWf) : s.restartFirmware.MemWf := by
  unfold State.restartFirmware
  dsimp only
  split
  · refine State.hostEvent_wf (State.progressAll_wf (State.bump_wf (State.mapChange_wf ?_)))
    dsimp only [State.MemWf]
    exact State.verifyImage_wf hs
  · exact State.bump_wf (State.verifyImage_wf hs)

theorem State.heat_wf {die celsius : Nat} (hs : s.MemWf) : (s.heat die celsius).MemWf := State.setClock_wf hs

theorem State.resetDevice_wf (hs : s.MemWf) : s.resetDevice.MemWf := by
  have hout := State.outAtReset_wf hs
  unfold State.resetDevice
  extract_lets s' r t t' u
  have ht : t.MemWf := hout
  have hu : u.MemWf := State.ite_wf (State.verifyImage_wf ht) (State.verifyImage_wf ht)
  exact State.bump_wf (State.setClock_wf (State.progressAll_wf (State.mapChange_wf hu)))

theorem State.overheat_wf {die celsius : Nat} (hs : s.MemWf) : (s.overheat die celsius).MemWf :=
  State.ite_wf (State.resetDevice_wf (State.hostEvent_wf (State.heat_wf hs))) (State.heat_wf hs)

theorem State.finishCmd_wf {blk status : Nat} (hs : s.MemWf) : (s.finishCmd blk status).MemWf := State.putHome_wf _ _ hs
theorem State.unfinished_wf {c : Cmd} (hs : s.MemWf) : (s.unfinished c).MemWf := hs

theorem State.register_wf {blk rec : Nat} (hs : s.MemWf) : (s.register blk rec).MemWf := by
  have ht := State.recallRange_wf rec 128 hs
  unfold State.register
  generalize s.recallRange rec 128 = t at ht ⊢
  dsimp only
  split
  · exact State.finishCmd_wf ht
  split
  · refine State.finishCmd_wf (State.putHome_wf _ _ (State.setCtx_wf ?_))
    exact Memory.foldl_wf (fun _ _ hm => Memory.clear_wf _ _ hm) ht
  · exact State.finishCmd_wf ht

theorem State.forget_wf {cid : Nat} (hs : s.MemWf) : (s.forget cid).MemWf := hs

theorem State.releaseCtx_wf {blk cid : Nat} (hs : s.MemWf) : (s.releaseCtx blk cid).MemWf := by
  unfold State.releaseCtx
  split
  · exact State.finishCmd_wf hs
  extract_lets t u
  have ht : t.MemWf := State.foldl_wf (fun _ _ ht => State.endLaunch_wf ht) hs
  have hu : u.MemWf := State.foldl_wf (fun _ _ ht => State.completeVolume_wf ht) ht
  exact State.ite_wf (State.unfinished_wf hu) (State.finishCmd_wf (State.forget_wf hu))

theorem State.enable_wf {blk cid q : Nat} (hs : s.MemWf) : (s.enable blk cid q).MemWf := by
  unfold State.enable
  split
  · exact State.finishCmd_wf hs
  split
  · exact State.finishCmd_wf hs
  split
  · next hz => exact State.finishCmd_wf (pair_wf (State.translate_wf hs) hz)
  · next hz =>
    extract_lets t
    have ht : t.MemWf := State.recallRange_wf _ _ (pair_wf (State.translate_wf hs) hz)
    exact State.ite_wf (State.finishCmd_wf ht) (State.ite_wf (State.finishCmd_wf ht) (State.finishCmd_wf (State.progress_wf ht)))

theorem State.disable_wf {blk cid q : Nat} (hs : s.MemWf) : (s.disable blk cid q).MemWf := by
  unfold State.disable
  split
  · exact State.finishCmd_wf hs
  · exact State.finishCmd_wf (State.progress_wf (State.modQueue_wf hs))

theorem State.invalidatePages_wf {blk cid : Nat} {va : W64} {pages : Nat} (hs : s.MemWf) : (s.invalidatePages blk cid va pages).MemWf := by
  unfold State.invalidatePages
  split
  · exact State.finishCmd_wf hs
  · exact State.ite_wf (State.unfinished_wf hs) (State.finishCmd_wf (State.retryFaults_wf hs))

theorem State.writePeer_wf {blk i : Nat} {v : W64} (hs : s.MemWf) : (s.writePeer blk i v).MemWf :=
  State.ite_wf (State.finishCmd_wf hs) (State.finishCmd_wf (State.markLost_wf hs))

theorem State.writeWindow_wf {blk i cid : Nat} {va : W64} {len : Nat} {w : Bool} (hs : s.MemWf) : (s.writeWindow blk i cid va len w).MemWf :=
  State.ite_wf (State.finishCmd_wf hs) (State.finishCmd_wf hs)

theorem State.raiseStations_wf {blk mask : Nat} (hs : s.MemWf) : (s.raiseStations blk mask).MemWf := State.finishCmd_wf hs

theorem State.stop_wf {blk : Nat} {t : DbgTarget} (hs : s.MemWf) : (s.stop blk t).MemWf := by
  unfold State.stop
  extract_lets _ u
  have hu : u.MemWf := State.foldl_wf (fun _ _ ht => State.modQuire_wf ht) hs
  exact State.ite_wf (State.finishCmd_wf hs) (State.ite_wf (State.finishCmd_wf hu) (State.unfinished_wf hu))

theorem State.resume_wf {blk : Nat} {t : DbgTarget} {step : Bool} (hs : s.MemWf) : (s.resume blk t step).MemWf :=
  State.ite_wf (State.finishCmd_wf hs) (State.finishCmd_wf (State.foldl_wf (fun _ _ ht => State.modQuire_wf ht) hs))

theorem State.dbgMemory_wf {sp : Space} {ea base index lane : Nat} (hs : s.MemWf) : (s.dbgMemory e sp ea base index lane).2.MemWf := by
  unfold State.dbgMemory
  dsimp only
  split
  · exact hs
  split
  · split
    · exact hs
    split
    · next ha => exact pair_wf (State.xl_wf hs) ha
    · next ha =>
      have ht := pair_wf (State.xl_wf hs) ha
      split
      · exact ht
      · exact State.readKeys_wf ht
  split
  · exact hs
  · exact State.readKeys_wf hs

theorem State.debugRead_wf {blk id : Nat} {r : DbgReg} (hs : s.MemWf) : (s.debugRead blk id r).MemWf := by
  unfold State.debugRead
  split
  · exact State.finishCmd_wf hs
  split
  · exact State.finishCmd_wf hs
  dsimp only
  split
  · next hz =>
    refine State.finishCmd_wf (pair_wf ?_ hz)
    split
    · exact State.dbgMemory_wf hs
    · exact hs
  · next hz =>
    refine State.finishCmd_wf ?_
    dsimp only [State.MemWf]
    refine pair_wf ?_ hz
    split
    · exact State.dbgMemory_wf hs
    · exact hs

theorem State.debugWrite_wf {blk id : Nat} {r : DbgReg} {v : Nat} (hs : s.MemWf) : (s.debugWrite blk id r v).MemWf := by
  unfold State.debugWrite
  split
  · exact State.finishCmd_wf hs
  split
  · exact State.finishCmd_wf hs
  split
  · exact State.finishCmd_wf (State.modQuire_wf hs)
  split
  · exact State.finishCmd_wf hs
  split
  · exact State.finishCmd_wf hs
  · next hb => exact State.finishCmd_wf (State.modQuire_wf ((State.mapNames_wf hs).some hb))

theorem State.attestTo_wf {blk : Nat} {nonce : List W8} {pa : Nat} (hs : s.MemWf) : (s.attestTo blk nonce pa).MemWf :=
  State.ite_wf (State.finishCmd_wf hs) (State.ite_wf (State.finishCmd_wf hs) (State.finishCmd_wf (State.putHome_wf _ _ hs)))

theorem State.readTable_wf {blk : Nat} {t : RemapSel} (hs : s.MemWf) : (s.readTable blk t).MemWf := by
  unfold State.readTable
  split
  · exact State.finishCmd_wf hs
  · exact State.finishCmd_wf hs

theorem State.resumeCmd_wf (hs : s.MemWf) : s.resumeCmd.MemWf := by
  unfold State.resumeCmd
  dsimp only
  split
  · exact hs
  · exact State.releaseCtx_wf hs
  · exact State.invalidatePages_wf hs
  · exact State.stop_wf hs

theorem execDeviceReset_wf (hs : s.MemWf) : OutWf (execDeviceReset s) := outWf_next (State.resetDevice_wf hs)
theorem execControlProcessorRestart_wf (hs : s.MemWf) : OutWf (execControlProcessorRestart s) := outWf_next (State.restartFirmware_wf hs)
theorem execMgPower_wf {v : W64} (hs : s.MemWf) : OutWf (execMgPower v s) := outWf_next (State.managed_wf hs (State.writePower_wf hs))
theorem execMgClock_wf {v : W64} (hs : s.MemWf) : OutWf (execMgClock v s) := outWf_next (State.managed_wf hs (State.writeClock_wf hs))
theorem execClockModeFallback_wf (hs : s.MemWf) : OutWf (execClockModeFallback s) := outWf_next (State.fallBack_wf hs)
theorem execAdaptiveClockStep_wf {step : Nat} (hs : s.MemWf) : OutWf (execAdaptiveClockStep step s) := outWf_next (State.adapt_wf hs)
theorem execThermalThrottle_wf {die celsius : Nat} (hs : s.MemWf) : OutWf (execThermalThrottle die celsius s) := outWf_next (State.heat_wf hs)
theorem execThermalReset_wf {die celsius : Nat} (hs : s.MemWf) : OutWf (execThermalReset die celsius s) := outWf_next (State.overheat_wf hs)
theorem execMgEvents_wf {v : W64} (hs : s.MemWf) : OutWf (execMgEvents v s) := outWf_next (State.managed_wf hs (State.writeEvents_wf hs))
theorem execMgErrors_wf {v : W64} (hs : s.MemWf) : OutWf (execMgErrors v s) := outWf_next (State.managed_wf hs (State.writeErrors_wf hs))

theorem execMgRegisterWrite_wf {off : Nat} {v : W64} (hs : s.MemWf) : OutWf (execMgRegisterWrite off v s) :=
  outWf_next (State.managed_wf hs (State.writeMg_wf hs))

theorem execRegisterContext_wf {blk rec : Nat} (hs : s.MemWf) : OutWf (execRegisterContext blk rec s) :=
  outWf_next (State.managed_wf hs (State.register_wf hs))

theorem execReleaseContext_wf {blk slot : Nat} (hs : s.MemWf) : OutWf (execReleaseContext blk slot s) :=
  outWf_next (State.managed_wf hs (State.releaseCtx_wf hs))

theorem execEnableQueue_wf {blk slot q : Nat} (hs : s.MemWf) : OutWf (execEnableQueue blk slot q s) :=
  outWf_next (State.managed_wf hs (State.enable_wf hs))

theorem execDisableQueue_wf {blk slot q : Nat} (hs : s.MemWf) : OutWf (execDisableQueue blk slot q s) :=
  outWf_next (State.managed_wf hs (State.disable_wf hs))

theorem execInvalidate_wf {blk slot : Nat} {va : W64} {pages : Nat} (hs : s.MemWf) : OutWf (execInvalidate blk slot va pages s) :=
  outWf_next (State.managed_wf hs (State.invalidatePages_wf hs))

theorem execPeerEntry_wf {blk idx : Nat} {v : W64} (hs : s.MemWf) : OutWf (execPeerEntry blk idx v s) :=
  outWf_next (State.managed_wf hs (State.writePeer_wf hs))

theorem execInboundWindow_wf {blk idx slot : Nat} {va : W64} {len : Nat} {w : Bool} (hs : s.MemWf) :
    OutWf (execInboundWindow blk idx slot va len w s) :=
  outWf_next (State.managed_wf hs (State.writeWindow_wf hs))

theorem execStationUp_wf {blk mask : Nat} (hs : s.MemWf) : OutWf (execStationUp blk mask s) :=
  outWf_next (State.managed_wf hs (State.raiseStations_wf hs))

theorem execDebugStop_wf {blk : Nat} {t : DbgTarget} (hs : s.MemWf) : OutWf (execDebugStop blk t s) :=
  outWf_next (State.managed_wf hs (State.stop_wf hs))

theorem execDebugResume_wf {blk : Nat} {t : DbgTarget} (hs : s.MemWf) : OutWf (execDebugResume blk t s) :=
  outWf_next (State.managed_wf hs (State.resume_wf hs))

theorem execDebugStep_wf {blk : Nat} {t : DbgTarget} (hs : s.MemWf) : OutWf (execDebugStep blk t s) :=
  outWf_next (State.managed_wf hs (State.resume_wf hs))

theorem execDebugRead_wf {blk quire : Nat} {r : DbgReg} (hs : s.MemWf) : OutWf (execDebugRead blk quire r s) :=
  outWf_next (State.managed_wf hs (State.debugRead_wf hs))

theorem execDebugWrite_wf {blk quire : Nat} {r : DbgReg} {v : Nat} (hs : s.MemWf) : OutWf (execDebugWrite blk quire r v s) :=
  outWf_next (State.managed_wf hs (State.debugWrite_wf hs))

theorem execAttest_wf {blk : Nat} {nonce : List W8} {pa : Nat} (hs : s.MemWf) : OutWf (execAttest blk nonce pa s) :=
  outWf_next (State.managed_wf hs (State.attestTo_wf hs))

theorem execReadRemap_wf {blk : Nat} {t : RemapSel} (hs : s.MemWf) : OutWf (execReadRemap blk t s) :=
  outWf_next (State.managed_wf hs (State.readTable_wf hs))

theorem execUnknownCommand_wf {blk code : Nat} (hs : s.MemWf) : OutWf (execUnknownCommand blk code s) :=
  outWf_next (State.managed_wf hs (State.ite_wf hs (State.finishCmd_wf hs)))

theorem execDriverPreemptionRequest_wf {blk gath : Nat} (hs : s.MemWf) : OutWf (execDriverPreemptionRequest blk gath s) := by
  unfold execDriverPreemptionRequest
  refine outWf_next (State.managed_wf hs ?_)
  split
  · exact State.ite_wf (State.finishCmd_wf hs) (State.finishCmd_wf (State.requestPreemption_wf hs))
  · exact State.finishCmd_wf hs

/-! ### Time -/

theorem State.lapseSeals_wf (hs : s.MemWf) : s.lapseSeals.MemWf := State.ite_wf hs hs
theorem State.countSweeps_wf (hs : s.MemWf) : s.countSweeps.MemWf := State.foldl_wf (fun _ _ ht => State.setQuire_wf (State.bump_wf ht)) hs

theorem State.pass_wf (hs : s.MemWf) : s.pass.MemWf := by
  unfold State.pass
  refine State.reshrink_wf ?_
  dsimp only [State.MemWf]
  exact State.countSweeps_wf (State.lapseSeals_wf hs)

/-! ### Steps -/

theorem finishMember_wf {id : Nat} {r : Out} (hr : OutWf r) : OutWf (finishMember id r) := by
  cases r with
  | next s => exact outWf_next (State.afterMember_wf (hr s rfl))
  | fault x => exact outWf_fault x
  | refused x => exact outWf_refused x

/-- An instruction on registers alone is its job (`exec_of_job`, `exec_of_cmpJob`); any other, and an external event, is its own function. -/
theorem exec_wf {i : Instr} (hs : s.MemWf) : OutWf (exec i s) := by
  cases hj : jobOf i with
  | some j =>
    rw [exec_of_job hj]
    exact State.aluOp_wf hs
  | none =>
  cases hc : cmpJob i with
  | some c =>
    rw [exec_of_cmpJob hc]
    exact State.perform_wf hs fun _ => Env.alu_wf hs
  | none =>
  cases i
  case nop => exact execNop_wf hs
  case bra => exact execBra_wf hs
  case brc => exact execBrc_wf hs
  case brx => exact execBrx_wf hs
  case call => exact execCall_wf hs
  case callx => exact execCallx_wf hs
  case ret => exact execRet_wf hs
  case reconv => exact execReconv_wf hs
  case loop => exact execLoop_wf hs
  case exit => exact execExit_wf hs
  case region => exact execRegion_wf hs
  case sigck => exact execSigck_wf hs
  case yield => exact execYield_wf hs
  case bkpt => exact execBkpt_wf hs
  case icmp => exact execIcmp_wf hs
  case icmpI => exact execIcmpI_wf hs
  case sel => exact execSel_wf hs
  case selI => exact execSelI_wf hs
  case cvtq => exact execCvtq_wf hs
  case bppack => exact execBppack_wf hs
  case bpunp => exact execBpunp_wf hs
  case plop => exact execPlop_wf hs
  case pmov => exact execPmov_wf hs
  case poll => exact execPoll_wf hs
  case xlane => exact execXlane_wf hs
  case redq => exact execRedq_wf hs
  case scanq => exact execScanq_wf hs
  case matchQ => exact execMatchQ_wf hs
  case sread => exact execSread_wf hs
  case swrite => exact execSwrite_wf hs
  case xset => exact execXset_wf hs
  case xadd => exact execXadd_wf hs
  case claim => exact execClaim_wf hs
  case surr => exact execSurr_wf hs
  case maskrd => exact execMaskrd_wf hs
  case pad => exact execPad_wf hs
  case unpad => exact execUnpad_wf hs
  case ubcast => exact execUbcast_wf hs
  case ld => exact execLd_wf hs
  case st => exact execSt_wf hs
  case ldro => exact execLdro_wf hs
  case pref => exact execPref_wf hs
  case cinv => exact execCinv_wf hs
  case cwb => exact execCwb_wf hs
  case lds => exact execLds_wf hs
  case sts => exact execSts_wf hs
  case ldacq => exact execLdacq_wf hs
  case strel => exact execStrel_wf hs
  case atom => exact execAtom_wf hs
  case red => exact execRed_wf hs
  case atoms => exact execAtoms_wf hs
  case fence => exact execFence_wf hs
  case barinit => exact execBarinit_wf hs
  case bararv => exact execBararv_wf hs
  case barwait => exact execBarwait_wf hs
  case bartry => exact execBartry_wf hs
  case trywait => exact execTrywait_wf hs
  case msync => exact execMsync_wf hs
  case attach => exact execAttach_wf hs
  case detach => exact execDetach_wf hs
  case spawn => exact execSpawn_wf hs
  case qpush => exact execQpush_wf hs
  case cpy => exact execCpy_wf hs
  case cpy2d => exact execCpy2d_wf hs
  case cpyt => exact execCpyt_wf hs
  case cpymc => exact execCpymc_wf hs
  case cpyout => exact execCpyout_wf hs
  case cpyfill => exact execCpyfill_wf hs
  case hset => exact execHset_wf hs
  case hwait => exact execHwait_wf hs
  case hdrain => exact execHdrain_wf hs
  case hfree => exact execHfree_wf hs
  case hstat => exact execHstat_wf hs
  case mma => exact execMma_wf hs
  case mmas => exact execMmas_wf hs
  case mmar => exact execMmar_wf hs
  case mldc => exact execMldc_wf hs
  case mstc => exact execMstc_wf hs
  case mzero => exact execMzero_wf hs
  case mact => exact execMact_wf hs
  case tex => exact execTex_wf hs
  case tld => exact execTld_wf hs
  case tgath => exact execTgath_wf hs
  case tqry => exact execTqry_wf hs
  case hgfetch => exact execHgfetch_wf hs
  case hgscat => exact execHgscat_wf hs
  case ntex => exact execNtex_wf hs
  case tpay => exact execTpay_wf hs
  case mvtx => exact execMvtx_wf hs
  case mprim => exact execMprim_wf hs
  case mdone => exact execMdone_wf hs
  case visrd => exact execVisrd_wf hs
  case attr => exact execAttr_wf hs
  case pixout => exact execPixout_wf hs
  case rayq => exact execRayq_wf hs
  case raynext => exact execRaynext_wf hs
  case rayacc => exact execRayacc_wf hs
  case rayend => exact execRayend_wf hs
  case rayget => exact execRayget_wf hs
  case asbuild => exact execAsbuild_wf hs
  case asinfo => exact execAsinfo_wf hs
  case tinit => exact execTinit_wf hs
  case tsel => exact execTsel_wf hs
  case texp => exact execTexp_wf hs
  case tback => exact execTback_wf hs
  case tleaf => exact execTleaf_wf hs
  case treuse => exact execTreuse_wf hs
  case tread => exact execTread_wf hs
  case coll => exact execColl_wf hs
  case collinfo => exact execCollinfo_wf hs
  case trap => exact execTrap_wf hs
  case trapcall => exact execTrapcall_wf hs
  case tret => exact execTret_wf hs
  case tkill => exact execTkill_wf hs
  case perf => exact execPerf_wf hs
  case decsel => exact execDecsel_wf hs
  case queueWake => exact execQueueWake_wf hs
  case dependencyWordWrite => exact execDependencyWordWrite_wf hs
  case signalPacketEffect => exact execSignalPacketEffect_wf hs
  case gatheringPlacement => exact execGatheringPlacement_wf hs
  case binQuirePlacement => exact execBinQuirePlacement_wf hs
  case binTimerExpiry => exact execBinTimerExpiry_wf hs
  case meshGatheringPlacement => exact execMeshGatheringPlacement_wf hs
  case pendingQuireCreation => exact execPendingQuireCreation_wf hs
  case volumeCompletion => exact execVolumeCompletion_wf hs
  case deviceReset => exact execDeviceReset_wf hs
  case controlProcessorRestart => exact execControlProcessorRestart_wf hs
  case lineFetch => exact execLineFetch_wf hs
  case loadDataReturn => exact execLoadDataReturn_wf hs
  case rowRefill => exact execRowRefill_wf hs
  case claimGrant => exact execClaimGrant_wf hs
  case tpaySlotTaken => exact execTpaySlotTaken_wf hs
  case qpushRingRoom => exact execQpushRingRoom_wf hs
  case barrierWake => exact execBarrierWake_wf hs
  case trywaitReevaluation => exact execTrywaitReevaluation_wf hs
  case trywaitTimeout => exact execTrywaitTimeout_wf hs
  case hwaitWake => exact execHwaitWake_wf hs
  case asqRequest => exact execAsqRequest_wf hs
  case asqReply => exact execAsqReply_wf hs
  case homeAccept => exact execHomeAccept_wf hs
  case storeAcknowledge => exact execStoreAcknowledge_wf hs
  case faultEntryRetry => exact execFaultEntryRetry_wf hs
  case faultResolution => exact execFaultResolution_wf hs
  case transferStart => exact execTransferStart_wf hs
  case transferPiece => exact execTransferPiece_wf hs
  case matrixResultLanding => exact execMatrixResultLanding_wf hs
  case engineResultReturn => exact execEngineResultReturn_wf hs
  case treeOperation => exact execTreeOperation_wf hs
  case treeResultLanding => exact execTreeResultLanding_wf hs
  case tleafAppend => exact execTleafAppend_wf hs
  case batchTimerExpiry => exact execBatchTimerExpiry_wf hs
  case visibilityResolve => exact execVisibilityResolve_wf hs
  case tileFinality => exact execTileFinality_wf hs
  case collectiveExchange => exact execCollectiveExchange_wf hs
  case heartbeatSend => exact execHeartbeatSend_wf hs
  case memberLost => exact execMemberLost_wf hs
  case viewMessage => exact execViewMessage_wf hs
  case coordinatorTimeout => exact execCoordinatorTimeout_wf hs
  case finalMaskReceive => exact execFinalMaskReceive_wf hs
  case finalMaskTimeout => exact execFinalMaskTimeout_wf hs
  case collectiveCompletion => exact execCollectiveCompletion_wf hs
  case stationReplayFailure => exact execStationReplayFailure_wf hs
  case stationAckTimeout => exact execStationAckTimeout_wf hs
  case peerCompletion => exact execPeerCompletion_wf hs
  case peerRequestTimeout => exact execPeerRequestTimeout_wf hs
  case peerInboundRequest => exact execPeerInboundRequest_wf hs
  case hostAccess => exact execHostAccess_wf hs
  case contextSwitchIn => exact execContextSwitchIn_wf hs
  case candidateWaitExpiry => exact execCandidateWaitExpiry_wf hs
  case preemptionTimeout => exact execPreemptionTimeout_wf hs
  case unitSave => exact execUnitSave_wf hs
  case unitRestore => exact execUnitRestore_wf hs
  case preemptionHoldoffExpiry => exact execPreemptionHoldoffExpiry_wf hs
  case datapathError => exact execDatapathError_wf hs
  case eccEvent => exact execEccEvent_wf hs
  case patrolScrub => exact execPatrolScrub_wf hs
  case laneRemapTimeout => exact execLaneRemapTimeout_wf hs
  case deadlockWatchdog => exact execDeadlockWatchdog_wf hs
  case externalWaitTimeout => exact execExternalWaitTimeout_wf hs
  case budgetExhausted => exact execBudgetExhausted_wf hs
  case trapcallReply => exact execTrapcallReply_wf hs
  case mgPower => exact execMgPower_wf hs
  case mgClock => exact execMgClock_wf hs
  case clockModeFallback => exact execClockModeFallback_wf hs
  case thermalThrottle => exact execThermalThrottle_wf hs
  case thermalReset => exact execThermalReset_wf hs
  case mgEvents => exact execMgEvents_wf hs
  case mgErrors => exact execMgErrors_wf hs
  case mgRegisterWrite => exact execMgRegisterWrite_wf hs
  case registerContext => exact execRegisterContext_wf hs
  case releaseContext => exact execReleaseContext_wf hs
  case enableQueue => exact execEnableQueue_wf hs
  case disableQueue => exact execDisableQueue_wf hs
  case invalidate => exact execInvalidate_wf hs
  case peerEntry => exact execPeerEntry_wf hs
  case inboundWindow => exact execInboundWindow_wf hs
  case stationUp => exact execStationUp_wf hs
  case debugStop => exact execDebugStop_wf hs
  case debugResume => exact execDebugResume_wf hs
  case debugStep => exact execDebugStep_wf hs
  case debugRead => exact execDebugRead_wf hs
  case debugWrite => exact execDebugWrite_wf hs
  case attest => exact execAttest_wf hs
  case readRemap => exact execReadRemap_wf hs
  case unknownCommand => exact execUnknownCommand_wf hs
  case linkLevelAcknowledgement => exact execLinkLevelAcknowledgement_wf hs
  case heartbeatReceive => exact execHeartbeatReceive_wf hs
  case driverPreemptionRequest => exact execDriverPreemptionRequest_wf hs
  case adaptiveClockStep => exact execAdaptiveClockStep_wf hs
  all_goals cases hj
  all_goals cases hc

theorem State.turn_wf {id : Nat} (hs : s.MemWf) : OutWf (s.turn id) := by
  unfold State.turn
  dsimp only
  split
  · exact outWf_next (State.afterMember_wf (State.prepare_wf hs))
  · exact finishMember_wf (exec_wf (State.enterMember_wf (State.prepare_wf hs)))

theorem State.external_wf (hs : s.MemWf) : OutWf s.external := by
  unfold State.external
  split
  · exact outWf_next hs
  split
  · exact outWf_next hs
  · exact exec_wf hs

theorem Event.run_wf {ev : Event} (hs : s.MemWf) : OutWf (ev.run s) := by
  cases ev with
  | queueWake => exact execQueueWake_wf hs
  | dependencyWordWrite => exact execDependencyWordWrite_wf hs
  | signalPacketEffect => exact execSignalPacketEffect_wf hs
  | gatheringPlacement => exact execGatheringPlacement_wf hs
  | binQuirePlacement => exact execBinQuirePlacement_wf hs
  | binTimerExpiry => exact execBinTimerExpiry_wf hs
  | meshGatheringPlacement => exact execMeshGatheringPlacement_wf hs
  | pendingQuireCreation => exact execPendingQuireCreation_wf hs
  | volumeCompletion => exact execVolumeCompletion_wf hs
  | lineFetch => exact execLineFetch_wf hs
  | loadDataReturn => exact execLoadDataReturn_wf hs
  | rowRefill => exact execRowRefill_wf hs
  | claimGrant => exact execClaimGrant_wf hs
  | tpaySlotTaken => exact execTpaySlotTaken_wf hs
  | qpushRingRoom => exact execQpushRingRoom_wf hs
  | barrierWake => exact execBarrierWake_wf hs
  | trywaitReevaluation => exact execTrywaitReevaluation_wf hs
  | trywaitTimeout => exact execTrywaitTimeout_wf hs
  | hwaitWake => exact execHwaitWake_wf hs
  | asqRequest => exact execAsqRequest_wf hs
  | asqReply => exact execAsqReply_wf hs
  | homeAccept => exact execHomeAccept_wf hs
  | storeAcknowledge => exact execStoreAcknowledge_wf hs
  | faultEntryRetry => exact execFaultEntryRetry_wf hs
  | faultResolution => exact execFaultResolution_wf hs
  | transferStart => exact execTransferStart_wf hs
  | transferPiece => exact execTransferPiece_wf hs
  | matrixResultLanding => exact execMatrixResultLanding_wf hs
  | engineResultReturn => exact execEngineResultReturn_wf hs
  | treeOperation => exact execTreeOperation_wf hs
  | treeResultLanding => exact execTreeResultLanding_wf hs
  | tleafAppend => exact execTleafAppend_wf hs
  | batchTimerExpiry => exact execBatchTimerExpiry_wf hs
  | visibilityResolve => exact execVisibilityResolve_wf hs
  | tileFinality => exact execTileFinality_wf hs
  | heartbeatSend => exact execHeartbeatSend_wf hs
  | memberLost => exact execMemberLost_wf hs
  | coordinatorTimeout => exact execCoordinatorTimeout_wf hs
  | finalMaskTimeout => exact execFinalMaskTimeout_wf hs
  | collectiveCompletion => exact execCollectiveCompletion_wf hs
  | stationAckTimeout => exact execStationAckTimeout_wf hs
  | peerRequestTimeout => exact execPeerRequestTimeout_wf hs
  | contextSwitchIn => exact execContextSwitchIn_wf hs
  | candidateWaitExpiry => exact execCandidateWaitExpiry_wf hs
  | preemptionTimeout => exact execPreemptionTimeout_wf hs
  | unitSave => exact execUnitSave_wf hs
  | unitRestore => exact execUnitRestore_wf hs
  | preemptionHoldoffExpiry => exact execPreemptionHoldoffExpiry_wf hs
  | laneRemapTimeout => exact execLaneRemapTimeout_wf hs
  | deadlockWatchdog => exact execDeadlockWatchdog_wf hs
  | externalWaitTimeout => exact execExternalWaitTimeout_wf hs
  | budgetExhausted => exact execBudgetExhausted_wf hs
  | trapcallReply => exact execTrapcallReply_wf hs

theorem step_wf (hs : s.MemWf) : OutWf (step s) := by
  have hp := State.pass_wf hs
  have hb := State.bump_wf hp
  unfold step
  dsimp only
  split
  · exact outWf_next hp
  · exact State.turn_wf hb
  · exact Event.run_wf hb
  · exact outWf_next (State.resumeCmd_wf hb)
  · exact outWf_next (Memory.spread_wf _ hb)
  · exact State.external_wf hb

end
end Sys2Proof.Machine

namespace Sys2Proof.Claims
open Sys2Proof.Machine

/-- Settles O57: time passes, and whatever moves then leaves memory canonical (`step_wf`). -/
theorem everyStepKeepsMemoryCanonical : Obligations.EveryStepKeepsMemoryCanonical := fun _ t hs h => step_wf hs t h

end Sys2Proof.Claims
